-- ==== Sys2Proof/Word.lean ====
section
/-! DEFINITION. The word types of the Q9 and their plainest arithmetic (00 R6, R7; 01 R16). -/

namespace Sys2Proof

/-- A byte of memory (00 R7). -/
abbrev Byte := BitVec 8
/-- A lane mask, a predicate, a 16-bit field: lane l in bit l (01 R14). -/
abbrev Mask := BitVec 16
/-- A lane, a scalar register, an instruction word (01 R16, 02 R32). -/
abbrev Word := BitVec 32
/-- An address register, a PC, a Gnomon tick (01 R16). -/
abbrev DWord := BitVec 64
/-- A vector register: 16 lanes of 32 bits (01 R16). -/
abbrev Lanes := Vector Word 16
/-- The 64 bytes of one image line (07 R168), byte b in bits [8b+7 : 8b] (00 R7). -/
abbrev Line := BitVec 512

/-- Bits [hi:lo] of a number (00 R10). -/
def bits (x hi lo : Nat) : Nat := (x >>> lo) % 2 ^ (hi + 1 - lo)

/-- `s64(x)` of a 32-bit word: widened with sign (00 R10). -/
def sx64 (x : Word) : DWord := x.signExtend 64

/-- Whether lane l of a mask is 1 (01 R14). -/
def lane (m : Mask) (l : Fin 16) : Bool := m.getLsbD l.val

/-- The mask whose bit l is `f l` (01 R14). -/
def maskOf (f : Fin 16 → Bool) : Mask :=
  BitVec.ofFnLE f

/-- The lanes of a mask in increasing order (00 R10). -/
def laneList (m : Mask) : List (Fin 16) := (List.finRange 16).filter (lane m)

/-- A table by number: pairs in rising order of key, no key twice. -/
abbrev AMap (α : Type) := List (Nat × α)

end Sys2Proof
end

