-- ==== Sys2Proof/Syntax.lean ====
section
/-! DEFINITION. The steps of the Q9, one constructor per row of spec/opcode_table.json: the Virsis instructions
(02 R32 to R40, 03 R57 to R63) and the events of its other agents (95). Field names follow the table; `k` is the trailing
word of a literal-format instruction (R36). An event carries the names of the parts it acts on and, where the outside
world supplies something, that value. -/

namespace Sys2Proof

/-- One step of the device: an instruction, or an event of another agent. -/
inductive Instr where
  /-- ABS, R110. Writes the absolute value of each signed element of vA to vD, fitted under MD.sat. -/
  | abs (d : BitVec 8) (a : BitVec 8)
  /-- NEG, R110. Writes the negation of each signed element of vA to vD, fitted under MD.sat. -/
  | neg (d : BitVec 8) (a : BitVec 8)
  /-- NOT, R110. Writes the bitwise complement of each 32-bit lane of vA to vD. -/
  | notB (d : BitVec 8) (a : BitVec 8)
  /-- CLZ, R110. Writes the count of leading zero bits of each lane of vA to vD. -/
  | clz (d : BitVec 8) (a : BitVec 8)
  /-- POPC, R110. Writes the count of one bits of each lane of vA to vD. -/
  | popc (d : BitVec 8) (a : BitVec 8)
  /-- BREV, R110. Writes the bit-reversed value of each lane of vA to vD. -/
  | brev (d : BitVec 8) (a : BitVec 8)
  /-- VOTE_ANY, R125. Sets pD in every active lane to 1 when some active lane has its bit of pA set. -/
  | voteAny (d : BitVec 3) (a : BitVec 3)
  /-- VOTE_ALL, R125. Sets pD in every active lane to 1 when every active lane has its bit of pA set. -/
  | voteAll (d : BitVec 3) (a : BitVec 3)
  /-- BALLOT, R125. Writes pA masked by the active lanes into scalar sD as a uniform instruction. -/
  | ballot (d : BitVec 6) (a : BitVec 3)
  /-- LRED_ADD, R126. Reduces vA over the active lanes by addition into sD, with one draw per lane under rs. -/
  | lredAdd (d : BitVec 6) (a : BitVec 8)
  /-- LRED_MIN, R126. Reduces vA over the active lanes to its minimum in sD. -/
  | lredMin (d : BitVec 6) (a : BitVec 8)
  /-- LRED_MAX, R126. Reduces vA over the active lanes to its maximum in sD. -/
  | lredMax (d : BitVec 6) (a : BitVec 8)
  /-- LID, R125. Writes each active lane's index into vD. -/
  | lid (d : BitVec 8)
  /-- RNG, R132. Reads the random-state part selected by the A code into vD in each active lane. -/
  | rng (d : BitVec 8) (c : BitVec 8)
  /-- RNGS, R132. Sets the random-state part selected by the D code from vA in each active lane. -/
  | rngs (c : BitVec 8) (a : BitVec 8)
  /-- FABS, R116. Clears the sign bit of each floating-point element of vA into vD. -/
  | fabs (d : BitVec 8) (a : BitVec 8)
  /-- FNEG, R116. Inverts the sign bit of each floating-point element of vA into vD. -/
  | fneg (d : BitVec 8) (a : BitVec 8)
  /-- FRCP, R116. Writes the correctly rounded reciprocal of each f32 lane. -/
  | frcp (d : BitVec 8) (a : BitVec 8)
  /-- FRSQ, R116. Writes the correctly rounded reciprocal square root of each f32 lane. -/
  | frsq (d : BitVec 8) (a : BitVec 8)
  /-- FSQRT, R116. Writes the correctly rounded square root of each f32 lane. -/
  | fsqrt (d : BitVec 8) (a : BitVec 8)
  /-- FEX2, R116. Writes the correctly rounded 2 to the power of each f32 lane. -/
  | fex2 (d : BitVec 8) (a : BitVec 8)
  /-- FLG2, R116. Writes the correctly rounded base-2 logarithm of each f32 lane. -/
  | flg2 (d : BitVec 8) (a : BitVec 8)
  /-- FSIN, R116. Writes the correctly rounded sine of 2π times each f32 lane. -/
  | fsin (d : BitVec 8) (a : BitVec 8)
  /-- FCOS, R116. Writes the correctly rounded cosine of 2π times each f32 lane. -/
  | fcos (d : BitVec 8) (a : BitVec 8)
  /-- FRND, R116. Rounds each floating-point element to an integral value under MD.rnd. -/
  | frnd (d : BitVec 8) (a : BitVec 8)
  /-- NOP, R152. Has no effect. -/
  | nop
  /-- EXIT, R151. Ends every active lane of the path and, when no lane remains, the group; a sink. -/
  | exit
  /-- YIELD, R152. Gives the other paths and groups a turn before the issuing path issues again. -/
  | yield
  /-- BRK, R153. Raises the breakpoint trap for the live lanes of the path. -/
  | brk
  /-- MERGE, R140. Makes the path wait at the merge for the other paths of its join record, or continue at once for a joined record. -/
  | merge
  /-- RET, R150. Pops each live lane's return stack and divides the path by return address. -/
  | ret
  /-- LBRK_LC0, R157. Leaves loop 0 when any lane is active, clearing lc0 and jumping to le0. -/
  | lbrkLc0
  /-- LBRK_LC1, R157. Leaves loop 1 when any lane is active, clearing lc1 and jumping to le1. -/
  | lbrkLc1
  /-- RDMD, R131. Copies the path's MD into sD. -/
  | rdmd (d : BitVec 6)
  /-- WRMD, R131. Writes sA into the path's MD, trapping on a non-zero reserved bit. -/
  | wrmd (a : BitVec 6)
  /-- TRET, R162. Ends the trap handler, restoring the saved paths and resuming the stopped path at TPC. -/
  | tret
  /-- ECALL, R402. Takes the environment-call trap, or inside a handler posts a service-call record and stops the group. -/
  | ecall (a : BitVec 6)
  /-- SLEEP, R403. Saves the group, which becomes placeable again once Gnomon passes the given delay. -/
  | sleep (a : BitVec 6)
  /-- TLBI_VA, R383. Releases at .dev and drops every translation of the context for the page holding aA, then waits for accesses under them. -/
  | tlbiVa (a : BitVec 4)
  /-- TLBI_CTX, R383. Releases at .dev and drops every translation of the issuing context. -/
  | tlbiCtx
  /-- TLBI_ALL, R383. Drops every translation of every context when the context has sys = 1, otherwise acts as tlbi.ctx. -/
  | tlbiAll
  /-- HSTEP, R455. Lets one halted lane of the target group issue exactly one instruction. -/
  | hstep (d : BitVec 6) (a : BitVec 4)
  /-- HRES, R456. Clears HLM for the named halted lanes of the target group so that their paths run again. -/
  | hres (d : BitVec 6) (a : BitVec 4)
  /-- WCPIN, R300. Reads a neural header, fills its weight-cache entry if absent and pins it, writing success to pD. -/
  | wcpin (d : BitVec 3) (a : BitVec 4)
  /-- WCUNP, R300. Removes one pin of the issuing group from the entry named by the header. -/
  | wcunp (a : BitVec 4)
  /-- WCINV, R301. Releases at .dev and removes from every core the context's weight-cache entries containing byte aA. -/
  | wcinv (a : BitVec 4)
  /-- WCINV_ALL, R301. Releases at .dev and removes every weight-cache entry of the context on every core. -/
  | wcinvAll
  /-- RTGEN, R415. Raises on every core the Almanac generation counter of structure sA for the context. -/
  | rtgen (a : BitVec 6)
  /-- RTINV, R415. Invalidates on every core the context's Almanac entries for structure sA. -/
  | rtinv (a : BitVec 6)
  /-- RTINV_ALL, R415. Invalidates on every core every Almanac entry of the context. -/
  | rtinvAll
  /-- CWAIT, R373. Checks a status word at its home and registers a wait until it is non-zero, then writes it to sD and acquires. -/
  | cwait (d : BitVec 6) (a : BitVec 4)
  /-- CNCL, R374. Asks the command processor to cancel every started entity of the context whose status address is aA. -/
  | cncl (d : BitVec 6) (a : BitVec 4)
  /-- RDTM, R421. Writes the current Gnomon value into aD. -/
  | rdtm (d : BitVec 4)
  /-- WTM, R422. Makes the path wait until Gnomon reaches aA. -/
  | wtm (a : BitVec 4)
  /-- WRET, R178. Makes the path wait until the named return-class counter is at or below sA. -/
  | wret (a : BitVec 6) (c : BitVec 3)
  /-- BAR, R243. Waits at block barrier 0 until every group of the block arrives, with a release and an acquire at .blk. -/
  | bar
  /-- BARW, R242. Waits until the barrier generation named in the token sA has completed, then acquires at .blk. -/
  | barw (a : BitVec 6)
  /-- GBAR, R245. Waits at the grid barrier of the launch, with a release and an acquire at .dev. -/
  | gbar
  /-- REND, R339. Makes the path wait for the end of the block's raster pass. -/
  | rend
  /-- FENCE_ACQ, R235. Performs an acquire at the coded scope. -/
  | fenceAcq (s : BitVec 3)
  /-- FENCE_REL, R235. Performs a release at the coded scope. -/
  | fenceRel (s : BitVec 3)
  /-- FENCE_AR, R208. Performs a release and then an acquire at the coded scope as one instruction. -/
  | fenceAr (s : BitVec 3)
  /-- ATOM, R231. Sends a per-lane atomic operation to the home slice of each word and writes the old values to vD. -/
  | atom (d : BitVec 8) (a : BitVec 4) (o : BitVec 4)
  /-- RED, R231. Sends a per-lane reduction to the home slice of each word, writing no register. -/
  | red (d : BitVec 8) (a : BitVec 4) (o : BitVec 4)
  /-- CAS, R230. Sends a per-lane compare-and-swap to the home slice of each word and writes the old values. -/
  | cas (d : BitVec 8) (a : BitVec 4) (b : BitVec 8)
  /-- TRAP, R153. Raises the program trap with TVAL k when any lane is active. -/
  | trap (k : BitVec 32)
  /-- CVT, R118. Converts elements of the source type in B to MD.type. -/
  | cvt (d : BitVec 8) (a : BitVec 8) (s : BitVec 4)
  /-- PACK2, R120. Narrows two 32-bit values per lane into packed elements of MD.type. -/
  | pack2 (d : BitVec 8) (a : BitVec 8) (b : BitVec 8)
  /-- UNPK, R119. Converts element k of a narrow source to a 32-bit type. -/
  | unpk (d : BitVec 8) (a : BitVec 8) (k : BitVec 3) (s : BitVec 4)
  /-- PAND, R130. Writes pA and pB into pD for active lanes. -/
  | pand (d : BitVec 3) (a : BitVec 3) (b : BitVec 3)
  /-- POR, R130. Writes pA or pB into pD for active lanes. -/
  | por (d : BitVec 3) (a : BitVec 3) (b : BitVec 3)
  /-- PXOR, R130. Writes pA xor pB into pD for active lanes. -/
  | pxor (d : BitVec 3) (a : BitVec 3) (b : BitVec 3)
  /-- PNOT, R130. Writes not pA into pD for active lanes. -/
  | pnot (d : BitVec 3) (a : BitVec 3)
  /-- ADD_REG, R104. Adds the integer elements of vA and vB into vD, fitted under MD.sat. -/
  | addReg (d : BitVec 8) (a : BitVec 8) (b : BitVec 8)
  /-- ADD_SCB, R104. Adds scalar sB to the integer elements of vA into vD. -/
  | addScb (d : BitVec 8) (a : BitVec 8) (b : BitVec 6)
  /-- ADD_LIT, R104. Adds a literal to the integer elements of vA into vD. -/
  | addLit (d : BitVec 8) (a : BitVec 8) (k : BitVec 32)
  /-- SUB_REG, R104. Subtracts integer elements of vB from vA into vD. -/
  | subReg (d : BitVec 8) (a : BitVec 8) (b : BitVec 8)
  /-- SUB_SCB, R104. Subtracts scalar sB from the integer elements of vA. -/
  | subScb (d : BitVec 8) (a : BitVec 8) (b : BitVec 6)
  /-- SUB_LIT, R104. Subtracts a literal from the integer elements of vA. -/
  | subLit (d : BitVec 8) (a : BitVec 8) (k : BitVec 32)
  /-- ADDC_REG, R106. Adds vA, vB and the carry in p7, writing the carry back to p7. -/
  | addcReg (d : BitVec 8) (a : BitVec 8) (b : BitVec 8)
  /-- ADDC_SCB, R106. Adds vA, sB and the carry in p7. -/
  | addcScb (d : BitVec 8) (a : BitVec 8) (b : BitVec 6)
  /-- ADDC_LIT, R106. Adds vA, a literal and the carry in p7. -/
  | addcLit (d : BitVec 8) (a : BitVec 8) (k : BitVec 32)
  /-- SUBB_REG, R106. Subtracts vB and the borrow in p7 from vA, writing the borrow to p7. -/
  | subbReg (d : BitVec 8) (a : BitVec 8) (b : BitVec 8)
  /-- SUBB_SCB, R106. Subtracts sB and the borrow in p7 from vA. -/
  | subbScb (d : BitVec 8) (a : BitVec 8) (b : BitVec 6)
  /-- SUBB_LIT, R106. Subtracts a literal and the borrow in p7 from vA. -/
  | subbLit (d : BitVec 8) (a : BitVec 8) (k : BitVec 32)
  /-- MUL_REG, R104. Multiplies narrow integer elements of vA and vB. -/
  | mulReg (d : BitVec 8) (a : BitVec 8) (b : BitVec 8)
  /-- MUL_SCB, R104. Multiplies narrow integer elements of vA by sB. -/
  | mulScb (d : BitVec 8) (a : BitVec 8) (b : BitVec 6)
  /-- MUL_LIT, R104. Multiplies narrow integer elements of vA by a literal. -/
  | mulLit (d : BitVec 8) (a : BitVec 8) (k : BitVec 32)
  /-- MULH_REG, R104. Writes the high half of the products of vA and vB. -/
  | mulhReg (d : BitVec 8) (a : BitVec 8) (b : BitVec 8)
  /-- MULH_SCB, R104. Writes the high half of the products of vA and sB. -/
  | mulhScb (d : BitVec 8) (a : BitVec 8) (b : BitVec 6)
  /-- MULH_LIT, R104. Writes the high half of the products of vA and a literal. -/
  | mulhLit (d : BitVec 8) (a : BitVec 8) (k : BitVec 32)
  /-- MAD_REG, R104. Writes vA × vB + vD for narrow integer elements. -/
  | madReg (d : BitVec 8) (a : BitVec 8) (b : BitVec 8)
  /-- MAD_SCB, R104. Writes vA × sB + vD for narrow integer elements. -/
  | madScb (d : BitVec 8) (a : BitVec 8) (b : BitVec 6)
  /-- MAD_LIT, R104. Writes vA × literal + vD for narrow integer elements. -/
  | madLit (d : BitVec 8) (a : BitVec 8) (k : BitVec 32)
  /-- MIN_REG, R104. Writes the smaller integer elements of vA and vB. -/
  | minReg (d : BitVec 8) (a : BitVec 8) (b : BitVec 8)
  /-- MIN_SCB, R104. Writes the smaller of vA elements and sB. -/
  | minScb (d : BitVec 8) (a : BitVec 8) (b : BitVec 6)
  /-- MIN_LIT, R104. Writes the smaller of vA elements and a literal. -/
  | minLit (d : BitVec 8) (a : BitVec 8) (k : BitVec 32)
  /-- MAX_REG, R104. Writes the larger integer elements of vA and vB. -/
  | maxReg (d : BitVec 8) (a : BitVec 8) (b : BitVec 8)
  /-- MAX_SCB, R104. Writes the larger of vA elements and sB. -/
  | maxScb (d : BitVec 8) (a : BitVec 8) (b : BitVec 6)
  /-- MAX_LIT, R104. Writes the larger of vA elements and a literal. -/
  | maxLit (d : BitVec 8) (a : BitVec 8) (k : BitVec 32)
  /-- AND_REG, R105. Writes vA and vB. -/
  | andReg (d : BitVec 8) (a : BitVec 8) (b : BitVec 8)
  /-- AND_SCB, R105. Writes vA and sB. -/
  | andScb (d : BitVec 8) (a : BitVec 8) (b : BitVec 6)
  /-- AND_LIT, R105. Writes vA and a literal. -/
  | andLit (d : BitVec 8) (a : BitVec 8) (k : BitVec 32)
  /-- OR_REG, R105. Writes vA or vB. -/
  | orReg (d : BitVec 8) (a : BitVec 8) (b : BitVec 8)
  /-- OR_SCB, R105. Writes vA or sB. -/
  | orScb (d : BitVec 8) (a : BitVec 8) (b : BitVec 6)
  /-- OR_LIT, R105. Writes vA or a literal. -/
  | orLit (d : BitVec 8) (a : BitVec 8) (k : BitVec 32)
  /-- XOR_REG, R105. Writes vA xor vB. -/
  | xorReg (d : BitVec 8) (a : BitVec 8) (b : BitVec 8)
  /-- XOR_SCB, R105. Writes vA xor sB. -/
  | xorScb (d : BitVec 8) (a : BitVec 8) (b : BitVec 6)
  /-- XOR_LIT, R105. Writes vA xor a literal. -/
  | xorLit (d : BitVec 8) (a : BitVec 8) (k : BitVec 32)
  /-- ANDN_REG, R105. Writes vA and not vB. -/
  | andnReg (d : BitVec 8) (a : BitVec 8) (b : BitVec 8)
  /-- ANDN_SCB, R105. Writes vA and not sB. -/
  | andnScb (d : BitVec 8) (a : BitVec 8) (b : BitVec 6)
  /-- ANDN_LIT, R105. Writes vA and not a literal. -/
  | andnLit (d : BitVec 8) (a : BitVec 8) (k : BitVec 32)
  /-- SHL_REG, R104. Shifts integer elements of vA left by vB. -/
  | shlReg (d : BitVec 8) (a : BitVec 8) (b : BitVec 8)
  /-- SHL_SCB, R104. Shifts integer elements of vA left by sB. -/
  | shlScb (d : BitVec 8) (a : BitVec 8) (b : BitVec 6)
  /-- SHL_LIT, R104. Shifts integer elements of vA left by a literal. -/
  | shlLit (d : BitVec 8) (a : BitVec 8) (k : BitVec 32)
  /-- SHR_REG, R104. Shifts integer elements of vA right with zeros by vB. -/
  | shrReg (d : BitVec 8) (a : BitVec 8) (b : BitVec 8)
  /-- SHR_SCB, R104. Shifts integer elements of vA right with zeros by sB. -/
  | shrScb (d : BitVec 8) (a : BitVec 8) (b : BitVec 6)
  /-- SHR_LIT, R104. Shifts integer elements of vA right with zeros by a literal. -/
  | shrLit (d : BitVec 8) (a : BitVec 8) (k : BitVec 32)
  /-- SRA_REG, R104. Shifts integer elements of vA right with the sign by vB. -/
  | sraReg (d : BitVec 8) (a : BitVec 8) (b : BitVec 8)
  /-- SRA_SCB, R104. Shifts integer elements of vA right with the sign by sB. -/
  | sraScb (d : BitVec 8) (a : BitVec 8) (b : BitVec 6)
  /-- SRA_LIT, R104. Shifts integer elements of vA right with the sign by a literal. -/
  | sraLit (d : BitVec 8) (a : BitVec 8) (k : BitVec 32)
  /-- ROTL_REG, R104. Rotates narrow integer elements of vA left by vB. -/
  | rotlReg (d : BitVec 8) (a : BitVec 8) (b : BitVec 8)
  /-- ROTL_SCB, R104. Rotates narrow integer elements of vA left by sB. -/
  | rotlScb (d : BitVec 8) (a : BitVec 8) (b : BitVec 6)
  /-- ROTL_LIT, R104. Rotates narrow integer elements of vA left by a literal. -/
  | rotlLit (d : BitVec 8) (a : BitVec 8) (k : BitVec 32)
  /-- BFX_REG, R107. Extracts a bit field of vA at position and length from vB. -/
  | bfxReg (d : BitVec 8) (a : BitVec 8) (b : BitVec 8)
  /-- BFX_SCB, R107. Extracts a bit field of vA at position and length from sB. -/
  | bfxScb (d : BitVec 8) (a : BitVec 8) (b : BitVec 6)
  /-- BFX_LIT, R107. Extracts a bit field of vA at position and length from a literal. -/
  | bfxLit (d : BitVec 8) (a : BitVec 8) (k : BitVec 32)
  /-- BFI_REG, R107. Inserts the low bits of vA into vD at the field given by vB. -/
  | bfiReg (d : BitVec 8) (a : BitVec 8) (b : BitVec 8)
  /-- BFI_SCB, R107. Inserts the low bits of vA into vD at the field given by sB. -/
  | bfiScb (d : BitVec 8) (a : BitVec 8) (b : BitVec 6)
  /-- BFI_LIT, R107. Inserts the low bits of vA into vD at the field given by a literal. -/
  | bfiLit (d : BitVec 8) (a : BitVec 8) (k : BitVec 32)
  /-- SEL_REG, R108. Selects vA or vB per lane by the guard predicate, writing every live lane. -/
  | selReg (d : BitVec 8) (a : BitVec 8) (b : BitVec 8)
  /-- SEL_SCB, R108. Selects vA or sB per lane by the guard predicate. -/
  | selScb (d : BitVec 8) (a : BitVec 8) (b : BitVec 6)
  /-- SEL_LIT, R108. Selects vA or a literal per lane by the guard predicate. -/
  | selLit (d : BitVec 8) (a : BitVec 8) (k : BitVec 32)
  /-- CMP_EQ_REG, R109. Sets pD per active lane to vA = vB. -/
  | cmpEqReg (d : BitVec 3) (a : BitVec 8) (b : BitVec 8)
  /-- CMP_EQ_SCB, R109. Sets pD per active lane to vA = sB. -/
  | cmpEqScb (d : BitVec 3) (a : BitVec 8) (b : BitVec 6)
  /-- CMP_EQ_LIT, R109. Sets pD per active lane to vA = literal. -/
  | cmpEqLit (d : BitVec 3) (a : BitVec 8) (k : BitVec 32)
  /-- CMP_LT_REG, R109. Sets pD per active lane to vA < vB. -/
  | cmpLtReg (d : BitVec 3) (a : BitVec 8) (b : BitVec 8)
  /-- CMP_LT_SCB, R109. Sets pD per active lane to vA < sB. -/
  | cmpLtScb (d : BitVec 3) (a : BitVec 8) (b : BitVec 6)
  /-- CMP_LT_LIT, R109. Sets pD per active lane to vA < literal. -/
  | cmpLtLit (d : BitVec 3) (a : BitVec 8) (k : BitVec 32)
  /-- FADD_REG, R111. Adds floating-point elements of vA and vB, rounded under MD.rnd. -/
  | faddReg (d : BitVec 8) (a : BitVec 8) (b : BitVec 8)
  /-- FADD_SCB, R111. Adds sB to floating-point elements of vA. -/
  | faddScb (d : BitVec 8) (a : BitVec 8) (b : BitVec 6)
  /-- FADD_LIT, R111. Adds a literal to floating-point elements of vA. -/
  | faddLit (d : BitVec 8) (a : BitVec 8) (k : BitVec 32)
  /-- FSUB_REG, R111. Subtracts floating-point elements of vB from vA. -/
  | fsubReg (d : BitVec 8) (a : BitVec 8) (b : BitVec 8)
  /-- FSUB_SCB, R111. Subtracts sB from floating-point elements of vA. -/
  | fsubScb (d : BitVec 8) (a : BitVec 8) (b : BitVec 6)
  /-- FSUB_LIT, R111. Subtracts a literal from floating-point elements of vA. -/
  | fsubLit (d : BitVec 8) (a : BitVec 8) (k : BitVec 32)
  /-- FMUL_REG, R111. Multiplies floating-point elements of vA and vB. -/
  | fmulReg (d : BitVec 8) (a : BitVec 8) (b : BitVec 8)
  /-- FMUL_SCB, R111. Multiplies floating-point elements of vA by sB. -/
  | fmulScb (d : BitVec 8) (a : BitVec 8) (b : BitVec 6)
  /-- FMUL_LIT, R111. Multiplies floating-point elements of vA by a literal. -/
  | fmulLit (d : BitVec 8) (a : BitVec 8) (k : BitVec 32)
  /-- FMA_REG, R111. Writes vA × vB + vD fused and rounded once. -/
  | fmaReg (d : BitVec 8) (a : BitVec 8) (b : BitVec 8)
  /-- FMA_SCB, R111. Writes vA × sB + vD fused and rounded once. -/
  | fmaScb (d : BitVec 8) (a : BitVec 8) (b : BitVec 6)
  /-- FMA_LIT, R111. Writes vA × literal + vD fused and rounded once. -/
  | fmaLit (d : BitVec 8) (a : BitVec 8) (k : BitVec 32)
  /-- FMIN_REG, R113. Writes the smaller floating-point elements of vA and vB. -/
  | fminReg (d : BitVec 8) (a : BitVec 8) (b : BitVec 8)
  /-- FMIN_SCB, R113. Writes the smaller of vA elements and sB. -/
  | fminScb (d : BitVec 8) (a : BitVec 8) (b : BitVec 6)
  /-- FMIN_LIT, R113. Writes the smaller of vA elements and a literal. -/
  | fminLit (d : BitVec 8) (a : BitVec 8) (k : BitVec 32)
  /-- FMAX_REG, R113. Writes the larger floating-point elements of vA and vB. -/
  | fmaxReg (d : BitVec 8) (a : BitVec 8) (b : BitVec 8)
  /-- FMAX_SCB, R113. Writes the larger of vA elements and sB. -/
  | fmaxScb (d : BitVec 8) (a : BitVec 8) (b : BitVec 6)
  /-- FMAX_LIT, R113. Writes the larger of vA elements and a literal. -/
  | fmaxLit (d : BitVec 8) (a : BitVec 8) (k : BitVec 32)
  /-- FCLS_REG, R115. Sets pD to the bit of vB selected by the class of vA. -/
  | fclsReg (d : BitVec 3) (a : BitVec 8) (b : BitVec 8)
  /-- FCLS_SCB, R115. Sets pD to the bit of sB selected by the class of vA. -/
  | fclsScb (d : BitVec 3) (a : BitVec 8) (b : BitVec 6)
  /-- FCLS_LIT, R115. Sets pD to the bit of a literal selected by the class of vA. -/
  | fclsLit (d : BitVec 3) (a : BitVec 8) (k : BitVec 32)
  /-- FCMP_EQ_REG, R114. Sets pD per active lane to vA = vB in f32. -/
  | fcmpEqReg (d : BitVec 3) (a : BitVec 8) (b : BitVec 8)
  /-- FCMP_EQ_SCB, R114. Sets pD per active lane to vA = sB in f32. -/
  | fcmpEqScb (d : BitVec 3) (a : BitVec 8) (b : BitVec 6)
  /-- FCMP_EQ_LIT, R114. Sets pD per active lane to vA = literal in f32. -/
  | fcmpEqLit (d : BitVec 3) (a : BitVec 8) (k : BitVec 32)
  /-- FCMP_LT_REG, R114. Sets pD per active lane to vA < vB in f32. -/
  | fcmpLtReg (d : BitVec 3) (a : BitVec 8) (b : BitVec 8)
  /-- FCMP_LT_SCB, R114. Sets pD per active lane to vA < sB in f32. -/
  | fcmpLtScb (d : BitVec 3) (a : BitVec 8) (b : BitVec 6)
  /-- FCMP_LT_LIT, R114. Sets pD per active lane to vA < literal in f32. -/
  | fcmpLtLit (d : BitVec 3) (a : BitVec 8) (k : BitVec 32)
  /-- FCMP_LE_REG, R114. Sets pD per active lane to vA ≤ vB in f32. -/
  | fcmpLeReg (d : BitVec 3) (a : BitVec 8) (b : BitVec 8)
  /-- FCMP_LE_SCB, R114. Sets pD per active lane to vA ≤ sB in f32. -/
  | fcmpLeScb (d : BitVec 3) (a : BitVec 8) (b : BitVec 6)
  /-- FCMP_LE_LIT, R114. Sets pD per active lane to vA ≤ literal in f32. -/
  | fcmpLeLit (d : BitVec 3) (a : BitVec 8) (k : BitVec 32)
  /-- DOT4_REG, R122. Adds the four 8-bit products of vA and vB into the s32 in vD. -/
  | dot4Reg (d : BitVec 8) (a : BitVec 8) (b : BitVec 8)
  /-- DOT4_SCB, R122. Adds the four 8-bit products of vA and sB into vD. -/
  | dot4Scb (d : BitVec 8) (a : BitVec 8) (b : BitVec 6)
  /-- DOT4_LIT, R122. Adds the four 8-bit products of vA and a literal into vD. -/
  | dot4Lit (d : BitVec 8) (a : BitVec 8) (k : BitVec 32)
  /-- FDOT2_REG, R122. Adds the two 16-bit products of vA and vB into the f32 in vD as one k-step. -/
  | fdot2Reg (d : BitVec 8) (a : BitVec 8) (b : BitVec 8)
  /-- FDOT2_SCB, R122. Adds the two 16-bit products of vA and sB into vD. -/
  | fdot2Scb (d : BitVec 8) (a : BitVec 8) (b : BitVec 6)
  /-- FDOT2_LIT, R122. Adds the two 16-bit products of vA and a literal into vD. -/
  | fdot2Lit (d : BitVec 8) (a : BitVec 8) (k : BitVec 32)
  /-- PMOV, R130. Writes all 16 bits of pD from sA as a uniform instruction. -/
  | pmov (d : BitVec 3) (a : BitVec 6)
  /-- MOV_REG, R124. Copies vB into vD in active lanes. -/
  | movReg (d : BitVec 8) (b : BitVec 8)
  /-- MOV_SCB, R124. Copies sB into vD in active lanes. -/
  | movScb (d : BitVec 8) (b : BitVec 6)
  /-- MOV_LIT, R124. Copies a literal into vD in active lanes. -/
  | movLit (d : BitVec 8) (k : BitVec 32)
  /-- BCAST, R124. Copies lane k of vA into vD in active lanes. -/
  | bcast (d : BitVec 8) (a : BitVec 8) (k : BitVec 32)
  /-- SHFL_IDX_REG, R124. Copies into each active lane the lane of vA named by vB. -/
  | shflIdxReg (d : BitVec 8) (a : BitVec 8) (b : BitVec 8)
  /-- SHFL_IDX_LIT, R124. Copies into each active lane the lane of vA named by a literal. -/
  | shflIdxLit (d : BitVec 8) (a : BitVec 8) (k : BitVec 32)
  /-- SHFL_UP, R124. Copies into each active lane the lane k below it. -/
  | shflUp (d : BitVec 8) (a : BitVec 8) (k : BitVec 32)
  /-- SHFL_DN, R124. Copies into each active lane the lane k above it. -/
  | shflDn (d : BitVec 8) (a : BitVec 8) (k : BitVec 32)
  /-- SHFL_XOR, R124. Copies into each active lane the lane l xor k. -/
  | shflXor (d : BitVec 8) (a : BitVec 8) (k : BitVec 32)
  /-- BR, R147. Transfers the whole path to the target, or none of it, trapping on divergence. -/
  | br (o : BitVec 24)
  /-- JMP, R147. Sets the path's PC to the target whatever the guard. -/
  | jmp (o : BitVec 24)
  /-- CALL, R149. Pushes return links for the active lanes and divides the path between target and fall-through. -/
  | call (o : BitVec 24)
  /-- SPLIT, R148. Divides the path by its guard between the target and the next instruction. -/
  | split (o : BitVec 24)
  /-- LOOP_LC0, R155. Sets up zero-overhead loop 0, skipping the body when lc0 is zero. -/
  | loopLc0 (o : BitVec 24)
  /-- LOOP_LC1, R155. Sets up zero-overhead loop 1, skipping the body when lc1 is zero. -/
  | loopLc1 (o : BitVec 24)
  /-- RDLN_SCB, R127. Copies lane sB of vA into sD. -/
  | rdlnScb (d : BitVec 6) (a : BitVec 8) (b : BitVec 6)
  /-- RDLN_LIT, R127. Copies lane k of vA into sD. -/
  | rdlnLit (d : BitVec 6) (a : BitVec 8) (k : BitVec 32)
  /-- WRLN_SCB, R127. Writes sA into lane sB of vD if that lane is active. -/
  | wrlnScb (d : BitVec 8) (a : BitVec 6) (b : BitVec 6)
  /-- WRLN_LIT, R127. Writes sA into lane k of vD if that lane is active. -/
  | wrlnLit (d : BitVec 8) (a : BitVec 6) (k : BitVec 32)
  /-- SADD_SCB, R128. Writes sA + sB into sD. -/
  | saddScb (d : BitVec 6) (a : BitVec 6) (b : BitVec 6)
  /-- SADD_LIT, R128. Writes sA + literal into sD. -/
  | saddLit (d : BitVec 6) (a : BitVec 6) (k : BitVec 32)
  /-- SSUB_SCB, R128. Writes sA − sB into sD. -/
  | ssubScb (d : BitVec 6) (a : BitVec 6) (b : BitVec 6)
  /-- SSUB_LIT, R128. Writes sA − literal into sD. -/
  | ssubLit (d : BitVec 6) (a : BitVec 6) (k : BitVec 32)
  /-- SMUL_SCB, R128. Writes the low 32 bits of sA × sB into sD. -/
  | smulScb (d : BitVec 6) (a : BitVec 6) (b : BitVec 6)
  /-- SMUL_LIT, R128. Writes the low 32 bits of sA × literal into sD. -/
  | smulLit (d : BitVec 6) (a : BitVec 6) (k : BitVec 32)
  /-- SAND_SCB, R128. Writes sA and sB into sD. -/
  | sandScb (d : BitVec 6) (a : BitVec 6) (b : BitVec 6)
  /-- SAND_LIT, R128. Writes sA and literal into sD. -/
  | sandLit (d : BitVec 6) (a : BitVec 6) (k : BitVec 32)
  /-- SOR_SCB, R128. Writes sA or sB into sD. -/
  | sorScb (d : BitVec 6) (a : BitVec 6) (b : BitVec 6)
  /-- SOR_LIT, R128. Writes sA or literal into sD. -/
  | sorLit (d : BitVec 6) (a : BitVec 6) (k : BitVec 32)
  /-- SXOR_SCB, R128. Writes sA xor sB into sD. -/
  | sxorScb (d : BitVec 6) (a : BitVec 6) (b : BitVec 6)
  /-- SXOR_LIT, R128. Writes sA xor literal into sD. -/
  | sxorLit (d : BitVec 6) (a : BitVec 6) (k : BitVec 32)
  /-- SSHL_SCB, R128. Writes sA shifted left by sB[4:0]. -/
  | sshlScb (d : BitVec 6) (a : BitVec 6) (b : BitVec 6)
  /-- SSHL_LIT, R128. Writes sA shifted left by a literal. -/
  | sshlLit (d : BitVec 6) (a : BitVec 6) (k : BitVec 32)
  /-- SSHR_SCB, R128. Writes sA shifted right with zeros by sB[4:0]. -/
  | sshrScb (d : BitVec 6) (a : BitVec 6) (b : BitVec 6)
  /-- SSHR_LIT, R128. Writes sA shifted right with zeros by a literal. -/
  | sshrLit (d : BitVec 6) (a : BitVec 6) (k : BitVec 32)
  /-- SSRA_SCB, R128. Writes sA shifted right with the sign by sB[4:0]. -/
  | ssraScb (d : BitVec 6) (a : BitVec 6) (b : BitVec 6)
  /-- SSRA_LIT, R128. Writes sA shifted right with the sign by a literal. -/
  | ssraLit (d : BitVec 6) (a : BitVec 6) (k : BitVec 32)
  /-- SMIN_SCB, R128. Writes the signed smaller of sA and sB. -/
  | sminScb (d : BitVec 6) (a : BitVec 6) (b : BitVec 6)
  /-- SMIN_LIT, R128. Writes the signed smaller of sA and a literal. -/
  | sminLit (d : BitVec 6) (a : BitVec 6) (k : BitVec 32)
  /-- SMAX_SCB, R128. Writes the signed larger of sA and sB. -/
  | smaxScb (d : BitVec 6) (a : BitVec 6) (b : BitVec 6)
  /-- SMAX_LIT, R128. Writes the signed larger of sA and a literal. -/
  | smaxLit (d : BitVec 6) (a : BitVec 6) (k : BitVec 32)
  /-- MODE_ARITH, R40. Writes the masked guard, type, rounding, saturation and flush fields of the path's MD. -/
  | modeArith (g : BitVec 1) (t : BitVec 1) (r : BitVec 1) (s : BitVec 1) (f : BitVec 1) (p : BitVec 3) (e : BitVec 1) (v : BitVec 1) (y : BitVec 4) (n : BitVec 3) (u : BitVec 1) (z : BitVec 1)
  /-- MODE_BUF, R40. Writes MD.bufrec of the path. -/
  | modeBuf (b : BitVec 8)
  /-- SCMP_EQ_SCB, R129. Writes pD as all ones when sA = sB, otherwise zero. -/
  | scmpEqScb (d : BitVec 3) (a : BitVec 6) (b : BitVec 6)
  /-- SCMP_EQ_LIT, R129. Writes pD as all ones when sA equals a literal. -/
  | scmpEqLit (d : BitVec 3) (a : BitVec 6) (k : BitVec 32)
  /-- SCMP_LT_SCB, R129. Writes pD as all ones when sA < sB signed. -/
  | scmpLtScb (d : BitVec 3) (a : BitVec 6) (b : BitVec 6)
  /-- SCMP_LT_LIT, R129. Writes pD as all ones when sA is below a literal signed. -/
  | scmpLtLit (d : BitVec 3) (a : BitVec 6) (k : BitVec 32)
  /-- SMOV, R129. Copies sB into sD. -/
  | smov (d : BitVec 6) (b : BitVec 6)
  /-- SMOV_ALO, R129. Copies the low half of aB into sD. -/
  | smovAlo (d : BitVec 6) (b : BitVec 4)
  /-- SMOV_AHI, R129. Copies the high half of aB into sD. -/
  | smovAhi (d : BitVec 6) (b : BitVec 4)
  /-- SLI, R129. Writes a literal into sD. -/
  | sli (d : BitVec 6) (k : BitVec 32)
  /-- AADD_SCB, R129. Writes aA plus sign-extended sB into aD. -/
  | aaddScb (d : BitVec 4) (a : BitVec 4) (b : BitVec 6)
  /-- AADD_LIT, R129. Writes aA plus a sign-extended literal into aD. -/
  | aaddLit (d : BitVec 4) (a : BitVec 4) (k : BitVec 32)
  /-- AMOV, R129. Writes sB :: sA into aD. -/
  | amov (d : BitVec 4) (a : BitVec 6) (b : BitVec 6)
  /-- LD_REG, R186. Loads each active lane through the buffer record, from the L1 under a lease or the home slice. -/
  | ldReg (d : BitVec 8) (a : BitVec 4) (b : BitVec 8)
  /-- LD_SCB, R186. Loads with a scalar offset for every lane. -/
  | ldScb (d : BitVec 8) (a : BitVec 4) (b : BitVec 6)
  /-- LD_LIT, R186. Loads with a constant offset. -/
  | ldLit (d : BitVec 8) (a : BitVec 4) (k : BitVec 32)
  /-- ST_REG, R186. Stores each active lane through the buffer record, writing through to the home slices. -/
  | stReg (d : BitVec 8) (a : BitVec 4) (b : BitVec 8)
  /-- ST_SCB, R186. Stores with a scalar offset for every lane. -/
  | stScb (d : BitVec 8) (a : BitVec 4) (b : BitVec 6)
  /-- ST_LIT, R186. Stores with a constant offset. -/
  | stLit (d : BitVec 8) (a : BitVec 4) (k : BitVec 32)
  /-- LDS_REG, R187. Loads 4 bytes per active lane from the block's scratchpad. -/
  | ldsReg (d : BitVec 8) (a : BitVec 4) (b : BitVec 8)
  /-- LDS_LIT, R187. Loads 4 bytes per active lane from the scratchpad at a constant offset. -/
  | ldsLit (d : BitVec 8) (a : BitVec 4) (k : BitVec 32)
  /-- STS_REG, R187. Stores 4 bytes per active lane into the block's scratchpad. -/
  | stsReg (d : BitVec 8) (a : BitVec 4) (b : BitVec 8)
  /-- STS_LIT, R187. Stores 4 bytes per active lane into the scratchpad at a constant offset. -/
  | stsLit (d : BitVec 8) (a : BitVec 4) (k : BitVec 32)
  /-- LDC_REG, R186. Loads each active lane from the home slice, taking no lease. -/
  | ldcReg (d : BitVec 8) (a : BitVec 4) (b : BitVec 8)
  /-- LDC_LIT, R186. Loads from the home slice at a constant offset. -/
  | ldcLit (d : BitVec 8) (a : BitVec 4) (k : BitVec 32)
  /-- LDA_REG, R234. Loads at the home slice and then acquires at .dev. -/
  | ldaReg (d : BitVec 8) (a : BitVec 4) (b : BitVec 8)
  /-- LDA_LIT, R234. Acquire load at a constant offset. -/
  | ldaLit (d : BitVec 8) (a : BitVec 4) (k : BitVec 32)
  /-- STR_REG, R234. Releases at .dev and then stores each active lane. -/
  | strReg (d : BitVec 8) (a : BitVec 4) (b : BitVec 8)
  /-- STR_LIT, R234. Release store at a constant offset. -/
  | strLit (d : BitVec 8) (a : BitVec 4) (k : BitVec 32)
  /-- PREF_REG, R188. Requests each active lane's line into the L1 with a lease. -/
  | prefReg (a : BitVec 4) (b : BitVec 8)
  /-- PREF_LIT, R188. Prefetches at a constant offset. -/
  | prefLit (a : BitVec 4) (k : BitVec 32)
  /-- CP, R192. Starts a linear copy, optionally converting, on a copy engine. -/
  | cp (d : BitVec 4) (a : BitVec 4) (b : BitVec 5)
  /-- CP2D, R192. Starts a two-dimensional copy, optionally transposing, on a copy engine. -/
  | cp2d (d : BitVec 4) (a : BitVec 4) (b : BitVec 4)
  /-- CPR, R192. Starts a copy between memory and the block's scratchpad. -/
  | cpr (d : BitVec 4) (a : BitVec 6) (b : BitVec 5)
  /-- BARV, R242. Releases at .blk and arrives at a block barrier without waiting, returning a generation token. -/
  | barv (d : BitVec 6) (a : BitVec 6) (b : BitVec 6)
  /-- MWAIT, R237. Compares a word at its home and either continues, registers a monitor and waits, or reports full. -/
  | mwait (c : BitVec 3) (a : BitVec 4) (b : BitVec 6)
  /-- MMA, R265. Enters a matrix multiply-accumulate into the tile order and its bay engine's queue. -/
  | mma (d : BitVec 8) (a : BitVec 8) (b : BitVec 8)
  /-- MMAKB, R266. Enters an mma that may reuse the engine's latched B operand. -/
  | mmakb (d : BitVec 8) (a : BitVec 8) (b : BitVec 8)
  /-- ACCQ, R268. Requests the tile's token, entering the tile order. -/
  | accq (d : BitVec 8)
  /-- ACCR, R268. Returns the tile's token to the engine after pending accst writes. -/
  | accr (d : BitVec 8)
  /-- ACCLD, R269. Copies a held tile into a run of 16 vector registers. -/
  | accld (d : BitVec 8) (a : BitVec 8)
  /-- ACCST, R269. Copies a run of 16 vector registers into a held tile. -/
  | accst (d : BitVec 8) (a : BitVec 8)
  /-- ACCZR, R267. Enters a tile entry that zeroes all 256 elements. -/
  | acczr (d : BitVec 8)
  /-- MPRIO, R270. Sets the group's matrix priority for later tile entries. -/
  | mprio (a : BitVec 6)
  /-- SMP, R294. Samples a classic texture with quad derivatives per active lane. -/
  | smp (d : BitVec 8) (a : BitVec 4) (b : BitVec 8)
  /-- SMPG, R294. Samples a classic texture with explicit derivatives. -/
  | smpg (d : BitVec 8) (a : BitVec 4) (b : BitVec 8)
  /-- SMPL, R294. Samples a classic texture at an explicit level. -/
  | smpl (d : BitVec 8) (a : BitVec 4) (b : BitVec 8)
  /-- TXF, R294. Fetches one texel of a level without wrap or filtering. -/
  | txf (d : BitVec 8) (a : BitVec 4) (b : BitVec 8)
  /-- RTRC, R317. Starts a ray trace per active lane and writes the first offered candidate or final hit. -/
  | rtrc (d : BitVec 8) (a : BitVec 4) (b : BitVec 8)
  /-- RTNX, R317. Rejects the offered candidate and writes the next one or the final hit. -/
  | rtnx (d : BitVec 8) (a : BitVec 4) (b : BitVec 8)
  /-- RTRS, R317. Accepts the offered candidate, making it the final hit. -/
  | rtrs (d : BitVec 8)
  /-- RTHIT, R318. Writes the object-space vertices of the triangle named by the record run. -/
  | rthit (d : BitVec 8) (a : BitVec 4) (b : BitVec 8)
  /-- RTRI, R328. Submits one triangle per active lane to the core's raster queue. -/
  | rtri (d : BitVec 8) (a : BitVec 4) (b : BitVec 8)
  /-- RTW, R335. Writes blended colours to the render target as tile updates. -/
  | rtw (d : BitVec 8) (a : BitVec 4) (b : BitVec 8)
  /-- RCLR, R336. Clears a rectangle of the render target, one tile update per tile. -/
  | rclr (a : BitVec 4) (b : BitVec 6)
  /-- ZTS, R337. Performs a per-lane depth test and write at the depth word's home. -/
  | zts (d : BitVec 3) (a : BitVec 4) (b : BitVec 8)
  /-- LAUNCH, R370. Releases at .dev and creates one child launch per active lane. -/
  | launch (d : BitVec 3) (a : BitVec 4) (b : BitVec 8)
  /-- RDPARAM, R372. Writes the launch value selected by sA into sD. -/
  | rdparam (d : BitVec 6) (a : BitVec 6)
  /-- WPW, R452. Writes a watch predicate to every core and slice, resets its counters and installs its mirror. -/
  | wpw (d : BitVec 3) (a : BitVec 6) (b : BitVec 4)
  /-- WPR, R453. Reads a word or the counter sum of a watch predicate. -/
  | wpr (d : BitVec 6) (a : BitVec 6)
  /-- HRD, R454. Reads an item of the target group's state. -/
  | hrd (d : BitVec 6) (a : BitVec 4) (b : BitVec 6)
  /-- HWR, R454. Writes an item of a halted target group's state. -/
  | hwr (d : BitVec 6) (a : BitVec 4) (b : BitVec 6)
  /-- CSRR, R401. Reads one half of a CSR into sD. -/
  | csrr (d : BitVec 6) (k : BitVec 32)
  /-- CSRW, R401. Writes sA into one half of a CSR that has no behaviour of its own; a sink. -/
  | csrw (a : BitVec 6) (k : BitVec 32)
  /-- GROW, R175. Raises the group's vector allocation, waiting for room. -/
  | grow (k : BitVec 32)
  /-- GROW_TRY, R175. Raises the vector allocation if room exists now, reporting success in pD. -/
  | growTry (d : BitVec 3) (k : BitVec 32)
  /-- SHRINK, R175. Lowers the vector allocation, dropping lines above it. -/
  | shrink (k : BitVec 32)
  /-- MXSCL, R121. Computes the shared scale of a 32-value block into sD. -/
  | mxscl (d : BitVec 6) (a : BitVec 8)
  /-- MXQ, R121. Quantises a 32-value block to mx8 or mx4 elements under a given scale. -/
  | mxq (d : BitVec 8) (a : BitVec 8) (b : BitVec 6)
  /-- CPDEC, R192. Starts a copy that decodes Nutmeg superblocks into elements. -/
  | cpdec (d : BitVec 4) (a : BitVec 4) (b : BitVec 5)
  /-- LDB_REG, R248. Loads under a round bound, serving lanes from copies whose fill round suffices. -/
  | ldbReg (d : BitVec 8) (a : BitVec 4) (b : BitVec 8)
  /-- LDB_LIT, R248. Round-bounded load at a constant offset. -/
  | ldbLit (d : BitVec 8) (a : BitVec 4) (k : BitVec 32)
  /-- RADV, R249. Releases at its scope and raises the round of the region holding aA. -/
  | radv (s : BitVec 3) (a : BitVec 4)
  /-- RRD, R250. Reads the Orrery's round counter of the region into aD. -/
  | rrd (d : BitVec 4) (a : BitVec 4)
  /-- RRD_OBS, R250. Reads the core's observed round of the region into aD. -/
  | rrdObs (d : BitVec 4) (a : BitVec 4)
  /-- RDCMP, R338. Rewrites a range of Cumin tiles in raw form. -/
  | rdcmp (a : BitVec 4) (b : BitVec 6)
  /-- SMPN, R291. Evaluates a neural texture's perceptron per active lane. -/
  | smpn (d : BitVec 8) (a : BitVec 4) (b : BitVec 8)
  /-- XMMA, R302. Enters an mma into the lending queue of the bay's sampler dot array. -/
  | xmma (d : BitVec 8) (a : BitVec 8) (b : BitVec 8)
  /-- XMASK_WRITE, R69. A csrw to XMASK changes enabled extension groups for the issuing group from its next instruction. -/
  | xmaskWrite (a : BitVec 6)
  /-- ALMAP_WRITE, R407. A csrw to ALMAP changes the Almanac partitions of the context on every core. -/
  | almapWrite (hi : Bool) (a : BitVec 6)
  /-- ORCMD_REGISTER, R426. A csrw to ORCMD with op 1 releases and registers a round region, writing its status. -/
  | orcmdRegister (g : Nat)
  /-- ORCMD_DROP, R426. A csrw to ORCMD with op 2 releases and removes a round region. -/
  | orcmdDrop (g : Nat)
  /-- ORCMD_NO_OP, R426. A csrw to ORCMD with op 0 or 3 has no effect. -/
  | orcmdNoOp (g : Nat)
  /-- TRCTL_RESET, R460. A csrw to TRCTL with rst = 1 ends the trace session and starts a new one. -/
  | trctlReset (a : BitVec 6)
  /-- INSTR_FETCH_RETURN, R45. Instruction words arrive in the instruction cache for a waiting path. -/
  | instrFetchReturn (g path : Nat)
  /-- MERGE_JOIN, R140. Once all lanes of a join record wait at merges, the device forms one path per merge address. -/
  | mergeJoin (g q : Nat)
  /-- STEP_TRAP, R164. After the stepped instruction issues or its wait ends, the group traps with cause step. -/
  | stepTrap (g : Nat)
  /-- REGISTER_LINE_FILL, R30. A register line fetched from the image's home slice arrives in the register cache. -/
  | registerLineFill (g line : Nat)
  /-- GROW_GRANT, R175. A waiting grow is met when room exists, zeroing the new registers. -/
  | growGrant (g path : Nat)
  /-- HOME_READ, R199. A home slice serves a read or fill at its reading tick and grants a lease. -/
  | homeRead (op acc lease : Nat)
  /-- FILL_ARRIVAL, R202. A fill reaches the L1, installed unless its reading tick lies before the drop tick. -/
  | fillArrival (op acc : Nat)
  /-- DATA_RETURN, R177. Load data or poison reach the destination registers and the LD counter falls in order. -/
  | dataReturn (op : Nat)
  /-- HOME_WRITE, R203. A store or reduction is applied at its home at one tick and a completion time formed. -/
  | homeWrite (op acc : Nat)
  /-- COMPLETION_TIME_RETURN, R203. A store's completion time reaches the group, updating the L1 copy and lowering ST. -/
  | completionTimeReturn (op : Nat)
  /-- HOME_ATOMIC, R228. The home slice's arithmetic unit performs an atomic, reduction or cas at one tick. -/
  | homeAtomic (op acc : Nat)
  /-- MONITOR_CHECK, R237. The home slice tests an mwait or cwait condition and replies met, armed or full. -/
  | monitorCheck (op : Nat)
  /-- MWAIT_REPLY, R237. The monitor reply or wake reaches the waiting path, which writes p7 and acquires. -/
  | mwaitReply (op : Nat)
  /-- HOLDER_ACCESS, R171. An access forwarded to a held register or tile line is performed by the holding core. -/
  | holderAccess (op acc : Nat)
  /-- WINDOW_ACCESS, R176. A supervisor access to a window address is served by the named core. -/
  | windowAccess (op acc : Nat)
  /-- LEASE_EXPIRY, R200. An L1 lease reaches its expiry and may no longer serve ld hits. -/
  | leaseExpiry (core line : Nat)
  /-- RELEASE_END, R206. A release ends once earlier accesses have returned and Gnomon passes their completion components. -/
  | releaseEnd (g : Nat)
  /-- ACQUIRE_END, R207. An acquire ends once earlier loads have returned and rounds are imported. -/
  | acquireEnd (g : Nat)
  /-- BEACON, R427. A round beacon from the Orrery raises a core's observed round. -/
  | beacon (core region : Nat)
  /-- HOST_READ, R222. A host CXL.mem read is served at the home with no lease. -/
  | hostRead (pa n : Nat)
  /-- HOST_WRITE, R222. A host write is applied at its home on arrival. -/
  | hostWrite (pa : Nat) (bytes : List Byte)
  /-- BACK_INVALIDATE_ANSWER, R429. The host's answer to a back-invalidation applies its data and frees the waiting device accesses. -/
  | backInvalidateAnswer (half : Nat) (modified : List Byte)
  /-- HOST_WRITE_BACK, R429. A host write-back surrendering a half makes it N. -/
  | hostWriteBack (half : Nat) (bytes : List Byte)
  /-- HOST_MEMORY_COMPLETION, R224. The host completes a device read of host memory. -/
  | hostMemoryCompletion (op acc : Nat) (ok : Bool)
  /-- RETENTION_ENTER, R226. An L2 slice puts its data arrays to sleep. -/
  | retentionEnter (slice : Nat)
  /-- RETENTION_WAKE, R226. A slice's data arrays finish waking for an access. -/
  | retentionWake (slice : Nat)
  /-- BAR_GENERATION_COMPLETE, R240. A block barrier generation completes and waiting paths acquire and continue. -/
  | barGenerationComplete (blk barrier : Nat)
  /-- GRID_COUNTER_ASSIGN, R246. A freed grid counter is assigned to a waiting launch, whose first group arrives. -/
  | gridCounterAssign (launch : Nat)
  /-- GBAR_GENERATION_COMPLETE, R245. All blocks of the launch have arrived and every waiting path acquires and continues. -/
  | gbarGenerationComplete (launch : Nat)
  /-- COPY_ACCEPT, R190. A copy engine accepts a waiting copy and performs its acquire. -/
  | copyAccept (op : Nat)
  /-- COPY_CHUNK, R194. A copy engine translates and writes one destination chunk. -/
  | copyChunk (op : Nat)
  /-- COPY_END, R193. A copy ends with its release or an error and the CP counter falls. -/
  | copyEnd (op : Nat)
  /-- GROUP_END_RELEASE, R179. An ended group's slot and lines are released once its LD, SM, RT and MX counters are zero. -/
  | groupEndRelease (g : Nat)
  /-- TILE_ENTRY_BEGIN, R258. An engine begins the highest-priority tile entry that may begin. -/
  | tileEntryBegin (core engine entry : Nat)
  /-- KSTEP_BOUNDARY, R273. At a k-step boundary the engine continues or switches to a strictly higher-priority entry. -/
  | kstepBoundary (core engine : Nat)
  /-- TILE_ENTRY_END, R271. An entry's last tile update is applied and the MX counter falls. -/
  | tileEntryEnd (core engine : Nat)
  /-- TOKEN_GRANT, R268. An accq entry begins and the token passes to the group. -/
  | tokenGrant (op : Nat)
  /-- ACC_MOVE_DONE, R269. An accld or accst finishes writing its destination. -/
  | accMoveDone (op : Nat)
  /-- ENTRY_AGING, R272. Each 4,096 clocks of waiting raise a tile entry's aged priority. -/
  | entryAging (op : Nat)
  /-- SAMPLE_RETURN, R296. A sample instruction's destination run is written and SM falls. -/
  | sampleReturn (op : Nat)
  /-- WEIGHT_FILL, R297. A whole weight blob arrives and its cache entry is installed. -/
  | weightFill (op : Nat)
  /-- WCINV_DONE, R301. Every core has removed the invalidated entries and SM falls. -/
  | wcinvDone (op : Nat)
  /-- LENDING_STEP_BEGIN, R303. The sampler array begins a lending step of an xmma entry. -/
  | lendingStepBegin (core array entry : Nat)
  /-- LENDING_STEP_END, R303. A lending step ends, letting a waiting neural evaluation run. -/
  | lendingStepEnd (core array : Nat)
  /-- LENDING_TIMER, R303. 1,024 clocks since the last lending step let lent work run before neural work. -/
  | lendingTimer (core array : Nat)
  /-- RAY_RESULT, R319. A trace's record run is written and RT falls. -/
  | rayResult (op : Nat)
  /-- RASTER_STAMP, R329. The raster unit tests a stamp's pixels and queues its pixel group. -/
  | rasterStamp (core : Nat)
  /-- DEPTH_TEST, R329. The depth word's home compares and writes z at one tick. -/
  | depthTest (core : Nat)
  /-- PIXEL_GROUP_SPAWN, R332. A stamp spawns its pixel group once granules and a core are free. -/
  | pixelGroupSpawn (core target : Nat)
  /-- TILE_UPDATE, R220. A render-target write is applied at its home as one tile update encoded by Encode. -/
  | tileUpdate (op acc : Nat)
  /-- PASS_END, R339. With all groups arrived and pixel groups ended, the device releases at .dev and advances the pass. -/
  | passEnd (blk : Nat)
  /-- WPTR_WAKE, R348. The command processor's monitor on a queue's wptr wakes. -/
  | wptrWake (queue : Nat)
  /-- JOB_START, R354. A job starts, making its context resident and starting its first phase. -/
  | jobStart (queue : Nat)
  /-- PHASE_START, R354. A phase starts after the previous phase ends with state 1. -/
  | phaseStart (entity : Nat)
  /-- GRAPH_START, R363. A graph starts when its nb has passed and counters for its launches are free. -/
  | graphStart (entity : Nat)
  /-- NOT_BEFORE_PASS, R350. Gnomon passes an entity's not-before tick. -/
  | notBeforePass (entity : Nat)
  /-- LAUNCH_READY, R354. A launch becomes ready when its deps have completed and nb has passed. -/
  | launchReady (entity : Nat)
  /-- LAUNCH_AGING, R364. Each 2^20 ticks raise a ready launch's effective priority. -/
  | launchAging (entity : Nat)
  /-- AGGREGATOR_DISPATCH, R371. After its gather time the aggregator hands a merged child grid to the distributor. -/
  | aggregatorDispatch (entity : Nat)
  /-- BLOCK_PLACE, R365. The distributor places a block on a core or gang that fits it. -/
  | blockPlace (entity core : Nat)
  /-- PREEMPT_BLOCK, R366. The distributor pre-empts a resident block to make room for a waiting one. -/
  | preemptBlock (blk : Nat)
  /-- BLOCK_COMPLETE, R355. A block completes when its groups and pixel groups end and their writes pass Cd0 and Cd1. -/
  | blockComplete (blk : Nat)
  /-- ENTITY_END, R357. An entity ends; the command processor releases at .sys and writes its status word. -/
  | entityEnd (entity : Nat)
  /-- JOB_END, R358. A job ends and rptr rises, letting the next job of the queue start. -/
  | jobEnd (queue : Nat)
  /-- WALK_COMPLETE, R381. A slice's page walk ends with a translation or a fault. -/
  | walkComplete (op acc : Nat)
  /-- FAULT_REPLY, R385. The command processor acts on a fault record's reply of retry or fail. -/
  | faultReply (ctx : Nat)
  /-- GROUP_REPLAY, R390. After every record is answered the group replays from the replay point. -/
  | groupReplay (g : Nat)
  /-- SSQ_DRAIN, R387. A speculative store queue entry drains to its home once earlier accesses have settled. -/
  | ssqDrain (g : Nat)
  /-- TLBI_END, R383. Every access under dropped translations has been applied and the tlbi path continues. -/
  | tlbiEnd (g : Nat)
  /-- GROUP_SAVE, R393. A group's counters reach zero and its state lines are written so it can leave the core. -/
  | groupSave (g : Nat)
  /-- BLOCK_SAVED, R394. The command processor reports a block saved once all its groups, frame and copies are done. -/
  | blockSaved (blk : Nat)
  /-- GROUP_RESUME, R396. A saved group resumes on any core after reading its state and acquiring. -/
  | groupResume (g core : Nat)
  /-- SLEEP_EXPIRE, R403. Gnomon passes a sleeping group's wake tick and it becomes placeable. -/
  | sleepExpire (g : Nat)
  /-- WTM_EXPIRE, R422. Gnomon reaches the wtm target and the waiting path continues. -/
  | wtmExpire (g path : Nat)
  /-- PTP_EXCHANGE, R418. A management-port timing exchange disciplines Gnomon. -/
  | ptpExchange (offset : Nat)
  /-- LINK_TIMING_EXCHANGE, R418. A VC3 timing exchange disciplines Gnomon against the reference module. -/
  | linkTimingExchange (link offset : Nat)
  /-- LOCK_TIMEOUT, R418. No successful exchange for 2^24 ticks clears lock. -/
  | lockTimeout
  /-- LINK_TRAINING, R431. A device link trains, measuring its round trip and exchanging SIGMA. -/
  | linkTraining (link lanes roundTrip sigma : Nat) (peerLocked : Bool)
  /-- LINK_FAILURE, R433. A device link fails and its flits in flight resend on the newly chosen link. -/
  | linkFailure (link : Nat)
  /-- FLIT_RECEIVE, R431. A flit arrives on a device link and is checked and delivered. -/
  | flitReceive (link : Nat) (head : BitVec 32) (payload : List Byte) (checkOk : Bool)
  /-- FLIT_PAUSE, R432. A pause flit stops a virtual channel. -/
  | flitPause (link vc : Nat)
  /-- FLIT_RESUME, R432. A resume flit restarts a virtual channel. -/
  | flitResume (link vc : Nat)
  /-- PEER_REQUEST, R430. A peer's request arrives and is served at its home, or retried while unlocked: a read, a write, or
  with a second part of `write` an atomic operation (operation code, type code), or an `mwait` (16 + its condition), on the operand bytes of its first. -/
  | peerRequest (peer pa n : Nat) (write : List Byte × Option (Nat × Nat)) (lease : Bool)
  /-- PEER_RESPONSE, R430. A peer's response, wake or retry arrives for an outstanding request. -/
  | peerResponse (op acc : Nat) (data : List Byte) (poison : Bool) (cd0 cd1 cf : Nat)
  /-- HOST_LINK_TRAIN_DOWN, R428. The host port trains to a lower rate or width when lanes fail. -/
  | hostLinkTrainDown (lanes : Nat)
  /-- HALT_PROPAGATION, R443. Other groups of the gang or context halt within the skid bound. -/
  | haltPropagation (g : Nat)
  /-- MIRROR_HALT, R445. A mirror match halts the writer's group, gang or context within 2,048 clocks. -/
  | mirrorHalt (g : Nat)
  /-- PC_SAMPLE, R458. At the end of a sample period a scheduler takes a PC sample. -/
  | pcSample (core sched : Nat)
  /-- TRACE_RECORD_WRITE, R460. The trace writer applies a record, releases at .sys and advances TRWP, or drops it. -/
  | traceRecordWrite (ctx : Nat)
  /-- SCRUB, R470. Firmware scrubs a codeword, correcting or poisoning it. -/
  | scrub (pa : Nat) (uncorrectable : Bool)
  /-- DIE_LOSS, R473. A compute die fails and its cores, slices and stacks leave service at one tick. -/
  | dieLoss (die : Nat)
  /-- SPARE_ACTIVATION, R474. Firmware saves a failing core's groups and activates a spare. -/
  | spareActivation (failing spare : Nat)
  /-- SLICE_RETIREMENT, R472. Firmware moves a slice's lines and updates the remap table. -/
  | sliceRetirement (die slice : Nat)
  /-- ROW_REPAIR, R475. Firmware repairs an HBM4E row in service. -/
  | rowRepair (lo hi : Nat)
  /-- CHANNEL_RETIREMENT, R476. A failing channel or stack is retired by migrating its pages. -/
  | channelRetirement (ctx : Nat) (va newPa : BitVec 64) (movable : Bool)
  /-- POWER_ON_RESET, R478. Power-on or fundamental reset enters stage 0. -/
  | powerOnReset
  /-- HOST_LINK_UP, R478. The host link comes up and firmware verification begins in stage 1. -/
  | hostLinkUp
  /-- FIRMWARE_VERIFIED, R479. Firmware verification ends, entering stage 2 or halting. -/
  | firmwareVerified (bank0 bank1 : Bool)
  /-- IMAGE_VERIFIED, R479. The configuration image verifies and the apply stage begins. -/
  | imageVerified (bank0 bank1 : Bool)
  /-- APPLY_COMPLETE, R478. Trims, image, repair log, training, zeroing and Gnomon step complete and stage 4 begins. -/
  | applyComplete (trained : Bool) (source sigma time records badRecord : Nat)
  /-- QTB_WRITE, R348. A host write of QTB makes every queue examined once. -/
  | qtbWrite (v : BitVec 64)
  /-- PCAP_WRITE, R481. A host write of PCAP sets the power cap with clamping. -/
  | pcapWrite (v : BitVec 32)
  /-- HOST_REG_WRITE, R481. A host write to a register with no behaviour of its own, dropped outside stage 4. -/
  | hostRegWrite (offset : Nat) (v : BitVec 64)
  /-- HCMD_INVALIDATE, R482. Host command 1 invalidates a page's translations as tlbi.va. -/
  | hcmdInvalidate
  /-- HCMD_INVALIDATE_CTX, R482. Host command 2 invalidates the whole context as tlbi.ctx. -/
  | hcmdInvalidateCtx
  /-- HCMD_MIGRATE, R399. Host command 3 migrates a page line by line to a new home. -/
  | hcmdMigrate
  /-- HCMD_SAVE_CTX, R482. Host command 4 saves the context, done when every block is reported saved. -/
  | hcmdSaveCtx
  /-- HCMD_RELEASE_CTX, R482. Host command 5 releases a saved context for placement. -/
  | hcmdReleaseCtx
  /-- HCMD_ATTEST, R483. Host command 6 writes a signed attestation report. -/
  | hcmdAttest
  /-- HCMD_UNASSIGNED, R482. An unlisted command code completes with result 1. -/
  | hcmdUnassigned (code : BitVec 32)
  /-- POWER_CAP_CHECK, R486. Each 1 ms average above PCAP makes firmware withhold issue slots. -/
  | powerCapCheck (watts : Nat)
  /-- CORE_POWER_GATE, R485. An idle core with no resident or cached state is power-gated. -/
  | corePowerGate (core : Nat)
  /-- ILLEGAL_INSTRUCTION, R43. An instruction word whose opcode is 0x00 or 0xF0 to 0xFF issues and raises the illegal-instruction trap at check 2. -/
  | illegalInstruction (w : BitVec 32)
  /-- ILLEGAL_ENCODING, R63. A word of an assigned opcode with an unassigned function code, mode kind or non-zero reserved bit issues and raises the illegal-encoding trap at check 3. -/
  | illegalEncoding (w k : BitVec 32)
  /-- NO_GROUP_EXTENSION, R68. A word with opcode 0xEA to 0xEF issues and takes the emulation trap with EMINF.ng set. -/
  | noGroupExtension (w k : BitVec 32)
  /-- TILE_LINE_FILL, R276. An accumulator tile line fetched from its image at the home slice arrives in the core's tile store for the engine that touched it. -/
  | tileLineFill (blk member line : Nat)
  /-- FLASH_WRITE_COMPLETE, R480. A write to module flash, such as nres or a repair record, completes and a signing or repair that waited for it proceeds. -/
  | flashWriteComplete
  /-- POWER_LOSS, R477. The module loses power, which ends all volatile state while flash keeps the image, repair log and nres. -/
  | powerLoss
  deriving DecidableEq, Repr

end Sys2Proof
end

