-- ==== Sys2Proof/WellFormed.lean ====
section
/-! DEFINITION. The checks an instruction's fields meet beyond their widths: the reserved codes of 02 R39 and 03 R61 to
R63 and of the instructions' own descriptions. A word that fails one raises the illegal-encoding trap (R41 check 3). -/

namespace Sys2Proof

/-- Elements of a narrow source that `unpk` takes; 0 for a source whose index is not checked (05 R119). -/
def unpkElems (s : BitVec 4) : Nat :=
  match s.toNat with
  | 2 | 3 | 7 | 8 => 2
  | 4 | 5 | 9 | 10 => 4
  | 11 => 8
  | _ => 0

/-- Whether the fields hold no reserved code. -/
def Instr.wellFormed : Instr → Bool
  -- a value field whose mask bit is 0 is zero, and some mask bit is 1 (R39)
  | .modeArith g t r s f p e v y n u z =>
    (g == 1 || (p == 0 && e == 0 && v == 0)) && (t == 1 || y == 0) && (r == 1 || n == 0) && (s == 1 || u == 0) &&
      (f == 1 || z == 0) && (g == 1 || t == 1 || r == 1 || s == 1 || f == 1)
  -- classes 6 and 7, scopes 6 and 7 are unassigned (R61)
  | .wret _ c => c.toNat < 6
  | .fenceAcq s | .fenceRel s | .fenceAr s => s.toNat < 6
  -- operations 9 to 15, and .exch of red, are unassigned (R62)
  | .atom _ _ o => o.toNat < 9
  | .red _ _ o => o.toNat < 9 && o.toNat != 6
  -- part codes above 6 (R132)
  | .rng _ c | .rngs c _ => c.toNat < 7
  -- an element index beyond the source (R119)
  | .unpk _ _ k s => unpkElems s == 0 || k.toNat < unpkElems s
  -- scope codes 6 and 7 (R249)
  | .radv s _ => s.toNat < 6
  | .abs .. | .neg .. | .notB .. | .clz .. | .popc .. | .brev .. | .voteAny .. | .voteAll .. | .ballot .. | .lredAdd .. | .lredMin .. | .lredMax .. | .lid .. | .fabs .. | .fneg .. | .frcp .. | .frsq .. | .fsqrt .. | .fex2 .. | .flg2 .. | .fsin .. | .fcos .. | .frnd .. | .nop .. | .exit .. | .yield .. | .brk .. | .merge .. | .ret .. | .lbrkLc0 .. | .lbrkLc1 .. | .rdmd .. | .wrmd .. | .tret .. | .ecall .. | .sleep .. | .tlbiVa .. | .tlbiCtx .. | .tlbiAll .. | .hstep .. | .hres .. | .wcpin .. | .wcunp .. | .wcinv .. | .wcinvAll .. | .rtgen .. | .rtinv .. | .rtinvAll .. | .cwait .. | .cncl .. | .rdtm .. | .wtm .. | .bar .. | .barw .. | .gbar .. | .rend .. | .cas .. | .trap .. | .cvt .. | .pack2 .. | .pand .. | .por .. | .pxor .. | .pnot .. | .addReg .. | .addScb .. | .addLit .. | .subReg .. | .subScb .. | .subLit .. | .addcReg .. | .addcScb .. | .addcLit .. | .subbReg .. | .subbScb .. | .subbLit .. | .mulReg .. | .mulScb .. | .mulLit .. | .mulhReg .. | .mulhScb .. | .mulhLit .. | .madReg .. | .madScb .. | .madLit .. | .minReg .. | .minScb .. | .minLit .. | .maxReg .. | .maxScb .. | .maxLit .. | .andReg .. | .andScb .. | .andLit .. | .orReg .. | .orScb .. | .orLit .. | .xorReg .. | .xorScb .. | .xorLit .. | .andnReg .. | .andnScb .. | .andnLit .. | .shlReg .. | .shlScb .. | .shlLit .. | .shrReg .. | .shrScb .. | .shrLit .. | .sraReg .. | .sraScb .. | .sraLit .. | .rotlReg .. | .rotlScb .. | .rotlLit .. | .bfxReg .. | .bfxScb .. | .bfxLit .. | .bfiReg .. | .bfiScb .. | .bfiLit .. | .selReg .. | .selScb .. | .selLit .. | .cmpEqReg .. | .cmpEqScb .. | .cmpEqLit .. | .cmpLtReg .. | .cmpLtScb .. | .cmpLtLit .. | .faddReg .. | .faddScb .. | .faddLit .. | .fsubReg .. | .fsubScb .. | .fsubLit .. | .fmulReg .. | .fmulScb .. | .fmulLit .. | .fmaReg .. | .fmaScb .. | .fmaLit .. | .fminReg .. | .fminScb .. | .fminLit .. | .fmaxReg .. | .fmaxScb .. | .fmaxLit .. | .fclsReg .. | .fclsScb .. | .fclsLit .. | .fcmpEqReg .. | .fcmpEqScb .. | .fcmpEqLit .. | .fcmpLtReg .. | .fcmpLtScb .. | .fcmpLtLit .. | .fcmpLeReg .. | .fcmpLeScb .. | .fcmpLeLit .. | .dot4Reg .. | .dot4Scb .. | .dot4Lit .. | .fdot2Reg .. | .fdot2Scb .. | .fdot2Lit .. | .pmov .. | .movReg .. | .movScb .. | .movLit .. | .bcast .. | .shflIdxReg .. | .shflIdxLit .. | .shflUp .. | .shflDn .. | .shflXor .. | .br .. | .jmp .. | .call .. | .split .. | .loopLc0 .. | .loopLc1 .. | .rdlnScb .. | .rdlnLit .. | .wrlnScb .. | .wrlnLit .. | .saddScb .. | .saddLit .. | .ssubScb .. | .ssubLit .. | .smulScb .. | .smulLit .. | .sandScb .. | .sandLit .. | .sorScb .. | .sorLit .. | .sxorScb .. | .sxorLit .. | .sshlScb .. | .sshlLit .. | .sshrScb .. | .sshrLit .. | .ssraScb .. | .ssraLit .. | .sminScb .. | .sminLit .. | .smaxScb .. | .smaxLit .. | .modeBuf .. | .scmpEqScb .. | .scmpEqLit .. | .scmpLtScb .. | .scmpLtLit .. | .smov .. | .smovAlo .. | .smovAhi .. | .sli .. | .aaddScb .. | .aaddLit .. | .amov .. | .ldReg .. | .ldScb .. | .ldLit .. | .stReg .. | .stScb .. | .stLit .. | .ldsReg .. | .ldsLit .. | .stsReg .. | .stsLit .. | .ldcReg .. | .ldcLit .. | .ldaReg .. | .ldaLit .. | .strReg .. | .strLit .. | .prefReg .. | .prefLit .. | .cp .. | .cp2d .. | .cpr .. | .barv .. | .mwait .. | .mma .. | .mmakb .. | .accq .. | .accr .. | .accld .. | .accst .. | .acczr .. | .mprio .. | .smp .. | .smpg .. | .smpl .. | .txf .. | .rtrc .. | .rtnx .. | .rtrs .. | .rthit .. | .rtri .. | .rtw .. | .rclr .. | .zts .. | .launch .. | .rdparam .. | .wpw .. | .wpr .. | .hrd .. | .hwr .. | .csrr .. | .csrw .. | .grow .. | .growTry .. | .shrink .. | .mxscl .. | .mxq .. | .cpdec .. | .ldbReg .. | .ldbLit .. | .rrd .. | .rrdObs .. | .rdcmp .. | .smpn .. | .xmma .. | .xmaskWrite .. | .almapWrite .. | .orcmdRegister .. | .orcmdDrop .. | .orcmdNoOp .. | .trctlReset .. | .instrFetchReturn .. | .mergeJoin .. | .stepTrap .. | .registerLineFill .. | .growGrant .. | .homeRead .. | .fillArrival .. | .dataReturn .. | .homeWrite .. | .completionTimeReturn .. | .homeAtomic .. | .monitorCheck .. | .mwaitReply .. | .holderAccess .. | .windowAccess .. | .leaseExpiry .. | .releaseEnd .. | .acquireEnd .. | .beacon .. | .hostRead .. | .hostWrite .. | .backInvalidateAnswer .. | .hostWriteBack .. | .hostMemoryCompletion .. | .retentionEnter .. | .retentionWake .. | .barGenerationComplete .. | .gridCounterAssign .. | .gbarGenerationComplete .. | .copyAccept .. | .copyChunk .. | .copyEnd .. | .groupEndRelease .. | .tileEntryBegin .. | .kstepBoundary .. | .tileEntryEnd .. | .tokenGrant .. | .accMoveDone .. | .entryAging .. | .sampleReturn .. | .weightFill .. | .wcinvDone .. | .lendingStepBegin .. | .lendingStepEnd .. | .lendingTimer .. | .rayResult .. | .rasterStamp .. | .depthTest .. | .pixelGroupSpawn .. | .tileUpdate .. | .passEnd .. | .wptrWake .. | .jobStart .. | .phaseStart .. | .graphStart .. | .notBeforePass .. | .launchReady .. | .launchAging .. | .aggregatorDispatch .. | .blockPlace .. | .preemptBlock .. | .blockComplete .. | .entityEnd .. | .jobEnd .. | .walkComplete .. | .faultReply .. | .groupReplay .. | .ssqDrain .. | .tlbiEnd .. | .groupSave .. | .blockSaved .. | .groupResume .. | .sleepExpire .. | .wtmExpire .. | .ptpExchange .. | .linkTimingExchange .. | .lockTimeout .. | .linkTraining .. | .linkFailure .. | .flitReceive .. | .flitPause .. | .flitResume .. | .peerRequest .. | .peerResponse .. | .hostLinkTrainDown .. | .haltPropagation .. | .mirrorHalt .. | .pcSample .. | .traceRecordWrite .. | .scrub .. | .dieLoss .. | .spareActivation .. | .sliceRetirement .. | .rowRepair .. | .channelRetirement .. | .powerOnReset .. | .hostLinkUp .. | .firmwareVerified .. | .imageVerified .. | .applyComplete .. | .qtbWrite .. | .pcapWrite .. | .hostRegWrite .. | .hcmdInvalidate .. | .hcmdInvalidateCtx .. | .hcmdMigrate .. | .hcmdSaveCtx .. | .hcmdReleaseCtx .. | .hcmdAttest .. | .hcmdUnassigned .. | .powerCapCheck .. | .corePowerGate .. | .illegalInstruction .. | .illegalEncoding .. | .noGroupExtension .. | .tileLineFill .. | .flashWriteComplete .. | .powerLoss .. => true

end Sys2Proof
end

