-- ==== Sys2Proof/Decode.lean ====
section
/-! DEFINITION. Decoding the instruction words (02 R32 to R39, R41 checks 2 and 3; 03 R57 to R66) and, after it, the
encoder. A refusal is named by the trap that check 2 or 3 raises. -/

namespace Sys2Proof

/-- Why a word is no instruction: check 2 or 3 of R41, or an extension code of no group (R66, R68). -/
inductive Reject where
  /-- opcode 0x00 or 0xF0 to 0xFF (R43) -/
  | illegalInstruction
  /-- an assigned opcode with a non-zero reserved bit or an unassigned code (R34, R37, R63) -/
  | illegalEncoding
  /-- opcode 0xEA to 0xEF (R66, R68) -/
  | noGroup
  /-- fewer bytes than the instruction's words (R32) -/
  | truncated
  deriving DecidableEq, Repr

/-- A field naming a scalar register: bits [7:6] reserved (R17). -/
def rS (x : Byte) : Option (BitVec 6) := if x.toNat < 64 then some (x.setWidth 6) else none
/-- A field naming an address register: bits [7:4] reserved (R17); also a four-bit code. -/
def rA (x : Byte) : Option (BitVec 4) := if x.toNat < 16 then some (x.setWidth 4) else none
/-- A field naming a predicate: bits [7:3] reserved (R17); also a three-bit code. -/
def rP (x : Byte) : Option (BitVec 3) := if x.toNat < 8 then some (x.setWidth 3) else none
/-- A run of two scalars, starting at an even register (07 R190). -/
def rRun2 (x : Byte) : Option (BitVec 5) := if x.toNat < 64 ∧ x.toNat % 2 = 0 then some (x.extractLsb' 1 5) else none
/-- A run of four scalars, starting at a multiple of 4 (07 R190, 19 R450). -/
def rRun4 (x : Byte) : Option (BitVec 4) := if x.toNat < 64 ∧ x.toNat % 4 = 0 then some (x.extractLsb' 2 4) else none
/-- The field of a run of two scalars. -/
def wRun2 (b : BitVec 5) : Byte := 0#2 ++ b ++ 0#1
/-- The field of a run of four scalars. -/
def wRun4 (b : BitVec 4) : Byte := 0#2 ++ b ++ 0#2

/-- The four bytes of an instruction word (R33). -/
def word4 (o d a b : Byte) : Word := o ++ d ++ a ++ b

noncomputable section Decoders

/-- The MOD format (R39): a 24-bit mode body. -/
def decMode (m : BitVec 24) : Option Instr :=
  if m.extractLsb' 22 2 = 0 then
    if m.extractLsb' 0 3 = 0 then
      some (.modeArith (m.extractLsb' 21 1) (m.extractLsb' 20 1) (m.extractLsb' 19 1) (m.extractLsb' 18 1)
        (m.extractLsb' 17 1) (m.extractLsb' 14 3) (m.extractLsb' 13 1) (m.extractLsb' 12 1) (m.extractLsb' 8 4)
        (m.extractLsb' 5 3) (m.extractLsb' 4 1) (m.extractLsb' 3 1))
    else none
  else if m.extractLsb' 22 2 = 1 ∧ m.extractLsb' 8 14 = 0 then some (.modeBuf (m.extractLsb' 0 8))
  else none

/-- The integer unary family, opcode 0x01 (R59): B is the function code. -/
def decInt (D A B : Byte) : Option Instr :=
  match B.toNat with
  | 0x00 => some (.abs D A)
  | 0x01 => some (.neg D A)
  | 0x02 => some (.notB D A)
  | 0x03 => some (.clz D A)
  | 0x04 => some (.popc D A)
  | 0x05 => some (.brev D A)
  | 0x10 => do let d ← rP D; let a ← rP A; some (.voteAny d a)
  | 0x11 => do let d ← rP D; let a ← rP A; some (.voteAll d a)
  | 0x12 => do let d ← rS D; let a ← rP A; some (.ballot d a)
  | 0x13 => do let d ← rS D; some (.lredAdd d A)
  | 0x14 => do let d ← rS D; some (.lredMin d A)
  | 0x15 => do let d ← rS D; some (.lredMax d A)
  | 0x16 => if A = 0 then some (.lid D) else none
  | 0x20 => some (.rng D A)
  | 0x21 => some (.rngs D A)
  | _ => none

/-- The floating-point unary family, opcode 0x02 (R59): B is the function code. -/
def decFp (D A B : Byte) : Option Instr :=
  match B.toNat with
  | 0x00 => some (.fabs D A)
  | 0x01 => some (.fneg D A)
  | 0x02 => some (.frcp D A)
  | 0x03 => some (.frsq D A)
  | 0x04 => some (.fsqrt D A)
  | 0x05 => some (.fex2 D A)
  | 0x06 => some (.flg2 D A)
  | 0x07 => some (.fsin D A)
  | 0x08 => some (.fcos D A)
  | 0x09 => some (.frnd D A)
  | _ => none

/-- The control and privilege family, opcode 0x03 (R60): B is the function code. -/
def decCtl (D A B : Byte) : Option Instr :=
  match B.toNat with
  | 0x00 => if D = 0 ∧ A = 0 then some .nop else none
  | 0x01 => if D = 0 ∧ A = 0 then some .exit else none
  | 0x02 => if D = 0 ∧ A = 0 then some .yield else none
  | 0x03 => if D = 0 ∧ A = 0 then some .brk else none
  | 0x04 => if D = 0 ∧ A = 0 then some .merge else none
  | 0x05 => if D = 0 ∧ A = 0 then some .ret else none
  | 0x06 => if D = 0 ∧ A = 0 then some .lbrkLc0 else none
  | 0x07 => if D = 0 ∧ A = 0 then some .lbrkLc1 else none
  | 0x08 => if A = 0 then do let d ← rS D; some (.rdmd d) else none
  | 0x09 => if D = 0 then do let a ← rS A; some (.wrmd a) else none
  | 0x10 => if D = 0 ∧ A = 0 then some .tret else none
  | 0x11 => if D = 0 then do let a ← rS A; some (.ecall a) else none
  | 0x12 => if D = 0 then do let a ← rS A; some (.sleep a) else none
  | 0x18 => if D = 0 then do let a ← rA A; some (.tlbiVa a) else none
  | 0x19 => if D = 0 ∧ A = 0 then some .tlbiCtx else none
  | 0x1A => if D = 0 ∧ A = 0 then some .tlbiAll else none
  | 0x20 => do let d ← rS D; let a ← rA A; some (.hstep d a)
  | 0x21 => do let d ← rS D; let a ← rA A; some (.hres d a)
  | 0x28 => do let d ← rP D; let a ← rA A; some (.wcpin d a)
  | 0x29 => if D = 0 then do let a ← rA A; some (.wcunp a) else none
  | 0x2A => (if D = 0 then do let a ← rA A; some (.wcinv a) else none) <|> (if D = 1 ∧ A = 0 then some .wcinvAll else none)
  | 0x30 => if D = 0 then do let a ← rS A; some (.rtgen a) else none
  | 0x31 => (if D = 0 then do let a ← rS A; some (.rtinv a) else none) <|> (if D = 1 ∧ A = 0 then some .rtinvAll else none)
  | 0x38 => do let d ← rS D; let a ← rA A; some (.cwait d a)
  | 0x39 => do let d ← rS D; let a ← rA A; some (.cncl d a)
  | 0x40 => if A = 0 then do let d ← rA D; some (.rdtm d) else none
  | 0x41 => if D = 0 then do let a ← rA A; some (.wtm a) else none
  | _ => none

/-- The ordering family, opcode 0x04 (R61): B is the function code. -/
def decOrd (D A B : Byte) : Option Instr :=
  if B.toNat < 8 then (do let a ← rS A; if D = 0 then some (.wret a (B.setWidth 3)) else none)
  else if B.toNat = 0x10 then (if D = 0 ∧ A = 0 then some .bar else none)
  else if B.toNat = 0x11 then (do let a ← rS A; if D = 0 then some (.barw a) else none)
  else if B.toNat = 0x12 then (if D = 0 ∧ A = 0 then some .gbar else none)
  else if B.toNat = 0x18 then (if D = 0 ∧ A = 0 then some .rend else none)
  else if D ≠ 0 ∨ A ≠ 0 ∨ B.getLsbD 3 then none
  else if B.toNat / 16 = 5 then some (.fenceAcq (B.extractLsb' 0 3))
  else if B.toNat / 16 = 6 then some (.fenceRel (B.extractLsb' 0 3))
  else if B.toNat / 16 = 7 then some (.fenceAr (B.extractLsb' 0 3))
  else none

/-- Opcodes 0x00 to 0x0F of the primary map (R57). -/
def dec0 (o : Nat) (D A B : Byte) (k : Word) : Option Instr :=
  match o with
  | 0x01 => decInt D A B
  | 0x02 => decFp D A B
  | 0x03 => decCtl D A B
  | 0x04 => decOrd D A B
  | 0x05 => do let a ← rA A; let o ← rA B; some (.atom D a o)
  | 0x06 => do let a ← rA A; let o ← rA B; some (.red D a o)
  | 0x07 => do let a ← rA A; some (.cas D a B)
  | 0x08 => if D = 0 ∧ A = 0 ∧ B = 0 then some (.trap k) else none
  | 0x09 => do let s ← rA B; some (.cvt D A s)
  | 0x0A => some (.pack2 D A B)
  | 0x0B => if B.getLsbD 7 then none else some (.unpk D A (B.extractLsb' 4 3) (B.extractLsb' 0 4))
  | 0x0C => do let d ← rP D; let a ← rP A; let b ← rP B; some (.pand d a b)
  | 0x0D => do let d ← rP D; let a ← rP A; let b ← rP B; some (.por d a b)
  | 0x0E => do let d ← rP D; let a ← rP A; let b ← rP B; some (.pxor d a b)
  | 0x0F => if B = 0 then do let d ← rP D; let a ← rP A; some (.pnot d a) else none
  | _ => none

/-- Opcodes 0x10 to 0x1F of the primary map (R57). -/
def dec1 (o : Nat) (D A B : Byte) (k : Word) : Option Instr :=
  match o with
  | 0x10 => some (.addReg D A B)
  | 0x11 => do let b ← rS B; some (.addScb D A b)
  | 0x12 => if B = 0 then some (.addLit D A k) else none
  | 0x13 => some (.subReg D A B)
  | 0x14 => do let b ← rS B; some (.subScb D A b)
  | 0x15 => if B = 0 then some (.subLit D A k) else none
  | 0x16 => some (.addcReg D A B)
  | 0x17 => do let b ← rS B; some (.addcScb D A b)
  | 0x18 => if B = 0 then some (.addcLit D A k) else none
  | 0x19 => some (.subbReg D A B)
  | 0x1A => do let b ← rS B; some (.subbScb D A b)
  | 0x1B => if B = 0 then some (.subbLit D A k) else none
  | 0x1C => some (.mulReg D A B)
  | 0x1D => do let b ← rS B; some (.mulScb D A b)
  | 0x1E => if B = 0 then some (.mulLit D A k) else none
  | 0x1F => some (.mulhReg D A B)
  | _ => none

/-- Opcodes 0x20 to 0x2F of the primary map (R57). -/
def dec2 (o : Nat) (D A B : Byte) (k : Word) : Option Instr :=
  match o with
  | 0x20 => do let b ← rS B; some (.mulhScb D A b)
  | 0x21 => if B = 0 then some (.mulhLit D A k) else none
  | 0x22 => some (.madReg D A B)
  | 0x23 => do let b ← rS B; some (.madScb D A b)
  | 0x24 => if B = 0 then some (.madLit D A k) else none
  | 0x25 => some (.minReg D A B)
  | 0x26 => do let b ← rS B; some (.minScb D A b)
  | 0x27 => if B = 0 then some (.minLit D A k) else none
  | 0x28 => some (.maxReg D A B)
  | 0x29 => do let b ← rS B; some (.maxScb D A b)
  | 0x2A => if B = 0 then some (.maxLit D A k) else none
  | 0x2B => some (.andReg D A B)
  | 0x2C => do let b ← rS B; some (.andScb D A b)
  | 0x2D => if B = 0 then some (.andLit D A k) else none
  | 0x2E => some (.orReg D A B)
  | 0x2F => do let b ← rS B; some (.orScb D A b)
  | _ => none

/-- Opcodes 0x30 to 0x3F of the primary map (R57). -/
def dec3 (o : Nat) (D A B : Byte) (k : Word) : Option Instr :=
  match o with
  | 0x30 => if B = 0 then some (.orLit D A k) else none
  | 0x31 => some (.xorReg D A B)
  | 0x32 => do let b ← rS B; some (.xorScb D A b)
  | 0x33 => if B = 0 then some (.xorLit D A k) else none
  | 0x34 => some (.andnReg D A B)
  | 0x35 => do let b ← rS B; some (.andnScb D A b)
  | 0x36 => if B = 0 then some (.andnLit D A k) else none
  | 0x37 => some (.shlReg D A B)
  | 0x38 => do let b ← rS B; some (.shlScb D A b)
  | 0x39 => if B = 0 then some (.shlLit D A k) else none
  | 0x3A => some (.shrReg D A B)
  | 0x3B => do let b ← rS B; some (.shrScb D A b)
  | 0x3C => if B = 0 then some (.shrLit D A k) else none
  | 0x3D => some (.sraReg D A B)
  | 0x3E => do let b ← rS B; some (.sraScb D A b)
  | 0x3F => if B = 0 then some (.sraLit D A k) else none
  | _ => none

/-- Opcodes 0x40 to 0x4F of the primary map (R57). -/
def dec4 (o : Nat) (D A B : Byte) (k : Word) : Option Instr :=
  match o with
  | 0x40 => some (.rotlReg D A B)
  | 0x41 => do let b ← rS B; some (.rotlScb D A b)
  | 0x42 => if B = 0 then some (.rotlLit D A k) else none
  | 0x43 => some (.bfxReg D A B)
  | 0x44 => do let b ← rS B; some (.bfxScb D A b)
  | 0x45 => if B = 0 then some (.bfxLit D A k) else none
  | 0x46 => some (.bfiReg D A B)
  | 0x47 => do let b ← rS B; some (.bfiScb D A b)
  | 0x48 => if B = 0 then some (.bfiLit D A k) else none
  | 0x49 => some (.selReg D A B)
  | 0x4A => do let b ← rS B; some (.selScb D A b)
  | 0x4B => if B = 0 then some (.selLit D A k) else none
  | 0x4C => do let d ← rP D; some (.cmpEqReg d A B)
  | 0x4D => do let d ← rP D; let b ← rS B; some (.cmpEqScb d A b)
  | 0x4E => if B = 0 then do let d ← rP D; some (.cmpEqLit d A k) else none
  | 0x4F => do let d ← rP D; some (.cmpLtReg d A B)
  | _ => none

/-- Opcodes 0x50 to 0x5F of the primary map (R57). -/
def dec5 (o : Nat) (D A B : Byte) (k : Word) : Option Instr :=
  match o with
  | 0x50 => do let d ← rP D; let b ← rS B; some (.cmpLtScb d A b)
  | 0x51 => if B = 0 then do let d ← rP D; some (.cmpLtLit d A k) else none
  | 0x52 => some (.faddReg D A B)
  | 0x53 => do let b ← rS B; some (.faddScb D A b)
  | 0x54 => if B = 0 then some (.faddLit D A k) else none
  | 0x55 => some (.fsubReg D A B)
  | 0x56 => do let b ← rS B; some (.fsubScb D A b)
  | 0x57 => if B = 0 then some (.fsubLit D A k) else none
  | 0x58 => some (.fmulReg D A B)
  | 0x59 => do let b ← rS B; some (.fmulScb D A b)
  | 0x5A => if B = 0 then some (.fmulLit D A k) else none
  | 0x5B => some (.fmaReg D A B)
  | 0x5C => do let b ← rS B; some (.fmaScb D A b)
  | 0x5D => if B = 0 then some (.fmaLit D A k) else none
  | 0x5E => some (.fminReg D A B)
  | 0x5F => do let b ← rS B; some (.fminScb D A b)
  | _ => none

/-- Opcodes 0x60 to 0x6F of the primary map (R57). -/
def dec6 (o : Nat) (D A B : Byte) (k : Word) : Option Instr :=
  match o with
  | 0x60 => if B = 0 then some (.fminLit D A k) else none
  | 0x61 => some (.fmaxReg D A B)
  | 0x62 => do let b ← rS B; some (.fmaxScb D A b)
  | 0x63 => if B = 0 then some (.fmaxLit D A k) else none
  | 0x64 => do let d ← rP D; some (.fclsReg d A B)
  | 0x65 => do let d ← rP D; let b ← rS B; some (.fclsScb d A b)
  | 0x66 => if B = 0 then do let d ← rP D; some (.fclsLit d A k) else none
  | 0x67 => do let d ← rP D; some (.fcmpEqReg d A B)
  | 0x68 => do let d ← rP D; let b ← rS B; some (.fcmpEqScb d A b)
  | 0x69 => if B = 0 then do let d ← rP D; some (.fcmpEqLit d A k) else none
  | 0x6A => do let d ← rP D; some (.fcmpLtReg d A B)
  | 0x6B => do let d ← rP D; let b ← rS B; some (.fcmpLtScb d A b)
  | 0x6C => if B = 0 then do let d ← rP D; some (.fcmpLtLit d A k) else none
  | 0x6D => do let d ← rP D; some (.fcmpLeReg d A B)
  | 0x6E => do let d ← rP D; let b ← rS B; some (.fcmpLeScb d A b)
  | 0x6F => if B = 0 then do let d ← rP D; some (.fcmpLeLit d A k) else none
  | _ => none

/-- Opcodes 0x70 to 0x7F of the primary map (R57). -/
def dec7 (o : Nat) (D A B : Byte) (k : Word) : Option Instr :=
  match o with
  | 0x70 => some (.dot4Reg D A B)
  | 0x71 => do let b ← rS B; some (.dot4Scb D A b)
  | 0x72 => if B = 0 then some (.dot4Lit D A k) else none
  | 0x73 => some (.fdot2Reg D A B)
  | 0x74 => do let b ← rS B; some (.fdot2Scb D A b)
  | 0x75 => if B = 0 then some (.fdot2Lit D A k) else none
  | 0x76 => if B = 0 then do let d ← rP D; let a ← rS A; some (.pmov d a) else none
  | 0x77 => if A = 0 then some (.movReg D B) else none
  | 0x78 => if A = 0 then do let b ← rS B; some (.movScb D b) else none
  | 0x79 => if A = 0 ∧ B = 0 then some (.movLit D k) else none
  | 0x7A => if B = 0 then some (.bcast D A k) else none
  | 0x7B => some (.shflIdxReg D A B)
  | 0x7C => if B = 0 then some (.shflIdxLit D A k) else none
  | 0x7D => if B = 0 then some (.shflUp D A k) else none
  | 0x7E => if B = 0 then some (.shflDn D A k) else none
  | 0x7F => if B = 0 then some (.shflXor D A k) else none
  | _ => none

/-- Opcodes 0x80 to 0x8F of the primary map (R57). -/
def dec8 (o : Nat) (D A B : Byte) (k : Word) : Option Instr :=
  match o with
  | 0x80 => some (.br (D ++ A ++ B))
  | 0x81 => some (.jmp (D ++ A ++ B))
  | 0x82 => some (.call (D ++ A ++ B))
  | 0x83 => some (.split (D ++ A ++ B))
  | 0x84 => some (.loopLc0 (D ++ A ++ B))
  | 0x85 => some (.loopLc1 (D ++ A ++ B))
  | 0x86 => do let d ← rS D; let b ← rS B; some (.rdlnScb d A b)
  | 0x87 => if B = 0 then do let d ← rS D; some (.rdlnLit d A k) else none
  | 0x88 => do let a ← rS A; let b ← rS B; some (.wrlnScb D a b)
  | 0x89 => if B = 0 then do let a ← rS A; some (.wrlnLit D a k) else none
  | 0x8A => do let d ← rS D; let a ← rS A; let b ← rS B; some (.saddScb d a b)
  | 0x8B => if B = 0 then do let d ← rS D; let a ← rS A; some (.saddLit d a k) else none
  | 0x8C => do let d ← rS D; let a ← rS A; let b ← rS B; some (.ssubScb d a b)
  | 0x8D => if B = 0 then do let d ← rS D; let a ← rS A; some (.ssubLit d a k) else none
  | 0x8E => do let d ← rS D; let a ← rS A; let b ← rS B; some (.smulScb d a b)
  | 0x8F => if B = 0 then do let d ← rS D; let a ← rS A; some (.smulLit d a k) else none
  | _ => none

/-- Opcodes 0x90 to 0x9F of the primary map (R57). -/
def dec9 (o : Nat) (D A B : Byte) (k : Word) : Option Instr :=
  match o with
  | 0x90 => do let d ← rS D; let a ← rS A; let b ← rS B; some (.sandScb d a b)
  | 0x91 => if B = 0 then do let d ← rS D; let a ← rS A; some (.sandLit d a k) else none
  | 0x92 => do let d ← rS D; let a ← rS A; let b ← rS B; some (.sorScb d a b)
  | 0x93 => if B = 0 then do let d ← rS D; let a ← rS A; some (.sorLit d a k) else none
  | 0x94 => do let d ← rS D; let a ← rS A; let b ← rS B; some (.sxorScb d a b)
  | 0x95 => if B = 0 then do let d ← rS D; let a ← rS A; some (.sxorLit d a k) else none
  | 0x96 => do let d ← rS D; let a ← rS A; let b ← rS B; some (.sshlScb d a b)
  | 0x97 => if B = 0 then do let d ← rS D; let a ← rS A; some (.sshlLit d a k) else none
  | 0x98 => do let d ← rS D; let a ← rS A; let b ← rS B; some (.sshrScb d a b)
  | 0x99 => if B = 0 then do let d ← rS D; let a ← rS A; some (.sshrLit d a k) else none
  | 0x9A => do let d ← rS D; let a ← rS A; let b ← rS B; some (.ssraScb d a b)
  | 0x9B => if B = 0 then do let d ← rS D; let a ← rS A; some (.ssraLit d a k) else none
  | 0x9C => do let d ← rS D; let a ← rS A; let b ← rS B; some (.sminScb d a b)
  | 0x9D => if B = 0 then do let d ← rS D; let a ← rS A; some (.sminLit d a k) else none
  | 0x9E => do let d ← rS D; let a ← rS A; let b ← rS B; some (.smaxScb d a b)
  | 0x9F => if B = 0 then do let d ← rS D; let a ← rS A; some (.smaxLit d a k) else none
  | _ => none

/-- Opcodes 0xA0 to 0xAF of the primary map (R57). -/
def decA (o : Nat) (D A B : Byte) (k : Word) : Option Instr :=
  match o with
  | 0xA0 => decMode (D ++ A ++ B)
  | 0xA1 => do let d ← rP D; let a ← rS A; let b ← rS B; some (.scmpEqScb d a b)
  | 0xA2 => if B = 0 then do let d ← rP D; let a ← rS A; some (.scmpEqLit d a k) else none
  | 0xA3 => do let d ← rP D; let a ← rS A; let b ← rS B; some (.scmpLtScb d a b)
  | 0xA4 => if B = 0 then do let d ← rP D; let a ← rS A; some (.scmpLtLit d a k) else none
  | 0xA5 => (if A = 0 then do let d ← rS D; let b ← rS B; some (.smov d b) else none) <|> (if A = 1 then do let d ← rS D; let b ← rA B; some (.smovAlo d b) else none) <|> (if A = 2 then do let d ← rS D; let b ← rA B; some (.smovAhi d b) else none)
  | 0xA6 => if A = 0 ∧ B = 0 then do let d ← rS D; some (.sli d k) else none
  | 0xA7 => do let d ← rA D; let a ← rA A; let b ← rS B; some (.aaddScb d a b)
  | 0xA8 => if B = 0 then do let d ← rA D; let a ← rA A; some (.aaddLit d a k) else none
  | 0xA9 => do let d ← rA D; let a ← rS A; let b ← rS B; some (.amov d a b)
  | 0xAA => do let a ← rA A; some (.ldReg D a B)
  | 0xAB => do let a ← rA A; let b ← rS B; some (.ldScb D a b)
  | 0xAC => if B = 0 then do let a ← rA A; some (.ldLit D a k) else none
  | 0xAD => do let a ← rA A; some (.stReg D a B)
  | 0xAE => do let a ← rA A; let b ← rS B; some (.stScb D a b)
  | 0xAF => if B = 0 then do let a ← rA A; some (.stLit D a k) else none
  | _ => none

/-- Opcodes 0xB0 to 0xBF of the primary map (R57). -/
def decB (o : Nat) (D A B : Byte) (k : Word) : Option Instr :=
  match o with
  | 0xB0 => do let a ← rA A; some (.ldsReg D a B)
  | 0xB1 => if B = 0 then do let a ← rA A; some (.ldsLit D a k) else none
  | 0xB2 => do let a ← rA A; some (.stsReg D a B)
  | 0xB3 => if B = 0 then do let a ← rA A; some (.stsLit D a k) else none
  | 0xB4 => do let a ← rA A; some (.ldcReg D a B)
  | 0xB5 => if B = 0 then do let a ← rA A; some (.ldcLit D a k) else none
  | 0xB6 => do let a ← rA A; some (.ldaReg D a B)
  | 0xB7 => if B = 0 then do let a ← rA A; some (.ldaLit D a k) else none
  | 0xB8 => do let a ← rA A; some (.strReg D a B)
  | 0xB9 => if B = 0 then do let a ← rA A; some (.strLit D a k) else none
  | 0xBA => if D = 0 then do let a ← rA A; some (.prefReg a B) else none
  | 0xBB => if D = 0 ∧ B = 0 then do let a ← rA A; some (.prefLit a k) else none
  | 0xBC => do let d ← rA D; let a ← rA A; let b ← rRun2 B; some (.cp d a b)
  | 0xBD => do let d ← rA D; let a ← rA A; let b ← rRun4 B; some (.cp2d d a b)
  | 0xBE => do let d ← rA D; let a ← rS A; let b ← rRun2 B; some (.cpr d a b)
  | 0xBF => do let d ← rS D; let a ← rS A; let b ← rS B; some (.barv d a b)
  | _ => none

/-- Opcodes 0xC0 to 0xCF of the primary map (R57). -/
def decC (o : Nat) (D A B : Byte) (k : Word) : Option Instr :=
  match o with
  | 0xC0 => do let c ← rP D; let a ← rA A; let b ← rS B; some (.mwait c a b)
  | 0xC1 => some (.mma D A B)
  | 0xC2 => some (.mmakb D A B)
  | 0xC3 => if A = 0 ∧ B = 0 then some (.accq D) else none
  | 0xC4 => if A = 0 ∧ B = 0 then some (.accr D) else none
  | 0xC5 => if B = 0 then some (.accld D A) else none
  | 0xC6 => if B = 0 then some (.accst D A) else none
  | 0xC7 => if A = 0 ∧ B = 0 then some (.acczr D) else none
  | 0xC8 => if D = 0 ∧ B = 0 then do let a ← rS A; some (.mprio a) else none
  | 0xC9 => do let a ← rA A; some (.smp D a B)
  | 0xCA => do let a ← rA A; some (.smpg D a B)
  | 0xCB => do let a ← rA A; some (.smpl D a B)
  | 0xCC => do let a ← rA A; some (.txf D a B)
  | 0xCD => do let a ← rA A; some (.rtrc D a B)
  | 0xCE => do let a ← rA A; some (.rtnx D a B)
  | 0xCF => if A = 0 ∧ B = 0 then some (.rtrs D) else none
  | _ => none

/-- Opcodes 0xD0 to 0xDF of the primary map (R57). -/
def decD (o : Nat) (D A B : Byte) (k : Word) : Option Instr :=
  match o with
  | 0xD0 => do let a ← rA A; some (.rthit D a B)
  | 0xD1 => do let a ← rA A; some (.rtri D a B)
  | 0xD2 => do let a ← rA A; some (.rtw D a B)
  | 0xD3 => if D = 0 then do let a ← rA A; let b ← rS B; some (.rclr a b) else none
  | 0xD4 => do let d ← rP D; let a ← rA A; some (.zts d a B)
  | 0xD5 => do let d ← rP D; let a ← rA A; some (.launch d a B)
  | 0xD6 => if B = 0 then do let d ← rS D; let a ← rS A; some (.rdparam d a) else none
  | 0xD7 => do let d ← rP D; let a ← rS A; let b ← rRun4 B; some (.wpw d a b)
  | 0xD8 => if B = 0 then do let d ← rS D; let a ← rS A; some (.wpr d a) else none
  | 0xD9 => do let d ← rS D; let a ← rA A; let b ← rS B; some (.hrd d a b)
  | 0xDA => do let d ← rS D; let a ← rA A; let b ← rS B; some (.hwr d a b)
  | 0xDB => if A = 0 ∧ B = 0 then do let d ← rS D; some (.csrr d k) else none
  | 0xDC => if D = 0 ∧ B = 0 then do let a ← rS A; some (.csrw a k) else none
  | 0xDD => if D = 0 ∧ A = 0 ∧ B = 0 then some (.grow k) else none
  | 0xDE => if A = 0 ∧ B = 0 then do let d ← rP D; some (.growTry d k) else none
  | 0xDF => if D = 0 ∧ A = 0 ∧ B = 0 then some (.shrink k) else none
  | _ => none

/-- Opcodes 0xE0 to 0xEF of the primary map (R57). -/
def decE (o : Nat) (D A B : Byte) (k : Word) : Option Instr :=
  match o with
  | 0xE0 => if B = 0 then do let d ← rS D; some (.mxscl d A) else none
  | 0xE1 => do let b ← rS B; some (.mxq D A b)
  | 0xE2 => do let d ← rA D; let a ← rA A; let b ← rRun2 B; some (.cpdec d a b)
  | 0xE3 => do let a ← rA A; some (.ldbReg D a B)
  | 0xE4 => if B = 0 then do let a ← rA A; some (.ldbLit D a k) else none
  | 0xE5 => if B = 0 then do let s ← rP D; let a ← rA A; some (.radv s a) else none
  | 0xE6 => (if B = 0 then do let d ← rA D; let a ← rA A; some (.rrd d a) else none) <|> (if B = 1 then do let d ← rA D; let a ← rA A; some (.rrdObs d a) else none)
  | 0xE7 => if D = 0 then do let a ← rA A; let b ← rS B; some (.rdcmp a b) else none
  | 0xE8 => do let a ← rA A; some (.smpn D a B)
  | 0xE9 => some (.xmma D A B)
  | _ => none

/-- Whether an opcode has the literal format, with a trailing word (R33, R57, R66); the length is fixed by the opcode. -/
def isLit (o : Nat) : Bool :=
  [0x08, 0x12, 0x15, 0x18, 0x1B, 0x1E, 0x21, 0x24, 0x27, 0x2A, 0x2D, 0x30, 0x33, 0x36, 0x39, 0x3C, 0x3F, 0x42, 0x45, 0x48, 0x4B, 0x4E, 0x51, 0x54, 0x57, 0x5A, 0x5D, 0x60, 0x63, 0x66, 0x69, 0x6C, 0x6F, 0x72, 0x75, 0x79, 0x7A, 0x7C, 0x7D, 0x7E, 0x7F, 0x87, 0x89, 0x8B, 0x8D, 0x8F, 0x91, 0x93, 0x95, 0x97, 0x99, 0x9B, 0x9D, 0x9F, 0xA2, 0xA4, 0xA6, 0xA8, 0xAC, 0xAF, 0xB1, 0xB3, 0xB5, 0xB7, 0xB9, 0xBB, 0xDB, 0xDC, 0xDD, 0xDE, 0xDF, 0xE4, 0xEE, 0xEF].contains o

/-- The primary map (R57). -/
def decodeMap (o : Nat) (D A B : Byte) (k : Word) : Option Instr :=
  match o / 16 with
  | 0 => dec0 o D A B k
  | 1 => dec1 o D A B k
  | 2 => dec2 o D A B k
  | 3 => dec3 o D A B k
  | 4 => dec4 o D A B k
  | 5 => dec5 o D A B k
  | 6 => dec6 o D A B k
  | 7 => dec7 o D A B k
  | 8 => dec8 o D A B k
  | 9 => dec9 o D A B k
  | 10 => decA o D A B k
  | 11 => decB o D A B k
  | 12 => decC o D A B k
  | 13 => decD o D A B k
  | 14 => decE o D A B k
  | _ => none

/-- The instruction of an instruction word w and, for the literal format, its trailing word k (R41 checks 2 and 3). -/
def decode (w k : Word) : Except Reject Instr :=
  let o := (w.extractLsb' 24 8).toNat
  if o = 0 ∨ 0xF0 ≤ o then .error .illegalInstruction
  else if 0xEA ≤ o then .error .noGroup
  else
    match decodeMap o (w.extractLsb' 16 8) (w.extractLsb' 8 8) (w.extractLsb' 0 8) k with
    | some i => if i.wellFormed then .ok i else .error .illegalEncoding
    | none => .error .illegalEncoding

/-- A little-endian word at the head of a list of bytes (R32, R7). -/
def takeWord : List Byte → Option (Word × List Byte)
  | b0 :: b1 :: b2 :: b3 :: r => some (word4 b3 b2 b1 b0, r)
  | _ => none

/-- The instruction at the head of a list of bytes, with the bytes after it (R32). -/
def decodeBytes (bs : List Byte) : Except Reject (Instr × List Byte) :=
  match takeWord bs with
  | none => .error .truncated
  | some (w, r) =>
    if isLit (w.extractLsb' 24 8).toNat then
      match takeWord r with
      | none => .error .truncated
      | some (k, r') => (decode w k).map (·, r')
    else (decode w 0).map (·, r)

/-- What the table's numbering of an instruction's bits decodes to: the bits above nbits are zero, the second word is
bits [63:32]. -/
def decodeTableWord (nbits w : Nat) : Option Instr :=
  let x := w % 2 ^ nbits
  (decode (BitVec.ofNat 32 x) (BitVec.ofNat 32 (x / 2 ^ 32))).toOption

end Decoders

/-- The words of one instruction: the instruction word, the trailing word (0 when there is none), and whether there is
one (R33, R36). -/
structure IWord where
  word : Word
  k : Word := 0
  lit : Bool := false
  deriving DecidableEq, Repr

/-- The length in bytes: 4, or 8 with a trailing word (R32, R36). -/
def IWord.len (x : IWord) : Nat := if x.lit then 8 else 4
/-- The words, first first. -/
def IWord.words (x : IWord) : List Word := if x.lit then [x.word, x.k] else [x.word]

/-- The words of ABS. -/
def W.abs (d : BitVec 8) (a : BitVec 8) : IWord := ⟨word4 0x01 d a 0x00, 0, false⟩
/-- The words of NEG. -/
def W.neg (d : BitVec 8) (a : BitVec 8) : IWord := ⟨word4 0x01 d a 0x01, 0, false⟩
/-- The words of NOT. -/
def W.notB (d : BitVec 8) (a : BitVec 8) : IWord := ⟨word4 0x01 d a 0x02, 0, false⟩
/-- The words of CLZ. -/
def W.clz (d : BitVec 8) (a : BitVec 8) : IWord := ⟨word4 0x01 d a 0x03, 0, false⟩
/-- The words of POPC. -/
def W.popc (d : BitVec 8) (a : BitVec 8) : IWord := ⟨word4 0x01 d a 0x04, 0, false⟩
/-- The words of BREV. -/
def W.brev (d : BitVec 8) (a : BitVec 8) : IWord := ⟨word4 0x01 d a 0x05, 0, false⟩
/-- The words of VOTE_ANY. -/
def W.voteAny (d : BitVec 3) (a : BitVec 3) : IWord := ⟨word4 0x01 (d.setWidth 8) (a.setWidth 8) 0x10, 0, false⟩
/-- The words of VOTE_ALL. -/
def W.voteAll (d : BitVec 3) (a : BitVec 3) : IWord := ⟨word4 0x01 (d.setWidth 8) (a.setWidth 8) 0x11, 0, false⟩
/-- The words of BALLOT. -/
def W.ballot (d : BitVec 6) (a : BitVec 3) : IWord := ⟨word4 0x01 (d.setWidth 8) (a.setWidth 8) 0x12, 0, false⟩
/-- The words of LRED_ADD. -/
def W.lredAdd (d : BitVec 6) (a : BitVec 8) : IWord := ⟨word4 0x01 (d.setWidth 8) a 0x13, 0, false⟩
/-- The words of LRED_MIN. -/
def W.lredMin (d : BitVec 6) (a : BitVec 8) : IWord := ⟨word4 0x01 (d.setWidth 8) a 0x14, 0, false⟩
/-- The words of LRED_MAX. -/
def W.lredMax (d : BitVec 6) (a : BitVec 8) : IWord := ⟨word4 0x01 (d.setWidth 8) a 0x15, 0, false⟩
/-- The words of LID. -/
def W.lid (d : BitVec 8) : IWord := ⟨word4 0x01 d 0x00 0x16, 0, false⟩
/-- The words of RNG. -/
def W.rng (d : BitVec 8) (c : BitVec 8) : IWord := ⟨word4 0x01 d c 0x20, 0, false⟩
/-- The words of RNGS. -/
def W.rngs (c : BitVec 8) (a : BitVec 8) : IWord := ⟨word4 0x01 c a 0x21, 0, false⟩
/-- The words of FABS. -/
def W.fabs (d : BitVec 8) (a : BitVec 8) : IWord := ⟨word4 0x02 d a 0x00, 0, false⟩
/-- The words of FNEG. -/
def W.fneg (d : BitVec 8) (a : BitVec 8) : IWord := ⟨word4 0x02 d a 0x01, 0, false⟩
/-- The words of FRCP. -/
def W.frcp (d : BitVec 8) (a : BitVec 8) : IWord := ⟨word4 0x02 d a 0x02, 0, false⟩
/-- The words of FRSQ. -/
def W.frsq (d : BitVec 8) (a : BitVec 8) : IWord := ⟨word4 0x02 d a 0x03, 0, false⟩
/-- The words of FSQRT. -/
def W.fsqrt (d : BitVec 8) (a : BitVec 8) : IWord := ⟨word4 0x02 d a 0x04, 0, false⟩
/-- The words of FEX2. -/
def W.fex2 (d : BitVec 8) (a : BitVec 8) : IWord := ⟨word4 0x02 d a 0x05, 0, false⟩
/-- The words of FLG2. -/
def W.flg2 (d : BitVec 8) (a : BitVec 8) : IWord := ⟨word4 0x02 d a 0x06, 0, false⟩
/-- The words of FSIN. -/
def W.fsin (d : BitVec 8) (a : BitVec 8) : IWord := ⟨word4 0x02 d a 0x07, 0, false⟩
/-- The words of FCOS. -/
def W.fcos (d : BitVec 8) (a : BitVec 8) : IWord := ⟨word4 0x02 d a 0x08, 0, false⟩
/-- The words of FRND. -/
def W.frnd (d : BitVec 8) (a : BitVec 8) : IWord := ⟨word4 0x02 d a 0x09, 0, false⟩
/-- The words of NOP. -/
def W.nop : IWord := ⟨word4 0x03 0x00 0x00 0x00, 0, false⟩
/-- The words of EXIT. -/
def W.exit : IWord := ⟨word4 0x03 0x00 0x00 0x01, 0, false⟩
/-- The words of YIELD. -/
def W.yield : IWord := ⟨word4 0x03 0x00 0x00 0x02, 0, false⟩
/-- The words of BRK. -/
def W.brk : IWord := ⟨word4 0x03 0x00 0x00 0x03, 0, false⟩
/-- The words of MERGE. -/
def W.merge : IWord := ⟨word4 0x03 0x00 0x00 0x04, 0, false⟩
/-- The words of RET. -/
def W.ret : IWord := ⟨word4 0x03 0x00 0x00 0x05, 0, false⟩
/-- The words of LBRK_LC0. -/
def W.lbrkLc0 : IWord := ⟨word4 0x03 0x00 0x00 0x06, 0, false⟩
/-- The words of LBRK_LC1. -/
def W.lbrkLc1 : IWord := ⟨word4 0x03 0x00 0x00 0x07, 0, false⟩
/-- The words of RDMD. -/
def W.rdmd (d : BitVec 6) : IWord := ⟨word4 0x03 (d.setWidth 8) 0x00 0x08, 0, false⟩
/-- The words of WRMD. -/
def W.wrmd (a : BitVec 6) : IWord := ⟨word4 0x03 0x00 (a.setWidth 8) 0x09, 0, false⟩
/-- The words of TRET. -/
def W.tret : IWord := ⟨word4 0x03 0x00 0x00 0x10, 0, false⟩
/-- The words of ECALL. -/
def W.ecall (a : BitVec 6) : IWord := ⟨word4 0x03 0x00 (a.setWidth 8) 0x11, 0, false⟩
/-- The words of SLEEP. -/
def W.sleep (a : BitVec 6) : IWord := ⟨word4 0x03 0x00 (a.setWidth 8) 0x12, 0, false⟩
/-- The words of TLBI_VA. -/
def W.tlbiVa (a : BitVec 4) : IWord := ⟨word4 0x03 0x00 (a.setWidth 8) 0x18, 0, false⟩
/-- The words of TLBI_CTX. -/
def W.tlbiCtx : IWord := ⟨word4 0x03 0x00 0x00 0x19, 0, false⟩
/-- The words of TLBI_ALL. -/
def W.tlbiAll : IWord := ⟨word4 0x03 0x00 0x00 0x1A, 0, false⟩
/-- The words of HSTEP. -/
def W.hstep (d : BitVec 6) (a : BitVec 4) : IWord := ⟨word4 0x03 (d.setWidth 8) (a.setWidth 8) 0x20, 0, false⟩
/-- The words of HRES. -/
def W.hres (d : BitVec 6) (a : BitVec 4) : IWord := ⟨word4 0x03 (d.setWidth 8) (a.setWidth 8) 0x21, 0, false⟩
/-- The words of WCPIN. -/
def W.wcpin (d : BitVec 3) (a : BitVec 4) : IWord := ⟨word4 0x03 (d.setWidth 8) (a.setWidth 8) 0x28, 0, false⟩
/-- The words of WCUNP. -/
def W.wcunp (a : BitVec 4) : IWord := ⟨word4 0x03 0x00 (a.setWidth 8) 0x29, 0, false⟩
/-- The words of WCINV. -/
def W.wcinv (a : BitVec 4) : IWord := ⟨word4 0x03 0x00 (a.setWidth 8) 0x2A, 0, false⟩
/-- The words of WCINV_ALL. -/
def W.wcinvAll : IWord := ⟨word4 0x03 0x01 0x00 0x2A, 0, false⟩
/-- The words of RTGEN. -/
def W.rtgen (a : BitVec 6) : IWord := ⟨word4 0x03 0x00 (a.setWidth 8) 0x30, 0, false⟩
/-- The words of RTINV. -/
def W.rtinv (a : BitVec 6) : IWord := ⟨word4 0x03 0x00 (a.setWidth 8) 0x31, 0, false⟩
/-- The words of RTINV_ALL. -/
def W.rtinvAll : IWord := ⟨word4 0x03 0x01 0x00 0x31, 0, false⟩
/-- The words of CWAIT. -/
def W.cwait (d : BitVec 6) (a : BitVec 4) : IWord := ⟨word4 0x03 (d.setWidth 8) (a.setWidth 8) 0x38, 0, false⟩
/-- The words of CNCL. -/
def W.cncl (d : BitVec 6) (a : BitVec 4) : IWord := ⟨word4 0x03 (d.setWidth 8) (a.setWidth 8) 0x39, 0, false⟩
/-- The words of RDTM. -/
def W.rdtm (d : BitVec 4) : IWord := ⟨word4 0x03 (d.setWidth 8) 0x00 0x40, 0, false⟩
/-- The words of WTM. -/
def W.wtm (a : BitVec 4) : IWord := ⟨word4 0x03 0x00 (a.setWidth 8) 0x41, 0, false⟩
/-- The words of WRET. -/
def W.wret (a : BitVec 6) (c : BitVec 3) : IWord := ⟨word4 0x04 0 (a.setWidth 8) (c.setWidth 8), 0, false⟩
/-- The words of BAR. -/
def W.bar : IWord := ⟨word4 0x04 0x00 0x00 0x10, 0, false⟩
/-- The words of BARW. -/
def W.barw (a : BitVec 6) : IWord := ⟨word4 0x04 0x00 (a.setWidth 8) 0x11, 0, false⟩
/-- The words of GBAR. -/
def W.gbar : IWord := ⟨word4 0x04 0x00 0x00 0x12, 0, false⟩
/-- The words of REND. -/
def W.rend : IWord := ⟨word4 0x04 0x00 0x00 0x18, 0, false⟩
/-- The words of FENCE_ACQ. -/
def W.fenceAcq (s : BitVec 3) : IWord := ⟨word4 0x04 0 0 (0xA#5 ++ s), 0, false⟩
/-- The words of FENCE_REL. -/
def W.fenceRel (s : BitVec 3) : IWord := ⟨word4 0x04 0 0 (0xC#5 ++ s), 0, false⟩
/-- The words of FENCE_AR. -/
def W.fenceAr (s : BitVec 3) : IWord := ⟨word4 0x04 0 0 (0xE#5 ++ s), 0, false⟩
/-- The words of ATOM. -/
def W.atom (d : BitVec 8) (a : BitVec 4) (o : BitVec 4) : IWord := ⟨word4 0x05 d (a.setWidth 8) (o.setWidth 8), 0, false⟩
/-- The words of RED. -/
def W.red (d : BitVec 8) (a : BitVec 4) (o : BitVec 4) : IWord := ⟨word4 0x06 d (a.setWidth 8) (o.setWidth 8), 0, false⟩
/-- The words of CAS. -/
def W.cas (d : BitVec 8) (a : BitVec 4) (b : BitVec 8) : IWord := ⟨word4 0x07 d (a.setWidth 8) b, 0, false⟩
/-- The words of TRAP. -/
def W.trap (k : BitVec 32) : IWord := ⟨word4 0x08 0x00 0x00 0x00, k, true⟩
/-- The words of CVT. -/
def W.cvt (d : BitVec 8) (a : BitVec 8) (s : BitVec 4) : IWord := ⟨word4 0x09 d a (s.setWidth 8), 0, false⟩
/-- The words of PACK2. -/
def W.pack2 (d : BitVec 8) (a : BitVec 8) (b : BitVec 8) : IWord := ⟨word4 0x0A d a b, 0, false⟩
/-- The words of UNPK. -/
def W.unpk (d : BitVec 8) (a : BitVec 8) (k : BitVec 3) (s : BitVec 4) : IWord := ⟨word4 0x0B d a (0#1 ++ k ++ s), 0, false⟩
/-- The words of PAND. -/
def W.pand (d : BitVec 3) (a : BitVec 3) (b : BitVec 3) : IWord := ⟨word4 0x0C (d.setWidth 8) (a.setWidth 8) (b.setWidth 8), 0, false⟩
/-- The words of POR. -/
def W.por (d : BitVec 3) (a : BitVec 3) (b : BitVec 3) : IWord := ⟨word4 0x0D (d.setWidth 8) (a.setWidth 8) (b.setWidth 8), 0, false⟩
/-- The words of PXOR. -/
def W.pxor (d : BitVec 3) (a : BitVec 3) (b : BitVec 3) : IWord := ⟨word4 0x0E (d.setWidth 8) (a.setWidth 8) (b.setWidth 8), 0, false⟩
/-- The words of PNOT. -/
def W.pnot (d : BitVec 3) (a : BitVec 3) : IWord := ⟨word4 0x0F (d.setWidth 8) (a.setWidth 8) 0x00, 0, false⟩
/-- The words of ADD_REG. -/
def W.addReg (d : BitVec 8) (a : BitVec 8) (b : BitVec 8) : IWord := ⟨word4 0x10 d a b, 0, false⟩
/-- The words of ADD_SCB. -/
def W.addScb (d : BitVec 8) (a : BitVec 8) (b : BitVec 6) : IWord := ⟨word4 0x11 d a (b.setWidth 8), 0, false⟩
/-- The words of ADD_LIT. -/
def W.addLit (d : BitVec 8) (a : BitVec 8) (k : BitVec 32) : IWord := ⟨word4 0x12 d a 0x00, k, true⟩
/-- The words of SUB_REG. -/
def W.subReg (d : BitVec 8) (a : BitVec 8) (b : BitVec 8) : IWord := ⟨word4 0x13 d a b, 0, false⟩
/-- The words of SUB_SCB. -/
def W.subScb (d : BitVec 8) (a : BitVec 8) (b : BitVec 6) : IWord := ⟨word4 0x14 d a (b.setWidth 8), 0, false⟩
/-- The words of SUB_LIT. -/
def W.subLit (d : BitVec 8) (a : BitVec 8) (k : BitVec 32) : IWord := ⟨word4 0x15 d a 0x00, k, true⟩
/-- The words of ADDC_REG. -/
def W.addcReg (d : BitVec 8) (a : BitVec 8) (b : BitVec 8) : IWord := ⟨word4 0x16 d a b, 0, false⟩
/-- The words of ADDC_SCB. -/
def W.addcScb (d : BitVec 8) (a : BitVec 8) (b : BitVec 6) : IWord := ⟨word4 0x17 d a (b.setWidth 8), 0, false⟩
/-- The words of ADDC_LIT. -/
def W.addcLit (d : BitVec 8) (a : BitVec 8) (k : BitVec 32) : IWord := ⟨word4 0x18 d a 0x00, k, true⟩
/-- The words of SUBB_REG. -/
def W.subbReg (d : BitVec 8) (a : BitVec 8) (b : BitVec 8) : IWord := ⟨word4 0x19 d a b, 0, false⟩
/-- The words of SUBB_SCB. -/
def W.subbScb (d : BitVec 8) (a : BitVec 8) (b : BitVec 6) : IWord := ⟨word4 0x1A d a (b.setWidth 8), 0, false⟩
/-- The words of SUBB_LIT. -/
def W.subbLit (d : BitVec 8) (a : BitVec 8) (k : BitVec 32) : IWord := ⟨word4 0x1B d a 0x00, k, true⟩
/-- The words of MUL_REG. -/
def W.mulReg (d : BitVec 8) (a : BitVec 8) (b : BitVec 8) : IWord := ⟨word4 0x1C d a b, 0, false⟩
/-- The words of MUL_SCB. -/
def W.mulScb (d : BitVec 8) (a : BitVec 8) (b : BitVec 6) : IWord := ⟨word4 0x1D d a (b.setWidth 8), 0, false⟩
/-- The words of MUL_LIT. -/
def W.mulLit (d : BitVec 8) (a : BitVec 8) (k : BitVec 32) : IWord := ⟨word4 0x1E d a 0x00, k, true⟩
/-- The words of MULH_REG. -/
def W.mulhReg (d : BitVec 8) (a : BitVec 8) (b : BitVec 8) : IWord := ⟨word4 0x1F d a b, 0, false⟩
/-- The words of MULH_SCB. -/
def W.mulhScb (d : BitVec 8) (a : BitVec 8) (b : BitVec 6) : IWord := ⟨word4 0x20 d a (b.setWidth 8), 0, false⟩
/-- The words of MULH_LIT. -/
def W.mulhLit (d : BitVec 8) (a : BitVec 8) (k : BitVec 32) : IWord := ⟨word4 0x21 d a 0x00, k, true⟩
/-- The words of MAD_REG. -/
def W.madReg (d : BitVec 8) (a : BitVec 8) (b : BitVec 8) : IWord := ⟨word4 0x22 d a b, 0, false⟩
/-- The words of MAD_SCB. -/
def W.madScb (d : BitVec 8) (a : BitVec 8) (b : BitVec 6) : IWord := ⟨word4 0x23 d a (b.setWidth 8), 0, false⟩
/-- The words of MAD_LIT. -/
def W.madLit (d : BitVec 8) (a : BitVec 8) (k : BitVec 32) : IWord := ⟨word4 0x24 d a 0x00, k, true⟩
/-- The words of MIN_REG. -/
def W.minReg (d : BitVec 8) (a : BitVec 8) (b : BitVec 8) : IWord := ⟨word4 0x25 d a b, 0, false⟩
/-- The words of MIN_SCB. -/
def W.minScb (d : BitVec 8) (a : BitVec 8) (b : BitVec 6) : IWord := ⟨word4 0x26 d a (b.setWidth 8), 0, false⟩
/-- The words of MIN_LIT. -/
def W.minLit (d : BitVec 8) (a : BitVec 8) (k : BitVec 32) : IWord := ⟨word4 0x27 d a 0x00, k, true⟩
/-- The words of MAX_REG. -/
def W.maxReg (d : BitVec 8) (a : BitVec 8) (b : BitVec 8) : IWord := ⟨word4 0x28 d a b, 0, false⟩
/-- The words of MAX_SCB. -/
def W.maxScb (d : BitVec 8) (a : BitVec 8) (b : BitVec 6) : IWord := ⟨word4 0x29 d a (b.setWidth 8), 0, false⟩
/-- The words of MAX_LIT. -/
def W.maxLit (d : BitVec 8) (a : BitVec 8) (k : BitVec 32) : IWord := ⟨word4 0x2A d a 0x00, k, true⟩
/-- The words of AND_REG. -/
def W.andReg (d : BitVec 8) (a : BitVec 8) (b : BitVec 8) : IWord := ⟨word4 0x2B d a b, 0, false⟩
/-- The words of AND_SCB. -/
def W.andScb (d : BitVec 8) (a : BitVec 8) (b : BitVec 6) : IWord := ⟨word4 0x2C d a (b.setWidth 8), 0, false⟩
/-- The words of AND_LIT. -/
def W.andLit (d : BitVec 8) (a : BitVec 8) (k : BitVec 32) : IWord := ⟨word4 0x2D d a 0x00, k, true⟩
/-- The words of OR_REG. -/
def W.orReg (d : BitVec 8) (a : BitVec 8) (b : BitVec 8) : IWord := ⟨word4 0x2E d a b, 0, false⟩
/-- The words of OR_SCB. -/
def W.orScb (d : BitVec 8) (a : BitVec 8) (b : BitVec 6) : IWord := ⟨word4 0x2F d a (b.setWidth 8), 0, false⟩
/-- The words of OR_LIT. -/
def W.orLit (d : BitVec 8) (a : BitVec 8) (k : BitVec 32) : IWord := ⟨word4 0x30 d a 0x00, k, true⟩
/-- The words of XOR_REG. -/
def W.xorReg (d : BitVec 8) (a : BitVec 8) (b : BitVec 8) : IWord := ⟨word4 0x31 d a b, 0, false⟩
/-- The words of XOR_SCB. -/
def W.xorScb (d : BitVec 8) (a : BitVec 8) (b : BitVec 6) : IWord := ⟨word4 0x32 d a (b.setWidth 8), 0, false⟩
/-- The words of XOR_LIT. -/
def W.xorLit (d : BitVec 8) (a : BitVec 8) (k : BitVec 32) : IWord := ⟨word4 0x33 d a 0x00, k, true⟩
/-- The words of ANDN_REG. -/
def W.andnReg (d : BitVec 8) (a : BitVec 8) (b : BitVec 8) : IWord := ⟨word4 0x34 d a b, 0, false⟩
/-- The words of ANDN_SCB. -/
def W.andnScb (d : BitVec 8) (a : BitVec 8) (b : BitVec 6) : IWord := ⟨word4 0x35 d a (b.setWidth 8), 0, false⟩
/-- The words of ANDN_LIT. -/
def W.andnLit (d : BitVec 8) (a : BitVec 8) (k : BitVec 32) : IWord := ⟨word4 0x36 d a 0x00, k, true⟩
/-- The words of SHL_REG. -/
def W.shlReg (d : BitVec 8) (a : BitVec 8) (b : BitVec 8) : IWord := ⟨word4 0x37 d a b, 0, false⟩
/-- The words of SHL_SCB. -/
def W.shlScb (d : BitVec 8) (a : BitVec 8) (b : BitVec 6) : IWord := ⟨word4 0x38 d a (b.setWidth 8), 0, false⟩
/-- The words of SHL_LIT. -/
def W.shlLit (d : BitVec 8) (a : BitVec 8) (k : BitVec 32) : IWord := ⟨word4 0x39 d a 0x00, k, true⟩
/-- The words of SHR_REG. -/
def W.shrReg (d : BitVec 8) (a : BitVec 8) (b : BitVec 8) : IWord := ⟨word4 0x3A d a b, 0, false⟩
/-- The words of SHR_SCB. -/
def W.shrScb (d : BitVec 8) (a : BitVec 8) (b : BitVec 6) : IWord := ⟨word4 0x3B d a (b.setWidth 8), 0, false⟩
/-- The words of SHR_LIT. -/
def W.shrLit (d : BitVec 8) (a : BitVec 8) (k : BitVec 32) : IWord := ⟨word4 0x3C d a 0x00, k, true⟩
/-- The words of SRA_REG. -/
def W.sraReg (d : BitVec 8) (a : BitVec 8) (b : BitVec 8) : IWord := ⟨word4 0x3D d a b, 0, false⟩
/-- The words of SRA_SCB. -/
def W.sraScb (d : BitVec 8) (a : BitVec 8) (b : BitVec 6) : IWord := ⟨word4 0x3E d a (b.setWidth 8), 0, false⟩
/-- The words of SRA_LIT. -/
def W.sraLit (d : BitVec 8) (a : BitVec 8) (k : BitVec 32) : IWord := ⟨word4 0x3F d a 0x00, k, true⟩
/-- The words of ROTL_REG. -/
def W.rotlReg (d : BitVec 8) (a : BitVec 8) (b : BitVec 8) : IWord := ⟨word4 0x40 d a b, 0, false⟩
/-- The words of ROTL_SCB. -/
def W.rotlScb (d : BitVec 8) (a : BitVec 8) (b : BitVec 6) : IWord := ⟨word4 0x41 d a (b.setWidth 8), 0, false⟩
/-- The words of ROTL_LIT. -/
def W.rotlLit (d : BitVec 8) (a : BitVec 8) (k : BitVec 32) : IWord := ⟨word4 0x42 d a 0x00, k, true⟩
/-- The words of BFX_REG. -/
def W.bfxReg (d : BitVec 8) (a : BitVec 8) (b : BitVec 8) : IWord := ⟨word4 0x43 d a b, 0, false⟩
/-- The words of BFX_SCB. -/
def W.bfxScb (d : BitVec 8) (a : BitVec 8) (b : BitVec 6) : IWord := ⟨word4 0x44 d a (b.setWidth 8), 0, false⟩
/-- The words of BFX_LIT. -/
def W.bfxLit (d : BitVec 8) (a : BitVec 8) (k : BitVec 32) : IWord := ⟨word4 0x45 d a 0x00, k, true⟩
/-- The words of BFI_REG. -/
def W.bfiReg (d : BitVec 8) (a : BitVec 8) (b : BitVec 8) : IWord := ⟨word4 0x46 d a b, 0, false⟩
/-- The words of BFI_SCB. -/
def W.bfiScb (d : BitVec 8) (a : BitVec 8) (b : BitVec 6) : IWord := ⟨word4 0x47 d a (b.setWidth 8), 0, false⟩
/-- The words of BFI_LIT. -/
def W.bfiLit (d : BitVec 8) (a : BitVec 8) (k : BitVec 32) : IWord := ⟨word4 0x48 d a 0x00, k, true⟩
/-- The words of SEL_REG. -/
def W.selReg (d : BitVec 8) (a : BitVec 8) (b : BitVec 8) : IWord := ⟨word4 0x49 d a b, 0, false⟩
/-- The words of SEL_SCB. -/
def W.selScb (d : BitVec 8) (a : BitVec 8) (b : BitVec 6) : IWord := ⟨word4 0x4A d a (b.setWidth 8), 0, false⟩
/-- The words of SEL_LIT. -/
def W.selLit (d : BitVec 8) (a : BitVec 8) (k : BitVec 32) : IWord := ⟨word4 0x4B d a 0x00, k, true⟩
/-- The words of CMP_EQ_REG. -/
def W.cmpEqReg (d : BitVec 3) (a : BitVec 8) (b : BitVec 8) : IWord := ⟨word4 0x4C (d.setWidth 8) a b, 0, false⟩
/-- The words of CMP_EQ_SCB. -/
def W.cmpEqScb (d : BitVec 3) (a : BitVec 8) (b : BitVec 6) : IWord := ⟨word4 0x4D (d.setWidth 8) a (b.setWidth 8), 0, false⟩
/-- The words of CMP_EQ_LIT. -/
def W.cmpEqLit (d : BitVec 3) (a : BitVec 8) (k : BitVec 32) : IWord := ⟨word4 0x4E (d.setWidth 8) a 0x00, k, true⟩
/-- The words of CMP_LT_REG. -/
def W.cmpLtReg (d : BitVec 3) (a : BitVec 8) (b : BitVec 8) : IWord := ⟨word4 0x4F (d.setWidth 8) a b, 0, false⟩
/-- The words of CMP_LT_SCB. -/
def W.cmpLtScb (d : BitVec 3) (a : BitVec 8) (b : BitVec 6) : IWord := ⟨word4 0x50 (d.setWidth 8) a (b.setWidth 8), 0, false⟩
/-- The words of CMP_LT_LIT. -/
def W.cmpLtLit (d : BitVec 3) (a : BitVec 8) (k : BitVec 32) : IWord := ⟨word4 0x51 (d.setWidth 8) a 0x00, k, true⟩
/-- The words of FADD_REG. -/
def W.faddReg (d : BitVec 8) (a : BitVec 8) (b : BitVec 8) : IWord := ⟨word4 0x52 d a b, 0, false⟩
/-- The words of FADD_SCB. -/
def W.faddScb (d : BitVec 8) (a : BitVec 8) (b : BitVec 6) : IWord := ⟨word4 0x53 d a (b.setWidth 8), 0, false⟩
/-- The words of FADD_LIT. -/
def W.faddLit (d : BitVec 8) (a : BitVec 8) (k : BitVec 32) : IWord := ⟨word4 0x54 d a 0x00, k, true⟩
/-- The words of FSUB_REG. -/
def W.fsubReg (d : BitVec 8) (a : BitVec 8) (b : BitVec 8) : IWord := ⟨word4 0x55 d a b, 0, false⟩
/-- The words of FSUB_SCB. -/
def W.fsubScb (d : BitVec 8) (a : BitVec 8) (b : BitVec 6) : IWord := ⟨word4 0x56 d a (b.setWidth 8), 0, false⟩
/-- The words of FSUB_LIT. -/
def W.fsubLit (d : BitVec 8) (a : BitVec 8) (k : BitVec 32) : IWord := ⟨word4 0x57 d a 0x00, k, true⟩
/-- The words of FMUL_REG. -/
def W.fmulReg (d : BitVec 8) (a : BitVec 8) (b : BitVec 8) : IWord := ⟨word4 0x58 d a b, 0, false⟩
/-- The words of FMUL_SCB. -/
def W.fmulScb (d : BitVec 8) (a : BitVec 8) (b : BitVec 6) : IWord := ⟨word4 0x59 d a (b.setWidth 8), 0, false⟩
/-- The words of FMUL_LIT. -/
def W.fmulLit (d : BitVec 8) (a : BitVec 8) (k : BitVec 32) : IWord := ⟨word4 0x5A d a 0x00, k, true⟩
/-- The words of FMA_REG. -/
def W.fmaReg (d : BitVec 8) (a : BitVec 8) (b : BitVec 8) : IWord := ⟨word4 0x5B d a b, 0, false⟩
/-- The words of FMA_SCB. -/
def W.fmaScb (d : BitVec 8) (a : BitVec 8) (b : BitVec 6) : IWord := ⟨word4 0x5C d a (b.setWidth 8), 0, false⟩
/-- The words of FMA_LIT. -/
def W.fmaLit (d : BitVec 8) (a : BitVec 8) (k : BitVec 32) : IWord := ⟨word4 0x5D d a 0x00, k, true⟩
/-- The words of FMIN_REG. -/
def W.fminReg (d : BitVec 8) (a : BitVec 8) (b : BitVec 8) : IWord := ⟨word4 0x5E d a b, 0, false⟩
/-- The words of FMIN_SCB. -/
def W.fminScb (d : BitVec 8) (a : BitVec 8) (b : BitVec 6) : IWord := ⟨word4 0x5F d a (b.setWidth 8), 0, false⟩
/-- The words of FMIN_LIT. -/
def W.fminLit (d : BitVec 8) (a : BitVec 8) (k : BitVec 32) : IWord := ⟨word4 0x60 d a 0x00, k, true⟩
/-- The words of FMAX_REG. -/
def W.fmaxReg (d : BitVec 8) (a : BitVec 8) (b : BitVec 8) : IWord := ⟨word4 0x61 d a b, 0, false⟩
/-- The words of FMAX_SCB. -/
def W.fmaxScb (d : BitVec 8) (a : BitVec 8) (b : BitVec 6) : IWord := ⟨word4 0x62 d a (b.setWidth 8), 0, false⟩
/-- The words of FMAX_LIT. -/
def W.fmaxLit (d : BitVec 8) (a : BitVec 8) (k : BitVec 32) : IWord := ⟨word4 0x63 d a 0x00, k, true⟩
/-- The words of FCLS_REG. -/
def W.fclsReg (d : BitVec 3) (a : BitVec 8) (b : BitVec 8) : IWord := ⟨word4 0x64 (d.setWidth 8) a b, 0, false⟩
/-- The words of FCLS_SCB. -/
def W.fclsScb (d : BitVec 3) (a : BitVec 8) (b : BitVec 6) : IWord := ⟨word4 0x65 (d.setWidth 8) a (b.setWidth 8), 0, false⟩
/-- The words of FCLS_LIT. -/
def W.fclsLit (d : BitVec 3) (a : BitVec 8) (k : BitVec 32) : IWord := ⟨word4 0x66 (d.setWidth 8) a 0x00, k, true⟩
/-- The words of FCMP_EQ_REG. -/
def W.fcmpEqReg (d : BitVec 3) (a : BitVec 8) (b : BitVec 8) : IWord := ⟨word4 0x67 (d.setWidth 8) a b, 0, false⟩
/-- The words of FCMP_EQ_SCB. -/
def W.fcmpEqScb (d : BitVec 3) (a : BitVec 8) (b : BitVec 6) : IWord := ⟨word4 0x68 (d.setWidth 8) a (b.setWidth 8), 0, false⟩
/-- The words of FCMP_EQ_LIT. -/
def W.fcmpEqLit (d : BitVec 3) (a : BitVec 8) (k : BitVec 32) : IWord := ⟨word4 0x69 (d.setWidth 8) a 0x00, k, true⟩
/-- The words of FCMP_LT_REG. -/
def W.fcmpLtReg (d : BitVec 3) (a : BitVec 8) (b : BitVec 8) : IWord := ⟨word4 0x6A (d.setWidth 8) a b, 0, false⟩
/-- The words of FCMP_LT_SCB. -/
def W.fcmpLtScb (d : BitVec 3) (a : BitVec 8) (b : BitVec 6) : IWord := ⟨word4 0x6B (d.setWidth 8) a (b.setWidth 8), 0, false⟩
/-- The words of FCMP_LT_LIT. -/
def W.fcmpLtLit (d : BitVec 3) (a : BitVec 8) (k : BitVec 32) : IWord := ⟨word4 0x6C (d.setWidth 8) a 0x00, k, true⟩
/-- The words of FCMP_LE_REG. -/
def W.fcmpLeReg (d : BitVec 3) (a : BitVec 8) (b : BitVec 8) : IWord := ⟨word4 0x6D (d.setWidth 8) a b, 0, false⟩
/-- The words of FCMP_LE_SCB. -/
def W.fcmpLeScb (d : BitVec 3) (a : BitVec 8) (b : BitVec 6) : IWord := ⟨word4 0x6E (d.setWidth 8) a (b.setWidth 8), 0, false⟩
/-- The words of FCMP_LE_LIT. -/
def W.fcmpLeLit (d : BitVec 3) (a : BitVec 8) (k : BitVec 32) : IWord := ⟨word4 0x6F (d.setWidth 8) a 0x00, k, true⟩
/-- The words of DOT4_REG. -/
def W.dot4Reg (d : BitVec 8) (a : BitVec 8) (b : BitVec 8) : IWord := ⟨word4 0x70 d a b, 0, false⟩
/-- The words of DOT4_SCB. -/
def W.dot4Scb (d : BitVec 8) (a : BitVec 8) (b : BitVec 6) : IWord := ⟨word4 0x71 d a (b.setWidth 8), 0, false⟩
/-- The words of DOT4_LIT. -/
def W.dot4Lit (d : BitVec 8) (a : BitVec 8) (k : BitVec 32) : IWord := ⟨word4 0x72 d a 0x00, k, true⟩
/-- The words of FDOT2_REG. -/
def W.fdot2Reg (d : BitVec 8) (a : BitVec 8) (b : BitVec 8) : IWord := ⟨word4 0x73 d a b, 0, false⟩
/-- The words of FDOT2_SCB. -/
def W.fdot2Scb (d : BitVec 8) (a : BitVec 8) (b : BitVec 6) : IWord := ⟨word4 0x74 d a (b.setWidth 8), 0, false⟩
/-- The words of FDOT2_LIT. -/
def W.fdot2Lit (d : BitVec 8) (a : BitVec 8) (k : BitVec 32) : IWord := ⟨word4 0x75 d a 0x00, k, true⟩
/-- The words of PMOV. -/
def W.pmov (d : BitVec 3) (a : BitVec 6) : IWord := ⟨word4 0x76 (d.setWidth 8) (a.setWidth 8) 0x00, 0, false⟩
/-- The words of MOV_REG. -/
def W.movReg (d : BitVec 8) (b : BitVec 8) : IWord := ⟨word4 0x77 d 0x00 b, 0, false⟩
/-- The words of MOV_SCB. -/
def W.movScb (d : BitVec 8) (b : BitVec 6) : IWord := ⟨word4 0x78 d 0x00 (b.setWidth 8), 0, false⟩
/-- The words of MOV_LIT. -/
def W.movLit (d : BitVec 8) (k : BitVec 32) : IWord := ⟨word4 0x79 d 0x00 0x00, k, true⟩
/-- The words of BCAST. -/
def W.bcast (d : BitVec 8) (a : BitVec 8) (k : BitVec 32) : IWord := ⟨word4 0x7A d a 0x00, k, true⟩
/-- The words of SHFL_IDX_REG. -/
def W.shflIdxReg (d : BitVec 8) (a : BitVec 8) (b : BitVec 8) : IWord := ⟨word4 0x7B d a b, 0, false⟩
/-- The words of SHFL_IDX_LIT. -/
def W.shflIdxLit (d : BitVec 8) (a : BitVec 8) (k : BitVec 32) : IWord := ⟨word4 0x7C d a 0x00, k, true⟩
/-- The words of SHFL_UP. -/
def W.shflUp (d : BitVec 8) (a : BitVec 8) (k : BitVec 32) : IWord := ⟨word4 0x7D d a 0x00, k, true⟩
/-- The words of SHFL_DN. -/
def W.shflDn (d : BitVec 8) (a : BitVec 8) (k : BitVec 32) : IWord := ⟨word4 0x7E d a 0x00, k, true⟩
/-- The words of SHFL_XOR. -/
def W.shflXor (d : BitVec 8) (a : BitVec 8) (k : BitVec 32) : IWord := ⟨word4 0x7F d a 0x00, k, true⟩
/-- The words of BR. -/
def W.br (o : BitVec 24) : IWord := ⟨word4 0x80 (o.extractLsb' 16 8) (o.extractLsb' 8 8) (o.extractLsb' 0 8), 0, false⟩
/-- The words of JMP. -/
def W.jmp (o : BitVec 24) : IWord := ⟨word4 0x81 (o.extractLsb' 16 8) (o.extractLsb' 8 8) (o.extractLsb' 0 8), 0, false⟩
/-- The words of CALL. -/
def W.call (o : BitVec 24) : IWord := ⟨word4 0x82 (o.extractLsb' 16 8) (o.extractLsb' 8 8) (o.extractLsb' 0 8), 0, false⟩
/-- The words of SPLIT. -/
def W.split (o : BitVec 24) : IWord := ⟨word4 0x83 (o.extractLsb' 16 8) (o.extractLsb' 8 8) (o.extractLsb' 0 8), 0, false⟩
/-- The words of LOOP_LC0. -/
def W.loopLc0 (o : BitVec 24) : IWord := ⟨word4 0x84 (o.extractLsb' 16 8) (o.extractLsb' 8 8) (o.extractLsb' 0 8), 0, false⟩
/-- The words of LOOP_LC1. -/
def W.loopLc1 (o : BitVec 24) : IWord := ⟨word4 0x85 (o.extractLsb' 16 8) (o.extractLsb' 8 8) (o.extractLsb' 0 8), 0, false⟩
/-- The words of RDLN_SCB. -/
def W.rdlnScb (d : BitVec 6) (a : BitVec 8) (b : BitVec 6) : IWord := ⟨word4 0x86 (d.setWidth 8) a (b.setWidth 8), 0, false⟩
/-- The words of RDLN_LIT. -/
def W.rdlnLit (d : BitVec 6) (a : BitVec 8) (k : BitVec 32) : IWord := ⟨word4 0x87 (d.setWidth 8) a 0x00, k, true⟩
/-- The words of WRLN_SCB. -/
def W.wrlnScb (d : BitVec 8) (a : BitVec 6) (b : BitVec 6) : IWord := ⟨word4 0x88 d (a.setWidth 8) (b.setWidth 8), 0, false⟩
/-- The words of WRLN_LIT. -/
def W.wrlnLit (d : BitVec 8) (a : BitVec 6) (k : BitVec 32) : IWord := ⟨word4 0x89 d (a.setWidth 8) 0x00, k, true⟩
/-- The words of SADD_SCB. -/
def W.saddScb (d : BitVec 6) (a : BitVec 6) (b : BitVec 6) : IWord := ⟨word4 0x8A (d.setWidth 8) (a.setWidth 8) (b.setWidth 8), 0, false⟩
/-- The words of SADD_LIT. -/
def W.saddLit (d : BitVec 6) (a : BitVec 6) (k : BitVec 32) : IWord := ⟨word4 0x8B (d.setWidth 8) (a.setWidth 8) 0x00, k, true⟩
/-- The words of SSUB_SCB. -/
def W.ssubScb (d : BitVec 6) (a : BitVec 6) (b : BitVec 6) : IWord := ⟨word4 0x8C (d.setWidth 8) (a.setWidth 8) (b.setWidth 8), 0, false⟩
/-- The words of SSUB_LIT. -/
def W.ssubLit (d : BitVec 6) (a : BitVec 6) (k : BitVec 32) : IWord := ⟨word4 0x8D (d.setWidth 8) (a.setWidth 8) 0x00, k, true⟩
/-- The words of SMUL_SCB. -/
def W.smulScb (d : BitVec 6) (a : BitVec 6) (b : BitVec 6) : IWord := ⟨word4 0x8E (d.setWidth 8) (a.setWidth 8) (b.setWidth 8), 0, false⟩
/-- The words of SMUL_LIT. -/
def W.smulLit (d : BitVec 6) (a : BitVec 6) (k : BitVec 32) : IWord := ⟨word4 0x8F (d.setWidth 8) (a.setWidth 8) 0x00, k, true⟩
/-- The words of SAND_SCB. -/
def W.sandScb (d : BitVec 6) (a : BitVec 6) (b : BitVec 6) : IWord := ⟨word4 0x90 (d.setWidth 8) (a.setWidth 8) (b.setWidth 8), 0, false⟩
/-- The words of SAND_LIT. -/
def W.sandLit (d : BitVec 6) (a : BitVec 6) (k : BitVec 32) : IWord := ⟨word4 0x91 (d.setWidth 8) (a.setWidth 8) 0x00, k, true⟩
/-- The words of SOR_SCB. -/
def W.sorScb (d : BitVec 6) (a : BitVec 6) (b : BitVec 6) : IWord := ⟨word4 0x92 (d.setWidth 8) (a.setWidth 8) (b.setWidth 8), 0, false⟩
/-- The words of SOR_LIT. -/
def W.sorLit (d : BitVec 6) (a : BitVec 6) (k : BitVec 32) : IWord := ⟨word4 0x93 (d.setWidth 8) (a.setWidth 8) 0x00, k, true⟩
/-- The words of SXOR_SCB. -/
def W.sxorScb (d : BitVec 6) (a : BitVec 6) (b : BitVec 6) : IWord := ⟨word4 0x94 (d.setWidth 8) (a.setWidth 8) (b.setWidth 8), 0, false⟩
/-- The words of SXOR_LIT. -/
def W.sxorLit (d : BitVec 6) (a : BitVec 6) (k : BitVec 32) : IWord := ⟨word4 0x95 (d.setWidth 8) (a.setWidth 8) 0x00, k, true⟩
/-- The words of SSHL_SCB. -/
def W.sshlScb (d : BitVec 6) (a : BitVec 6) (b : BitVec 6) : IWord := ⟨word4 0x96 (d.setWidth 8) (a.setWidth 8) (b.setWidth 8), 0, false⟩
/-- The words of SSHL_LIT. -/
def W.sshlLit (d : BitVec 6) (a : BitVec 6) (k : BitVec 32) : IWord := ⟨word4 0x97 (d.setWidth 8) (a.setWidth 8) 0x00, k, true⟩
/-- The words of SSHR_SCB. -/
def W.sshrScb (d : BitVec 6) (a : BitVec 6) (b : BitVec 6) : IWord := ⟨word4 0x98 (d.setWidth 8) (a.setWidth 8) (b.setWidth 8), 0, false⟩
/-- The words of SSHR_LIT. -/
def W.sshrLit (d : BitVec 6) (a : BitVec 6) (k : BitVec 32) : IWord := ⟨word4 0x99 (d.setWidth 8) (a.setWidth 8) 0x00, k, true⟩
/-- The words of SSRA_SCB. -/
def W.ssraScb (d : BitVec 6) (a : BitVec 6) (b : BitVec 6) : IWord := ⟨word4 0x9A (d.setWidth 8) (a.setWidth 8) (b.setWidth 8), 0, false⟩
/-- The words of SSRA_LIT. -/
def W.ssraLit (d : BitVec 6) (a : BitVec 6) (k : BitVec 32) : IWord := ⟨word4 0x9B (d.setWidth 8) (a.setWidth 8) 0x00, k, true⟩
/-- The words of SMIN_SCB. -/
def W.sminScb (d : BitVec 6) (a : BitVec 6) (b : BitVec 6) : IWord := ⟨word4 0x9C (d.setWidth 8) (a.setWidth 8) (b.setWidth 8), 0, false⟩
/-- The words of SMIN_LIT. -/
def W.sminLit (d : BitVec 6) (a : BitVec 6) (k : BitVec 32) : IWord := ⟨word4 0x9D (d.setWidth 8) (a.setWidth 8) 0x00, k, true⟩
/-- The words of SMAX_SCB. -/
def W.smaxScb (d : BitVec 6) (a : BitVec 6) (b : BitVec 6) : IWord := ⟨word4 0x9E (d.setWidth 8) (a.setWidth 8) (b.setWidth 8), 0, false⟩
/-- The words of SMAX_LIT. -/
def W.smaxLit (d : BitVec 6) (a : BitVec 6) (k : BitVec 32) : IWord := ⟨word4 0x9F (d.setWidth 8) (a.setWidth 8) 0x00, k, true⟩
/-- The words of MODE_ARITH. -/
def W.modeArith (g : BitVec 1) (t : BitVec 1) (r : BitVec 1) (s : BitVec 1) (f : BitVec 1) (p : BitVec 3) (e : BitVec 1) (v : BitVec 1) (y : BitVec 4) (n : BitVec 3) (u : BitVec 1) (z : BitVec 1) : IWord := ⟨0xA0#8 ++ (0#2 ++ g ++ t ++ r ++ s ++ f ++ p ++ e ++ v ++ y ++ n ++ u ++ z ++ 0#3), 0, false⟩
/-- The words of MODE_BUF. -/
def W.modeBuf (b : BitVec 8) : IWord := ⟨word4 0xA0 0x40 0 b, 0, false⟩
/-- The words of SCMP_EQ_SCB. -/
def W.scmpEqScb (d : BitVec 3) (a : BitVec 6) (b : BitVec 6) : IWord := ⟨word4 0xA1 (d.setWidth 8) (a.setWidth 8) (b.setWidth 8), 0, false⟩
/-- The words of SCMP_EQ_LIT. -/
def W.scmpEqLit (d : BitVec 3) (a : BitVec 6) (k : BitVec 32) : IWord := ⟨word4 0xA2 (d.setWidth 8) (a.setWidth 8) 0x00, k, true⟩
/-- The words of SCMP_LT_SCB. -/
def W.scmpLtScb (d : BitVec 3) (a : BitVec 6) (b : BitVec 6) : IWord := ⟨word4 0xA3 (d.setWidth 8) (a.setWidth 8) (b.setWidth 8), 0, false⟩
/-- The words of SCMP_LT_LIT. -/
def W.scmpLtLit (d : BitVec 3) (a : BitVec 6) (k : BitVec 32) : IWord := ⟨word4 0xA4 (d.setWidth 8) (a.setWidth 8) 0x00, k, true⟩
/-- The words of SMOV. -/
def W.smov (d : BitVec 6) (b : BitVec 6) : IWord := ⟨word4 0xA5 (d.setWidth 8) 0x00 (b.setWidth 8), 0, false⟩
/-- The words of SMOV_ALO. -/
def W.smovAlo (d : BitVec 6) (b : BitVec 4) : IWord := ⟨word4 0xA5 (d.setWidth 8) 0x01 (b.setWidth 8), 0, false⟩
/-- The words of SMOV_AHI. -/
def W.smovAhi (d : BitVec 6) (b : BitVec 4) : IWord := ⟨word4 0xA5 (d.setWidth 8) 0x02 (b.setWidth 8), 0, false⟩
/-- The words of SLI. -/
def W.sli (d : BitVec 6) (k : BitVec 32) : IWord := ⟨word4 0xA6 (d.setWidth 8) 0x00 0x00, k, true⟩
/-- The words of AADD_SCB. -/
def W.aaddScb (d : BitVec 4) (a : BitVec 4) (b : BitVec 6) : IWord := ⟨word4 0xA7 (d.setWidth 8) (a.setWidth 8) (b.setWidth 8), 0, false⟩
/-- The words of AADD_LIT. -/
def W.aaddLit (d : BitVec 4) (a : BitVec 4) (k : BitVec 32) : IWord := ⟨word4 0xA8 (d.setWidth 8) (a.setWidth 8) 0x00, k, true⟩
/-- The words of AMOV. -/
def W.amov (d : BitVec 4) (a : BitVec 6) (b : BitVec 6) : IWord := ⟨word4 0xA9 (d.setWidth 8) (a.setWidth 8) (b.setWidth 8), 0, false⟩
/-- The words of LD_REG. -/
def W.ldReg (d : BitVec 8) (a : BitVec 4) (b : BitVec 8) : IWord := ⟨word4 0xAA d (a.setWidth 8) b, 0, false⟩
/-- The words of LD_SCB. -/
def W.ldScb (d : BitVec 8) (a : BitVec 4) (b : BitVec 6) : IWord := ⟨word4 0xAB d (a.setWidth 8) (b.setWidth 8), 0, false⟩
/-- The words of LD_LIT. -/
def W.ldLit (d : BitVec 8) (a : BitVec 4) (k : BitVec 32) : IWord := ⟨word4 0xAC d (a.setWidth 8) 0x00, k, true⟩
/-- The words of ST_REG. -/
def W.stReg (d : BitVec 8) (a : BitVec 4) (b : BitVec 8) : IWord := ⟨word4 0xAD d (a.setWidth 8) b, 0, false⟩
/-- The words of ST_SCB. -/
def W.stScb (d : BitVec 8) (a : BitVec 4) (b : BitVec 6) : IWord := ⟨word4 0xAE d (a.setWidth 8) (b.setWidth 8), 0, false⟩
/-- The words of ST_LIT. -/
def W.stLit (d : BitVec 8) (a : BitVec 4) (k : BitVec 32) : IWord := ⟨word4 0xAF d (a.setWidth 8) 0x00, k, true⟩
/-- The words of LDS_REG. -/
def W.ldsReg (d : BitVec 8) (a : BitVec 4) (b : BitVec 8) : IWord := ⟨word4 0xB0 d (a.setWidth 8) b, 0, false⟩
/-- The words of LDS_LIT. -/
def W.ldsLit (d : BitVec 8) (a : BitVec 4) (k : BitVec 32) : IWord := ⟨word4 0xB1 d (a.setWidth 8) 0x00, k, true⟩
/-- The words of STS_REG. -/
def W.stsReg (d : BitVec 8) (a : BitVec 4) (b : BitVec 8) : IWord := ⟨word4 0xB2 d (a.setWidth 8) b, 0, false⟩
/-- The words of STS_LIT. -/
def W.stsLit (d : BitVec 8) (a : BitVec 4) (k : BitVec 32) : IWord := ⟨word4 0xB3 d (a.setWidth 8) 0x00, k, true⟩
/-- The words of LDC_REG. -/
def W.ldcReg (d : BitVec 8) (a : BitVec 4) (b : BitVec 8) : IWord := ⟨word4 0xB4 d (a.setWidth 8) b, 0, false⟩
/-- The words of LDC_LIT. -/
def W.ldcLit (d : BitVec 8) (a : BitVec 4) (k : BitVec 32) : IWord := ⟨word4 0xB5 d (a.setWidth 8) 0x00, k, true⟩
/-- The words of LDA_REG. -/
def W.ldaReg (d : BitVec 8) (a : BitVec 4) (b : BitVec 8) : IWord := ⟨word4 0xB6 d (a.setWidth 8) b, 0, false⟩
/-- The words of LDA_LIT. -/
def W.ldaLit (d : BitVec 8) (a : BitVec 4) (k : BitVec 32) : IWord := ⟨word4 0xB7 d (a.setWidth 8) 0x00, k, true⟩
/-- The words of STR_REG. -/
def W.strReg (d : BitVec 8) (a : BitVec 4) (b : BitVec 8) : IWord := ⟨word4 0xB8 d (a.setWidth 8) b, 0, false⟩
/-- The words of STR_LIT. -/
def W.strLit (d : BitVec 8) (a : BitVec 4) (k : BitVec 32) : IWord := ⟨word4 0xB9 d (a.setWidth 8) 0x00, k, true⟩
/-- The words of PREF_REG. -/
def W.prefReg (a : BitVec 4) (b : BitVec 8) : IWord := ⟨word4 0xBA 0x00 (a.setWidth 8) b, 0, false⟩
/-- The words of PREF_LIT. -/
def W.prefLit (a : BitVec 4) (k : BitVec 32) : IWord := ⟨word4 0xBB 0x00 (a.setWidth 8) 0x00, k, true⟩
/-- The words of CP. -/
def W.cp (d : BitVec 4) (a : BitVec 4) (b : BitVec 5) : IWord := ⟨word4 0xBC (d.setWidth 8) (a.setWidth 8) (wRun2 b), 0, false⟩
/-- The words of CP2D. -/
def W.cp2d (d : BitVec 4) (a : BitVec 4) (b : BitVec 4) : IWord := ⟨word4 0xBD (d.setWidth 8) (a.setWidth 8) (wRun4 b), 0, false⟩
/-- The words of CPR. -/
def W.cpr (d : BitVec 4) (a : BitVec 6) (b : BitVec 5) : IWord := ⟨word4 0xBE (d.setWidth 8) (a.setWidth 8) (wRun2 b), 0, false⟩
/-- The words of BARV. -/
def W.barv (d : BitVec 6) (a : BitVec 6) (b : BitVec 6) : IWord := ⟨word4 0xBF (d.setWidth 8) (a.setWidth 8) (b.setWidth 8), 0, false⟩
/-- The words of MWAIT. -/
def W.mwait (c : BitVec 3) (a : BitVec 4) (b : BitVec 6) : IWord := ⟨word4 0xC0 (c.setWidth 8) (a.setWidth 8) (b.setWidth 8), 0, false⟩
/-- The words of MMA. -/
def W.mma (d : BitVec 8) (a : BitVec 8) (b : BitVec 8) : IWord := ⟨word4 0xC1 d a b, 0, false⟩
/-- The words of MMAKB. -/
def W.mmakb (d : BitVec 8) (a : BitVec 8) (b : BitVec 8) : IWord := ⟨word4 0xC2 d a b, 0, false⟩
/-- The words of ACCQ. -/
def W.accq (d : BitVec 8) : IWord := ⟨word4 0xC3 d 0x00 0x00, 0, false⟩
/-- The words of ACCR. -/
def W.accr (d : BitVec 8) : IWord := ⟨word4 0xC4 d 0x00 0x00, 0, false⟩
/-- The words of ACCLD. -/
def W.accld (d : BitVec 8) (a : BitVec 8) : IWord := ⟨word4 0xC5 d a 0x00, 0, false⟩
/-- The words of ACCST. -/
def W.accst (d : BitVec 8) (a : BitVec 8) : IWord := ⟨word4 0xC6 d a 0x00, 0, false⟩
/-- The words of ACCZR. -/
def W.acczr (d : BitVec 8) : IWord := ⟨word4 0xC7 d 0x00 0x00, 0, false⟩
/-- The words of MPRIO. -/
def W.mprio (a : BitVec 6) : IWord := ⟨word4 0xC8 0x00 (a.setWidth 8) 0x00, 0, false⟩
/-- The words of SMP. -/
def W.smp (d : BitVec 8) (a : BitVec 4) (b : BitVec 8) : IWord := ⟨word4 0xC9 d (a.setWidth 8) b, 0, false⟩
/-- The words of SMPG. -/
def W.smpg (d : BitVec 8) (a : BitVec 4) (b : BitVec 8) : IWord := ⟨word4 0xCA d (a.setWidth 8) b, 0, false⟩
/-- The words of SMPL. -/
def W.smpl (d : BitVec 8) (a : BitVec 4) (b : BitVec 8) : IWord := ⟨word4 0xCB d (a.setWidth 8) b, 0, false⟩
/-- The words of TXF. -/
def W.txf (d : BitVec 8) (a : BitVec 4) (b : BitVec 8) : IWord := ⟨word4 0xCC d (a.setWidth 8) b, 0, false⟩
/-- The words of RTRC. -/
def W.rtrc (d : BitVec 8) (a : BitVec 4) (b : BitVec 8) : IWord := ⟨word4 0xCD d (a.setWidth 8) b, 0, false⟩
/-- The words of RTNX. -/
def W.rtnx (d : BitVec 8) (a : BitVec 4) (b : BitVec 8) : IWord := ⟨word4 0xCE d (a.setWidth 8) b, 0, false⟩
/-- The words of RTRS. -/
def W.rtrs (d : BitVec 8) : IWord := ⟨word4 0xCF d 0x00 0x00, 0, false⟩
/-- The words of RTHIT. -/
def W.rthit (d : BitVec 8) (a : BitVec 4) (b : BitVec 8) : IWord := ⟨word4 0xD0 d (a.setWidth 8) b, 0, false⟩
/-- The words of RTRI. -/
def W.rtri (d : BitVec 8) (a : BitVec 4) (b : BitVec 8) : IWord := ⟨word4 0xD1 d (a.setWidth 8) b, 0, false⟩
/-- The words of RTW. -/
def W.rtw (d : BitVec 8) (a : BitVec 4) (b : BitVec 8) : IWord := ⟨word4 0xD2 d (a.setWidth 8) b, 0, false⟩
/-- The words of RCLR. -/
def W.rclr (a : BitVec 4) (b : BitVec 6) : IWord := ⟨word4 0xD3 0x00 (a.setWidth 8) (b.setWidth 8), 0, false⟩
/-- The words of ZTS. -/
def W.zts (d : BitVec 3) (a : BitVec 4) (b : BitVec 8) : IWord := ⟨word4 0xD4 (d.setWidth 8) (a.setWidth 8) b, 0, false⟩
/-- The words of LAUNCH. -/
def W.launch (d : BitVec 3) (a : BitVec 4) (b : BitVec 8) : IWord := ⟨word4 0xD5 (d.setWidth 8) (a.setWidth 8) b, 0, false⟩
/-- The words of RDPARAM. -/
def W.rdparam (d : BitVec 6) (a : BitVec 6) : IWord := ⟨word4 0xD6 (d.setWidth 8) (a.setWidth 8) 0x00, 0, false⟩
/-- The words of WPW. -/
def W.wpw (d : BitVec 3) (a : BitVec 6) (b : BitVec 4) : IWord := ⟨word4 0xD7 (d.setWidth 8) (a.setWidth 8) (wRun4 b), 0, false⟩
/-- The words of WPR. -/
def W.wpr (d : BitVec 6) (a : BitVec 6) : IWord := ⟨word4 0xD8 (d.setWidth 8) (a.setWidth 8) 0x00, 0, false⟩
/-- The words of HRD. -/
def W.hrd (d : BitVec 6) (a : BitVec 4) (b : BitVec 6) : IWord := ⟨word4 0xD9 (d.setWidth 8) (a.setWidth 8) (b.setWidth 8), 0, false⟩
/-- The words of HWR. -/
def W.hwr (d : BitVec 6) (a : BitVec 4) (b : BitVec 6) : IWord := ⟨word4 0xDA (d.setWidth 8) (a.setWidth 8) (b.setWidth 8), 0, false⟩
/-- The words of CSRR. -/
def W.csrr (d : BitVec 6) (k : BitVec 32) : IWord := ⟨word4 0xDB (d.setWidth 8) 0x00 0x00, k, true⟩
/-- The words of CSRW. -/
def W.csrw (a : BitVec 6) (k : BitVec 32) : IWord := ⟨word4 0xDC 0x00 (a.setWidth 8) 0x00, k, true⟩
/-- The words of GROW. -/
def W.grow (k : BitVec 32) : IWord := ⟨word4 0xDD 0x00 0x00 0x00, k, true⟩
/-- The words of GROW_TRY. -/
def W.growTry (d : BitVec 3) (k : BitVec 32) : IWord := ⟨word4 0xDE (d.setWidth 8) 0x00 0x00, k, true⟩
/-- The words of SHRINK. -/
def W.shrink (k : BitVec 32) : IWord := ⟨word4 0xDF 0x00 0x00 0x00, k, true⟩
/-- The words of MXSCL. -/
def W.mxscl (d : BitVec 6) (a : BitVec 8) : IWord := ⟨word4 0xE0 (d.setWidth 8) a 0x00, 0, false⟩
/-- The words of MXQ. -/
def W.mxq (d : BitVec 8) (a : BitVec 8) (b : BitVec 6) : IWord := ⟨word4 0xE1 d a (b.setWidth 8), 0, false⟩
/-- The words of CPDEC. -/
def W.cpdec (d : BitVec 4) (a : BitVec 4) (b : BitVec 5) : IWord := ⟨word4 0xE2 (d.setWidth 8) (a.setWidth 8) (wRun2 b), 0, false⟩
/-- The words of LDB_REG. -/
def W.ldbReg (d : BitVec 8) (a : BitVec 4) (b : BitVec 8) : IWord := ⟨word4 0xE3 d (a.setWidth 8) b, 0, false⟩
/-- The words of LDB_LIT. -/
def W.ldbLit (d : BitVec 8) (a : BitVec 4) (k : BitVec 32) : IWord := ⟨word4 0xE4 d (a.setWidth 8) 0x00, k, true⟩
/-- The words of RADV. -/
def W.radv (s : BitVec 3) (a : BitVec 4) : IWord := ⟨word4 0xE5 (s.setWidth 8) (a.setWidth 8) 0x00, 0, false⟩
/-- The words of RRD. -/
def W.rrd (d : BitVec 4) (a : BitVec 4) : IWord := ⟨word4 0xE6 (d.setWidth 8) (a.setWidth 8) 0x00, 0, false⟩
/-- The words of RRD_OBS. -/
def W.rrdObs (d : BitVec 4) (a : BitVec 4) : IWord := ⟨word4 0xE6 (d.setWidth 8) (a.setWidth 8) 0x01, 0, false⟩
/-- The words of RDCMP. -/
def W.rdcmp (a : BitVec 4) (b : BitVec 6) : IWord := ⟨word4 0xE7 0x00 (a.setWidth 8) (b.setWidth 8), 0, false⟩
/-- The words of SMPN. -/
def W.smpn (d : BitVec 8) (a : BitVec 4) (b : BitVec 8) : IWord := ⟨word4 0xE8 d (a.setWidth 8) b, 0, false⟩
/-- The words of XMMA. -/
def W.xmma (d : BitVec 8) (a : BitVec 8) (b : BitVec 8) : IWord := ⟨word4 0xE9 d a b, 0, false⟩

/-- The words of an instruction (R33, R57 to R63); none for an event. -/
def encode : Instr → List Word
  | .abs d a => (W.abs d a).words
  | .neg d a => (W.neg d a).words
  | .notB d a => (W.notB d a).words
  | .clz d a => (W.clz d a).words
  | .popc d a => (W.popc d a).words
  | .brev d a => (W.brev d a).words
  | .voteAny d a => (W.voteAny d a).words
  | .voteAll d a => (W.voteAll d a).words
  | .ballot d a => (W.ballot d a).words
  | .lredAdd d a => (W.lredAdd d a).words
  | .lredMin d a => (W.lredMin d a).words
  | .lredMax d a => (W.lredMax d a).words
  | .lid d => (W.lid d).words
  | .rng d c => (W.rng d c).words
  | .rngs c a => (W.rngs c a).words
  | .fabs d a => (W.fabs d a).words
  | .fneg d a => (W.fneg d a).words
  | .frcp d a => (W.frcp d a).words
  | .frsq d a => (W.frsq d a).words
  | .fsqrt d a => (W.fsqrt d a).words
  | .fex2 d a => (W.fex2 d a).words
  | .flg2 d a => (W.flg2 d a).words
  | .fsin d a => (W.fsin d a).words
  | .fcos d a => (W.fcos d a).words
  | .frnd d a => (W.frnd d a).words
  | .nop => (W.nop).words
  | .exit => (W.exit).words
  | .yield => (W.yield).words
  | .brk => (W.brk).words
  | .merge => (W.merge).words
  | .ret => (W.ret).words
  | .lbrkLc0 => (W.lbrkLc0).words
  | .lbrkLc1 => (W.lbrkLc1).words
  | .rdmd d => (W.rdmd d).words
  | .wrmd a => (W.wrmd a).words
  | .tret => (W.tret).words
  | .ecall a => (W.ecall a).words
  | .sleep a => (W.sleep a).words
  | .tlbiVa a => (W.tlbiVa a).words
  | .tlbiCtx => (W.tlbiCtx).words
  | .tlbiAll => (W.tlbiAll).words
  | .hstep d a => (W.hstep d a).words
  | .hres d a => (W.hres d a).words
  | .wcpin d a => (W.wcpin d a).words
  | .wcunp a => (W.wcunp a).words
  | .wcinv a => (W.wcinv a).words
  | .wcinvAll => (W.wcinvAll).words
  | .rtgen a => (W.rtgen a).words
  | .rtinv a => (W.rtinv a).words
  | .rtinvAll => (W.rtinvAll).words
  | .cwait d a => (W.cwait d a).words
  | .cncl d a => (W.cncl d a).words
  | .rdtm d => (W.rdtm d).words
  | .wtm a => (W.wtm a).words
  | .wret a c => (W.wret a c).words
  | .bar => (W.bar).words
  | .barw a => (W.barw a).words
  | .gbar => (W.gbar).words
  | .rend => (W.rend).words
  | .fenceAcq s => (W.fenceAcq s).words
  | .fenceRel s => (W.fenceRel s).words
  | .fenceAr s => (W.fenceAr s).words
  | .atom d a o => (W.atom d a o).words
  | .red d a o => (W.red d a o).words
  | .cas d a b => (W.cas d a b).words
  | .trap k => (W.trap k).words
  | .cvt d a s => (W.cvt d a s).words
  | .pack2 d a b => (W.pack2 d a b).words
  | .unpk d a k s => (W.unpk d a k s).words
  | .pand d a b => (W.pand d a b).words
  | .por d a b => (W.por d a b).words
  | .pxor d a b => (W.pxor d a b).words
  | .pnot d a => (W.pnot d a).words
  | .addReg d a b => (W.addReg d a b).words
  | .addScb d a b => (W.addScb d a b).words
  | .addLit d a k => (W.addLit d a k).words
  | .subReg d a b => (W.subReg d a b).words
  | .subScb d a b => (W.subScb d a b).words
  | .subLit d a k => (W.subLit d a k).words
  | .addcReg d a b => (W.addcReg d a b).words
  | .addcScb d a b => (W.addcScb d a b).words
  | .addcLit d a k => (W.addcLit d a k).words
  | .subbReg d a b => (W.subbReg d a b).words
  | .subbScb d a b => (W.subbScb d a b).words
  | .subbLit d a k => (W.subbLit d a k).words
  | .mulReg d a b => (W.mulReg d a b).words
  | .mulScb d a b => (W.mulScb d a b).words
  | .mulLit d a k => (W.mulLit d a k).words
  | .mulhReg d a b => (W.mulhReg d a b).words
  | .mulhScb d a b => (W.mulhScb d a b).words
  | .mulhLit d a k => (W.mulhLit d a k).words
  | .madReg d a b => (W.madReg d a b).words
  | .madScb d a b => (W.madScb d a b).words
  | .madLit d a k => (W.madLit d a k).words
  | .minReg d a b => (W.minReg d a b).words
  | .minScb d a b => (W.minScb d a b).words
  | .minLit d a k => (W.minLit d a k).words
  | .maxReg d a b => (W.maxReg d a b).words
  | .maxScb d a b => (W.maxScb d a b).words
  | .maxLit d a k => (W.maxLit d a k).words
  | .andReg d a b => (W.andReg d a b).words
  | .andScb d a b => (W.andScb d a b).words
  | .andLit d a k => (W.andLit d a k).words
  | .orReg d a b => (W.orReg d a b).words
  | .orScb d a b => (W.orScb d a b).words
  | .orLit d a k => (W.orLit d a k).words
  | .xorReg d a b => (W.xorReg d a b).words
  | .xorScb d a b => (W.xorScb d a b).words
  | .xorLit d a k => (W.xorLit d a k).words
  | .andnReg d a b => (W.andnReg d a b).words
  | .andnScb d a b => (W.andnScb d a b).words
  | .andnLit d a k => (W.andnLit d a k).words
  | .shlReg d a b => (W.shlReg d a b).words
  | .shlScb d a b => (W.shlScb d a b).words
  | .shlLit d a k => (W.shlLit d a k).words
  | .shrReg d a b => (W.shrReg d a b).words
  | .shrScb d a b => (W.shrScb d a b).words
  | .shrLit d a k => (W.shrLit d a k).words
  | .sraReg d a b => (W.sraReg d a b).words
  | .sraScb d a b => (W.sraScb d a b).words
  | .sraLit d a k => (W.sraLit d a k).words
  | .rotlReg d a b => (W.rotlReg d a b).words
  | .rotlScb d a b => (W.rotlScb d a b).words
  | .rotlLit d a k => (W.rotlLit d a k).words
  | .bfxReg d a b => (W.bfxReg d a b).words
  | .bfxScb d a b => (W.bfxScb d a b).words
  | .bfxLit d a k => (W.bfxLit d a k).words
  | .bfiReg d a b => (W.bfiReg d a b).words
  | .bfiScb d a b => (W.bfiScb d a b).words
  | .bfiLit d a k => (W.bfiLit d a k).words
  | .selReg d a b => (W.selReg d a b).words
  | .selScb d a b => (W.selScb d a b).words
  | .selLit d a k => (W.selLit d a k).words
  | .cmpEqReg d a b => (W.cmpEqReg d a b).words
  | .cmpEqScb d a b => (W.cmpEqScb d a b).words
  | .cmpEqLit d a k => (W.cmpEqLit d a k).words
  | .cmpLtReg d a b => (W.cmpLtReg d a b).words
  | .cmpLtScb d a b => (W.cmpLtScb d a b).words
  | .cmpLtLit d a k => (W.cmpLtLit d a k).words
  | .faddReg d a b => (W.faddReg d a b).words
  | .faddScb d a b => (W.faddScb d a b).words
  | .faddLit d a k => (W.faddLit d a k).words
  | .fsubReg d a b => (W.fsubReg d a b).words
  | .fsubScb d a b => (W.fsubScb d a b).words
  | .fsubLit d a k => (W.fsubLit d a k).words
  | .fmulReg d a b => (W.fmulReg d a b).words
  | .fmulScb d a b => (W.fmulScb d a b).words
  | .fmulLit d a k => (W.fmulLit d a k).words
  | .fmaReg d a b => (W.fmaReg d a b).words
  | .fmaScb d a b => (W.fmaScb d a b).words
  | .fmaLit d a k => (W.fmaLit d a k).words
  | .fminReg d a b => (W.fminReg d a b).words
  | .fminScb d a b => (W.fminScb d a b).words
  | .fminLit d a k => (W.fminLit d a k).words
  | .fmaxReg d a b => (W.fmaxReg d a b).words
  | .fmaxScb d a b => (W.fmaxScb d a b).words
  | .fmaxLit d a k => (W.fmaxLit d a k).words
  | .fclsReg d a b => (W.fclsReg d a b).words
  | .fclsScb d a b => (W.fclsScb d a b).words
  | .fclsLit d a k => (W.fclsLit d a k).words
  | .fcmpEqReg d a b => (W.fcmpEqReg d a b).words
  | .fcmpEqScb d a b => (W.fcmpEqScb d a b).words
  | .fcmpEqLit d a k => (W.fcmpEqLit d a k).words
  | .fcmpLtReg d a b => (W.fcmpLtReg d a b).words
  | .fcmpLtScb d a b => (W.fcmpLtScb d a b).words
  | .fcmpLtLit d a k => (W.fcmpLtLit d a k).words
  | .fcmpLeReg d a b => (W.fcmpLeReg d a b).words
  | .fcmpLeScb d a b => (W.fcmpLeScb d a b).words
  | .fcmpLeLit d a k => (W.fcmpLeLit d a k).words
  | .dot4Reg d a b => (W.dot4Reg d a b).words
  | .dot4Scb d a b => (W.dot4Scb d a b).words
  | .dot4Lit d a k => (W.dot4Lit d a k).words
  | .fdot2Reg d a b => (W.fdot2Reg d a b).words
  | .fdot2Scb d a b => (W.fdot2Scb d a b).words
  | .fdot2Lit d a k => (W.fdot2Lit d a k).words
  | .pmov d a => (W.pmov d a).words
  | .movReg d b => (W.movReg d b).words
  | .movScb d b => (W.movScb d b).words
  | .movLit d k => (W.movLit d k).words
  | .bcast d a k => (W.bcast d a k).words
  | .shflIdxReg d a b => (W.shflIdxReg d a b).words
  | .shflIdxLit d a k => (W.shflIdxLit d a k).words
  | .shflUp d a k => (W.shflUp d a k).words
  | .shflDn d a k => (W.shflDn d a k).words
  | .shflXor d a k => (W.shflXor d a k).words
  | .br o => (W.br o).words
  | .jmp o => (W.jmp o).words
  | .call o => (W.call o).words
  | .split o => (W.split o).words
  | .loopLc0 o => (W.loopLc0 o).words
  | .loopLc1 o => (W.loopLc1 o).words
  | .rdlnScb d a b => (W.rdlnScb d a b).words
  | .rdlnLit d a k => (W.rdlnLit d a k).words
  | .wrlnScb d a b => (W.wrlnScb d a b).words
  | .wrlnLit d a k => (W.wrlnLit d a k).words
  | .saddScb d a b => (W.saddScb d a b).words
  | .saddLit d a k => (W.saddLit d a k).words
  | .ssubScb d a b => (W.ssubScb d a b).words
  | .ssubLit d a k => (W.ssubLit d a k).words
  | .smulScb d a b => (W.smulScb d a b).words
  | .smulLit d a k => (W.smulLit d a k).words
  | .sandScb d a b => (W.sandScb d a b).words
  | .sandLit d a k => (W.sandLit d a k).words
  | .sorScb d a b => (W.sorScb d a b).words
  | .sorLit d a k => (W.sorLit d a k).words
  | .sxorScb d a b => (W.sxorScb d a b).words
  | .sxorLit d a k => (W.sxorLit d a k).words
  | .sshlScb d a b => (W.sshlScb d a b).words
  | .sshlLit d a k => (W.sshlLit d a k).words
  | .sshrScb d a b => (W.sshrScb d a b).words
  | .sshrLit d a k => (W.sshrLit d a k).words
  | .ssraScb d a b => (W.ssraScb d a b).words
  | .ssraLit d a k => (W.ssraLit d a k).words
  | .sminScb d a b => (W.sminScb d a b).words
  | .sminLit d a k => (W.sminLit d a k).words
  | .smaxScb d a b => (W.smaxScb d a b).words
  | .smaxLit d a k => (W.smaxLit d a k).words
  | .modeArith g t r s f p e v y n u z => (W.modeArith g t r s f p e v y n u z).words
  | .modeBuf b => (W.modeBuf b).words
  | .scmpEqScb d a b => (W.scmpEqScb d a b).words
  | .scmpEqLit d a k => (W.scmpEqLit d a k).words
  | .scmpLtScb d a b => (W.scmpLtScb d a b).words
  | .scmpLtLit d a k => (W.scmpLtLit d a k).words
  | .smov d b => (W.smov d b).words
  | .smovAlo d b => (W.smovAlo d b).words
  | .smovAhi d b => (W.smovAhi d b).words
  | .sli d k => (W.sli d k).words
  | .aaddScb d a b => (W.aaddScb d a b).words
  | .aaddLit d a k => (W.aaddLit d a k).words
  | .amov d a b => (W.amov d a b).words
  | .ldReg d a b => (W.ldReg d a b).words
  | .ldScb d a b => (W.ldScb d a b).words
  | .ldLit d a k => (W.ldLit d a k).words
  | .stReg d a b => (W.stReg d a b).words
  | .stScb d a b => (W.stScb d a b).words
  | .stLit d a k => (W.stLit d a k).words
  | .ldsReg d a b => (W.ldsReg d a b).words
  | .ldsLit d a k => (W.ldsLit d a k).words
  | .stsReg d a b => (W.stsReg d a b).words
  | .stsLit d a k => (W.stsLit d a k).words
  | .ldcReg d a b => (W.ldcReg d a b).words
  | .ldcLit d a k => (W.ldcLit d a k).words
  | .ldaReg d a b => (W.ldaReg d a b).words
  | .ldaLit d a k => (W.ldaLit d a k).words
  | .strReg d a b => (W.strReg d a b).words
  | .strLit d a k => (W.strLit d a k).words
  | .prefReg a b => (W.prefReg a b).words
  | .prefLit a k => (W.prefLit a k).words
  | .cp d a b => (W.cp d a b).words
  | .cp2d d a b => (W.cp2d d a b).words
  | .cpr d a b => (W.cpr d a b).words
  | .barv d a b => (W.barv d a b).words
  | .mwait c a b => (W.mwait c a b).words
  | .mma d a b => (W.mma d a b).words
  | .mmakb d a b => (W.mmakb d a b).words
  | .accq d => (W.accq d).words
  | .accr d => (W.accr d).words
  | .accld d a => (W.accld d a).words
  | .accst d a => (W.accst d a).words
  | .acczr d => (W.acczr d).words
  | .mprio a => (W.mprio a).words
  | .smp d a b => (W.smp d a b).words
  | .smpg d a b => (W.smpg d a b).words
  | .smpl d a b => (W.smpl d a b).words
  | .txf d a b => (W.txf d a b).words
  | .rtrc d a b => (W.rtrc d a b).words
  | .rtnx d a b => (W.rtnx d a b).words
  | .rtrs d => (W.rtrs d).words
  | .rthit d a b => (W.rthit d a b).words
  | .rtri d a b => (W.rtri d a b).words
  | .rtw d a b => (W.rtw d a b).words
  | .rclr a b => (W.rclr a b).words
  | .zts d a b => (W.zts d a b).words
  | .launch d a b => (W.launch d a b).words
  | .rdparam d a => (W.rdparam d a).words
  | .wpw d a b => (W.wpw d a b).words
  | .wpr d a => (W.wpr d a).words
  | .hrd d a b => (W.hrd d a b).words
  | .hwr d a b => (W.hwr d a b).words
  | .csrr d k => (W.csrr d k).words
  | .csrw a k => (W.csrw a k).words
  | .grow k => (W.grow k).words
  | .growTry d k => (W.growTry d k).words
  | .shrink k => (W.shrink k).words
  | .mxscl d a => (W.mxscl d a).words
  | .mxq d a b => (W.mxq d a b).words
  | .cpdec d a b => (W.cpdec d a b).words
  | .ldbReg d a b => (W.ldbReg d a b).words
  | .ldbLit d a k => (W.ldbLit d a k).words
  | .radv s a => (W.radv s a).words
  | .rrd d a => (W.rrd d a).words
  | .rrdObs d a => (W.rrdObs d a).words
  | .rdcmp a b => (W.rdcmp a b).words
  | .smpn d a b => (W.smpn d a b).words
  | .xmma d a b => (W.xmma d a b).words
  | .illegalInstruction w => [w]
  | .illegalEncoding w k => [w, k]
  | .noGroupExtension w k => [w, k]
  | .xmaskWrite .. | .almapWrite .. | .orcmdRegister .. | .orcmdDrop .. | .orcmdNoOp .. | .trctlReset .. | .instrFetchReturn .. | .mergeJoin .. | .stepTrap .. | .registerLineFill .. | .growGrant .. | .homeRead .. | .fillArrival .. | .dataReturn .. | .homeWrite .. | .completionTimeReturn .. | .homeAtomic .. | .monitorCheck .. | .mwaitReply .. | .holderAccess .. | .windowAccess .. | .leaseExpiry .. | .releaseEnd .. | .acquireEnd .. | .beacon .. | .hostRead .. | .hostWrite .. | .backInvalidateAnswer .. | .hostWriteBack .. | .hostMemoryCompletion .. | .retentionEnter .. | .retentionWake .. | .barGenerationComplete .. | .gridCounterAssign .. | .gbarGenerationComplete .. | .copyAccept .. | .copyChunk .. | .copyEnd .. | .groupEndRelease .. | .tileEntryBegin .. | .kstepBoundary .. | .tileEntryEnd .. | .tokenGrant .. | .accMoveDone .. | .entryAging .. | .sampleReturn .. | .weightFill .. | .wcinvDone .. | .lendingStepBegin .. | .lendingStepEnd .. | .lendingTimer .. | .rayResult .. | .rasterStamp .. | .depthTest .. | .pixelGroupSpawn .. | .tileUpdate .. | .passEnd .. | .wptrWake .. | .jobStart .. | .phaseStart .. | .graphStart .. | .notBeforePass .. | .launchReady .. | .launchAging .. | .aggregatorDispatch .. | .blockPlace .. | .preemptBlock .. | .blockComplete .. | .entityEnd .. | .jobEnd .. | .walkComplete .. | .faultReply .. | .groupReplay .. | .ssqDrain .. | .tlbiEnd .. | .groupSave .. | .blockSaved .. | .groupResume .. | .sleepExpire .. | .wtmExpire .. | .ptpExchange .. | .linkTimingExchange .. | .lockTimeout .. | .linkTraining .. | .linkFailure .. | .flitReceive .. | .flitPause .. | .flitResume .. | .peerRequest .. | .peerResponse .. | .hostLinkTrainDown .. | .haltPropagation .. | .mirrorHalt .. | .pcSample .. | .traceRecordWrite .. | .scrub .. | .dieLoss .. | .spareActivation .. | .sliceRetirement .. | .rowRepair .. | .channelRetirement .. | .powerOnReset .. | .hostLinkUp .. | .firmwareVerified .. | .imageVerified .. | .applyComplete .. | .qtbWrite .. | .pcapWrite .. | .hostRegWrite .. | .hcmdInvalidate .. | .hcmdInvalidateCtx .. | .hcmdMigrate .. | .hcmdSaveCtx .. | .hcmdReleaseCtx .. | .hcmdAttest .. | .hcmdUnassigned .. | .powerCapCheck .. | .corePowerGate .. | .tileLineFill .. | .flashWriteComplete .. | .powerLoss .. => []

/-- Whether the instruction is one of the primary map: no event, and none of the words that only trap. -/
def Instr.hasWords (i : Instr) : Bool :=
  match i with
  | .illegalInstruction _ | .illegalEncoding _ _ | .noGroupExtension _ _ => false
  | _ => !(encode i).isEmpty

/-- The four bytes of a word, lowest address first (R7, R33). -/
def wordBytes (w : Word) : List Byte :=
  [w.extractLsb' 0 8, w.extractLsb' 8 8, w.extractLsb' 16 8, w.extractLsb' 24 8]

/-- The instruction word, for TVAL and EMIW (06 R159, 03 R70). -/
def Instr.word (i : Instr) : Word := (encode i).headD 0

/-- The length in bytes: 4, or 8 with a trailing word (R32, R36). -/
def Instr.len (i : Instr) : Nat := if isLit (i.word.extractLsb' 24 8).toNat then 8 else 4

end Sys2Proof
end

