-- ==== Sys2Proof/Machine/Assoc.lean ====
section
/-! DEFINITION. Tables by number: read, write, erase, update. -/

namespace Sys2Proof

/-- The entry of a key. -/
def AMap.get? {α : Type} : AMap α → Nat → Option α
  | [], _ => none
  | (k, x) :: m, n => if k = n then some x else AMap.get? m n

/-- The table with the key bound to x, in rising order. -/
def AMap.set {α : Type} : AMap α → Nat → α → AMap α
  | [], n, x => [(n, x)]
  | (k, y) :: m, n, x =>
    if n < k then (n, x) :: (k, y) :: m
    else if k = n then (n, x) :: m
    else (k, y) :: AMap.set m n x

/-- The table without the key. -/
def AMap.erase {α : Type} : AMap α → Nat → AMap α
  | [], _ => []
  | (k, y) :: m, n => if k = n then m else (k, y) :: AMap.erase m n

/-- The table with one entry changed, if it is there. -/
def AMap.upd {α : Type} : AMap α → Nat → (α → α) → AMap α
  | [], _, _ => []
  | (k, y) :: m, n, f => if k = n then (k, f y) :: m else (k, y) :: AMap.upd m n f

/-- The entries that hold, each key kept. -/
def AMap.keep {α : Type} (m : AMap α) (p : Nat → α → Bool) : AMap α := m.filter fun e => p e.1 e.2

/-- Every entry changed. -/
def AMap.mapVals {α : Type} (m : AMap α) (f : Nat → α → α) : AMap α := m.map fun e => (e.1, f e.1 e.2)

/-- The entry of a key, or a default. -/
def AMap.getD {α : Type} (m : AMap α) (n : Nat) (d : α) : α := (m.get? n).getD d

end Sys2Proof
end

