-- ==== Sys2Proof/Machine/Num.lean ====
section
/-! DEFINITION. Number formats and exact arithmetic (04): element types, exact values, rounding, conversion, exact
sums and the lane random sequence. -/

namespace Sys2Proof.Machine

/-- The element type codes of MD.type and of stype (04 R73, R75, R84, R86). -/
inductive Ty where
  | s32 | n32 | s16 | n16 | s8 | n8 | f32 | f16 | bf16 | e4m3 | e5m2 | e2m1 | mx8 | mx4 | s64
  /-- code 15: no element type in MD.type (R23), Nutmeg in stype (R180) -/
  | c15
  deriving DecidableEq, Repr

/-- The type of a code (04 R73, R75, R84). -/
def Ty.ofCode (c : Nat) : Ty :=
  match c with
  | 0 => .s32 | 1 => .n32 | 2 => .s16 | 3 => .n16 | 4 => .s8 | 5 => .n8 | 6 => .f32 | 7 => .f16 | 8 => .bf16
  | 9 => .e4m3 | 10 => .e5m2 | 11 => .e2m1 | 12 => .mx8 | 13 => .mx4 | 14 => .s64 | _ => .c15

/-- The code of a type. -/
def Ty.code : Ty → Nat
  | .s32 => 0 | .n32 => 1 | .s16 => 2 | .n16 => 3 | .s8 => 4 | .n8 => 5 | .f32 => 6 | .f16 => 7 | .bf16 => 8
  | .e4m3 => 9 | .e5m2 => 10 | .e2m1 => 11 | .mx8 => 12 | .mx4 => 13 | .s64 => 14 | .c15 => 15

/-- Element width in bits (04 R72); the block types have the width of their elements (R84). -/
def Ty.width : Ty → Nat
  | .s64 => 64
  | .s32 | .n32 | .f32 => 32
  | .s16 | .n16 | .f16 | .bf16 => 16
  | .s8 | .n8 | .e4m3 | .e5m2 | .mx8 => 8
  | .e2m1 | .mx4 | .c15 => 4

/-- Elements per lane (04 R72). -/
def Ty.count (t : Ty) : Nat := if t = .s64 then 1 else 32 / t.width

/-- The integer types (04 R73). -/
def Ty.isInt : Ty → Bool
  | .s32 | .n32 | .s16 | .n16 | .s8 | .n8 | .s64 => true
  | _ => false

/-- Signed integer types (04 R73). -/
def Ty.signed : Ty → Bool
  | .s32 | .s16 | .s8 | .s64 => true
  | _ => false

/-- The floating-point element types (04 R75). -/
def Ty.isFloat : Ty → Bool
  | .f32 | .f16 | .bf16 | .e4m3 | .e5m2 | .e2m1 => true
  | _ => false

/-- The types that MD.ftz flushes (04 R77). -/
def Ty.flushes : Ty → Bool
  | .f32 | .f16 | .bf16 => true
  | _ => false

/-- The integer types. -/
def allInt : List Ty := [.s32, .n32, .s16, .n16, .s8, .n8, .s64]
/-- The integer types without s64 (05 R104 "narrow"). -/
def narrowInt : List Ty := [.s32, .n32, .s16, .n16, .s8, .n8]
/-- Codes 0 to 11 and 14: the types of ld and st (07 R185). -/
def memTypes : List Ty := [.s32, .n32, .s16, .n16, .s8, .n8, .f32, .f16, .bf16, .e4m3, .e5m2, .e2m1, .s64]

/-- The exception flags of an element (04 R83): bit 0 invalid, 1 divzero, 2 overflow, 3 underflow, 4 inexact. -/
abbrev Flags := BitVec 5
/-- R83 invalid -/
def fInvalid : Flags := 1
/-- R83 divzero -/
def fDivzero : Flags := 2
/-- R83 overflow -/
def fOverflow : Flags := 4
/-- R83 underflow -/
def fUnderflow : Flags := 8
/-- R83 inexact -/
def fInexact : Flags := 16

/-- The flag when a condition holds. -/
def flagIf (c : Bool) (f : Flags) : Flags := if c then f else 0

/-! ### Integers -/

/-- The value of an element of an integer type (04 R73). -/
def intVal (t : Ty) (x : Nat) : Int :=
  let y := x % 2 ^ t.width
  if t.signed && (2 ^ (t.width - 1) ≤ y) then (y : Int) - 2 ^ t.width else y

/-- The least value of an integer type (04 R73). -/
def Ty.minInt (t : Ty) : Int := if t.signed then -(2 ^ (t.width - 1)) else 0
/-- The greatest value of an integer type (04 R73). -/
def Ty.maxInt (t : Ty) : Int := if t.signed then 2 ^ (t.width - 1) - 1 else 2 ^ t.width - 1

/-- `Wrap(t, x)` as a bit pattern (04 R74). -/
def wrapInt (t : Ty) (x : Int) : Nat := (x % 2 ^ t.width).toNat
/-- `Saturate(t, x)` as a bit pattern (04 R74). -/
def satInt (t : Ty) (x : Int) : Nat := wrapInt t (max t.minInt (min t.maxInt x))
/-- `FitInt(t, x)` (05 R101). -/
def fitInt (sat : Bool) (t : Ty) (x : Int) : Nat := if sat then satInt t x else wrapInt t x

/-! ### Floating point -/

/-- The fields of a floating-point type (04 R75): mantissa bits, exponent bits, bias. -/
structure Fmt where
  m : Nat
  e : Nat
  bias : Int
  deriving DecidableEq, Repr

/-- The format of a type (04 R75, R84). -/
def Ty.fmt : Ty → Fmt
  | .f16 => ⟨10, 5, 15⟩
  | .bf16 => ⟨7, 8, 127⟩
  | .e4m3 | .mx8 => ⟨3, 4, 7⟩
  | .e5m2 => ⟨2, 5, 15⟩
  | .e2m1 | .mx4 => ⟨1, 2, 1⟩
  | _ => ⟨23, 8, 127⟩

/-- The largest finite pattern, without sign (04 R75). -/
def Ty.maxPat : Ty → Nat
  | .f16 => 0x7BFF | .bf16 => 0x7F7F | .e4m3 | .mx8 => 0x7E | .e5m2 => 0x7B | .e2m1 | .mx4 => 7 | _ => 0x7F7FFFFF

/-- The pattern of +infinity, in the types that have one (04 R75). -/
def Ty.infPat : Ty → Option Nat
  | .f32 => some 0x7F800000 | .f16 => some 0x7C00 | .bf16 => some 0x7F80 | .e5m2 => some 0x7C | _ => none

/-- The canonical NaN (04 R76); for e2m1, which has none, the +0 of R81. -/
def Ty.nanPat : Ty → Nat
  | .f32 => 0x7FC00000 | .f16 => 0x7E00 | .bf16 => 0x7FC0 | .e4m3 | .mx8 => 0x7F | .e5m2 => 0x7E | _ => 0

/-- The sign bit of a type as a number. -/
def Ty.signPat (t : Ty) : Nat := 2 ^ (t.fmt.m + t.fmt.e)

/-- An exact floating-point value: NaN, an infinity, or ± n·2^e (n = 0 is a signed zero). -/
inductive FV where
  | nan
  | inf (s : Bool)
  | fin (s : Bool) (n : Nat) (e : Int)
  deriving DecidableEq, Repr

/-- The value of a pattern (04 R75). -/
def fval (t : Ty) (x : Nat) : FV :=
  let f := t.fmt
  let s := x.testBit (f.m + f.e)
  let E := x >>> f.m % 2 ^ f.e
  let M := x % 2 ^ f.m
  let mag := x % 2 ^ (f.m + f.e)
  if t.infPat = some mag then .inf s
  else if t.maxPat < mag then .nan
  else if E = 0 then .fin s M (1 - f.bias - f.m)
  else .fin s (2 ^ f.m + M) (E - f.bias - f.m)

/-- Whether a pattern is a subnormal of its type. -/
def isSubnormal (t : Ty) (x : Nat) : Bool :=
  let f := t.fmt
  (x >>> f.m % 2 ^ f.e == 0) && (x % 2 ^ f.m != 0)

/-- `In(t, x)`: a vector input after R77, with the underflow flag of a flush (R83). -/
def finput (ftz : Bool) (t : Ty) (x : Nat) : FV × Flags :=
  if ftz && t.flushes && isSubnormal t x then (.fin (x.testBit (t.fmt.m + t.fmt.e)) 0 0, fUnderflow)
  else (fval t x, 0)

/-- An exact result before rounding: ± (n/d)·2^e, n = 0 a signed zero. -/
structure Exact where
  s : Bool
  n : Nat
  d : Nat
  e : Int
  deriving DecidableEq, Repr

/-- Shift left by an integer amount, as a fraction's numerator and denominator. -/
def scaleFrac (n d : Nat) (k : Int) : Nat × Nat :=
  if 0 ≤ k then (n <<< k.toNat, d) else (n, d <<< (-k).toNat)

/-- floor(log2 (n/d · 2^e)) for n, d > 0. -/
def floorLog2 (n d : Nat) (e : Int) : Int :=
  let g : Int := (Nat.log2 n : Int) - Nat.log2 d
  let (a, b) := scaleFrac n d (-g)
  (if a < b then g - 1 else g) + e

/-- Whether a rounding of lo + r/D goes to hi (04 R78, R79); `odd` is the lowest mantissa bit of lo, s the sign of x,
q the draw. -/
def roundsUp (mode : Nat) (s odd : Bool) (r D q : Nat) : Bool :=
  if r = 0 then false else
  match mode with
  | 0 => D < 2 * r || (2 * r == D && odd)
  | 1 => false
  | 2 => !s
  | 3 => s
  | 4 => D ≤ 2 * r
  | _ => q < 2 ^ 32 * r / D

/-- A magnitude on the unbounded grid of t (04 R78): its encoded magnitude bits, whether it is inexact, and whether x
lies below the smallest normal. -/
def roundGrid (t : Ty) (mode q : Nat) (s : Bool) (n d : Nat) (e : Int) : Nat × Bool × Bool :=
  if n = 0 then (0, false, false) else
  let f := t.fmt
  let emin : Int := 1 - f.bias
  let E := floorLog2 n d e
  let u := max E emin - f.m
  let (a, b) := scaleFrac n d (e - u)
  let lo := a / b
  let r := a % b
  let k := if roundsUp mode s (lo % 2 == 1) r b q then lo + 1 else lo
  ((u - (emin - f.m)).toNat * 2 ^ f.m + k, r != 0, E < emin)

/-- Whether overflow of sign s goes to infinity (04 R80). -/
def overflowInf (mode : Nat) (s : Bool) : Bool :=
  match mode with
  | 1 => false
  | 2 => !s
  | 3 => s
  | _ => true

/-- An infinity of sign s in type t (04 R80, R81). -/
def infResult (t : Ty) (sat s : Bool) : Nat :=
  let sg := if s then t.signPat else 0
  match t.infPat with
  | some p => sg + p
  | none => if t.nanPat = 0 || sat then sg + t.maxPat else t.nanPat

/-- `RoundTo(t, x, mode)` with overflow by R80, as a pattern and flags; satConv is MD.sat in a conversion. -/
def roundTo (t : Ty) (mode q : Nat) (satConv : Bool) (x : Exact) : Nat × Flags :=
  let (mag, inx, tiny) := roundGrid t mode q x.s x.n x.d x.e
  let sg := if x.s then t.signPat else 0
  if t.maxPat < mag then
    (if satConv || !overflowInf mode x.s then sg + t.maxPat else infResult t satConv x.s, fOverflow ||| fInexact)
  else (sg + mag, flagIf inx fInexact ||| flagIf (inx && tiny) fUnderflow)

/-- The flush of a result (04 R77). -/
def flushOut (ftz : Bool) (t : Ty) (x : Nat × Flags) : Nat × Flags :=
  if ftz && t.flushes && isSubnormal t x.1 then
    ((if x.1.testBit (t.fmt.m + t.fmt.e) then t.signPat else 0), x.2 ||| fUnderflow ||| fInexact)
  else x

/-- What an operation gives before rounding: a NaN (with its flags), an infinity, or an exact number. -/
inductive FRes where
  | nan (fl : Flags)
  | inf (s : Bool) (fl : Flags)
  | num (x : Exact)
  deriving DecidableEq, Repr

/-- `Out(t, x)` of R111: RoundTo, then R80, R76, R77. -/
def foutput (rnd : Nat) (ftz : Bool) (t : Ty) (q : Nat) : FRes → Nat × Flags
  | .nan fl => (t.nanPat, fl)
  | .inf s fl => (infResult t false s, fl)
  | .num x => flushOut ftz t (roundTo t rnd q false x)

/-- A finite value as an exact number. -/
def exactOf (s : Bool) (n : Nat) (e : Int) : FRes := .num ⟨s, n, 1, e⟩

/-- A signed dyadic number m·2^e. -/
structure Dy where
  m : Int
  e : Int
  deriving DecidableEq, Repr

/-- ± n·2^e as a dyadic number. -/
def dyOf (s : Bool) (n : Nat) (e : Int) : Dy := ⟨if s then -(n : Int) else n, e⟩

/-- The exact sum of two dyadic numbers. -/
def Dy.add (a b : Dy) : Dy :=
  let e := min a.e b.e
  ⟨a.m * 2 ^ (a.e - e).toNat + b.m * 2 ^ (b.e - e).toNat, e⟩

/-- The exact product of two dyadic numbers. -/
def Dy.mul (a b : Dy) : Dy := ⟨a.m * b.m, a.e + b.e⟩

/-- a < b. -/
def Dy.lt (a b : Dy) : Bool :=
  let e := min a.e b.e
  a.m * 2 ^ (a.e - e).toNat < b.m * 2 ^ (b.e - e).toNat

/-- a = b. -/
def Dy.eq (a b : Dy) : Bool := !a.lt b && !b.lt a

/-- A dyadic number as an exact result; zs is the sign of an exact zero. -/
def Dy.exact (a : Dy) (zs : Bool) : Exact := ⟨if a.m = 0 then zs else a.m < 0, a.m.natAbs, 1, a.e⟩

/-- a + b by IEEE 754 (05 R112); an exact zero of opposite signs is −0 under rd. -/
def fvAdd (rnd : Nat) (a b : FV) : FRes :=
  match a, b with
  | .nan, _ => .nan 0
  | _, .nan => .nan 0
  | .inf s, .inf s' => if s = s' then .inf s 0 else .nan fInvalid
  | .inf s, .fin .. => .inf s 0
  | .fin .., .inf s => .inf s 0
  | .fin s n e, .fin s' n' e' =>
    .num (((dyOf s n e).add (dyOf s' n' e')).exact (if s = s' then s else rnd == 3))

/-- The negation of a value. -/
def FV.neg : FV → FV
  | .nan => .nan
  | .inf s => .inf (!s)
  | .fin s n e => .fin (!s) n e

/-- a × b by IEEE 754 (05 R112), as a value when both are finite. -/
def fvMul (a b : FV) : FRes :=
  match a, b with
  | .nan, _ => .nan 0
  | _, .nan => .nan 0
  | .inf s, .inf s' => .inf (s != s') 0
  | .inf s, .fin s' n _ => if n = 0 then .nan fInvalid else .inf (s != s') 0
  | .fin s n _, .inf s' => if n = 0 then .nan fInvalid else .inf (s != s') 0
  | .fin s n e, .fin s' n' e' => exactOf (s != s') (n * n') (e + e')

/-- a × b + d with one rounding (05 R111, R112). -/
def fvFma (rnd : Nat) (a b d : FV) : FRes :=
  match fvMul a b with
  | .nan fl => .nan (if d = .nan then 0 else fl)
  | .inf s _ => fvAdd rnd (.inf s) d
  | .num x => fvAdd rnd (.fin x.s x.n x.e) d

/-- a < b of two values that are not NaN, −0 equal to +0. -/
def fvLt : FV → FV → Bool
  | .nan, _ => false
  | _, .nan => false
  | .inf s, .inf s' => s && !s'
  | .inf s, .fin .. => s
  | .fin .., .inf s' => !s'
  | .fin s n e, .fin s' n' e' => (dyOf s n e).lt (dyOf s' n' e')

/-- a = b of two values, a NaN equal to nothing. -/
def fvEq (a b : FV) : Bool := a != .nan && b != .nan && !fvLt a b && !fvLt b a

/-- The sign of a value. -/
def FV.sign : FV → Bool
  | .nan => false
  | .inf s => s
  | .fin s _ _ => s

/-- a ordered below b, −0 below +0 (05 R113). -/
def fvBelow (a b : FV) : Bool := fvLt a b || (fvEq a b && a.sign && !b.sign)

/-! ### Functions of one operand (05 R116, R117) -/

/-- The integer square root by bits: k bits remain, r is the root so far. -/
def isqrtAux (n : Nat) : Nat → Nat → Nat
  | 0, r => r
  | k + 1, r => if (r + 2 ^ k) * (r + 2 ^ k) ≤ n then isqrtAux n k (r + 2 ^ k) else isqrtAux n k r

/-- floor(√n). -/
def isqrt (n : Nat) : Nat := isqrtAux n (Nat.log2 n / 2 + 1) 0

/-- A number known to lie strictly between r and r + 1 cells of 2^e, or exactly on r: a representative that rounds the
same, since every rounding boundary is a whole number of cells. -/
def sticky (exact : Bool) (r : Nat) (e : Int) : Exact :=
  if exact then ⟨false, r, 1, e⟩ else ⟨false, 2 * r + 1, 1, e - 1⟩

/-- √(n·2^e). -/
def sqrtExact (n : Nat) (e : Int) : Exact :=
  let (n, e) := if e % 2 = 0 then (n, e) else (2 * n, e - 1)
  let m := n <<< 320
  let r := isqrt m
  sticky (r * r == m) r (e / 2 - 160)

/-- 1 ÷ √(n·2^e). -/
def rsqrtExact (n : Nat) (e : Int) : Exact :=
  let (n, e) := if e % 2 = 0 then (n, e) else (2 * n, e - 1)
  let m := 2 ^ 400 / n
  let r := isqrt m
  sticky (r * r * n == 2 ^ 400) r (-(e / 2) - 200)

/-- Fixed-point bits of the series below. -/
def fxBits : Nat := 400
/-- ln 2 in fixed point. -/
def fxLn2 : Nat := 0xb17217f7d1cf79abc9e3b39803f2f6af40f343267298b62d8a0d175b8baafa2be7b876206debac98559552fb4afa1b10ed2e
/-- π in fixed point. -/
def fxPi : Nat := 0x3243f6a8885a308d313198a2e03707344a4093822299f31d0082efa98ec4e6c89452821e638d01377be5466cf34e90c6cc0ac

/-- Σ of tⱼ with tⱼ₊₁ = tⱼ·x/(k·(k+1)) or so, by the step given: the exponential series. -/
def expSeries (x : Nat) : Nat → Nat → Nat → Nat → Nat
  | 0, _, _, acc => acc
  | fuel + 1, k, term, acc => expSeries x fuel (k + 1) (((term * x) >>> fxBits) / (k + 1)) (acc + term)

/-- The alternating series of sine (k = 1, term = x) and cosine (k = 0, term = 1) in x² (fixed point). -/
def trigSeries (x2 : Nat) : Nat → Nat → Nat → Bool → Int → Int
  | 0, _, _, _, acc => acc
  | fuel + 1, k, term, neg, acc =>
    trigSeries x2 fuel (k + 2) (((term * x2) >>> fxBits) / ((k + 1) * (k + 2))) (!neg)
      (if neg then acc - term else acc + term)

/-- The series of atanh: Σ z^(2k+1)/(2k+1). -/
def atanhSeries (z2 : Nat) : Nat → Nat → Nat → Nat → Nat
  | 0, _, _, acc => acc
  | fuel + 1, k, pow, acc => atanhSeries z2 fuel (k + 2) ((pow * z2) >>> fxBits) (acc + pow / k)

/-- 2^x of a finite non-zero x = ± n·2^e, rounded as the exact value is (log 20). -/
def exp2Exact (s : Bool) (n : Nat) (e : Int) : Exact :=
  if (floorLog2 n 1 e) ≥ 8 then ⟨false, 1, 1, if s then -400 else 400⟩
  else
    let (a, b) := scaleFrac n 1 e
    if a % b = 0 then ⟨false, 1, 1, if s then -(a / b : Int) else a / b⟩
    else
      let x : Int := if s then -(a : Int) else a
      let k := x / b
      let f := ((x % b).toNat <<< fxBits) / b
      let y := expSeries ((f * fxLn2) >>> fxBits) 90 0 (2 ^ fxBits) 0
      { sticky false y (-(fxBits : Int)) with e := k - fxBits - 1 }

/-- log2 of a finite x = n·2^e > 0, rounded as the exact value is (log 20); of 1 it is +0 (DESIGN CHOICE, log 188). -/
def log2Exact (n : Nat) (e : Int) : Exact :=
  let g := Nat.log2 n
  let k : Int := g + e
  if n = 2 ^ g then ⟨k < 0, k.natAbs, 1, 0⟩
  else
    let z := ((n - 2 ^ g) <<< fxBits) / (n + 2 ^ g)
    let lnm := 2 * atanhSeries ((z * z) >>> fxBits) 130 1 z 0
    let v : Int := k * 2 ^ fxBits + ((lnm <<< fxBits) / fxLn2 : Nat)
    ⟨v < 0, (2 * v + 1).natAbs, 1, -(fxBits : Int) - 1⟩

/-- sin(2π·t/2^(fxBits)) or its cosine for 0 < t < 2^fxBits/4, exclusive of the exact points (log 20). -/
def quarterWave (cosine : Bool) (t : Nat) : Nat :=
  let x := (2 * t * fxPi) >>> fxBits
  let x2 := (x * x) >>> fxBits
  (if cosine then trigSeries x2 60 0 (2 ^ fxBits) false 0 else trigSeries x2 60 1 x false 0).toNat

/-- sin(2πa) or cos(2πa) of a finite a = ± n·2^e (05 R116, R117). -/
def turnExact (cosine : Bool) (s : Bool) (n : Nat) (e : Int) : Exact :=
  let (a, b) := scaleFrac n 1 e
  let x : Int := if s then -(a : Int) else a
  let r := (x % b).toNat
  let quad := (4 * r) / b
  let q := if cosine then (quad + 1) % 4 else quad
  let rem := 4 * r % b
  let useCos := q % 2 == 1
  let neg := q ≥ 2
  if rem = 0 then (if useCos then ⟨neg, 1, 1, 0⟩ else ⟨if cosine then false else s, 0, 1, 0⟩)
  else { sticky false (quarterWave useCos ((rem <<< fxBits) / (4 * b))) (-(fxBits : Int)) with s := neg }

/-- The functions of R116 that round, and their special inputs (R117). -/
inductive UFn where
  | rcp | rsq | sqrt | ex2 | lg2 | sin | cos
  deriving DecidableEq, Repr

/-- The exact result of a function of R116 for an input after R77. -/
def ufn (f : UFn) (a : FV) : FRes :=
  match f, a with
  | _, .nan => .nan 0
  | .rcp, .inf s => exactOf s 0 0
  | .rcp, .fin s n e => if n = 0 then .inf s fDivzero else .num ⟨s, 1, n, -e⟩
  | .rsq, .inf s => if s then .nan fInvalid else exactOf false 0 0
  | .rsq, .fin s n e =>
    if n = 0 then .inf s fDivzero else if s then .nan fInvalid else .num (rsqrtExact n e)
  | .sqrt, .inf s => if s then .nan fInvalid else .inf false 0
  | .sqrt, .fin s n e =>
    if n = 0 then exactOf s 0 0 else if s then .nan fInvalid else .num (sqrtExact n e)
  | .ex2, .inf s => if s then exactOf false 0 0 else .inf false 0
  | .ex2, .fin s n e => if n = 0 then exactOf false 1 0 else .num (exp2Exact s n e)
  | .lg2, .inf s => if s then .nan fInvalid else .inf false 0
  | .lg2, .fin s n e =>
    if n = 0 then .inf true fDivzero else if s then .nan fInvalid else .num (log2Exact n e)
  | .sin, .inf _ => .nan fInvalid
  | .sin, .fin s n e => if n = 0 then exactOf s 0 0 else .num (turnExact false s n e)
  | .cos, .inf _ => .nan fInvalid
  | .cos, .fin s n e => if n = 0 then exactOf false 1 0 else .num (turnExact true s n e)

/-- The integer nearest to ± n·2^e under a mode, and whether it is inexact (04 R78, R82). -/
def roundInt (mode q : Nat) (s : Bool) (n : Nat) (e : Int) : Int × Bool :=
  let (a, b) := scaleFrac n 1 e
  let lo := a / b
  let r := a % b
  let k := if roundsUp mode s (lo % 2 == 1) r b q then lo + 1 else lo
  (if s then -(k : Int) else k, r != 0)

/-- `frnd` of a value after R77 (05 R116, R117). -/
def frndRes (t : Ty) (rnd : Nat) (ftz : Bool) (q : Nat) (a : FV) : Nat × Flags :=
  match a with
  | .nan => (t.nanPat, 0)
  | .inf s => (infResult t false s, 0)
  | .fin s n e =>
    let (k, inx) := roundInt rnd q s n e
    let x := foutput 0 ftz t 0 (exactOf s k.natAbs 0)
    (x.1, flagIf inx fInexact ||| flagIf (inx && (floorLog2 n 1 e < 1 - t.fmt.bias)) fUnderflow)

/-! ### Conversion -/

/-- The conversion of an exact floating value to type t (04 R81, R82) under a rounding mode, sat and ftz, with draw q. -/
def fvTo (t : Ty) (rnd : Nat) (sat ftz : Bool) (q : Nat) (v : FV) : Nat × Flags :=
  if t.isInt then
    match v with
    | .nan => (0, fInvalid)
    | .inf s => (satInt t (if s then t.minInt - 1 else t.maxInt + 1), fInvalid)
    | .fin s n e =>
      let (k, inx) := roundInt rnd q s n e
      if k < t.minInt || t.maxInt < k then (satInt t k, fInvalid) else (wrapInt t k, flagIf inx fInexact)
  else
    match v with
    | .nan => if t.nanPat = 0 then (0, fInvalid) else (t.nanPat, 0)
    | .inf s => (infResult t sat s, flagIf (t.infPat == none) fOverflow)
    | .fin s n e => flushOut ftz t (roundTo t rnd q sat ⟨s, n, 1, e⟩)

/-- `Convert(f, t, x)` of a pattern x, with the exact scale 2^sx of a buffer record between floating types (04 R81,
07 R183). -/
def convertEl (f t : Ty) (sx : Int) (rnd : Nat) (sat ftz : Bool) (q x : Nat) : Nat × Flags :=
  if f.isInt then
    if t.isInt then (fitInt sat t (intVal f x), flagIf (intVal f x < t.minInt || t.maxInt < intVal f x) fInvalid)
    else
      let v := intVal f x
      flushOut ftz t (roundTo t rnd q sat ⟨v < 0, v.natAbs, 1, 0⟩)
  else
    let (v, fl) := finput ftz f x
    let v' := match v with
      | .fin s n e => if t.isInt then v else .fin s n (e + sx)
      | w => w
    let r := fvTo t rnd sat ftz q v'
    (r.1, r.2 ||| fl)

/-- Whether a conversion between two types rounds (04 R23 note, 07 R183). -/
def cvtRounds (f t : Ty) : Bool := !(f.isInt && t.isInt)

/-- The value of an E8M0-scaled block element (04 R84): scale byte x, element pattern. -/
def blockVal (elem : Ty) (x pat : Nat) : FV :=
  if x = 0xFF then .nan else
  match fval elem pat with
  | .fin s n e => .fin s n (e + x - 127)
  | v => v

/-! ### Exact sums (04 R89 to R92) -/

/-- What the products of a k-step add up to (R90). -/
structure ProdSum where
  /-- a NaN, infinity × 0, or infinities of both signs -/
  nan : Bool := false
  inf : Option Bool := none
  sum : Dy := ⟨0, 0⟩
  /-- every product so far is −0 -/
  negZero : Bool := true
  deriving DecidableEq, Repr

/-- One more product (R89, R90). -/
def ProdSum.add (p : ProdSum) (a b : FV) : ProdSum :=
  match fvMul a b with
  | .nan _ => { p with nan := true }
  | .inf s _ => { p with nan := p.nan || p.inf == some (!s), inf := some s, negZero := false }
  | .num x => { p with sum := p.sum.add (dyOf x.s x.n x.e), negZero := p.negZero && x.n == 0 && x.s }

/-- The sum of all products of a k-step. -/
def prodSum (ab : List (FV × FV)) : ProdSum := ab.foldl (fun p x => p.add x.1 x.2) {}

/-- `MatrixStep` for f32 accumulators (04 R89, R90), as a pattern: nothing is flushed, both roundings are rne. -/
def matrixStep (acc : Nat) (ab : List (FV × FV)) : Nat :=
  let p := prodSum ab
  let a := fval .f32 acc
  if p.nan || a = .nan then Ty.f32.nanPat
  else
    let t : Nat := match p.inf with
      | some s => infResult .f32 false s
      | none => (roundTo .f32 0 0 false (p.sum.exact p.negZero)).1
    (foutput 0 false .f32 0 (fvAdd 0 a (fval .f32 t))).1

/-- A k-step for s32 accumulators (04 R91). -/
def matrixStepInt (acc : Nat) (ab : List (Int × Int)) : Nat :=
  wrapInt .s32 (intVal .s32 acc + ab.foldl (fun s x => s + x.1 * x.2) 0)

/-! ### The lane random sequence (04 R93) -/

/-- One round of Philox4x32-10: the four words and the two key words. -/
def philoxRound (x : Nat × Nat × Nat × Nat) (k : Nat × Nat) : Nat × Nat × Nat × Nat :=
  let p0 := 0xD2511F53 * x.1
  let p1 := 0xCD9E8D57 * x.2.2.1
  ((p1 >>> 32 ^^^ x.2.1) ^^^ k.1, p1 % 2 ^ 32, (p0 >>> 32 ^^^ x.2.2.2) ^^^ k.2, p0 % 2 ^ 32)

/-- The rounds of Philox. -/
def philoxAux : Nat → Nat × Nat × Nat × Nat → Nat × Nat → Nat × Nat × Nat × Nat
  | 0, x, _ => x
  | n + 1, x, k =>
    philoxAux n (philoxRound x k) ((k.1 + 0x9E3779B9) % 2 ^ 32, (k.2 + 0xBB67AE85) % 2 ^ 32)

/-- The word w of block c for a seed and a gidx (04 R93). -/
def philox (c gidx seed : DWord) (w : Nat) : Word :=
  let y := philoxAux 10 (bits c.toNat 31 0, bits c.toNat 63 32, bits gidx.toNat 31 0, bits gidx.toNat 63 32)
    (bits seed.toNat 31 0, bits seed.toNat 63 32)
  BitVec.ofNat 32 (match w with | 0 => y.1 | 1 => y.2.1 | 2 => y.2.2.1 | _ => y.2.2.2)

/-- The random state of a lane (04 R93). -/
structure Rand where
  c : DWord := 0
  seed : DWord := 0
  gidx : DWord := 0
  w : BitVec 2 := 0
  deriving DecidableEq, Repr

/-- The next word of a lane's sequence (04 R93). -/
def Rand.word (r : Rand) : Word := philox r.c r.gidx r.seed r.w.toNat
/-- The state after a draw (04 R93). -/
def Rand.next (r : Rand) : Rand := if r.w = 3 then { r with w := 0, c := r.c + 1 } else { r with w := r.w + 1 }

/-- n draws of a lane: the words, first first, and the state after them. -/
def Rand.draws (r : Rand) : Nat → List Nat × Rand
  | 0 => ([], r)
  | n + 1 =>
    let (l, r') := r.next.draws n
    (r.word.toNat :: l, r')

/-! ### Block quantisation (04 R85) -/

/-- The shared exponent X of a block, none when a source is NaN or infinite. -/
def blockExp (emax : Int) (vs : List FV) : Option Int :=
  vs.foldl (fun r v => match r, v with
    | some m, .fin _ n e => if n = 0 then some m else some (max m (max (-127) (min 127 (floorLog2 n 1 e - emax))))
    | _, _ => none) (some (-127))

/-- The E8M0 scale of a block (04 R85, 05 R121 mxscl). -/
def blockScale (emax : Int) (vs : List FV) : Nat :=
  match blockExp emax vs with
  | none => 0xFF
  | some X => (X + 127).toNat

/-- Element i of a quantised block under the scale byte x (05 R121 mxq); a scale of 0xFF raises no flag (log 163). -/
def quantEl (elem : Ty) (x rnd q : Nat) (v : FV) : Nat × Flags :=
  if x = 0xFF then (0, 0) else
  match v with
  | .nan => (elem.nanPat, flagIf (elem.nanPat = 0) fInvalid)
  | .inf s => (infResult elem true s, fOverflow)
  | .fin s n e => roundTo elem rnd q true ⟨s, n, 1, e + 127 - x⟩

end Sys2Proof.Machine
end

