-- ==== Sys2Proof/Machine/State.lean ====
section
/-! DEFINITION. The state of the module as plain data, and State.reset. -/

namespace Sys2Proof.Machine

/-! ### Groups -/

/-- What a path entry holds (07 R170 kind). -/
inductive PKind where
  | free | path | record
  /-- a path saved in a trap frame -/
  | saved
  deriving DecidableEq, Repr

/-- What a path waits for (01 R15, 07 R170). -/
inductive Hold where
  | none
  | merge
  /-- `bar`: the generation that its group joined, none before its arrival (09 R243) -/
  | bar (gen : Option Nat)
  /-- `barw`: the barrier and the generation of its token (09 R242) -/
  | barw (b gen : Nat)
  /-- `gbar`: the generation that its group joined, none before its arrival (09 R245) -/
  | gbar (gen : Option Nat)
  /-- `rend`: the pass that its group's arrival ended, none before it (13 R339) -/
  | rend (pass : Option Nat)
  /-- a monitor: the operation of mwait or cwait (09 R236, 15 R373) -/
  | mon (op : Nat)
  /-- wret: the class and the threshold (07 R178) -/
  | wret (cls thr : Nat)
  /-- grow: the allocation asked for (07 R175) -/
  | grow (n : Nat)
  /-- wtm: the tick awaited (18 R422) -/
  | wtm (t : Nat)
  /-- the end of the path's own wcpin, wcinv or cncl, or a copy engine's acceptance (01 R15) -/
  | op (id : Nat)
  /-- the end of its own tlbi (16 R383) -/
  | tlbi
  /-- released from its wait, with an acquire at a scope owed (09 R237, R239, R243) -/
  | owed (scope : Nat)
  deriving DecidableEq, Repr

/-- A path entry: a path or a join record (06 R133, R134; 07 R170). -/
structure PathEntry where
  kind : PKind := .free
  hold : Hold := .none
  /-- entry index of the join record, 4 to 63; 0 none -/
  rcd : Nat := 0
  level : Nat := 0
  mask : Mask := 0
  pc : DWord := 0
  /-- where a path goes on after a wait that it does not issue again (06 R156) -/
  next : DWord := 0
  md : Word := 0
  /-- issue-order stamps of the model: when it came to the table or the overflow area, or was released there from a wait;
  when it issued last (06 R143, R144) -/
  since : Nat := 0
  issued : Nat := 0
  yielded : Bool := false
  /-- Reticle has evaluated the accesses of its next instruction (19 R441, halt lane) -/
  seen : Bool := false
  /-- why it did not issue when it was last tried, as a code of 19 R458, 0 once it has issued -/
  why : Nat := 0
  /-- its word in the path table is poisoned (21 R467, R469) -/
  bad : Bool := false
  deriving DecidableEq, Repr

/-- The trap registers of a group (06 R160, 07 R169, 03 R70). -/
structure TrapRegs where
  tpc : DWord := 0
  tcause : Word := 0
  tval : Word := 0
  tstat : BitVec 3 := 0
  tmsk : Mask := 0
  flm : Mask := 0
  faddr : DWord := 0
  emiw : Word := 0
  emtw : Word := 0
  eminf : BitVec 7 := 0
  deriving DecidableEq, Repr

/-- The loop registers (06 R154). -/
structure LoopRegs where
  ls0 : DWord := 0
  le0 : DWord := 0
  ls1 : DWord := 0
  le1 : DWord := 0
  lc0 : Word := 0
  lc1 : Word := 0
  deriving DecidableEq, Repr

/-- Poison beside the registers: a bit for each lane of a vector, a scalar, an address register, a predicate lane
(16 R386). -/
structure Poison where
  v : Vector Mask 256 := Vector.replicate 256 0
  s : BitVec 64 := 0
  a : BitVec 16 := 0
  p : Vector Mask 8 := Vector.replicate 8 0
  /-- detail of the poison delivered last (21 R469) -/
  code : Nat := 2
  deriving DecidableEq, Repr

/-- A journal entry: an image line's number, its contents at the replay point and the poison of its registers then
(16 R389; 21 R469). -/
structure JEntry where
  line : Nat
  data : Line
  poison : Nat := 0
  /-- the four path entries of lines 288 to 303, with their waits -/
  paths : List PathEntry := []
  deriving DecidableEq, Repr

/-- A fault awaiting a record or precise replay (16 R384, R390). -/
structure PendFault where
  va : Nat
  /-- kind of R384: 0 read, 1 write, 2 atomic, 3 fetch -/
  kind : Nat
  src : Nat
  detail : Nat
  /-- faults of data are not posted (R386) -/
  data : Bool
  deriving DecidableEq, Repr

/-- A deferred error (16 R487). -/
structure Deferred where
  cause : Nat
  detail : Nat
  tval : Word
  addr : Nat
  deriving DecidableEq, Repr

/-- What a group does besides running (06 R161, 16 R390, R391, R402, 19 R442). -/
inductive GMode where
  | run
  /-- stopped for a pending fault, waiting for the operations after the replay point (R390 step 1) -/
  | settle
  /-- stopped for fault: its records are posted (R390 step 3) -/
  | faulted
  /-- a fetch or record read awaits its reply: the path, the address, the detail, the word and the lanes of a later trap (R391) -/
  | fetch (path addr detail : Nat) (isRec : Bool) (word : Word) (lanes : Mask)
  /-- ecall in a handler: the path awaits its reply (R402) -/
  | service (path : Nat)
  /-- stopped by a context fault (R398) or a cancel -/
  | dead
  /-- every lane has exited (R151) -/
  | ended
  deriving DecidableEq, Repr

/-- Where a group is (01 R12, 16 R393, R396, R403). -/
inductive Home where
  | resident
  /-- being saved (R393) -/
  | saving
  /-- out of the cores: saved, or its slot and lines released after its end (07 R179) -/
  | saved
  deriving DecidableEq, Repr

/-- What follows a release or an acquire of a group (08 R208). -/
inductive After where
  | done
  /-- the acquire of an acquire load, whose drop tick comes after the load (09 R234) -/
  | drops
  /-- an acquire at a scope (fence.ar) -/
  | acquire (scope : Nat)
  /-- the store of a release store, prepared as an operation (09 R234) -/
  | store (op : Nat)
  /-- arrival at block barrier 0 by `bar`, of every path that waits there (09 R243) -/
  | bar
  /-- arrival by `barv`: the scalar that takes the token, the barrier and the expected count (09 R242) -/
  | barv (d id expected : Nat)
  | gbar
  /-- raise the round of a region (09 R249) -/
  | radv (va : Nat)
  /-- a command of the Orrery: op and slot (18 R426) -/
  | orcmd (op slot : Nat)
  /-- the Orrery's translations are dropped: st of the slot when the accesses under them are over (18 R426) -/
  | orst (slot st : Nat)
  /-- create child launches (15 R370) -/
  | launch (op : Nat)
  /-- drop translations: 0 the page of va, 1 the context, 2 all (16 R383) -/
  | tlbi (kind : Nat) (va : Nat)
  deriving DecidableEq, Repr

/-- A release or acquire in progress: the group issues nothing until it ends (08 R206, R207). -/
structure Order where
  acquire : Bool
  scope : Nat
  path : Nat
  /-- operations with a smaller number issued before it -/
  mark : Nat
  tick : Nat
  then_ : After
  deriving DecidableEq, Repr

/-- What a pixel group belongs to (13 R330, R331, R335): the submitting block and gang member, its stamp's corner, its
submission index and its pass. -/
structure Pixel where
  block : Nat
  member : Nat
  x : Nat
  y : Nat
  sub : Nat
  pass : Nat
  deriving DecidableEq, Repr

/-- A group (01 R16; 07 R168 to R170; the other rules at the fields). -/
structure Group where
  ctx : Nat := 0
  block : Nat := 0
  /-- linear index of the group in its block -/
  idx : Nat := 0
  core : Nat := 0
  slot : Nat := 0
  home : Home := .resident
  mode : GMode := .run
  v : Vector Lanes 256 := Vector.replicate 256 (Vector.replicate 16 0)
  s : Vector Word 64 := Vector.replicate 64 0
  a : Vector DWord 16 := Vector.replicate 16 0
  p : Vector Mask 8 := Vector.replicate 8 0
  loops : LoopRegs := {}
  rib : DWord := 0
  /-- physical address of the image while resident (07 R171) -/
  ribPa : Nat := 2 ^ 60
  hlm : Mask := 0
  valloc : Nat := 1
  sup : Bool := false
  /-- return-class counters LD, ST, CP, SM, RT, MX (07 R177) -/
  cnt : Vector Nat 6 := Vector.replicate 6 0
  rng : Vector Rand 16 := Vector.replicate 16 {}
  rd : Vector Nat 16 := Vector.replicate 16 0
  nc : Vector Nat 16 := Vector.replicate 16 0
  /-- return stack of each lane: 8 entries, 0 the oldest (06 R137) -/
  stack : Vector (Vector Word 8) 16 := Vector.replicate 16 (Vector.replicate 8 0)
  trap : TrapRegs := {}
  rpc : DWord := 0
  entry : DWord := 0
  /-- entries 0 to 3 the path table, 4 to 63 the overflow area (06 R135) -/
  paths : Vector PathEntry 64 := Vector.replicate 64 {}
  xmask : Mask := 0xFFFF
  /-- register lines present in the register cache (01 R30) -/
  present : BitVec 256 := BitVec.allOnes 256
  /-- the number of the issue that last named each vector line (01 R30) -/
  used : AMap Nat := []
  /-- vector lines that cores still hold from before the last save, by line: the core (16 R393, R396) -/
  former : AMap Nat := []
  poison : Poison := {}
  journal : List JEntry := []
  /-- undrained stores, oldest first: operations (16 R387) -/
  ssq : List Nat := []
  pend : List PendFault := []
  /-- operations from this number on were issued after the replay point (16 R389) -/
  replayMark : Nat := 0
  precise : Bool := false
  /-- fault records posted and not yet answered (16 R390) -/
  posted : List Nat := []
  /-- an answer of fail was among the replies (16 R390) -/
  failed : Bool := false
  deferred : Option Deferred := none
  order : Option Order := none
  /-- greatest completion components Cd0, Cd1, Cf of its writes (08 R203, R206) -/
  wmax : Nat × Nat × Nat := (0, 0, 0)
  /-- the kept-B record: the register of B and its mode (10 R266) -/
  keptB : Option (Nat × Nat) := none
  mprio : Nat := 0
  /-- the tile of a saved `accq` request (10 R253, R276) -/
  qtile : Option Nat := none
  /-- an armed step: the stepped path's live lanes and, once it has issued, the address that follows (06 R164) -/
  step : Option (Mask × Option DWord) := none
  /-- the lanes with a single-lane step in progress, and those of them whose step has issued a `bar` (19 R455) -/
  hstep : Mask := 0
  hbar : Mask := 0
  /-- tick before which a sleeping group is not placed (16 R403) -/
  wake : Nat := 0
  /-- halted whole by act 6 (19 R442) -/
  halted : Bool := false
  /-- a halt of act 5 or 6 on its way to the group (19 R443) -/
  haltReq : Option Nat := none
  /-- while a halt of another group in the core is on its way: the instructions each lane's path has issued since (19 R443) -/
  skid : Option (Vector Nat 16) := none
  pixel : Option Pixel := none
  /-- issue-order stamps of the model (15 R367, 06 R144) -/
  issued : Nat := 0
  lastPath : Nat := 0
  /-- tick at which the current round of R144 began -/
  round : Nat := 0
  /-- the stepped instruction issued after the replay point (06 R164; 16 R389) -/
  stepBack : Bool := false
  deriving DecidableEq, Repr

/-! ### Operations in flight -/

/-- What an access asks of a leaf (16 R380). -/
inductive Ask where
  | read | write
  /-- an atomic operation or cas -/
  | atomic
  | red
  /-- mwait, cwait -/
  | monitor
  | fetch
  /-- a render-target write -/
  | target
  deriving DecidableEq, Repr

/-- The progress of one memory access (07 R186, 16 R381). -/
inductive AccSt where
  /-- not translated yet -/
  | walk
  /-- translated, on its way to its home -/
  | ready
  /-- served by the home; the fill is on its way -/
  | fill
  | done
  /-- not made: outside the limit, or its address is poisoned -/
  | skip
  /-- did not translate or was not permitted -/
  | fault
  /-- waits for a fault reply in compatibility mode (16 R392) -/
  | parked
  deriving DecidableEq, Repr

/-- One access: the bytes of one element (or part of one) that lie in one 128-byte line. -/
structure Access where
  lane : Nat := 0
  elem : Nat := 0
  /-- first byte of the element's datum that this access carries -/
  off : Nat := 0
  va : Nat
  len : Nat
  ask : Ask := .read
  /-- 4-bit element of a byte: 1 bits [3:0], 2 bits [7:4], 0 whole bytes -/
  nib : Nat := 0
  st : AccSt := .walk
  pa : Nat := 0
  /-- memory type of the leaf: 0 module, 1 host, 2 window (16 R379) -/
  mt : Nat := 0
  cum : Bool := false
  data : Nat := 0
  /-- what was wrong with the data that it read: the detail of poison (21 R469), or 0x100 + the detail of a data-format
  fault (R184) -/
  poison : Option Nat := none
  /-- the bits taken from the speculative store queue (08 R204); of a render-target write, the bits that it writes -/
  fwd : Nat := 0
  fwdData : Nat := 0
  /-- reading or application tick -/
  tick : Nat := 0
  detail : Nat := 0
  /-- parked for a fault record that retry has answered: performed in issue order (16 R392) -/
  retried : Bool := false
  /-- a read of a verification, which is dropped in silence where it does not translate (17 R410) -/
  quiet : Bool := false
  /-- the fill on its way: the whole line or tile, the detail of poison of each half, the halves that it brings, the lease's
  expiry and the fill round (08 R200, R212) -/
  lineData : Nat := 0
  /-- the device link on which the request has gone to a peer (18 R433) -/
  via : Option Nat := none
  linePoison : List Nat := []
  lineValid : BitVec 2 := 3
  expiry : Nat := 0
  round : Option (Nat × Nat) := none
  deriving DecidableEq, Repr

/-- Registers with a write pending (01 R25). -/
structure RegSet where
  v : List Nat := []
  s : List Nat := []
  a : List Nat := []
  p : List Nat := []
  /-- accumulator tiles (10 R259) -/
  t : List Nat := []
  /-- the random state, which a sample may still draw from (11 R290) -/
  rng : Bool := false
  deriving DecidableEq, Repr

/-- A buffer record (07 R180); stype c15 is Nutmeg. -/
structure BufRec where
  base : Nat := 0
  limit : Nat := 0
  sbase : Nat := 0
  pitch : Nat := 0
  ig : Nat := 0
  sx : Int := 0
  ro : Bool := false
  emode : Bool := false
  stype : Ty := .n32
  deriving DecidableEq, Repr

/-- How a load reads (07 R186; 08 R199, R214; 09 R234). -/
inductive LoadHow where
  /-- ld: an L1 copy under its lease, else the home -/
  | l1
  /-- ldc: the home -/
  | home
  /-- lda: the home, then an acquire -/
  | acq
  /-- ldb: the bound, and the .nf variant -/
  | bound (k : Nat) (nf : Bool)
  deriving DecidableEq, Repr

/-- A copy (07 R190 to R192): its form (0 `cp`, 1 `cp` with conv, 2 `cp2d`, 3 `cpr`, 4 `cpdec`), destination, source, length
in bytes, elements, row bytes or superblocks, rows, pitches, bytes of a transposed element (0 none), whether `cpr` writes
memory, records and the source record's index, MD at issue, scopes of its acquire and release. -/
structure Copy where
  form : Nat
  dst : Nat
  src : Nat
  n : Nat
  h : Nat := 1
  sp : Int := 0
  dp : Int := 0
  esz : Nat := 0
  toMem : Bool := true
  srec : BufRec := {}
  drec : BufRec := {}
  sidx : Nat := 0
  md : Word := 0
  acq : Option Nat := none
  rel : Option Nat := none
  deriving DecidableEq, Repr

/-- What an operation in flight does when its accesses settle. -/
inductive OpKind where
  /-- a copy: phase 0 waits for an engine, 1 runs, 2 parked, 3 every chunk written (07 R193, R194) -/
  | copy (x : Copy)
  /-- rtw: the raster state record (13 R335) -/
  | rtw (rs : Nat)
  /-- rclr: record, rectangle, colour (13 R336) -/
  | rclr (rs x0 y0 x1 y1 colour : Nat)
  | rdcmp (rs : Nat)
  /-- zts: predicate, record (13 R337) -/
  | zts (d rs : Nat)
  /-- launch: predicate, template (15 R370) -/
  | launch (d tmpl : Nat)
  /-- ld, ldc, lda, ldb: destination, record, MD at issue -/
  | load (d : Nat) (r : BufRec) (md : Word) (how : LoadHow)
  /-- mwait (no destination) and cwait: condition and operand; phase 1 armed, 2 met or woken, 3 full, 4 poison
  (09 R237, 15 R373) -/
  | mwait (dest : Option Nat) (cond : Nat) (b : Word)
  /-- atom, red (no destination) and cas under a type (09 R229) -/
  | atom (d : Option Nat) (op : Nat) (cas : Bool) (t : Ty)
  /-- rrd and rrd.obs: destination, region, observed (09 R250) -/
  | rrd (d va : Nat) (obs : Bool)
  | lds (d : Nat)
  | store
  /-- mma, mmakb and xmma (lend): tile, type, rows of A and columns of B with their scales (10 R265; 11 R302) -/
  | mma (tile : Nat) (lend : Bool) (t : Ty) (a b sa sb : List Nat)
  | acczr (tile : Nat)
  | accq (tile : Nat)
  | accr (tile : Nat)
  | accld (d tile : Nat)
  /-- accst: tile and the 16 rows to write (10 R269) -/
  | accst (tile : Nat) (rows : List Nat)
  /-- smp, smpg, smpl, txf, smpn (0 to 4): destination, header, type (11 R293) -/
  | sample (ins d hdr : Nat) (t : Ty)
  | wcpin (d hdr : Nat)
  /-- wcinv: the byte, none for wcinv.all (11 R301) -/
  | wcinv (va : Option Nat)
  /-- rtrc, rtnx, rthit (0 to 2): destination, header (12 R317) -/
  | trace (ins d hdr : Nat)
  | sts
  | pref
  /-- a depth test of the raster unit at a peer's home (13 R329; 18 R430) -/
  | depth
  deriving DecidableEq, Repr

/-- An operation in flight (01 R26, 07 R177). -/
structure Op where
  g : Nat
  ctx : Nat
  core : Nat
  pc : DWord
  word : Word
  path : Nat
  /-- active lanes at issue -/
  act : Mask
  live : Mask
  sup : Bool
  kind : OpKind
  cls : Option Nat := none
  /-- tick of issue -/
  tick : Nat
  accs : List Access := []
  /-- a value of each active lane: an address, an operand -/
  vals : AMap Nat := []
  /-- draws of each active lane, for a converting load (07 R183) -/
  draws : AMap (List Nat) := []
  /-- registers it writes (scoreboard) -/
  writes : RegSet := {}
  /-- of an `st`, each lane's words of the source registers, the record and MD, from which its accesses are formed (16 R387) -/
  src : AMap Nat := []
  form : Option (BufRec × Word) := none
  /-- lanes whose result is poisoned -/
  poison : Mask := 0
  /-- every result is delivered or every completion time is known -/
  finished : Bool := false
  /-- held back: in the speculative store queue, not drained (16 R387), or behind a release (09 R234) -/
  queued : Bool := false
  /-- completion components (08 R203) -/
  ct : Nat × Nat × Nat := (0, 0, 0)
  /-- the loop registers and the random state before it issued, of an operation issued in precise mode or in compatibility mode
  (16 R390; 21 R469) -/
  undo : Option (LoopRegs × Vector Rand 16) := none
  /-- the number of its instruction among all that issued -/
  seq : Nat := 0
  /-- progress of the operation, as its kind counts it, and a value it carries -/
  phase : Nat := 0
  result : Nat := 0
  /-- matrix priority at issue, and the raises of ageing (10 R272) -/
  prio : Nat := 0
  aged : Nat := 0
  deriving DecidableEq, Repr

/-! ### Translation, caches and homes -/

/-- A leaf translation with its permissions (16 R379, R381). -/
structure Leaf where
  /-- physical address of the page -/
  pa : Nat
  /-- log2 of the page size: 16, 21 or 30 -/
  bits : Nat
  mt : Nat
  cum : Bool
  s : Bool
  x : Bool
  w : Bool
  r : Bool
  deriving DecidableEq, Repr

/-- A cached leaf: in the micro-TLB of core loc, or for loc = 104 + 128 × die + slice in that slice (16 R381). -/
structure TlbEntry where
  loc : Nat
  ctx : Nat
  page : Nat
  leaf : Leaf
  deriving DecidableEq, Repr

/-- An L1 copy of a 128-byte line (08 R199 to R202, R212). -/
structure L1Line where
  data : Nat
  /-- the poisoned 32-bit words, with the detail of each (21 R467 to R469) -/
  poison : AMap Nat := []
  /-- the halves that the fill brought: not one that the host or a core held (08 R223; 07 R171) -/
  valid : BitVec 2 := 3
  /-- the fill's reading tick -/
  rho : Nat
  expiry : Nat
  /-- fill round, none outside every region -/
  round : Option Nat := none
  /-- region of the line at the fill -/
  region : Option Nat := none
  /-- homed on a peer module (R420) -/
  peer : Bool := false
  /-- reading ticks of bytes updated by stores -/
  upd : AMap Nat := []
  deriving DecidableEq, Repr

/-- An instruction-cache line: 64 bytes at a virtual address of a context (02 R45). -/
structure ICLine where
  ctx : Nat
  va : Nat
  data : Nat
  /-- the detail of its poison (21 R469) -/
  poison : Option Nat := none
  deriving DecidableEq, Repr

/-- A line of an accumulator tile in a core's tile store: its data, poisoned words, and the half-line of memory that it is
(10 R252, R257). -/
structure TileLine where
  data : Line := 0
  poison : Mask := 0
  half : Nat := 0
  deriving DecidableEq, Repr

/-- A weight-cache entry: a whole weight blob (11 R297), the groups that pin it, and the tick of its last use. -/
structure WEntry where
  ctx : Nat
  wbase : Nat
  size : Nat
  data : Nat
  pins : List Nat := []
  used : Nat := 0
  deriving DecidableEq, Repr

/-- A sampler array's lending (11 R303): the entry whose step is in progress, the tick at which it last completed a step,
and whether its timer has run. -/
structure Lend where
  cur : Option Nat := none
  last : Nat := 0
  timer : Bool := false
  deriving DecidableEq, Repr

/-- The use of a built core (21 R471, R474). -/
inductive CoreUse where
  | active | spare | failed
  /-- failing: no further block, and its groups are saved before a spare takes its place -/
  | draining
  deriving DecidableEq, Repr

/-- A kernel descriptor (02 R53). -/
structure KDesc where
  entry : Nat := 0
  initmd : Word := 0
  vregs : Nat := 1
  acc : Nat := 0
  scratch : Nat := 0
  bx : Nat := 16
  by_ : Nat := 1
  bz : Nat := 1
  psize : Nat := 0
  brtab : Nat := 0
  nbuf : Nat := 0
  deriving DecidableEq, Repr

/-- A triangle of the raster queue (13 R328 to R333): submitting block and group, its level, the record's address and
contents with the descriptor of its pixel kernel, vertices, payload, submission index, pass; the next stamp and pixel, the
coverage found so far, whether the stamp's tests are done, the record that it is parked behind, and a depth test in progress
at a peer's home. -/
structure Tri where
  block : Nat
  g : Nat
  sup : Bool
  rsVa : Nat
  rs : Nat
  desc : KDesc
  verts : List Nat
  payload : Word
  sub : Nat
  pass : Nat
  stamp : Nat := 0
  begun : Bool := false
  pix : Nat := 0
  cover : Mask := 0
  park : Option Nat := none
  op : Option Nat := none
  deriving DecidableEq, Repr

/-- A core (01 R11; the rules at the fields). -/
structure Core where
  use : CoreUse := .active
  /-- power-gated (22 R485) -/
  gated : Bool := false
  /-- scratchpad partition in 64 KiB steps (07 R166) -/
  sp : Nat := 0
  /-- bytes of the partition that no resident block owns, listed when not zero (07 R176) -/
  loose : List Host.Cell := []
  loosePoison : List Nat := []
  l1 : AMap L1Line := []
  /-- latest drop tick (08 R207) -/
  drop : Nat := 0
  /-- observed rounds O, by region key (08 R213), least recently used first by stamp -/
  obs : AMap (Nat × Nat) := []
  icache : List ICLine := []
  /-- match counters (19 R438) -/
  matches_ : Vector Nat 16 := Vector.replicate 16 0
  /-- the entry that each bay's matrix engine works on (10 R273) -/
  engines : Vector (Option Nat) 4 := Vector.replicate 4 none
  arrays : Vector Lend 4 := Vector.replicate 4 {}
  wcache : List WEntry := []
  /-- Almanac entries of 192 bits by slot; an unlisted one is 0 (17 R405, R406), and generation counters (17 R413) -/
  almanac : AMap Nat := []
  gens : AMap Nat := []
  /-- the raster queue, in submission order (13 R331) -/
  raster : List Tri := []
  /-- the last sample period in which a scheduler sampled a context, by scheduler × 65536 + context (19 R458) -/
  sampled : AMap Nat := []
  deriving DecidableEq, Repr

/-- The expiry records of a line, and whether it is of a Cumin page (08 R201; 13 R320). -/
structure Expiry where
  d0 : Nat := 0
  d1 : Nat := 0
  f : Nat := 0
  cum : Bool := false
  deriving DecidableEq, Repr

/-- A monitor registration (09 R237). -/
structure Mon where
  op : Nat
  g : Nat
  path : Nat
  pa : Nat
  cond : Nat
  b : Word
  /-- in a Cumin page: compared decoded (09 R236) -/
  cum : Bool := false
  deriving DecidableEq, Repr

/-! ### Contexts and faults -/

/-- A record of a fault ring, from its posting until it is answered (16 R384, R385). -/
structure FaultRec where
  id : Nat
  /-- index in the ring, none while it waits for a place -/
  idx : Option Nat := none
  va : Nat
  kind : Nat
  src : Nat
  detail : Nat
  n : Nat := 1
  arg : Nat := 0
  deriving DecidableEq, Repr

/-- A trace session (19 R457, R460). -/
structure Trace where
  base : DWord := 0
  ctl : Word := 0
  wp : DWord := 0
  rp : DWord := 0
  seq : Word := 0
  /-- the writer's index -/
  idx : Nat := 0
  /-- records on their way to the writer: tick, pc, rib, word 0x18 -/
  queue : List (Nat × Nat × Nat × Nat) := []
  lost : Nat := 0
  /-- completion components of a written record whose release has not ended -/
  wait : Option (Nat × Nat × Nat) := none
  deriving DecidableEq, Repr

/-- A context: descriptor, per-context CSRs, image pool, fault ring (16 R376, R377, R384, R397; 03 R67; 17 R407;
18 R425; 19 R457). -/
structure Ctx where
  resident : Bool := false
  root : Nat := 0
  pool : Nat := 0
  psz : Nat := 0
  fring : Nat := 0
  fwptr : Nat := 0
  fdone : Nat := 0
  fqsz : Nat := 0
  en : Bool := false
  compat : Bool := false
  /-- resident slot (17 R406) -/
  cslot : Nat := 0
  sys : Bool := false
  tvec : DWord := 0
  xmask : Mask := 0xFFFF
  almap : DWord := 0
  ortb : DWord := 0
  trace : Trace := {}
  /-- granules of the pool in use (R397) -/
  granules : List Nat := []
  /-- index of the next ring record -/
  fnext : Nat := 0
  /-- last value of the word at fdone that was acted on -/
  fseen : Nat := 0
  recs : List FaultRec := []
  /-- tick of its last use, for residency -/
  used : Nat := 0
  /-- being saved by host command 4 (22 R482) -/
  hold : Bool := false
  deriving DecidableEq, Repr

/-! ### Work -/

/-- The kinds of entity (15 R349, R369). -/
inductive EKind where
  | job | phase | graph | launch
  | child
  deriving DecidableEq, Repr

/-- The grid of a launch record (15 R351). -/
structure Grid where
  gx : Nat := 1
  gy : Nat := 1
  gz : Nat := 1
  mprio : Nat := 0
  kdesc : Nat := 0
  params : Nat := 0
  seed : DWord := 0
  deps : List Nat := []
  deriving DecidableEq, Repr

/-- A job, phase, graph, launch or child launch (15 R349 to R371). -/
structure Entity where
  kind : EKind
  queue : Nat
  ctx : Nat
  parent : Option Nat := none
  /-- the launch whose group created a child (15 R370) -/
  creator : Option Nat := none
  /-- index among its container's members -/
  index : Nat := 0
  /-- address of its record -/
  rcd : Nat
  status : Nat := 0
  list : Nat := 0
  count : Nat := 0
  nb : Nat := 0
  started : Bool := false
  /-- what its record or its descriptor was rejected for, to be reported when it starts (R353) -/
  bad : Option (Nat × Nat) := none
  /-- its status word cannot be written (R349) -/
  noStatus : Bool := false
  /-- its members' records, or a child's template, have been read (R352, R370) -/
  expanded : Bool := false
  /-- raises of its priority (R364) -/
  aged : Nat := 0
  /-- tick at which a launch became ready (R354, R364) -/
  ready : Option Nat := none
  /-- decided state and detail, before its status word is written (R357) -/
  verdict : Option (Nat × Nat) := none
  ended : Bool := false
  /-- members that have been started, in index order -/
  members : List Nat := []
  grid : Grid := {}
  desc : KDesc := {}
  /-- blocks placed so far, blocks complete -/
  placed : Nat := 0
  done : Nat := 0
  /-- greatest completion components of its writes (R355, R357) -/
  ct : Nat × Nat × Nat := (0, 0, 0)
  /-- generation of its grid counter (09 R245, R246); waits for one -/
  gcount : Option Nat := none
  gwait : Bool := false
  /-- merged with children that name the same template (R371) -/
  merged : Bool := false
  deriving DecidableEq, Repr

/-- A block barrier (09 R240). -/
structure Barrier where
  gen : Nat := 0
  count : Nat := 0
  expected : Nat := 0
  /-- groups that arrived at the generation -/
  arrived : List Nat := []
  deriving DecidableEq, Repr

/-- A block (15 R361, R365; 09 R240; 16 R394, R395). -/
structure Block where
  launch : Nat
  ctx : Nat
  /-- linear index b in the launch -/
  idx : Nat := 0
  /-- cores of its gang members; empty while saved -/
  cores : List Nat := []
  ngroups : Nat := 1
  /-- groups not yet released, and those that ended (15 R365) -/
  groups : List Nat := []
  ended : List Nat := []
  /-- scratchpad bytes of each member, at member × 2^20 + offset, listed when not zero -/
  scratch : List Host.Cell := []
  /-- poisoned scratchpad words -/
  scratchPoison : List Nat := []
  ssize : Nat := 0
  /-- of each gang member: the 64 KiB units of its core's scratchpad partition, accumulator image, first tile slot (07 R166;
  10 R254 to R256) -/
  sbases : List (List Nat) := []
  aibs : List Nat := []
  aslots : List Nat := []
  /-- the tile lines of the resident block's accumulator images in memory: physical address, first key and bytes of each part (10 R255,
  R257) -/
  tilePas : List (Nat × Nat × Nat) := []
  /-- tile lines present in the tile store, at member × 4096 + 16 × tile + row (10 R252, R276) -/
  tiles : AMap TileLine := []
  /-- tokens held by groups, at member × 256 + tile: the block group index of the holder (10 R253) -/
  tokens : AMap Nat := []
  bars : Vector Barrier 16 := Vector.replicate 16 {}
  /-- groups arrived at the grid barrier's generation (09 R245) -/
  garrived : List Nat := []
  /-- groups arrived at rend (13 R339) -/
  rarrived : List Nat := []
  /-- granules of its images and frame (16 R397): first granule and count -/
  granules : List Nat := []
  frame : Nat := 0
  ct : Nat × Nat × Nat := (0, 0, 0)
  placedAt : Nat := 0
  preempt : Bool := false
  /-- reported saved (R394) -/
  reported : Bool := false
  cancelled : Bool := false
  pass : Nat := 0
  /-- triangles submitted in the pass (13 R328) -/
  subs : Nat := 0
  /-- triangles saved with the block (13 R333) -/
  tris : List Tri := []
  /-- a pixel group's block: the submitting block and the pixel kernel's descriptor (13 R330) -/
  pixelOf : Option Nat := none
  pkd : Option KDesc := none
  deriving DecidableEq, Repr

/-- A queue as the command processor examined it last (15 R346 to R348). -/
structure Queue where
  ring : Nat := 0
  ctx : Nat := 0
  prio : Nat := 0
  qsz : Nat := 0
  en : Bool := false
  wptrVa : Nat := 0
  rptrVa : Nat := 0
  /-- physical address of the monitored word, the last value read, and whether a write that made it differ woke the
  registration (R348) -/
  wptrPa : Option Nat := none
  wptr : Nat := 0
  woken : Bool := false
  rptr : Nat := 0
  job : Option Nat := none
  bad : Bool := false
  deriving DecidableEq, Repr

/-- The host registers and the running command (22 R481, R482). -/
structure HostRegs where
  qtb : DWord := 0
  ctb : DWord := 0
  harg0 : DWord := 0
  harg1 : DWord := 0
  harg2 : DWord := 0
  hcmd : Word := 0
  hdone : Word := 0
  tlmb : DWord := 0
  pcap : Word := 0
  hbusy : Bool := false
  ovr : Bool := false
  /-- telemetry records written (R484) -/
  tlm : Nat := 0
  /-- MSI-X signals sent, by vector (R484) -/
  msi : AMap Nat := []
  /-- bytes the host was sent in answer to its last read (08 R222) -/
  readData : Nat := 0
  readPoison : Bool := false
  /-- the last CXL.mem request completed as an unsupported request (R478) -/
  unsupported : Bool := false
  /-- device writes to host memory that carried the poison indication of CXL: address, bytes (21 R468) -/
  poisoned : List (Nat × Nat) := []
  /-- telemetry records sent on the management port: tick, code, argument (R484) -/
  mport : List (Nat × Nat × Nat) := []
  /-- operations that the running invalidate command waits for, once it has dropped its translations (R482) -/
  users : Option (List Nat) := none
  deriving DecidableEq, Repr

/-- A repair of the module (21 R472 to R476). -/
inductive Repair where
  | core (failing spare : Nat)
  | slice (die p : Nat)
  | row (lo hi : Nat)
  | page (ctx va new : Nat) (movable : Bool)
  deriving DecidableEq, Repr

/-- A request for a signature under the device key: for a repair's record or for an attestation report (22 R480). -/
inductive SignAsk where
  | repair (r : Repair)
  | report
  deriving DecidableEq, Repr

/-- Bring-up and flash (22 R478 to R480, 21 R477). -/
structure Boot where
  stage : Nat := 0
  err : Nat := 0
  rlog : Bool := false
  /-- the two banks of firmware and of the signed configuration image in the flash (R479; 00 R3), and the bank in use of each -/
  firmware : Vector (List Byte) 2 := Vector.replicate 2 []
  image : Vector (List Byte) 2 := Vector.replicate 2 []
  fwBank : Nat := 0
  imgBank : Nat := 0
  /-- device key generated -/
  key : Bool := false
  nres : Nat := 0
  nextIndex : Nat := 0
  /-- a reservation being written to flash -/
  reserving : Option Nat := none
  /-- requests for a signature, in the order of their arrival (R480) -/
  asks : List SignAsk := []
  /-- repair records in the flash's log: index of the signature and what the repair was; and those in use (21 R477) -/
  log : List (Nat × Nat × Nat) := []
  live : List (Nat × Nat × Nat) := []
  deriving DecidableEq, Repr

/-- Gnomon's discipline (18 R418, R419). -/
structure Disc where
  src : Nat := 0
  sigma : Nat := 0
  lock : Bool := false
  good : Nat := 0
  last : Nat := 0
  firstJob : Bool := false
  deriving DecidableEq, Repr

/-- A flit as it is sent (18 R431): sequence number, header, payload, and the peer and the address of its message, when it carries
one, by which a failed link's flits find another link (R433). -/
structure Flit where
  seq : Nat
  head : Nat
  payload : List Byte := []
  dest : Option (Nat × Nat) := none
  deriving DecidableEq, Repr

/-- A device link (18 R431 to R433, 21 R471). -/
structure Link where
  /-- 0 down, 1 four lanes, 2 six, 3 eight -/
  lanes : Nat := 0
  roundTrip : Nat := 0
  /-- the tick of the last timing flits (18 R432) -/
  timed : Option Nat := none
  peerSigma : Nat := 0
  peerLocked : Bool := false
  txSeq : Nat := 0
  rxSeq : Nat := 0
  acked : Nat := 0
  /-- the replay buffer: flits sent and not acknowledged -/
  replay : List Flit := []
  /-- every flit that the link has put on its wire, in order -/
  wire : List Flit := []
  /-- bytes in the receive buffers of VC0 to VC3 -/
  buf : Vector Nat 4 := Vector.replicate 4 0
  /-- channels this module was told to pause, and those it paused -/
  paused : BitVec 4 := 0
  pausing : BitVec 4 := 0
  /-- messages delivered, oldest first -/
  inbox : List (Nat × List Byte) := []
  deriving DecidableEq, Repr

/-- A registered round region (18 R424, R426). -/
structure Region where
  base : Nat
  npg : Nat
  counter : Nat := 0
  deriving DecidableEq, Repr

/-- A part of a predicate's window that is installed in the mirrors: predicate, virtual and physical address, bytes
(19 R444). -/
structure Mirror where
  /-- whether the part lies in a Cumin page, whose bytes have their tiles' homes (13 R320) -/
  cum : Bool := false
  pred : Nat
  va : Nat
  pa : Nat
  len : Nat
  deriving DecidableEq, Repr

/-- An uncorrectable error in a store of the module other than DRAM (21 R467, R469; log 125). -/
inductive SoftError where
  /-- a lane's word of a vector register, a scalar register, an address register, a lane of a predicate register -/
  | vector (g n : Nat) (lane : Fin 16)
  | scalar (g n : Nat)
  | address (g n : Nat)
  | predicate (g n : Nat) (lane : Fin 16)
  /-- a word of an entry of a group's path table -/
  | path (g q : Nat)
  /-- a word of a copy in a core's L1 -/
  | l1 (core line : Nat) (word : Fin 32)
  /-- a word of a tile line, a word of a scratchpad (member × 2^18 + offset / 4) -/
  | tile (block key : Nat) (lane : Fin 16)
  | scratch (block word : Nat)
  /-- a structure of a slice set: the set of this line (pa / 128) -/
  | slice (line : Nat)
  /-- an Almanac entry, an entry of the weight cache -/
  | prediction (core slot : Nat)
  | weights (core ctx wbase : Nat)
  deriving DecidableEq, Repr

/-- A turn of the model's scheduler (log 1). -/
inductive Turn where
  | event (i : Instr)
  | issue (g path : Nat)
  | pass (n : Nat)
  /-- the record of a line leaves its slice's tags (08 R201) -/
  | dropRecord (line : Nat)
  /-- an L1 copy is evicted (08 R200) -/
  | evictL1 (core line : Nat)
  /-- a cached translation, an instruction-cache line, an observed round is evicted (16 R381, 02 R45, 18 R427) -/
  | evictTlb (loc ctx page : Nat)
  | evictICache (core : Nat)
  | dropObs (core region : Nat)
  /-- an update of a flash bank from outside: of the image, else of the firmware (00 R3) -/
  | flash (image : Bool) (bank : Nat) (x : List Byte)
  | softError (e : SoftError)
  deriving DecidableEq, Repr

/-- Who makes a move that may have to wait: a turn of the scheduler, or what every agent notices at the end of a step, by its place. -/
inductive Mover where
  | turn (t : Turn)
  | notice (k : Nat)
  deriving DecidableEq, Repr

/-- What waits for halves that the host holds (18 R429): an access, by operation and index, or another move on a half. -/
inductive Waiter where
  | acc (op k : Nat)
  | move (half : Nat) (m : Mover)
  deriving DecidableEq, Repr

/-- The state of a half that the host may hold (18 R429); N is not listed but while device accesses wait for the half. -/
inductive HostHalf where
  /-- H, with the tick of its grant -/
  | h (t : Nat)
  | p
  /-- N again, while these that waited for it are not yet applied -/
  | w (l : List Waiter)
  deriving DecidableEq, Repr

/-- MODEL: what a probe of the schedule disturbs (log 176): the bytes of a peer, of a half or of a sleeping slice. A table entry or a
record there reads as one that faults, or as one that is in order. -/
inductive Probe where
  | peer (n : Nat) (good : Bool)
  | half (h : Nat) (good : Bool)
  | slice (k : Nat) (good : Bool)
  deriving DecidableEq, Repr

/-- The state of the module. -/
structure State where
  gnomon : Nat := 0
  disc : Disc := {}
  boot : Boot := {}
  host : HostRegs := {}
  /-- module memory by physical address; an unlisted byte reads as 0 (22 R478) -/
  mem : List Host.Cell := []
  /-- poisoned half-lines (pa / 64) with the detail of their origin (21 R468, R469) -/
  memPoison : AMap Nat := []
  /-- host memory by host address (16 R379 mt 1; log 11) -/
  hostMem : List Host.Cell := []
  lines : AMap Expiry := []
  floors : AMap Expiry := []
  /-- retention of slices' data arrays (08 R226) -/
  asleep : List Nat := []
  halves : AMap HostHalf := []
  /-- what waits for halves that the host holds, in the order of arrival (18 R429) -/
  waiting : List Waiter := []
  monitors : List Mon := []
  tlb : List TlbEntry := []
  ctxs : AMap Ctx := []
  /-- tlbi in progress: group, kept until its accesses end: operations that used a dropped translation -/
  tlbis : AMap (List Nat) := []
  queues : AMap Queue := []
  entities : AMap Entity := []
  nextEntity : Nat := 1
  /-- the launch whose gang cores are reserved for, its blocks placed then, and the cores (15 R366) -/
  reserve : Option (Nat × Nat × List Nat) := none
  nextRec : Nat := 1
  blocks : AMap Block := []
  nextBlock : Nat := 1
  groups : AMap Group := []
  nextGroup : Nat := 1
  cores : Vector Core 104 := Vector.ofFn fun i => { use := if i.val % 52 < 48 then .active else .spare }
  deadDies : List Nat := []
  /-- live slices: remap tables of the two dies (21 R472) -/
  remap : Vector (Vector Nat 128) 2 := Vector.replicate 2 (Vector.ofFn fun i => i.val)
  retired : List Nat := []
  /-- retired HBM4E stacks, 0 to 7, and GDDR 7 channels, 8 to 23 (21 R476) -/
  units : List Nat := []
  /-- rows repaired, first and last address (21 R475), and 64 KiB frames of memory excluded from use (21 R475, R476) -/
  rows : List (Nat × Nat) := []
  excluded : List Nat := []
  ops : AMap Op := []
  nextOp : Nat := 1
  regions : AMap Region := []
  links : Vector Link 18 := Vector.replicate 18 {}
  /-- peer map of the image: own number, and links of each peer (18 R430) -/
  own : Nat := 0
  peers : AMap (List Nat) := []
  preds : Vector (Vector Word 4) 16 := Vector.replicate 16 (Vector.replicate 4 0)
  /-- installed mirrors (19 R444) -/
  mirrors : List Mirror := []
  /-- match counters of slices, by slice × 16 + predicate (19 R438) -/
  mirrorCnt : AMap Nat := []
  /-- wakes of peers' registrations on their way: peer, address, word (09 R237; 18 R430) -/
  peerWakes : List (Nat × Nat × Nat) := []
  /-- firing mirror matches whose halts are on their way: predicate, act, writer code, group or 0, va, arg (19 R445) -/
  mirrorHalts : List (Nat × Nat × Nat × Nat × Nat × Nat) := []
  /-- power cap excursion in progress (22 R486) -/
  capped : Bool := false
  /-- MODEL: the probe of the schedule (log 176) -/
  probe : Option Probe := none
  /-- which path has the turn: group and path entry -/
  cur : Option (Nat × Nat) := none
  agenda : List Turn := []
  /-- the lease length that the homes choose (08 R200; log 8) -/
  lease : Nat := 256
  /-- counter of free values (log 5) -/
  free : Nat := 0
  /-- counter of issues -/
  issues : Nat := 0
  /-- the last attempt to issue found a path that may not issue yet (01 R25) -/
  stalled : Bool := false
  deriving DecidableEq, Repr

/-- The module right after power-on (22 R478 stage 0): every field at the value of the spec or of log 10. -/
def State.reset : State := {}

/-- Why the machine stops. -/
inductive Fault where
  /-- raised by `exec` of an encoded instruction when no path has the turn: no agent executes it; safe -/
  | noIssuer
  deriving DecidableEq, Repr

/-- Why the model gives no meaning. -/
inductive Refusal where
  /-- raised by an arm of `exec` that has no meaning yet, with the mnemonic; safe -/
  | notModelled (mnemonic : String)
  deriving DecidableEq, Repr

end Sys2Proof.Machine
end

