-- ==== Sys2Proof/Machine/Paths.lean ====
section
/-! DEFINITION. Paths of a group: the path table and the overflow area, dividing and joining, the trap frame (06). -/

namespace Sys2Proof.Machine

/-! ### The mode register (01 R20, R21) -/

/-- MD.type -/
def mdType (md : Word) : Ty := Ty.ofCode (bits md.toNat 8 5)
/-- MD.rnd -/
def mdRnd (md : Word) : Nat := bits md.toNat 11 9
/-- MD.sat -/
def mdSat (md : Word) : Bool := md.getLsbD 12
/-- MD.ftz -/
def mdFtz (md : Word) : Bool := md.getLsbD 13
/-- MD.bufrec -/
def mdBuf (md : Word) : Nat := bits md.toNat 23 16
/-- MD.gp -/
def mdGp (md : Word) : BitVec 3 := md.extractLsb' 0 3
/-- MD.ge -/
def mdGe (md : Word) : Bool := md.getLsbD 3
/-- MD.gs -/
def mdGs (md : Word) : Bool := md.getLsbD 4
/-- The bits of MD that are not reserved (01 R20). -/
def mdLegal (md : Word) : Bool := md &&& 0xFF00C000 == 0

/-- A predicate. -/
def Group.pred (g : Group) (p : BitVec 3) : Mask := g.p[p.toNat]'(by omega)
/-- live(P) of a mask (06 R133). -/
def Group.liveOf (g : Group) (m : Mask) : Mask := m &&& ~~~g.hlm
/-- The lanes that pass the guard (01 R21). -/
def Group.passing (g : Group) (md : Word) : Mask :=
  if mdGe md then (if mdGs md then ~~~g.pred (mdGp md) else g.pred (mdGp md)) else BitVec.allOnes 16
/-- active(P) (00 R10, 01 R21). -/
def Group.activeOf (g : Group) (m : Mask) (md : Word) : Mask := g.liveOf m &&& g.passing md

/-! ### Entries -/

/-- A path entry, free beyond the table. -/
def Group.entryAt (g : Group) (q : Nat) : PathEntry := if h : q < 64 then g.paths[q] else {}
/-- The group with a path entry set. -/
def Group.setEntry (g : Group) (q : Nat) (e : PathEntry) : Group :=
  if h : q < 64 then { g with paths := g.paths.set q e } else g
/-- The group with a path entry changed. -/
def Group.updEntry (g : Group) (q : Nat) (f : PathEntry → PathEntry) : Group := g.setEntry q (f (g.entryAt q))

/-- The indices whose entries hold. -/
def Group.entriesWhere (g : Group) (f : Nat → PathEntry → Bool) : List Nat :=
  (List.range 64).filter fun k => f k (g.entryAt k)

/-- The paths of the group. -/
def Group.pathIdx (g : Group) : List Nat := g.entriesWhere fun _ e => e.kind == .path
/-- Whether the group has more than one path (06 R155 to R157). -/
def Group.manyPaths (g : Group) : Bool := 1 < g.pathIdx.length
/-- The free entries of the overflow area (06 R135). -/
def Group.freeOver (g : Group) : List Nat := g.entriesWhere fun k e => decide (4 ≤ k) && e.kind == .free
/-- The free entries of the path table. -/
def Group.freeTable (g : Group) : List Nat := g.entriesWhere fun k e => decide (k < 4) && e.kind == .free

/-- Entries that stay reserved for the trap frame outside a handler (06 R136). -/
def Group.reserve (g : Group) : Nat := if g.trap.tstat.getLsbD 0 then 0 else 4

/-- Whether an entry of the group refers to a record. -/
def Group.refersTo (g : Group) (r : Nat) : Bool :=
  g.paths.toList.any fun e => e.kind != .free && e.rcd == r

/-- A record that nothing refers to any more is freed, and then its own record likewise (06 R134; a record that a kept
record refers to stays, log 21). -/
def Group.releaseRec (g : Group) (r : Nat) : Nat → Group
  | 0 => g
  | n + 1 =>
    if r < 4 ∨ g.refersTo r then g
    else (g.setEntry r {}).releaseRec (g.entryAt r).rcd n

/-- The entry of a path is freed, and its record if nothing else refers to it. -/
def Group.endPath (g : Group) (q : Nat) : Group :=
  (g.setEntry q {}).releaseRec (g.entryAt q).rcd 60

/-- Whether a path can issue, as far as its own entry says (01 R15). -/
def Group.runnable (g : Group) (e : PathEntry) : Bool := e.kind == .path && e.hold == .none && g.liveOf e.mask != 0

/-- Whether a path that yielded still owes a turn to another runnable path (06 R152); while a step is armed only the
stepped path has turns (06 R164). -/
def Group.owesTurn (g : Group) (q : Nat) : Bool :=
  (g.entryAt q).yielded && g.step.isNone &&
    g.paths.toList.any fun e => g.runnable e && decide (e.issued < (g.entryAt q).issued)

/-- Whether a path of the table may have a turn. -/
def Group.hasTurn (g : Group) (q : Nat) : Bool := g.runnable (g.entryAt q) && !g.owesTurn q

/-- The victim's rank in R143, with halted paths before all (19 R446): smaller goes first. -/
def Group.spillRank (g : Group) (e : PathEntry) : Nat :=
  if g.liveOf e.mask = 0 then 0
  else match e.hold with
    | .merge => 1
    | .none => 3
    | _ => 2

/-- The better of two victims: lower rank, then the one that issued least recently. R143 orders by issue only the runnable
paths; among paths in waits the same order is DESIGN CHOICE (log 131). -/
def Group.betterVictim (g : Group) (a b : Nat) : Nat :=
  let x := g.entryAt a
  let y := g.entryAt b
  if g.spillRank y < g.spillRank x ∨ (g.spillRank y = g.spillRank x ∧ y.issued < x.issued) then b else a

/-- The path that R143 spills from the table, never `keep`. -/
def Group.victim (g : Group) (keep : Nat) : Option Nat :=
  ([0, 1, 2, 3].filter fun k => k != keep && (g.entryAt k).kind == .path).foldl
    (fun r k => match r with | none => some k | some j => some (g.betterVictim j k)) none

/-- A path moves from the table to the first free overflow entry (06 R143 PATH_SPILL). -/
def Group.spill (g : Group) (q : Nat) (tick : Nat) : Group :=
  match g.freeOver with
  | k :: _ => (g.setEntry k { g.entryAt q with since := tick }).setEntry q {}
  | [] => g

/-- A new path comes into being (06 R143): in a free table entry, after a spill if there is none; its index. -/
def Group.addPath (g : Group) (e : PathEntry) (tick : Nat) : Group × Nat :=
  let e := { e with kind := .path, since := tick }
  match g.freeTable with
  | k :: _ => (g.setEntry k e, k)
  | [] =>
    if g.liveOf e.mask = 0 then
      match g.freeOver with
      | k :: _ => (g.setEntry k e, k)
      | [] => (g, 64)
    else match g.victim 64 with
      | some k => ((g.spill k tick).setEntry k e, k)
      | none => (g, 64)

/-- The spilled runnable path that R143 reloads, among those that `ok` admits: the one spilled or released last
(of several none of which was released, DESIGN CHOICE, log 165). -/
def Group.reloadChoice (g : Group) (ok : Nat → Bool := fun _ => true) : Option Nat :=
  (g.entriesWhere fun k e => decide (4 ≤ k) && g.runnable e && ok k).foldl
    (fun r k => match r with
      | none => some k
      | some j => if (g.entryAt j).since < (g.entryAt k).since then some k else some j) none

/-- Spilled paths are reloaded while a table entry is free (06 R143 PATH_RELOAD). -/
def Group.reload (g : Group) (tick : Nat) : Nat → Group
  | 0 => g
  | n + 1 =>
    match g.freeTable, g.reloadChoice with
    | k :: _, some q => ((g.setEntry k { g.entryAt q with since := tick }).setEntry q {}).reload tick n
    | _, _ => g

/-- The paths of table entry k and overflow entry q change places. -/
def Group.swapEntries (g : Group) (k q tick : Nat) : Group :=
  (g.setEntry k { g.entryAt q with since := tick }).setEntry q { g.entryAt k with since := tick }

/-- When no table path may have a turn, a spilled path that may takes the table entry of R143's victim (06 R143, R152;
DESIGN CHOICE, log 166). -/
def Group.makeRoom (g : Group) (tick : Nat) : Group :=
  if [0, 1, 2, 3].any g.hasTurn then g
  else match g.reloadChoice (fun k => !g.owesTurn k), g.victim 64 with
    | some q, some k => g.swapEntries k q tick
    | _, _ => g

/-- The table filled (06 R143): spilled runnable paths take free entries, and one that may have a turn has a place. -/
def Group.fillTable (g : Group) (tick : Nat) : Group := (g.reload tick 4).makeRoom tick

/-- Whether `fillTable` moves a path. -/
def Group.mustFill (g : Group) : Bool :=
  g.reloadChoice.isSome && (!g.freeTable.isEmpty || !([0, 1, 2, 3].any g.hasTurn))

/-- The older of two entries, by the tick at which they came where they are. -/
def Group.older (g : Group) (r : Option Nat) (k : Nat) : Option Nat :=
  match r with
  | none => some k
  | some j => if (g.entryAt k).since < (g.entryAt j).since then some k else some j

/-- Whether a path has lanes of a step that is armed (06 R164). -/
def Group.stepping (g : Group) (e : PathEntry) : Bool := g.step.any fun x => e.mask &&& x.1 != 0

/-- The exchange of R144 at the end of a round that began at g.round: the table path resident longest with the spilled
runnable path that waited longest, when that one stayed spilled for the whole round. The path of an armed step keeps its entry: it
alone issues (R164). -/
def Group.exchange (g : Group) (tick : Nat) : Group :=
  match (g.entriesWhere fun k e => decide (4 ≤ k) && g.runnable e && decide (e.since < g.round)).foldl g.older none,
      (g.entriesWhere fun k e => decide (k < 4) && e.kind == .path && !g.stepping e).foldl g.older none with
  | some q, some k => g.swapEntries k q tick
  | _, _ => g

/-- Nest counters of some lanes set (06 R139, R140). -/
def Group.setNc (g : Group) (m : Mask) (n : Nat) : Group :=
  { g with nc := Vector.ofFn fun l => if lane m l then n else g.nc[l] }

/-- Whether a division needs more overflow entries than are free (06 R136, R139): need, then the reserve. -/
def Group.noRoom (g : Group) (need : Nat) : Bool := g.freeOver.length < need + g.reserve

/-- The live lanes of path q leave it: it ends, or is a halted path from now on (19 R446). The lanes that halted before a handler
have theirs in the trap frame. -/
def Group.leaveHalted (g : Group) (q : Nat) : Group :=
  let e := g.entryAt q
  g.setEntry q (if g.liveOf e.mask = e.mask ∨ g.trap.tstat.getLsbD 0 then {} else { e with mask := e.mask &&& ~~~g.liveOf e.mask })

/-- The division of path q (06 R139): T goes to target, the other live lanes to next, under a new record. Halted lanes of
the path stay in a halted path of their own (19 R446), but for those that halted before the handler, whose path is in the trap
frame (19 R448). Each new path counts in R143 and R144 as one that has issued now (DESIGN CHOICE, log 132). -/
def Group.divide (g : Group) (q : Nat) (T : Mask) (target next : DWord) (tick : Nat) : Group :=
  let e := g.entryAt q
  let L := g.liveOf e.mask
  match g.freeOver with
  | [] => g
  | r :: _ =>
    let g := g.setEntry r { kind := .record, level := e.level, mask := L, md := e.md, rcd := e.rcd }
    let g := g.setNc L (e.level + 1)
    let g := g.leaveHalted q
    let mk (pc : DWord) (m : Mask) : PathEntry :=
      { level := e.level + 1, mask := m, pc := pc, md := e.md, rcd := r, issued := g.issued + 1 }
    let g := if T ≠ 0 then (g.addPath (mk target T) tick).1 else g
    if L &&& ~~~T ≠ 0 then (g.addPath (mk next (L &&& ~~~T)) tick).1 else g

/-- Whether a path waits at a merge of record r with a live lane (06 R140; a halted lane does not count, 19 R446). -/
def Group.atMerge (g : Group) (r : Nat) (e : PathEntry) : Bool :=
  e.kind == .path && e.rcd == r && e.hold == .merge && g.liveOf e.mask != 0

/-- Whether the wait of record r ends (06 R140): every lane of its mask that is not halted and has not exited lies in a
path that refers to r and waits at a merge. -/
def Group.joinReady (g : Group) (r : Nat) : Bool :=
  let Q := g.entryAt r
  Q.kind == .record && Q.hold == .none &&
  g.paths.toList.any (g.atMerge r) &&
  g.paths.toList.all fun e => e.kind != .path || (g.liveOf e.mask &&& Q.mask == 0) || g.atMerge r e

/-- The join of record r (06 R140): one path for each address at which its paths wait. Halted lanes keep their path with its
PC, level, MD and record (06 R134), and a record that such a path still refers to stays, joined (19 R447). A joined path
counts in R143 and R144 as one that has not issued (DESIGN CHOICE, log 132). -/
def Group.join (g : Group) (r : Nat) (tick : Nat) : Group :=
  let Q := g.entryAt r
  let ws := g.entriesWhere fun _ e => g.atMerge r e
  let parts := ws.map fun k => ((g.entryAt k).pc, g.liveOf (g.entryAt k).mask)
  let pcs := (parts.map (·.1)).dedup
  let g := ws.foldl (fun g k =>
    let e := g.entryAt k
    if e.mask &&& ~~~g.liveOf e.mask = 0 then g.setEntry k {} else g.setEntry k { e with mask := e.mask &&& ~~~g.liveOf e.mask }) g
  let g := if g.refersTo r then g.updEntry r fun e => { e with hold := .merge } else g
  let g := pcs.foldl (fun g pc =>
    let m := (parts.filter fun x => x.1 == pc).foldl (fun m x => m ||| x.2) 0
    ((g.setNc m Q.level).addPath { pc := pc + 4, mask := m, level := Q.level, md := Q.md, rcd := Q.rcd } tick).1) g
  g.releaseRec r 60

/-- Some live lanes of path q halt (19 R446): all of them in place, or a new halted path at pc. A handler's path keeps the lanes
that run it, since those that halted before have their path in the trap frame (19 R448). -/
def Group.haltLanes (g : Group) (q : Nat) (m : Mask) (pc : DWord) (tick : Nat) : Group :=
  let e := g.entryAt q
  let live := g.liveOf e.mask
  let m := m &&& live
  if m = 0 then g
  else if live = m then { g with hlm := g.hlm ||| m }.updEntry q fun e => { e with pc := pc, mask := m }
  else
    let g := { g with hlm := g.hlm ||| m }.updEntry q fun e => { e with mask := e.mask &&& ~~~m }
    (g.addPath { e with mask := m, pc := pc, hold := .none } tick).1

/-- Whether a group has a live lane. -/
def Group.anyLive (g : Group) : Bool := g.paths.toList.any fun e => (e.kind == .path || e.kind == .saved) && g.liveOf e.mask != 0

/-- The entries of a kind that hold a lane, all of them or the halted paths. -/
def Group.holders (g : Group) (kind : PKind) (halted : Bool) (l : Fin 16) : Option Nat :=
  (g.entriesWhere fun _ e => e.kind == kind && lane e.mask l && (!halted || g.liveOf e.mask == 0)).head?

/-- The entry of the path that holds a lane. That of a lane which halted before a handler lies in the trap frame (19 R446, R448). -/
def Group.pathOfLane (g : Group) (l : Fin 16) : Option Nat :=
  ((g.holders .path true l).or (if lane g.hlm l then g.holders .saved true l else none)).or (g.holders .path false l)

/-! ### The trap frame (06 R136, R161, R162) -/

/-- Every path saved as the trap frame: table paths move to free overflow entries, spilled ones stay, all of kind 3. -/
def Group.saveFrame (g : Group) : Group :=
  let g := [0, 1, 2, 3].foldl (fun g k =>
    if (g.entryAt k).kind = .path then
      match g.freeOver with
      | j :: _ => (g.setEntry j { g.entryAt k with kind := .saved }).setEntry k {}
      | [] => g
    else g) g
  { g with paths := Vector.ofFn fun i =>
      if g.paths[i].kind = .path then { g.paths[i] with kind := .saved } else g.paths[i] }

/-- The lanes of the trap frame. -/
def Group.frameMask (g : Group) : Mask :=
  g.paths.toList.foldl (fun m e => if e.kind = .saved then m ||| e.mask else m) 0

/-- A path that waits at a merge and whose record has joined meanwhile issues its merge again (19 R447). -/
def Group.remerge (g : Group) : Group :=
  { g with paths := Vector.ofFn fun i =>
      let e := g.paths[i]
      if e.kind = .path ∧ e.hold = .merge ∧ g.liveOf e.mask ≠ 0 ∧ (g.entryAt e.rcd).kind = .record ∧ (g.entryAt e.rcd).hold ≠ .none
      then { e with hold := .none } else e }

/-- The overflow path of some lanes takes a free table entry. -/
def Group.bringIn (g : Group) (m : Mask) (tick : Nat) : Group :=
  match g.entriesWhere (fun k e => decide (4 ≤ k) && e.kind == .path && e.mask &&& m != 0), g.freeTable with
  | q :: _, k :: _ => (g.setEntry k { g.entryAt q with since := tick }).setEntry q {}
  | _, _ => g

/-- The trap frame restored (06 R162): the handler's path ends, saved paths are paths again, NC of their lanes their levels,
the path of the stopped lanes at TPC and in the table. Spilled paths fill the table as far as it has room, so the kept entries are
free again (06 R136). -/
def Group.restoreFrame (g : Group) (tick : Nat) : Group :=
  let g := (g.entriesWhere fun _ e => e.kind == .path).foldl (fun g k => g.endPath k) g
  let g := (g.entriesWhere fun _ e => e.kind == .saved).foldl (fun g k =>
    let e := g.entryAt k
    (g.setNc e.mask e.level).setEntry k { e with
      kind := .path
      pc := if e.mask &&& g.trap.tmsk ≠ 0 then g.trap.tpc else e.pc
      hold := if e.mask &&& g.trap.tmsk ≠ 0 then .none else e.hold }) g
  let g := g.bringIn g.trap.tmsk tick
  let g := g.fillTable tick
  (g.entriesWhere fun k e => decide (4 ≤ k) && e.kind == .path).foldl (fun g k =>
    match g.freeTable with
    | j :: _ => (g.setEntry j (g.entryAt k)).setEntry k {}
    | [] => g) g

end Sys2Proof.Machine
end

