-- ==== Sys2Proof/Config.lean ====
section
/-! DEFINITION. What the module fixes, and the values the spec leaves free (opaque: nothing can evaluate them). -/

namespace Sys2Proof.Config

/-- Compute dies (00; 21 R471). -/
def dies : Nat := 2
/-- Built cores of a die (00; 07 R176). -/
def coresPerDie : Nat := 52
/-- L2 slices of a die (08 R198). -/
def slicesPerDie : Nat := 128
/-- Copy engines of a die (07 R190). -/
def copyEngines : Nat := 32

/-- FREE VALUE: the serial number of ID (22 R481; log 10). -/
opaque serial : BitVec 32
/-- FREE VALUE: n bytes of a peer module's memory at a tick, as a unit of this module reads them (log 13). -/
opaque peerRead (tick pa n : Nat) : Nat
/-- FREE VALUE: whether at a tick a home slice holds the data of a line (08 R226; log 36). -/
opaque sliceHolds (tick line : Nat) : Bool
/-- FREE VALUE: whether the host completes a read of its memory that begins at a tick with an error (16 R380 detail 10; log 38). -/
opaque hostError (tick pa : Nat) : Bool
/-- FREE VALUE: a value the spec does not state, by the plain counter `State.free` (log 5). -/
opaque freeWord : Nat → BitVec 32
/-- What a bank of the flash holds: the root public key, the signature over its body, the body, and of the configuration image the key
that signed it and the root key's signature over that key (22 R479). -/
structure BankParts where
  key : List (BitVec 8)
  sig : List (BitVec 8)
  body : List (BitVec 8)
  imageKey : List (BitVec 8)
  cert : List (BitVec 8)
  deriving DecidableEq, Repr, Inhabited

/-- FREE VALUE: where those parts stand in the bytes of a bank: the spec gives no layout (22 R479; log 179). -/
opaque bankParts (image : Bool) (bank : List (BitVec 8)) : BankParts
/-- FREE VALUE: the hash of the root public key in boot ROM (22 R479; log 179). -/
opaque rootHash : List (BitVec 8)
/-- FREE VALUE: the source of R418 that a configuration image names (21 R477; log 10). -/
opaque imageSource : List (BitVec 8) → Nat
/-- FREE VALUE: the rows that a configuration image lists as retired, first and last address (21 R477; log 10). -/
opaque imageRows : List (BitVec 8) → List (Nat × Nat)
/-- FREE VALUE: whether the bank of a row of HBM4E has a spare row left, after a number of rows repaired (21 R475; log 120). -/
opaque spareRow (repaired row : Nat) : Bool
/-- FREE VALUE: the GDDR 7 channel, modulo 16, that holds 64 KiB of memory (21 R476; log 120). -/
opaque channelOf (frame : Nat) : Nat
/-- FREE VALUE: whether at a tick the HBM4E tier, or the GDDR 7 tier, has no free memory (21 R476; log 120). -/
opaque tierFull (tick : Nat) (gddr : Bool) : Bool
/-- FREE VALUE: a signature under the device key with an index (22 R480, R483; log 5). -/
opaque signature : Nat → List (BitVec 8) → List (BitVec 8)
/-- FREE VALUE: the module's own peer number, as a configuration image gives it (18 R430; log 10). -/
opaque imageOwn : List (BitVec 8) → BitVec 8
/-- FREE VALUE: the peer map that a configuration image gives: the links of each peer (18 R430; log 10). -/
opaque imagePeers : List (BitVec 8) → List (Nat × List Nat)

/-- FREE VALUE: the hash of a peer number and a line that picks a link (18 R433; log 157). -/
opaque linkHash (peer line : Nat) : Nat
/-- FREE VALUE: the integrity tag of a block frame (16 R395). -/
opaque frameTag (x : List (BitVec 8)) : Nat
/-- FREE VALUE: the bytes of a message to a peer: what it asks or answers, its address, its count of bytes and its data, as numbers;
the spec gives flits their payload and no format of the messages in it (18 R431; log 142). -/
opaque messageBytes (what pa n data : Nat) : List (BitVec 8)
/-- FREE VALUE: the active and spare cores whose uses a configuration image's initial spare map exchanges (21 R477; log 10). -/
opaque imageSpares : List (BitVec 8) → List (Nat × Nat)
/-- FREE VALUE: the slices, die × 128 + slice, that a configuration image's remap tables retire (21 R477; log 10). -/
opaque imageRetired : List (BitVec 8) → List Nat

/-- The set of its slice in which a line (pa / 128) lies (21 R469; log 125). -/
opaque sliceSet : Nat → Nat

end Sys2Proof.Config
end

