-- ==== Sys2Proof/Machine/Image.lean ====
section
/-! DEFINITION. The register image: a group's registers as the 416 lines of 64 bytes of 07 R168 to R170. -/

namespace Sys2Proof.Machine

/-- Fields (width in bits, value) packed from bit 0 up. -/
def packBits : List (Nat × Nat) → Nat
  | [] => 0
  | (w, x) :: l => x % 2 ^ w + 2 ^ w * packBits l

/-- The 64 bytes of line k of a large number. -/
def lineOf (x k : Nat) : Line := BitVec.ofNat 512 (x >>> (512 * k))

/-- A large number with its line k replaced. -/
def withLine (x k : Nat) (l : Line) : Nat :=
  x % 2 ^ (512 * k) + 2 ^ (512 * k) * (l.toNat + 2 ^ 512 * (x >>> (512 * (k + 1))))

/-- Words of 32 bits packed from the first up. -/
def packWords {n : Nat} (v : Vector Word n) : Nat := packBits (v.toList.map fun x => (32, x.toNat))
/-- Sixteen lanes as a line. -/
def lanesLine (x : Lanes) : Line := BitVec.ofNat 512 (packWords x)
/-- A line as sixteen lanes. -/
def lineLanes (l : Line) : Lanes := Vector.ofFn fun i => l.extractLsb' (32 * i.val) 32

/-- The wait code of R170. -/
def Hold.code : Hold → Nat
  | .merge => 1
  | .bar _ | .barw .. | .gbar _ | .rend _ => 2
  | .mon _ => 3
  | .wret .. => 4
  | .grow _ => 5
  | .owed _ => 6
  | .none | .wtm _ | .op _ | .tlbi => 0

/-- The kind code of R170. -/
def PKind.code : PKind → Nat
  | .free => 0 | .path => 1 | .record => 2 | .saved => 3

/-- A path entry as the 128 bits of R170; a joined record has wait 1 (19 R447). -/
def PathEntry.image (e : PathEntry) : Nat :=
  packBits [(64, if e.kind = .record then 0 else e.pc.toNat), (16, e.mask.toNat), (8, e.level), (2, 0), (6, e.rcd),
    (2, 0), (2, e.kind.code), (4, e.hold.code), (24, e.md.toNat)]

/-- The path entry that 128 bits of an image describe; `old` is the entry the device itself remembers for the wait. A reserved wait code is
no wait, and reserved bits are not read (DESIGN CHOICE, log 186). -/
def PathEntry.ofImage (old : PathEntry) (x : Nat) : PathEntry :=
  let r := bits x 95 90
  { old with
    kind := match bits x 99 98 with | 0 => .free | 1 => .path | 2 => .record | _ => .saved
    hold := match bits x 103 100 with
      | 1 => .merge
      | 2 => match old.hold with
        | .barw .. => .none
        | h => if h.code = 2 then h else .none
      | 3 => if old.hold.code = 3 then old.hold else .none
      | 6 => .owed 3
      | _ => .none
    bad := false
    rcd := if r < 4 then 0 else r
    level := bits x 87 80
    mask := BitVec.ofNat 16 (bits x 79 64)
    pc := BitVec.ofNat 64 (bits x 63 2 * 4)
    md := BitVec.ofNat 32 (bits x 127 104) &&& 0x00FF3FFF }

/-- The predicate and loop line, 262 (07 R169). -/
def Group.line262 (g : Group) : Nat :=
  packBits (g.p.toList.map (fun x => (16, x.toNat)) ++
    [(32, g.loops.lc0.toNat), (32, g.loops.lc1.toNat), (64, g.loops.ls0.toNat), (64, g.loops.le0.toNat),
      (64, g.loops.ls1.toNat), (64, g.loops.le1.toNat), (64, g.rib.toNat)])

/-- The status line, 263 (07 R169). -/
def Group.line263 (g : Group) : Nat :=
  packBits ([(16, g.trap.flm.toNat), (16, g.hlm.toNat), (8, g.valloc), (8, if g.sup then 1 else 0)] ++
    g.cnt.toList.map (fun x => (8, x)) ++ g.rng.toList.map (fun r => (2, r.w.toNat)) ++
    g.rd.toList.map (fun x => (4, x)) ++ g.nc.toList.map (fun x => (8, x)) ++
    [(16, g.trap.tmsk.toNat), (16, g.trap.tcause.toNat), (8, g.trap.tstat.toNat), (8, g.trap.eminf.toNat),
      (8, g.ssq.length), (8, g.journal.length), (32, g.trap.tval.toNat), (32, g.trap.emiw.toNat),
      (32, g.trap.emtw.toNat), (32, 0)])

/-- The trap line, 264 (07 R169). -/
def Group.line264 (g : Group) : Nat :=
  packBits [(64, g.trap.tpc.toNat), (64, g.rpc.toNat), (64, g.trap.faddr.toNat), (64, g.entry.toNat)]

/-- The random state, lines 265 to 270 (07 R168). -/
def Group.rngBlock (g : Group) : Nat :=
  packBits (g.rng.toList.flatMap fun r => [(64, r.c.toNat), (64, r.seed.toNat), (64, r.gidx.toNat)])

/-- The return stacks, lines 271 to 278 (07 R168). -/
def Group.stackBlock (g : Group) : Nat := packBits (g.stack.toList.map fun x => (256, packWords x))

/-- The path entries, lines 288 to 303 (07 R170). -/
def Group.pathBlock (g : Group) : Nat := packBits (g.paths.toList.map fun e => (128, e.image))

/-- Line k of the image (07 R168), but for the speculative store queue (State.imageLine). -/
def Group.line (g : Group) (k : Nat) : Line :=
  if h : k < 256 then lanesLine g.v[k]
  else if k < 260 then lineOf (packWords g.s) (k - 256)
  else if k < 262 then lineOf (packBits (g.a.toList.map fun x => (64, x.toNat))) (k - 260)
  else if k = 262 then BitVec.ofNat 512 g.line262
  else if k = 263 then BitVec.ofNat 512 g.line263
  else if k = 264 then BitVec.ofNat 512 g.line264
  else if k < 271 then lineOf g.rngBlock (k - 265)
  else if k < 279 then lineOf g.stackBlock (k - 271)
  else if k < 288 then 0
  else if k < 304 then lineOf g.pathBlock (k - 288)
  else if k < 306 then lineOf (packBits (g.journal.map fun j => (16, j.line))) (k - 304)
  else if 320 ≤ k ∧ k < 384 then ((g.journal[k - 320]?).map (·.data)).getD 0
  else 0

/-- A sign-extension of valloc's legal range (07 R169). -/
def vallocOf (x : Nat) : Nat := min 16 (max 1 x)

/-- The group with line k of its image read back (07 R168, R173). -/
def Group.setLine (g : Group) (k : Nat) (l : Line) : Group :=
  let x := l.toNat
  if h : k < 256 then { g with v := g.v.set k (lineLanes l) }
  else if k < 260 then
    let y := withLine (packWords g.s) (k - 256) l
    { g with s := Vector.ofFn fun i => BitVec.ofNat 32 (y >>> (32 * i.val)) }
  else if k < 262 then
    let y := withLine (packBits (g.a.toList.map fun x => (64, x.toNat))) (k - 260) l
    { g with a := Vector.ofFn fun i => BitVec.ofNat 64 (y >>> (64 * i.val)) }
  else if k = 262 then
    { g with
      rib := BitVec.ofNat 64 (bits x 511 454 * 64)
      p := Vector.ofFn fun i => BitVec.ofNat 16 (x >>> (16 * i.val))
      loops := {
        lc0 := BitVec.ofNat 32 (x >>> 128), lc1 := BitVec.ofNat 32 (x >>> 160)
        ls0 := BitVec.ofNat 64 (bits x 255 194 * 4), le0 := BitVec.ofNat 64 (bits x 319 258 * 4)
        ls1 := BitVec.ofNat 64 (bits x 383 322 * 4), le1 := BitVec.ofNat 64 (bits x 447 386 * 4) } }
  else if k = 263 then
    { g with
      hlm := BitVec.ofNat 16 (x >>> 16)
      valloc := vallocOf (bits x 39 32)
      sup := x.testBit 40
      rng := Vector.ofFn fun i => { g.rng[i] with w := BitVec.ofNat 2 (x >>> (96 + 2 * i.val)) }
      rd := Vector.ofFn fun i => min 8 (bits x (128 + 4 * i.val + 3) (128 + 4 * i.val))
      nc := Vector.ofFn fun i => bits x (192 + 8 * i.val + 7) (192 + 8 * i.val)
      trap := { g.trap with
        tmsk := BitVec.ofNat 16 (x >>> 320), tcause := BitVec.ofNat 32 (bits x 351 336)
        tstat := BitVec.ofNat 3 (x >>> 352), eminf := BitVec.ofNat 7 (x >>> 360)
        tval := BitVec.ofNat 32 (x >>> 384), emiw := BitVec.ofNat 32 (x >>> 416), emtw := BitVec.ofNat 32 (x >>> 448) } }
  else if k = 264 then
    { g with
      rpc := BitVec.ofNat 64 (bits x 127 66 * 4), entry := BitVec.ofNat 64 (bits x 255 194 * 4)
      trap := { g.trap with tpc := BitVec.ofNat 64 (bits x 63 2 * 4), faddr := BitVec.ofNat 64 (x >>> 128) } }
  else if k < 271 then
    let y := withLine g.rngBlock (k - 265) l
    { g with rng := Vector.ofFn fun i => { g.rng[i] with
        c := BitVec.ofNat 64 (y >>> (192 * i.val)), seed := BitVec.ofNat 64 (y >>> (192 * i.val + 64))
        gidx := BitVec.ofNat 64 (y >>> (192 * i.val + 128)) } }
  else if k < 279 then
    let y := withLine g.stackBlock (k - 271) l
    { g with stack := Vector.ofFn fun i => Vector.ofFn fun j => BitVec.ofNat 32 (y >>> (256 * i.val + 32 * j.val)) }
  else if k < 288 then g
  else if k < 304 then
    let y := withLine g.pathBlock (k - 288) l
    { g with paths := Vector.ofFn fun i => g.paths[i].ofImage ((y >>> (128 * i.val)) % 2 ^ 128) }
  else if 320 ≤ k ∧ k < 384 then
    { g with journal := g.journal.mapIdx fun j e => if j = k - 320 then { e with data := l } else e }
  else g

/-- The poison of the registers of an image line, a bit for each lane or register. -/
def Group.linePoison (g : Group) (k : Nat) : Nat :=
  if h : k < 256 then g.poison.v[k].toNat
  else if k < 260 then bits g.poison.s.toNat (16 * (k - 256) + 15) (16 * (k - 256))
  else if k < 262 then bits g.poison.a.toNat (8 * (k - 260) + 7) (8 * (k - 260))
  else if k = 262 then packBits (g.poison.p.toList.map fun x => (16, x.toNat))
  else 0

/-- The poison of an image line's registers set. -/
def Group.setLinePoison (g : Group) (k x : Nat) : Group :=
  let P := g.poison
  if h : k < 256 then { g with poison := { P with v := P.v.set k (BitVec.ofNat 16 x) } }
  else if k < 260 then
    let m := 0xFFFF#64 <<< (16 * (k - 256))
    { g with poison := { P with s := (P.s &&& ~~~m) ||| (BitVec.ofNat 64 x <<< (16 * (k - 256))) } }
  else if k < 262 then
    let m := 0xFF#16 <<< (8 * (k - 260))
    { g with poison := { P with a := (P.a &&& ~~~m) ||| (BitVec.ofNat 16 x <<< (8 * (k - 260))) } }
  else if k = 262 then { g with poison := { P with p := Vector.ofFn fun i => BitVec.ofNat 16 (x >>> (16 * i.val)) } }
  else g

/-- A journal entry of a line as it stands. -/
def Group.entryOf (g : Group) (k : Nat) : JEntry :=
  ⟨k, g.line k, g.linePoison k,
    if 288 ≤ k ∧ k < 304 then (g.paths.toList.drop (4 * (k - 288))).take 4 else []⟩

/-- The fields of line 263 that are not journaled, read back from a saved image: FLM and the counters (07 R169, R173). -/
def Group.setStatus (g : Group) (x : Nat) : Group :=
  { g with cnt := Vector.ofFn fun i => bits x (48 + 8 * i.val + 7) (48 + 8 * i.val), trap := { g.trap with flm := BitVec.ofNat 16 x } }

/-- A rolled-back line: FLM and the counters, ssqn and jn are not journaled (16 R389). -/
def Group.restoreLine (g : Group) (e : JEntry) : Group :=
  let g := (g.setLine e.line e.data).setLinePoison e.line e.poison
  if e.paths.isEmpty then g
  else { g with paths := Vector.ofFn fun i =>
    if i.val / 4 = e.line - 288 then e.paths.getD (i.val % 4) g.paths[i] else g.paths[i] }

/-- A line of four path entries (07 R168). -/
def pathsLine (l : List PathEntry) : Line := BitVec.ofNat 512 (packBits (l.map fun e => (128, e.image)))

/-- Every path entry changed, and those of the journal's copies (16 R389: a wait's end stands). -/
def Group.mapPaths (g : Group) (f : PathEntry → PathEntry) : Group :=
  { g with
    paths := Vector.ofFn fun i => f g.paths[i]
    journal := g.journal.map fun j => if j.paths.isEmpty then j
      else { j with paths := j.paths.map f, data := pathsLine (j.paths.map f) } }

/-- The image lines that a group's change wrote, among 256 to 303 (16 R389): line 263 without FLM, the counters, ssqn
and jn. -/
def Group.uniformChanged (a b : Group) : List Nat :=
  (if a.s = b.s ∧ a.poison.s = b.poison.s then [] else ((List.range 4).filter fun i =>
      lineOf (packWords a.s) i != lineOf (packWords b.s) i || a.linePoison (256 + i) != b.linePoison (256 + i)).map (· + 256)) ++
  (if a.a = b.a ∧ a.poison.a = b.poison.a then []
    else [260, 261].filter fun k => a.line k != b.line k || a.linePoison k != b.linePoison k) ++
  (if a.p = b.p ∧ a.loops = b.loops ∧ a.poison.p = b.poison.p then [] else [262]) ++
  (if a.hlm = b.hlm ∧ a.valloc = b.valloc ∧ a.sup = b.sup ∧ a.rd = b.rd ∧ a.nc = b.nc ∧
      a.rng.toList.map (·.w) = b.rng.toList.map (·.w) ∧ { a.trap with flm := 0, tpc := 0, faddr := 0 } =
        { b.trap with flm := 0, tpc := 0, faddr := 0 } then [] else [263]) ++
  (if a.trap.tpc = b.trap.tpc ∧ a.trap.faddr = b.trap.faddr ∧ a.entry = b.entry then [] else [264]) ++
  (if a.rng = b.rng then [] else [265, 266, 267, 268, 269, 270].filter fun k => a.line k != b.line k) ++
  (if a.stack = b.stack then [] else ((List.range 8).map (· + 271)).filter fun k => a.line k != b.line k) ++
  (if a.paths = b.paths then [] else ((List.range 16).map (· + 288)).filter fun k => a.line k != b.line k)

/-- The vector lines among rs that a change wrote. -/
def Group.vectorsChanged (a b : Group) (rs : List Nat) : List Nat :=
  rs.filter fun r => if h : r < 256 then a.v[r] != b.v[r] || a.poison.v[r] != b.poison.v[r] else false

/-- The kept-B record is cleared by a write to its run or scale run (10 R266). -/
def Group.dropKeptB (g : Group) (vs : List Nat) : Group :=
  match g.keptB with
  | some (b, _) => if vs.any fun n => b ≤ n ∧ n < b + 102 then { g with keptB := none } else g
  | none => g

end Sys2Proof.Machine
end

