-- ==== Sys2Proof/Machine/Mem.lean ====
section
/-! DEFINITION. Byte memories in canonical form: addresses strictly rising, no entry equal to the 0 that an unlisted
address reads as (22 R478: stage 3 zeroes all DRAM; log 11 for host memory, log 10 for scratchpads). -/

namespace Sys2Proof.Machine

/-- What an unlisted address reads as. -/
def memDefault : Byte := 0

/-- A byte of a memory. -/
def memRead : List Host.Cell → Nat → Byte
  | [], _ => memDefault
  | (k, x) :: m, a => if k = a then x else memRead m a

/-- The memory with one byte written, in canonical form. -/
def memWrite : List Host.Cell → Nat → Byte → List Host.Cell
  | [], a, b => if b = memDefault then [] else [(a, b)]
  | (k, x) :: m, a, b =>
    if a < k then (if b = memDefault then (k, x) :: m else (a, b) :: (k, x) :: m)
    else if k = a then (if b = memDefault then m else (a, b) :: m)
    else (k, x) :: memWrite m a b

/-- The canonical form above a bound: every address at or above lo, rising, no listed default. -/
def memWfFrom : Nat → List Host.Cell → Bool
  | _, [] => true
  | lo, (k, x) :: m => decide (lo ≤ k) && (x != memDefault) && memWfFrom (k + 1) m

/-- The canonical form of a memory. -/
def memWf (m : List Host.Cell) : Bool := memWfFrom 0 m

/-- n bytes from a as a number, little-endian (00 R7). -/
def memReadN (m : List Host.Cell) : Nat → Nat → Nat
  | _, 0 => 0
  | a, n + 1 => (memRead m a).toNat + 256 * memReadN m (a + 1) n

/-- n bytes of a number written from a, little-endian (00 R7). -/
def memWriteN (m : List Host.Cell) : Nat → Nat → Nat → List Host.Cell
  | _, 0, _ => m
  | a, n + 1, x => memWriteN (memWrite m a (BitVec.ofNat 8 x)) (a + 1) n (x / 256)

/-- A list of bytes as a number. -/
def bytesVal : List Byte → Nat
  | [] => 0
  | b :: l => b.toNat + 256 * bytesVal l

/-- n bytes of a number as a list. -/
def bytesOf : Nat → Nat → List Byte
  | 0, _ => []
  | n + 1, x => BitVec.ofNat 8 x :: bytesOf n (x / 256)

/-! ### Module memory, by physical address -/

/-- n bytes of module memory as a number. -/
def State.rdMem (s : State) (pa n : Nat) : Nat := memReadN s.mem pa n
/-- The state with n bytes of module memory written. -/
def State.wrMem (s : State) (pa n x : Nat) : State := { s with mem := memWriteN s.mem pa n x }

/-- The half-lines that n bytes from pa touch. -/
def halvesOf (pa n : Nat) : List Nat := (List.range ((pa + n - 1) / 64 - pa / 64 + 1)).map (· + pa / 64)

/-- The detail of the first poisoned half-line among n bytes from pa (21 R468). -/
def State.poisonAt (s : State) (pa n : Nat) : Option Nat := (halvesOf pa n).findSome? fun h => s.memPoison.get? h

/-- The physical ranges of module memory (21 R472): stacks 0 to 7 of 48 GB and the GDDR 7 tier of 96 GB. -/
def inModule (pa : Nat) : Bool :=
  (pa < 0x8000000000 && pa % 0x1000000000 < 48000000000) || (0x8000000000 ≤ pa && pa < 0x8000000000 + 96000000000)

/-- n bytes wholly within module memory. -/
def inModuleN (pa n : Nat) : Bool :=
  inModule pa && inModule (pa + n - 1) && (pa / 0x1000000000 == (pa + n - 1) / 0x1000000000 || 0x8000000000 ≤ pa)

/-- The home die of a physical address (21 R472). -/
def homeDie (pa : Nat) : Nat :=
  if 0x8000000000 ≤ pa then bits pa 16 16 else if pa / 0x1000000000 < 4 then 0 else 1

/-- Whether the home of an address went with a lost die (21 R473). -/
def State.lost (s : State) (pa : Nat) : Bool := inModule pa && s.deadDies.contains (homeDie pa)

/-- A half that the host holds is asked back (18 R429). -/
def HostHalf.asked : HostHalf → HostHalf
  | .w l => .w l
  | _ => .p
/-- Whether the host may hold a copy of a half in this state: H or P (18 R429). -/
def HostHalf.host : HostHalf → Bool
  | .w _ => false
  | _ => true
/-- Whether the host may hold a half. -/
def State.hostHas (s : State) (h : Nat) : Bool := (s.halves.get? h).any HostHalf.host

/-- Halves that the host may hold are asked back (08 R223; 18 R429). -/
def State.backInval (s : State) (hs : List Nat) : State :=
  { s with halves := hs.foldl (fun m h => m.upd h HostHalf.asked) s.halves }

/-- The index j of a line in its die's remap table (21 R472). -/
def homeIndex (pa : Nat) : Nat :=
  bits pa 13 7 ^^^ bits pa 20 14 ^^^ bits pa 27 21 ^^^ bits pa 34 28 ^^^ bits pa 41 35 ^^^ bits pa 48 42 ^^^ bits pa 55 49

/-- The remap table of a die. -/
def State.remapOf (s : State) (die : Nat) : Vector Nat 128 := if die = 0 then s.remap[0] else s.remap[1]

/-- The home slice of a physical address: die × 128 + slice (21 R472). -/
def State.homeSlice (s : State) (pa : Nat) : Nat :=
  128 * homeDie pa + ((s.remapOf (homeDie pa)).toList.getD (homeIndex pa) 0)

/-- The address that gives the home of a byte: in a Cumin page a tile block and its mode byte share the home of the block's
first byte (13 R320). -/
def homeAddr (cum : Bool) (pa : Nat) : Nat :=
  if !cum then pa
  else if pa % 65536 / 256 < 255 then pa / 256 * 256
  else if pa % 256 < 255 then pa / 65536 * 65536 + 256 * (pa % 256)
  else pa

/-- The home slice of a byte under its page's kind (13 R320; log 140 for an access to a mode byte). -/
def State.homeOf (s : State) (cum : Bool) (pa : Nat) : Nat := s.homeSlice (homeAddr cum pa)

/-- The die of a built core. -/
def coreDie (core : Nat) : Nat := core / 52

/-! ### Tables of the state -/

/-- A core (the first one beyond the table, which does not occur). -/
def State.core (s : State) (c : Nat) : Core := if h : c < 104 then s.cores[c] else s.cores[0]
/-- The state with a core changed. -/
def State.updCore (s : State) (c : Nat) (f : Core → Core) : State :=
  if h : c < 104 then { s with cores := s.cores.set c (f s.cores[c]) } else s
/-- Every core changed. -/
def State.updCores (s : State) (f : Nat → Core → Core) : State :=
  { s with cores := Vector.ofFn fun i => f i.val s.cores[i] }

/-- The state with a group set. -/
def State.setGroup (s : State) (g : Nat) (x : Group) : State := { s with groups := s.groups.set g x }
/-- The state with a group changed. -/
def State.updGroup (s : State) (g : Nat) (f : Group → Group) : State := { s with groups := s.groups.upd g f }
/-- The state with an operation changed. -/
def State.updOp (s : State) (o : Nat) (f : Op → Op) : State := { s with ops := s.ops.upd o f }
/-- The state with a block changed. -/
def State.updBlock (s : State) (b : Nat) (f : Block → Block) : State := { s with blocks := s.blocks.upd b f }
/-- The state with a context changed. -/
def State.updCtx (s : State) (c : Nat) (f : Ctx → Ctx) : State := { s with ctxs := s.ctxs.upd c f }
/-- The state with an entity changed. -/
def State.updEntity (s : State) (e : Nat) (f : Entity → Entity) : State := { s with entities := s.entities.upd e f }
/-- A context, or one that is not resident. -/
def State.ctx (s : State) (c : Nat) : Ctx := s.ctxs.getD c {}
/-- The kernel descriptor of a block: its launch's, or a pixel kernel's. -/
def State.blockDesc (s : State) (b : Block) : KDesc := (b.pkd.or ((s.entities.get? b.launch).map (·.desc))).getD {}
/-- The kernel descriptor of a group's launch. -/
def State.descOf (s : State) (g : Group) : KDesc :=
  ((s.blocks.get? g.block).map s.blockDesc).getD {}

/-! ### Scratchpads (07 R187) -/

/-- Where a byte of a gang member's scratchpad is listed. -/
def scratchKey (member off : Nat) : Nat := member * 2 ^ 20 + off

/-- n bytes of a block's scratchpad. -/
def Block.rdScratch (b : Block) (member off n : Nat) : Nat := memReadN b.scratch (scratchKey member off) n
/-- The words that n bytes touch. -/
def wordsOf (a n : Nat) : List Nat := (List.range ((a + n - 1) / 4 - a / 4 + 1)).map (· + a / 4)
/-- Whether n bytes of a scratchpad hold a poisoned word (21 R468). -/
def Block.scratchPoisoned (b : Block) (member off n : Nat) : Bool :=
  (wordsOf (scratchKey member off) n).any fun w => b.scratchPoison.contains w
/-- The block with n bytes of its scratchpad written; poisoned words that are written whole are no longer poisoned. -/
def Block.wrScratch (b : Block) (member off n x : Nat) (poison : Bool) : Block :=
  let ws := wordsOf (scratchKey member off) n
  { b with
    scratch := memWriteN b.scratch (scratchKey member off) n x
    scratchPoison := if poison then b.scratchPoison ++ ws.filter (fun w => !b.scratchPoison.contains w)
      else b.scratchPoison.filter fun w => !ws.contains w }

end Sys2Proof.Machine
end

