-- ==== Sys2Proof/Machine/Trans.lean ====
section
/-! DEFINITION. Translation and permission (16 R378 to R381), and reads and writes at the home of a line, forwarded to
the holder of a register line (07 R171, 08 R219). -/

namespace Sys2Proof.Machine

/-- Whether an access reads data that reach the group. -/
def Ask.reads : Ask → Bool
  | .read | .atomic | .monitor => true
  | _ => false

/-- The record kind of an access (16 R384). -/
def Ask.kind : Ask → Nat
  | .read | .monitor => 0
  | .write | .target => 1
  | .atomic | .red => 2
  | .fetch => 3

/-- Whether a virtual address is canonical (16 R378). -/
def canonical (va : Nat) : Bool := va >>> 56 == 0 || va >>> 56 == 0xFF

/-- Whether a page lies wholly in the peer aperture (18 R430). -/
def inAperture (pa : Nat) : Bool := bits pa 55 48 == 0xFC

/-! ### Held lines -/

/-- What holds a half-line of memory in a core: a register line of a resident group, or a tile line of a resident block
(07 R171; 10 R257). -/
inductive Holder where
  | reg (g n : Nat)
  | tile (b k : Nat)
  deriving DecidableEq, Repr

/-- Whether a core holds line n of a group: a resident group's core while the line is present, or the core of an earlier
residence until the line is evicted or taken (07 R171; 16 R393, R396). -/
def Group.holds (g : Group) (n : Nat) : Bool :=
  decide (n < 16 * g.valloc) && ((g.home != .saved && g.present.getLsbD n) || (g.former.get? n).isSome)

/-- The key of the tile line of a resident block that a half-line of memory is (10 R257): one that the tile store has, or one of its
images that the core has not touched yet. -/
def Block.tileAt (b : Block) (half : Nat) : Option Nat :=
  ((b.tiles.find? fun t => t.2.half == half).map (·.1)).or
    ((b.tilePas.find? fun x => decide (x.1 ≤ 64 * half ∧ 64 * half < x.1 + x.2.2)).map fun x => x.2.1 + (half - x.1 / 64))

/-- The half-line of memory of a tile line that the tile store does not have. -/
def Block.tileHalf (b : Block) (k : Nat) : Nat :=
  ((b.tilePas.find? fun x => decide (x.2.1 ≤ k ∧ k < x.2.1 + x.2.2 / 64)).map fun x => x.1 / 64 + (k - x.2.1)).getD 0

/-- The holder of a half-line: the core in which a register line is present (R171), or of a resident block's tile line (10 R257). -/
def State.held (s : State) (half : Nat) : Option Holder :=
  match s.groups.findSome? fun e =>
    let g := e.2
    let n := half - g.ribPa / 64
    if g.ribPa / 64 ≤ half ∧ g.holds n then some (Holder.reg e.1 n) else none with
  | some h => some h
  | none => s.blocks.findSome? fun e => (e.2.tileAt half).map fun k => .tile e.1 k

/-- Whether an address lies in a peer's part of the aperture; the module's own number names its own memory (18 R430). -/
def State.foreign (s : State) (pa : Nat) : Bool := inAperture pa && bits pa 47 40 != s.own
/-- The address with the module's own number taken off. -/
def ownPa (pa : Nat) : Nat := if inAperture pa then pa % 2 ^ 40 else pa

/-- The links of the peer map that reach a peer (18 R430). -/
def State.linksTo (s : State) (peer : Nat) : List Nat := s.peers.getD peer []

/-- A link. -/
def State.link (s : State) (k : Nat) : Link := if h : k < 18 then s.links[k] else {}

/-- Whether a link can carry other channels than VC3 (18 R431). -/
def Link.carries (l : Link) : Bool := l.lanes != 0 && decide (l.roundTrip ≤ 1000)

/-- Whether a peer can be reached: mapped, by a link that is up and not limited to VC3 for its round trip (18 R430, R431). -/
def State.reachable (s : State) (peer : Nat) : Bool := (s.linksTo peer).any fun k => (s.link k).carries

/-- The detail of poison of a half-line of an image in memory; of one at a peer that cannot be reached, 3 (18 R430). -/
def State.imagePoison (s : State) (half : Nat) : Option Nat :=
  if s.foreign (64 * half) && !s.reachable (bits (64 * half) 47 40) then some 3 else s.memPoison.get? half

/-- A tile line of a block: as the tile store has it, else as its image does (10 R276). -/
def State.tileLine (s : State) (b : Block) (k : Nat) : TileLine :=
  match b.tiles.get? k with
  | some t => t
  | none =>
    let half := b.tileHalf k
    ⟨BitVec.ofNat 512 (s.rdMem (64 * half) 64), if (s.imagePoison half).isSome then 0xFFFF else 0, half⟩

/-- A line held in a core. -/
def State.heldLine (s : State) : Holder → Line
  | .reg g n => ((s.groups.get? g).map fun gr => gr.line n).getD 0
  | .tile b k => ((s.blocks.get? b).map fun x => (s.tileLine x k).data).getD 0

/-- The poisoned words of a line held in a core. -/
def State.heldPoison (s : State) : Holder → Mask
  | .reg g n => ((s.groups.get? g).map fun gr => gr.poison.v.toList.getD n 0).getD 0
  | .tile b k => ((s.blocks.get? b).map fun x => (s.tileLine x k).poison).getD 0

/-- Bytes [lo, hi) of a line as a number. -/
def lineBytes (l : Line) (lo hi : Nat) : Nat := (l.toNat >>> (8 * lo)) % 2 ^ (8 * (hi - lo))

/-- The line with bytes [lo, hi) replaced. -/
def lineWithBytes (l : Line) (lo hi x : Nat) : Line :=
  BitVec.ofNat 512 (l.toNat % 2 ^ (8 * lo) + 2 ^ (8 * lo) * (x % 2 ^ (8 * (hi - lo))) +
    2 ^ (8 * hi) * (l.toNat >>> (8 * hi)))

/-- Bytes [lo, hi) of a group's vector register written by address, in its journal copy too (16 R389). -/
def Group.writeHeld (g : Group) (n lo hi x : Nat) (words : Mask) : Group :=
  let g := g.dropKeptB [n]
  if h : n < 256 then
    { g with
      v := g.v.set n (lineLanes (lineWithBytes (g.line n) lo hi x))
      poison := { g.poison with v := g.poison.v.set n (g.poison.v[n] &&& ~~~words) }
      journal := g.journal.map fun j => if j.line = n then
          { j with data := lineWithBytes j.data lo hi x, poison := (BitVec.ofNat 16 j.poison &&& ~~~words).toNat }
        else j }
  else g

/-- The pieces of n bytes from pa, one in each half-line: half, first byte, end byte in the half, offset in the datum. -/
def pieces (pa n : Nat) : List (Nat × Nat × Nat × Nat) :=
  (halvesOf pa n).map fun h =>
    let lo := max pa (64 * h)
    let hi := min (pa + n) (64 * h + 64)
    (h, lo - 64 * h, hi - 64 * h, lo - pa)

/-- n bytes of this module as their home serves them: from the holder for a held line, else from memory (08 R199, R219). -/
def State.localRead (s : State) (pa n : Nat) : Nat :=
  ((pieces pa n).map fun (h, lo, hi, off) =>
    (match s.held h with
      | some x => lineBytes (s.heldLine x) lo hi
      | none => s.rdMem (64 * h + lo) (hi - lo)) <<< (8 * off)).foldl (· + ·) 0

/-- Whether the schedule's probe disturbs n bytes (log 176). -/
def State.taps (s : State) (pa n : Nat) : Bool :=
  match s.probe with
  | none => false
  | some (.peer p _) => s.foreign pa && bits pa 47 40 == p
  | some (.half h _) => !s.foreign pa && (halvesOf (ownPa pa) n).contains h
  | some (.slice k _) => !s.foreign pa && s.homeSlice (ownPa pa) == k && Config.sliceHolds s.gnomon (ownPa pa / 128)

/-- Whether what a probe disturbs reads as in order. -/
def Probe.good : Probe → Bool
  | .peer _ b | .half _ b | .slice _ b => b

/-- n bytes as their home serves them; a peer's bytes are free values (log 13), which a probe of that peer's part inverts: by it the
schedule finds what depends on a peer that may not be asked now (18 R420). -/
def State.homeRead (s : State) (pa n : Nat) : Nat :=
  if s.foreign pa then (Config.peerRead s.gnomon pa n ^^^ (if s.taps pa n then 2 ^ (8 * n) - 1 else 0)) % 2 ^ (8 * n)
  else s.localRead (ownPa pa) n

/-! ### Translation -/

/-- The leaf of a table entry at a level whose page has 2^pb bytes (16 R379); detail 7 when malformed. -/
def leafOf (e level pb : Nat) : Except Nat Leaf :=
  let pa := bits e 55 8 * 256
  let mt := bits e 63 62
  let cum := e.testBit 6
  let s := e.testBit 5
  if e.testBit 7 ∨ bits e 61 56 ≠ 0 ∨ level = 3 ∨ pa % 2 ^ pb ≠ 0 ∨ mt = 3 ∨ (cum ∧ (level ≠ 0 ∨ mt ≠ 0)) ∨
      (mt = 2 ∧ (s = false ∨ bits pa 55 48 ≠ 0xFE)) ∨ (mt = 0 ∧ !(inModuleN pa (2 ^ pb)) ∧ !(inAperture pa)) then .error 7
  else .ok ⟨pa, pb, mt, cum, s, e.testBit 4, e.testBit 3, e.testBit 2⟩

/-- Whether a valid pointer entry at a level is malformed (16 R379); its table has 2^tb bytes of alignment. -/
def badPointer (e level tb : Nat) : Bool :=
  bits e 7 2 != 0 || bits e 63 56 != 0 || level == 0 || (bits e 55 8 * 256) % 2 ^ tb != 0

/-- What a walk comes to at an entry that the schedule's probe disturbs (log 176). -/
def State.probedLeaf (s : State) : Except Nat Leaf :=
  if s.probe.any Probe.good then .ok ⟨0, 16, 0, false, false, true, true, true⟩ else .error 0xFF

/-- A walk from the table of a level (16 R378): detail 1 at an entry with v = 0, 7 at a malformed one. Each entry is read at
its home (R381). -/
def walkFrom (s : State) (va : Nat) : Nat → Nat → Except Nat Leaf
  | 0, table =>
    let e := s.homeRead (table + 8 * bits va 20 16) 8
    if s.taps (table + 8 * bits va 20 16) 8 then s.probedLeaf
    else if e % 2 = 0 then .error 1 else if e.testBit 1 then leafOf e 0 16 else .error 7
  | k + 1, table =>
    let (idx, pb, tb) := match k with
      | 0 => (bits va 29 21, 21, 8)
      | 1 => (bits va 42 30, 30, 12)
      | _ => (bits va 56 43, 43, 16)
    let e := s.homeRead (table + 8 * idx) 8
    if s.taps (table + 8 * idx) 8 then s.probedLeaf
    else if e % 2 = 0 then .error 1
    else if e.testBit 1 then leafOf e (k + 1) pb
    else if badPointer e (k + 1) tb then .error 7
    else walkFrom s va k (bits e 55 8 * 256)

/-- The walk of an address of a context (16 R378). -/
def State.walk (s : State) (ctx va : Nat) : Except Nat Leaf := walkFrom s va 3 (s.ctx ctx).root

/-- The half-lines of the entries that a walk from the table of a level reads. -/
def walkHalvesFrom (s : State) (va : Nat) : Nat → Nat → List Nat
  | 0, table => [(table + 8 * bits va 20 16) / 64]
  | k + 1, table =>
    let a := table + 8 * (match k with | 0 => bits va 29 21 | 1 => bits va 42 30 | _ => bits va 56 43)
    let e := s.homeRead a 8
    a / 64 :: if e % 2 = 0 ∨ e.testBit 1 then [] else walkHalvesFrom s va k (bits e 55 8 * 256)

/-- The half-lines of table entries that the host may hold and a walk would read (08 R223; 16 R381). -/
def State.walkHeld (s : State) (ctx va : Nat) : List Nat :=
  if s.halves.isEmpty ∨ !canonical va then [] else (walkHalvesFrom s va 3 (s.ctx ctx).root).filter s.hostHas

/-- Where the translations of an address are listed in the slices of a core's die: 104 + 128 × die + slice; the hash of the
context slot and the 64 KiB page number is the model's (R381; log 147). -/
def State.sliceLoc (s : State) (core ctx va : Nat) : Nat := 104 + 128 * coreDie core + ((s.ctx ctx).cslot + va / 65536) % 128

/-- Entries of a core's micro-TLB, or of a slice (R381). -/
def tlbSize (loc : Nat) : Nat := if loc < 104 then 256 else 2048

/-- A cached leaf at a place (16 R381). -/
def State.tlbAt (s : State) (loc ctx va : Nat) : Option Leaf :=
  (s.tlb.find? fun e => e.loc == loc && e.ctx == ctx && e.page == va >>> e.leaf.bits).map (·.leaf)

/-- A leaf from the core's micro-TLB or its die's slices. -/
def State.tlbFind (s : State) (core ctx va : Nat) : Option Leaf :=
  match s.tlbAt core ctx va with
  | some l => some l
  | none => s.tlbAt (s.sliceLoc core ctx va) ctx va

/-- Entries of a place but for the oldest ones beyond n. -/
def tlbKeep (loc : Nat) : Nat → List TlbEntry → List TlbEntry
  | _, [] => []
  | n, e :: l => if e.loc ≠ loc then e :: tlbKeep loc n l else match n with
    | 0 => tlbKeep loc 0 l
    | n + 1 => e :: tlbKeep loc n l

/-- A place gains a leaf; a full one loses the leaf that came first (R381; log 147). -/
def State.tlbAdd (s : State) (loc ctx va : Nat) (l : Leaf) : State :=
  if (s.tlbAt loc ctx va).isSome then s
  else { s with tlb := ⟨loc, ctx, va >>> l.bits, l⟩ :: if s.tlb.length < 256 then s.tlb else tlbKeep loc (tlbSize loc - 1) s.tlb }

/-- The micro-TLB of a core and its die's slices gain a leaf. -/
def State.tlbFill (s : State) (core ctx va : Nat) (l : Leaf) : State :=
  (s.tlbAdd core ctx va l).tlbAdd (s.sliceLoc core ctx va) ctx va l

/-- The permission check of R380, in its order of details; none when the access is permitted. -/
def Leaf.deny (l : Leaf) (sup : Bool) (a : Ask) : Option Nat :=
  if l.s && !sup then some 5
  else if l.mt ≠ 0 ∧ (a = .atomic ∨ a = .red ∨ a = .monitor) then some 8
  else if a = .target ∧ !l.cum then some 9
  else match a with
    | .fetch => if l.x then none else some 4
    | .read | .monitor => if l.r then none else some 2
    | .write | .red | .target => if l.w then none else some 3
    | .atomic => if !l.r then some 2 else if !l.w then some 3 else none

/-- The physical address of a virtual one under a leaf. -/
def Leaf.phys (l : Leaf) (va : Nat) : Nat := l.pa + va % 2 ^ l.bits

/-- Translation with permission, from a cached leaf when there is one, else by a walk (16 R380, R381). -/
def State.resolve (s : State) (core ctx : Nat) (sup : Bool) (a : Ask) (va : Nat) : Except Nat Leaf :=
  if !canonical va then .error 6
  else
    let l : Except Nat Leaf := match s.tlbFind core ctx va with
      | some l => .ok l
      | none => s.walk ctx va
    match l with
    | .error d => .error d
    | .ok l => match l.deny sup a with
      | some d => .error d
      | none => .ok l

/-- Translation with permission by a walk, for the command processor (15 R349, 16 R380). -/
def State.resolveCp (s : State) (ctx : Nat) (sup : Bool) (a : Ask) (va : Nat) : Except Nat Leaf :=
  if !canonical va then .error 6
  else match s.walk ctx va with
    | .error d => .error d
    | .ok l => match l.deny sup a with
      | some d => .error d
      | none => .ok l

/-! ### Reads and writes at the home -/

/-- The words of a half-line that bytes [lo, hi) touch. -/
def wordMask (lo hi : Nat) : Mask := maskOf fun i => lo < 4 * i.val + 4 ∧ 4 * i.val < hi

/-- The detail of poison among n bytes at their home, if any (21 R468, R469); an unreachable peer's bytes are poison (18 R430). -/
def State.homePoison (s : State) (pa n : Nat) : Option Nat :=
  if s.foreign pa then (if s.reachable (bits pa 47 40) then none else some 3) else if s.lost (ownPa pa) then some 4 else
  (pieces (ownPa pa) n).findSome? fun (h, lo, hi, _) =>
    match s.held h with
    | some x => if s.heldPoison x &&& wordMask lo hi ≠ 0 then some 2 else none
    | none => s.memPoison.get? h

/-- A tile line of a block, in the tile store from then on, changed. -/
def State.updTile (s : State) (b k : Nat) (f : TileLine → TileLine) : State :=
  match s.blocks.get? b with
  | none => s
  | some y =>
    let t := f (s.tileLine y k)
    s.updBlock b fun y => { y with tiles := y.tiles.set k t }

/-- The copies of a line in the journal of a saved group's image, with bytes [lo, hi) written (16 R389). -/
def State.writeSavedCopies (s : State) (g : Group) (n lo hi x : Nat) : State :=
  if g.home ≠ .saved then s
  else match g.journal.findIdx? (·.line == n) with
    | some j => s.wrMem (g.ribPa + 64 * (320 + j) + lo) (hi - lo) x
    | none => s

/-- Bytes [lo, hi) of a held line written by address. -/
def State.writeHolder (s : State) (x : Holder) (lo hi v : Nat) : State :=
  match x with
  | .reg g n =>
    let s := match s.groups.get? g with
      | some gr => s.writeSavedCopies gr n lo hi v
      | none => s
    s.updGroup g fun gr => gr.writeHeld n lo hi v (wordMask lo hi)
  | .tile b k => s.updTile b k fun t => { t with data := lineWithBytes t.data lo hi v, poison := t.poison &&& ~~~wordMask lo hi }

/-- A slice in retention wakes for an access to a line whose data it holds, and for any compare or decode (08 R226). -/
def State.wakeSlice (s : State) (cum : Bool) (pa : Nat) (must : Bool) : State :=
  if s.asleep.isEmpty then s
  else
    let k := s.homeOf cum pa
    if s.asleep.contains k && (must || Config.sliceHolds s.gnomon (pa / 128)) then { s with asleep := s.asleep.erase k } else s

/-- The slices that serve n bytes wake; one that forwards them to a holder may sleep on (08 R226). -/
def State.wakeFor (s : State) (cum : Bool) (pa n : Nat) : State :=
  if s.asleep.isEmpty || s.foreign pa then s
  else (halvesOf (ownPa pa) n).foldl (fun s h => if (s.held h).isSome then s else s.wakeSlice cum (max (64 * h) (ownPa pa)) cum) s

/-- A write of a unit to a peer's memory, for group g or for none: a store's operation that the links carry as they carry a group's
(18 R420, R430, R433); what a group's has to say of a peer that cannot be reached reaches it as of a store (R430). -/
def State.sendOut (s : State) (g : Option (Nat × Group)) (va pa n x : Nat) : State :=
  let accs : List Access := (pieces pa n).map fun (h, lo, hi, off) =>
    { va := va + off, len := hi - lo, ask := .write, st := .ready, pa := 64 * h + lo, data := (x >>> (8 * off)) % 2 ^ (8 * (hi - lo)) }
  let o : Op := match g with
    | some (id, g) => { g := id, ctx := g.ctx, core := g.core, pc := 0, word := 0, path := 0, act := 0, live := 0, sup := true,
                        kind := .store, tick := s.gnomon, accs := accs }
    | none => { g := 2 ^ 64, ctx := 0, core := 104, pc := 0, word := 0, path := 0, act := 0, live := 0, sup := true,
                kind := .store, tick := s.gnomon, accs := accs }
  { s with ops := s.ops.set s.nextOp o, nextOp := s.nextOp + 1 }

/-- n bytes applied at their home (08 R198), forwarded to the holder of a held line, or sent to a peer. -/
def State.homeApply (s : State) (pa n x : Nat) : State :=
  if s.foreign pa then s.sendOut none 0 pa n x else if s.lost (ownPa pa) then s else
  (pieces (ownPa pa) n).foldl (fun s (h, lo, hi, off) =>
    match s.held h with
    | some y => s.writeHolder y lo hi (x >>> (8 * off))
    | none => s.wrMem (64 * h + lo) (hi - lo) (x >>> (8 * off))) (s.wakeFor false pa n)

/-- The half-lines among n bytes that are covered whole. -/
def wholeHalves (pa n : Nat) : List Nat := (halvesOf pa n).filter fun h => pa ≤ 64 * h ∧ 64 * h + 64 ≤ pa + n

/-- The detail of poison of a half-line in memory; a held half is the core's, whatever memory holds (07 R171; 21 R468). -/
def State.halfPoison (s : State) (h : Nat) : Option Nat := if (s.held h).isSome then none else s.memPoison.get? h

/-- Whether a write of n bytes covers only part of a poisoned half-line, which refuses it (21 R468). -/
def State.partialPoison (s : State) (pa n : Nat) : Bool :=
  (halvesOf pa n).any fun h => (s.halfPoison h).isSome && !(wholeHalves pa n).contains h

/-- Half-lines that are written whole lose their poison (21 R468). -/
def State.clearPoison (s : State) (hs : List Nat) : State := { s with memPoison := hs.foldl AMap.erase s.memPoison }

/-- Half-lines become poisoned with a detail (21 R468). -/
def State.addPoison (s : State) (hs : List Nat) (d : Nat) : State :=
  { s with memPoison := hs.foldl (fun m h => m.set h d) s.memPoison }

/-! ### Regions of rounds (18 R424) -/

/-- The key of slot n of a context. -/
def regionKey (ctx n : Nat) : Nat := ctx * 256 + n
/-- The region of a context that holds an address. -/
def State.regionAt (s : State) (ctx va : Nat) : Option (Nat × Region) :=
  s.regions.find? fun e => e.1 / 256 == ctx && decide (e.2.base ≤ va ∧ va < e.2.base + 65536 * e.2.npg)

end Sys2Proof.Machine
end

