-- ==== Sys2Proof/Machine/Cumin.lean ====
section
/-! DEFINITION. Cumin pages: the tile codec and reads of decoded tiles at their home (13 R320 to R323). -/

namespace Sys2Proof.Machine

/-- Width of a width code (R322). -/
def cumWidth (c : Nat) : Nat := if c = 7 then 8 else c

/-- Whether a mode byte is malformed (R322). -/
def cumBad (m : Nat) : Bool := m / 64 == 3 || (m / 64 < 2 && m % 64 != 0)

/-- A delta of width w, sign-extended, modulo 256 (R323). -/
def cumDelta (w x : Nat) : Nat :=
  let y := x % 2 ^ w
  if w = 0 then 0 else if 2 ^ (w - 1) ≤ y then 256 - 2 ^ w + y else y

/-- Channel k of a pixel. -/
def cumCh (p k : Nat) : Nat := p / 2 ^ (8 * k) % 256

/-- Pixel i of a delta block (R323). -/
def cumDeltaPixel (b w v i : Nat) : Nat :=
  if i = 0 then b % 2 ^ 32
  else
    let f := b >>> (32 + (3 * w + v) * (i - 1))
    let ch (k : Nat) : Nat := (cumCh b k + (if k < 3 then cumDelta w (f >>> (w * k)) else cumDelta v (f >>> (3 * w)))) % 256
    ch 0 + 2 ^ 8 * ch 1 + 2 ^ 16 * ch 2 + 2 ^ 24 * ch 3

/-- The decoded image of a block under a mode byte, 256 bytes as a number (R321, R323). -/
def cumDecode (m b : Nat) : Nat :=
  match m / 64 with
  | 0 => b % 2 ^ 2048
  | 1 => packBits (List.replicate 64 (32, b % 2 ^ 32))
  | _ => packBits ((List.range 64).map fun i => (32, cumDeltaPixel b (cumWidth (bits m 5 3)) (cumWidth (m % 8)) i))

/-- The pixels of a decoded image. -/
def cumPixels (P : Nat) : List Nat := (List.range 64).map fun i => P >>> (32 * i) % 2 ^ 32

/-- `d(i, ch)` of R324. -/
def cumDiff (p0 p k : Nat) : Int :=
  let d := (cumCh p k + 256 - cumCh p0 k) % 256
  if 128 ≤ d then (d : Int) - 256 else d

/-- Whether a width holds a delta (R324). -/
def cumHolds (w : Nat) (d : Int) : Bool := if w = 0 then d == 0 else decide (-(2 ^ (w - 1) : Int) ≤ d ∧ d < 2 ^ (w - 1))

/-- The least width code that holds every delta of the channels ks. -/
def cumCode (ps : List Nat) (ks : List Nat) : Nat :=
  ((List.range 8).find? fun c => ps.all fun p => ks.all fun k => cumHolds (cumWidth c) (cumDiff (ps.headD 0) p k)).getD 7

/-- A delta as a field of width w. -/
def cumField (w : Nat) (d : Int) : Nat := (d % 2 ^ w).toNat

/-- `Encode` (R324): the mode byte, the bytes it uses as a number, and how many. -/
def cumEncode (raw : Bool) (P : Nat) : Nat × Nat × Nat :=
  let ps := cumPixels P
  let p0 := ps.headD 0
  if raw then (0, P, 256)
  else if ps.all (· == p0) then (0x40, p0, 4)
  else
    let wc := cumCode ps [0, 1, 2]
    let wa := cumCode ps [3]
    let w := cumWidth wc
    let v := cumWidth wa
    if 3 * w + v < 32 then
      let fields := (ps.drop 1).map fun p =>
        (3 * w + v, packBits [(w, cumField w (cumDiff p0 p 0)), (w, cumField w (cumDiff p0 p 1)),
          (w, cumField w (cumDiff p0 p 2)), (v, cumField v (cumDiff p0 p 3))])
      (0x80 + 8 * wc + wa, packBits ((32, p0) :: fields), (32 + 63 * (3 * w + v) + 7) / 8)
    else (0, P, 256)

/-- The tile block of a byte of a Cumin page, and its mode byte; none for the mode bytes and the reserved byte (R320). -/
def cumBlock (pa : Nat) : Option (Nat × Nat) :=
  let j := pa % 65536 / 256
  if j < 255 then some (pa / 256 * 256, pa / 65536 * 65536 + 65280 + j) else none

/-- The decoded image of a tile block; none when its mode byte is malformed (R322, R323). -/
def State.tileAt (s : State) (block mode : Nat) : Option Nat :=
  let m := s.rdMem mode 1
  if cumBad m then none else some (cumDecode m (s.rdMem block 256))

/-- The stored bytes of a block on which decoded bytes [lo, hi) depend under a mode byte, as first byte and bytes (R323). -/
def cumUses (m lo hi : Nat) : List (Nat × Nat) :=
  match m / 64 with
  | 0 => [(lo, hi - lo)]
  | 1 => [(0, 4)]
  | _ =>
    let k := 3 * cumWidth (bits m 5 3) + cumWidth (m % 8)
    (0, 4) :: ((List.range 64).filter fun i => 0 < i ∧ 0 < k ∧ lo < 4 * i + 4 ∧ 4 * i < hi).map fun i =>
      let a := 32 + k * (i - 1)
      (a / 8, (a + k + 7) / 8 - a / 8)

/-- The detail of poison that n bytes of a Cumin page carry to a decoding reader: of the mode byte or of the stored bytes
that the kind uses for them (R323; 21 R468). -/
def State.cumPoison (s : State) (pa n : Nat) : Option Nat :=
  match cumBlock pa with
  | none => s.homePoison pa n
  | some (b, m) =>
    match s.homePoison m 1 with
    | some d => some d
    | none => (cumUses (s.rdMem m 1) (pa - b) (pa - b + n)).findSome? fun x => s.homePoison (b + x.1) x.2

/-- Whether bytes [lo, hi) of a tile's decoded image depend on poison; of its mode byte if there are none. -/
def State.tilePoison (s : State) (b m lo hi : Nat) : Option Nat :=
  if lo < hi then s.cumPoison (b + lo) (hi - lo) else s.homePoison m 1

/-- Whether a write of bytes [lo, hi) of a tile is refused: it covers part of a half-line whose other bytes depend on poison, or
the mode byte, which it writes too, is poisoned (R325; 21 R468); `covers` are the half-lines that the instruction covers. -/
def State.tileRefuses (s : State) (b m lo hi : Nat) (covers : Nat → Bool) : Bool :=
  (s.homePoison m 1).isSome || (halvesOf (b + lo) (hi - lo)).any fun h =>
    !covers h && ((s.tilePoison b m (64 * h - b) lo).isSome || (s.tilePoison b m hi (64 * h + 64 - b)).isSome)

/-- The half-lines of a tile, beside those that a write of bytes [lo, hi) meets, whose image depends on poison: they stay poisoned
when the tile is stored anew (21 R468). -/
def State.tileKeeps (s : State) (b m lo hi : Nat) : List (Nat × Nat) :=
  (halvesOf b 256).filterMap fun h =>
    if (halvesOf (b + lo) (hi - lo)).contains h then none else (s.cumPoison (64 * h) 64).map fun d => (h, d)

/-- The half-lines that the home reads or writes for n bytes: a tile whole, with its mode byte (R325; 08 R220, R223). -/
def needHalves (cum : Bool) (pa n : Nat) : List Nat :=
  match (if cum then cumBlock pa else none) with
  | some (b, m) => m / 64 :: halvesOf b 256
  | none => halvesOf pa n

/-- The lines that a write of some bytes changes: of a tile, its two lines and that of its mode byte (R325). -/
def linesOf (cum : Bool) (pa : Nat) : List Nat :=
  match (if cum then cumBlock pa else none) with
  | some (b, m) => [b / 128, b / 128 + 1, m / 128]
  | none => [pa / 128]

/-- n bytes of one line of a Cumin page as a decoding reader receives them; none for a malformed tile (R321, R323). -/
def State.cumRead (s : State) (pa n : Nat) : Option Nat :=
  match cumBlock pa with
  | none => some (s.homeRead pa n)
  | some (b, m) => (s.tileAt b m).map fun P => P >>> (8 * (pa - b)) % 2 ^ (8 * n)

/-- n bytes of module memory as a decoding reader of a page receives them (R220). -/
def State.readDec (s : State) (cum : Bool) (pa n : Nat) : Option Nat := if cum then s.cumRead pa n else some (s.homeRead pa n)

end Sys2Proof.Machine
end

