-- ==== Sys2Proof/Machine/Post.lean ====
section
/-! DEFINITION. Writes as their home applies them, with monitor wakes (09 R237); signals to the host (22 R484); the
fault ring (16 R384); cancels and context faults (15 R360, 16 R398). -/

namespace Sys2Proof.Machine

/-- `Cond(w, b)` of R236. -/
def monCond (cond : Nat) (w b : Word) : Bool :=
  match cond with
  | 0 => w == b
  | 1 => w != b
  | 2 => w.slt b
  | 3 => !w.slt b
  | 4 => w.ult b
  | 5 => !w.ult b
  | 6 => w &&& b != 0
  | _ => w &&& b == 0

/-- Whether a write of n bytes from pa is compared with a registration: it meets the word, or in a Cumin page the word's
tile or the tile's mode byte (R236, R237). -/
def Mon.meets (m : Mon) (pa n : Nat) : Bool :=
  match (if m.cum then cumBlock m.pa else none) with
  | some (b, k) => decide ((b < pa + n ∧ pa < b + 256) ∨ (k < pa + n ∧ pa ≤ k))
  | none => decide (m.pa < pa + n ∧ pa < m.pa + 4)

/-- The word of a registration as its compare reads it; none when it is poisoned or its tile is malformed (R236). -/
def State.monWord (s : State) (m : Mon) : Option Nat :=
  match (if m.cum then cumBlock m.pa else none) with
  | some _ => if (s.cumPoison m.pa 4).isSome then none else s.cumRead m.pa 4
  | none => if (s.homePoison m.pa 4).isSome then none else some (s.homeRead m.pa 4)

/-- The wakes of writes applied at one tick (R237): every registration whose condition now holds is removed, and its
operation has the value that woke it; so does a queue's on its write pointer (15 R348). -/
def State.wakeMonitors (s : State) (ws : List (Nat × Nat)) : State :=
  let wakes (m : Mon) : Bool := ws.any (fun w => m.meets w.1 w.2) &&
    match s.monWord m with
    | some x => monCond m.cond (BitVec.ofNat 32 x) m.b
    | none => false
  let s' := (s.monitors.filter wakes).foldl (fun t m =>
    if 2 ^ 64 ≤ m.g then { t with peerWakes := t.peerWakes ++ [(m.g - 2 ^ 64, m.pa, (s.monWord m).getD 0)] }
    else t.updOp m.op fun o => { o with phase := 2, result := (s.monWord m).getD 0 }) s
  let woken (q : Queue) : Bool := !q.woken && q.wptrPa.any fun pa =>
    ws.any (fun w => decide (pa < w.1 + w.2 ∧ w.1 < pa + 4)) && s.homeRead pa 4 != q.wptr
  { s' with
    monitors := s.monitors.filter fun m => !wakes m
    queues := s.queues.mapVals fun _ q => if woken q then { q with woken := true } else q }

/-- Writes (address, bytes, value) applied at their home at one tick (08 R198), with the monitors that they wake;
half-lines covered whole lose their poison (21 R468). -/
def State.applyWrites (s : State) (ws : List (Nat × Nat × Nat)) : State :=
  (ws.foldl (fun s w => (s.homeApply w.1 w.2.1 w.2.2).clearPoison (wholeHalves w.1 w.2.1)) s).wakeMonitors
    (ws.map fun w => (w.1, w.2.1))

/-- One write applied at its home. -/
def State.applyWrite (s : State) (pa n x : Nat) : State := s.applyWrites [(pa, n, x)]

/-- n bytes of an image in memory written by the device at one tick (16 R393): half-lines covered whole lose their poison, and the
monitors compare (09 R237). -/
def State.wrImage (s : State) (pa n x : Nat) : State :=
  ((s.wrMem pa n x).clearPoison (wholeHalves pa n)).wakeMonitors [(pa, n)]

/-- n bytes of a memory type (16 R379): module memory or host memory. -/
def State.rdType (s : State) (mt pa n : Nat) : Nat := if mt = 1 then memReadN s.hostMem pa n else s.homeRead pa n
/-- The command processor's read of a virtual address of a context (15 R349, 16 R380). -/
def State.rdVa (s : State) (ctx : Nat) (sup : Bool) (va n : Nat) : Option Nat :=
  match s.resolveCp ctx sup .read va with
  | .ok l => if (l.mt = 1 ∧ Sys2Proof.Config.hostError s.gnomon (l.phys va)) ∨ (l.mt = 0 ∧ s.taps (l.phys va) n) then none
    else some (s.rdType l.mt (l.phys va) n)
  | .error _ => none

/-- Whether the schedule's probe disturbs what that read comes to (log 176). -/
def State.tapsVa (s : State) (ctx : Nat) (sup : Bool) (va n : Nat) : Bool :=
  s.probe.isSome && match s.resolveCp ctx sup .read va with
    | .ok l => l.mt == 0 && s.taps (l.phys va) n
    | .error d => d == 0xFF

/-! ### Signals to the host (22 R484) -/

/-- An MSI-X signal on a vector. -/
def State.signal (s : State) (v : Nat) : State :=
  { s with host := { s.host with msi := s.host.msi.set v (s.host.msi.getD v 0 + 1) } }

/-- A telemetry event: a record in the ring at the physical address TLMB (log 33) and on the management port, and vector 0. -/
def State.telemetry (s : State) (code arg : Nat) : State :=
  let a := s.host.tlmb.toNat + 16 * (s.host.tlm % 256)
  let s := if inModuleN a 16 then s.applyWrite a 16 (packBits [(64, s.gnomon), (32, code), (32, arg)]) else s
  ({ s with host := { s.host with tlm := s.host.tlm + 1, mport := s.host.mport ++ [(s.gnomon, code, arg)] } } : State).signal 0

/-! ### The fault ring (16 R384) -/

/-- A record as its 32 bytes. -/
def FaultRec.image (r : FaultRec) : Nat :=
  packBits [(64, r.va), (4, r.kind), (4, r.src), (8, r.detail), (16, 0), (32, r.n), (64, 0), (64, r.arg)]

/-- The address of ring entry i. -/
def Ctx.ringAt (c : Ctx) (i : Nat) : Nat := c.fring + 32 * (i % 2 ^ c.fqsz)

/-- Whether the ring has a free place (16 R384): one that fdone has passed and whose reply has been read (R385). -/
def State.ringFree (s : State) (ctx : Nat) : Bool :=
  let c := s.ctx ctx
  (decide ((c.fnext + 2 ^ 32 - s.rdMem c.fdone 4) % 2 ^ 32 < 2 ^ c.fqsz) != s.taps c.fdone 4) && (c.fnext + 2 ^ 32 - c.fseen) % 2 ^ 32 < 2 ^ c.fqsz

/-- A record of the context takes the next place of the ring: the record, then the write pointer, then the signal. -/
def State.placeRec (s : State) (ctx id : Nat) : State :=
  let c := s.ctx ctx
  match c.recs.find? (·.id == id) with
  | none => s
  | some r =>
    let s := s.applyWrite (c.ringAt c.fnext) 32 r.image
    let s := s.applyWrite c.fwptr 4 (c.fnext + 1)
    let s := s.signal (2 + ctx % 2046)
    s.updCtx ctx fun c => { c with
      fnext := (c.fnext + 1) % 2 ^ 32
      recs := c.recs.map fun r => if r.id = id then { r with idx := some c.fnext } else r }

/-- A fault posted to a context's ring: joined to an unanswered record of the same page and kind, else a new record,
which waits when the ring is full. The record's number is returned. -/
def State.postFault (s : State) (ctx : Nat) (r : FaultRec) : State × Nat :=
  match (s.ctx ctx).recs.find? fun q => r.kind < 4 && q.kind == r.kind && q.va / 65536 == r.va / 65536 with
  | some q =>
    let q' := { q with va := min q.va r.va, n := q.n + 1 }
    let s := s.updCtx ctx fun c => { c with recs := c.recs.map fun x => if x.id = q.id then q' else x }
    (match q.idx with
      | some i =>
        let a := (s.ctx ctx).ringAt i
        s.applyWrite a 16 (q'.image % 2 ^ 128)
      | none => s, q.id)
  | none =>
    let id := s.nextRec
    let s := { s with nextRec := id + 1 }
    let s := s.updCtx ctx fun c => { c with recs := c.recs ++ [{ r with id := id }] }
    (if s.ringFree ctx && !((s.ctx ctx).recs.any fun q => q.idx.isNone && q.id != id) then s.placeRec ctx id else s, id)

/-- Records that wait for a place take the places that are free, oldest first. -/
def State.placeWaiting (s : State) (ctx : Nat) : Nat → State
  | 0 => s
  | n + 1 =>
    match (s.ctx ctx).recs.find? (·.idx.isNone) with
    | some r => if s.ringFree ctx then (s.placeRec ctx r.id).placeWaiting ctx n else s
    | none => s

/-! ### Ending groups, cancels and context faults -/

/-- Every lane of a group ends (06 R151); its undrained stores still drain (07 R179). -/
def Group.endAll (g : Group) : Group :=
  { g with mode := .ended, paths := Vector.replicate 64 {}, pend := [], posted := [], deferred := none, order := none }

/-- A resident group of a cancelled launch ends: its queue is never applied, its registrations are removed, a child launch
that it waits to create is not created; a release store that it issued runs to its end. -/
def State.killGroup (s : State) (gid : Nat) : State :=
  match s.groups.get? gid with
  | none => s
  | some g =>
    let order := g.order.filter fun o => match o.then_ with | .store _ => true | _ => false
    { s with
      groups := s.groups.set gid { g.endAll with ssq := [], order := order }
      ops := s.ops.keep fun id o => !(g.ssq.contains id) && !(o.g == gid &&
        (match o.kind with | .mwait .. | .depth | .launch .. => true | _ => false))
      monitors := s.monitors.filter fun m => m.g != gid }

/-- The entities under one: itself, its members and the children created under it, whatever the depth (15 R360); a
member has a greater number than its container. -/
def State.under (s : State) (e : Nat) : List Nat :=
  s.entities.foldl (fun l x =>
    if x.1 = e ∨ (x.2.parent.any l.contains) ∨ (x.2.creator.any l.contains) then l ++ [x.1] else l) []

/-- A block of a cancelled launch: a saved one is discarded with its groups, a resident one ends. -/
def State.cancelBlock (s : State) (bid : Nat) : State :=
  match s.blocks.get? bid with
  | none => s
  | some b =>
    let s := b.groups.foldl State.killGroup s
    let s := s.updCores fun _ c => { c with raster := c.raster.filter (·.block != bid) }
    s.updBlock bid fun b => { b with cancelled := true, tris := [] }

/-- The cancel of an entity with the state and detail that its own entities named in `top` take (15 R360, 16 R398). -/
def State.cancel (s : State) (e : Nat) (top : List Nat) (state detail : Nat) : State :=
  let l := s.under e
  let decide_ (k : Nat) (x : Entity) : Entity :=
    if l.contains k && !x.ended && x.verdict.isNone then
      { x with
        verdict := some (if top.contains k then (state, detail) else if x.started then (2, 0) else (2, 1))
        gcount := none, gwait := false }
    else x
  let s := { s with entities := s.entities.mapVals decide_ }
  (s.blocks.filter fun b => l.contains b.2.launch).foldl (fun s b => s.cancelBlock b.1) s

/-- The job above an entity. -/
def State.jobOf (s : State) : Nat → Nat → Nat
  | 0, e => e
  | n + 1, e => match (s.entities.get? e).bind (·.parent) with
    | some p => s.jobOf n p
    | none => e

/-- A context fault of a group (16 R398): a record of kind 4, and the job ends, the job and the faulting launch with
state 3 and the cause. -/
def State.contextFault (s : State) (gid : Nat) (cause src va : Nat) : State :=
  match s.groups.get? gid with
  | none => s
  | some g =>
    let (s, _) := s.postFault g.ctx { id := 0, va := va, kind := 4, src := src, detail := cause }
    let s := s.updGroup gid fun g => { g with mode := .dead }
    match s.blocks.get? g.block with
    | none => s
    | some b =>
      let j := s.jobOf 5 b.launch
      s.cancel j [j, b.launch] 3 cause

end Sys2Proof.Machine
end

