-- ==== Sys2Proof/Machine/Traps.lean ====
section
/-! DEFINITION. Taking a trap and returning from one (06 R159 to R162), the stop for a pending fault with its roll-back
(16 R390), and deferred errors (16 R487). -/

namespace Sys2Proof.Machine

/-- A trap to be taken (06 R159, R161). -/
structure Trap where
  cause : Nat
  detail : Nat := 0
  val : Word
  lanes : Mask
  /-- EMIW, EMTW, EMINF of the emulation trap (03 R70) -/
  em : Option (Word × Word × BitVec 7) := none
  /-- FADDR, when the raising rule sets it -/
  addr : Option DWord := none
  deriving DecidableEq, Repr

/-- TCAUSE of a cause and detail (06 R160). -/
def tcauseOf (cause detail : Nat) : Word := BitVec.ofNat 32 (cause % 256 + 256 * (detail % 256))

/-- The path of these lanes is written anew: its word carries no poison any more (21 R467). -/
def Group.clearBad (g : Group) (live : Mask) : Group :=
  if g.paths.toList.any (·.bad) then
    { g with paths := Vector.ofFn fun i => let e := g.paths[i]; if e.mask &&& live = 0 then e else { e with bad := false } }
  else g

/-- Entry to the handler (06 R161), for a group that is not in a handler and whose context has one: the saved
registers, the trap frame, supervisor level and the handler's path. -/
def Group.enterHandler (g : Group) (tvec : DWord) (pc : DWord) (live : Mask) (t : Trap) (tick : Nat) : Group :=
  let g := (g.clearBad live).saveFrame
  let m := g.frameMask
  let g := { g with
    sup := true
    trap := { g.trap with
      flm := t.lanes
      tpc := pc
      tmsk := live
      tcause := tcauseOf t.cause t.detail
      tval := t.val
      tstat := 0#1 ++ (if g.sup then 1#1 else 0#1) ++ 1#1
      faddr := t.addr.getD g.trap.faddr
      emiw := t.em.elim g.trap.emiw fun e : Word × Word × BitVec 7 => e.1
      emtw := t.em.elim g.trap.emtw fun e : Word × Word × BitVec 7 => e.2.1
      eminf := t.em.elim g.trap.eminf fun e : Word × Word × BitVec 7 => e.2.2 }
    step := none
    keptB := none }
  let g := g.setEntry 0 { kind := .path, mask := m, pc := tvec, since := tick }
  g.setNc m 0

/-- A new replay point (16 R389). -/
def Group.newReplayPoint (g : Group) (pc : DWord) (mark : Nat) : Group :=
  { g with journal := [], rpc := pc, replayMark := mark, precise := false, stepBack := false }

/-! ### Trace records (19 R459) and the end of a single-lane step (19 R455) -/

/-- The bit of TRCTL that lets a kind of record be written: samples, matches, halts and steps and resumptions. -/
def traceBit (kind : Nat) : Nat := match kind with | 1 => 29 | 2 => 27 | _ => 28

/-- A record generated for the trace session of a group's context. -/
def State.trace (s : State) (g : Group) (kind : Nat) (pc : Nat) (mask : Mask) (info : Nat) : State :=
  let t := (s.ctx g.ctx).trace
  if t.ctl.getLsbD 31 && t.ctl.getLsbD (traceBit kind) then
    let w := packBits [(8, kind), (8, t.seq.toNat), (16, mask.toNat), (6, g.core % 52), (1, coreDie g.core), (8, g.slot),
      (1, 0), (16, info)]
    s.updCtx g.ctx fun c => { c with trace := { t with queue := t.queue ++ [(s.gnomon, pc, g.rib.toNat, w)] } }
  else s

/-- Whether the path of these lanes is that of a lane with a single-lane step in progress. -/
def Group.steps (g : Group) (m : Mask) : Bool := m &&& g.hstep == m && m != 0 && m &&& (m - 1) == 0

/-- The records of the end of a single-lane step (19 R455, R459). -/
def State.stepRecord (s : State) (g : Group) (m : Mask) (pc : DWord) : State :=
  let (s, _) := s.postFault g.ctx { id := 0, va := 0, kind := 6, src := 0, detail := 0x80, arg := g.rib.toNat }
  s.trace g 4 pc.toNat m 0

/-- The single-lane step of lane mask m ends (19 R455): the lane halts again, and the records of its end are posted. -/
def State.stepEnds (s : State) (gid : Nat) (g : Group) (m : Mask) (pc : DWord) : State :=
  let h : Group := { g with hstep := g.hstep &&& ~~~m, hbar := g.hbar &&& ~~~m, hlm := g.hlm ||| m }
  (s.setGroup gid h).stepRecord h m pc

/-- Lanes in a single-lane step that halt before their instruction has issued are in none any more (19 R455); one that stood at a
`bar` issues it again. -/
def Group.dropSteps (g : Group) : Group :=
  let m := g.hstep &&& g.hlm
  if m = 0 then g
  else
    { g with
      hstep := g.hstep &&& ~~~m
      hbar := g.hbar &&& ~~~m
      paths := Vector.ofFn fun i =>
        let e := g.paths[i]
        if e.kind = .path ∧ e.hold = .bar none ∧ e.mask &&& m &&& g.hbar ≠ 0 then { e with hold := .none } else e }

/-- The group that some lanes of it have halted in, and the records of the steps that this ends (19 R455). -/
def State.setHalted (s : State) (gid : Nat) (g : Group) : State :=
  (laneList (g.hstep &&& g.hlm)).foldl (fun s l =>
    s.stepRecord g (1#16 <<< l.val) (((g.pathOfLane l).map fun q => (g.entryAt q).pc).getD 0)) (s.setGroup gid g.dropSteps)

/-- `TakeTrap` (06 R161): a double trap, or a context with no handler, is a context fault (16 R398). A trap is taken at a
sink, so a new replay point stands after it (16 R388, R389). A trap of a single-lane step ends the step: the lane halts
again in the handler's path (19 R455). -/
def State.takeTrap (s : State) (gid : Nat) (pc : DWord) (live : Mask) (t : Trap) : State :=
  match s.groups.get? gid with
  | none => s
  | some g =>
    let c := s.ctx g.ctx
    if g.trap.tstat.getLsbD 0 ∨ c.tvec = 0 then s.contextFault gid t.cause 0 pc.toNat
    else
      let h := (g.enterHandler c.tvec pc live t s.gnomon).newReplayPoint c.tvec s.nextOp
      if g.steps live then s.stepEnds gid h live pc else s.setGroup gid h

/-- The return from a trap (06 R162): the paths of the frame, the level, TSTAT.inh := 0, and a step armed; with no stopped
path, that is TMSK = 0, the step has no path that could issue it (DESIGN CHOICE, log 168). -/
def Group.returnTrap (g : Group) (tick : Nat) : Group :=
  let g := { g with step := if g.trap.tstat.getLsbD 2 then some (g.trap.tmsk, none) else none }.restoreFrame tick
  { g with
    sup := g.trap.tstat.getLsbD 1
    trap := { g.trap with tstat := g.trap.tstat &&& 0b110#3 } }

/-! ### Native mode (16 R386 to R390) -/

/-- Whether the group runs in native mode (16 R376, R386). -/
def State.native (s : State) (g : Group) : Bool := !(s.ctx g.ctx).compat

/-- Whether a value of the group is poisoned. -/
def Poison.any (p : Poison) : Bool :=
  p.v.toList.any (· != 0) || p.s != 0 || p.a != 0 || p.p.toList.any (· != 0)

/-- The operations of a group. -/
def State.opsOf (s : State) (gid : Nat) : AMap Op := s.ops.keep fun _ o => o.g == gid

/-- Whether an operation of a sampler or a ray engine may still find reads that it has to make (11 R278; 12 R309): phase 1
when it has them all. -/
def Op.searching (o : Op) : Bool :=
  !o.finished && (match o.kind with | .sample .. | .trace .. => o.phase != 1 | _ => false)

/-- Whether every access that the group issued has a settled translation (16 R388). -/
def State.settled (s : State) (gid : Nat) : Bool :=
  s.ops.all fun e => e.2.g != gid || (!e.2.searching && e.2.accs.all fun a => a.st != .walk)

/-- Whether the group has a pending fault (16 R386). -/
def State.pending (s : State) (gid : Nat) (g : Group) : Bool :=
  !g.pend.isEmpty || s.ops.any fun e => e.2.g == gid && e.2.accs.any fun a => a.st == .fault

/-- valloc at the replay point: the journaled one, if line 263 was written since (16 R389). -/
def Group.replayValloc (g : Group) : Nat :=
  match g.journal.find? (·.line == 263) with
  | some j => (g.setLine 263 j.data).valloc
  | none => g.valloc

/-- The vector lines that a greater allocation zeroes and that the group had at its replay point: one that was dropped since
comes back with a roll-back (07 R175; the other added lines hold no register then, log 133). -/
def Group.regrown (old new : Group) : List Nat :=
  ((List.range (16 * min new.valloc old.replayValloc)).drop (16 * old.valloc))

/-- The lines that a change wrote or that an operation will write, prior contents first journaled once (16 R389). -/
def Group.journalOf (old new : Group) (vs : List Nat) (later : List Nat := []) : List JEntry :=
  let ls := (later ++ old.vectorsChanged new (vs ++ old.regrown new) ++ old.uniformChanged new).dedup.filter fun k =>
    !(old.journal.any fun j => j.line == k)
  old.journal ++ ls.map old.entryOf

/-- The stop for a pending fault: the group issues nothing more (16 R390 step 1). -/
def Group.stopForFault (g : Group) : Group := { g with mode := .settle }

/-- A deferred error as a trap (16 R487). -/
def Deferred.trap (d : Deferred) (live : Mask) : Trap :=
  { cause := d.cause, detail := d.detail, val := d.tval, lanes := live, addr := some (BitVec.ofNat 64 d.addr) }

/-- A deferred error reaches a group; one that has ended gives the context fault (16 R487, R398). -/
def State.defer (s : State) (gid : Nat) (d : Deferred) : State :=
  match s.groups.get? gid with
  | none => s
  | some g =>
    if g.mode = .ended then s.contextFault gid d.cause 0 0
    else s.updGroup gid fun g => if g.deferred.isNone then { g with deferred := some d } else g

end Sys2Proof.Machine
end

