-- ==== Sys2Proof/Machine/Watch.lean ====
section
/-! DEFINITION. Watch predicates: their evaluation and their actions (19 R434 to R446), and trace records (19 R459). -/

namespace Sys2Proof.Machine

/-- A predicate's four words. -/
abbrev Pred := Vector Word 4

/-- en -/
def Pred.en (p : Pred) : Bool := p[0].getLsbD 31
/-- act -/
def Pred.act (p : Pred) : Nat := bits p[0].toNat 30 28
/-- src -/
def Pred.src (p : Pred) : Nat := bits p[0].toNat 27 24
/-- cmp -/
def Pred.cmp (p : Pred) : Nat := bits p[0].toNat 23 21
/-- sz -/
def Pred.sz (p : Pred) : Nat := bits p[0].toNat 20 15
/-- mir -/
def Pred.mir (p : Pred) : Bool := p[0].getLsbD 14
/-- log -/
def Pred.log (p : Pred) : Bool := p[0].getLsbD 13
/-- ctx -/
def Pred.ctx (p : Pred) : Nat := bits p[3].toNat 31 16
/-- thr; 0 counts as 1 -/
def Pred.thr (p : Pred) : Nat := max 1 (bits p[3].toNat 15 0)
/-- The window base of an address source. -/
def Pred.base (p : Pred) : Nat := p[1].toNat + 2 ^ 32 * p[2].toNat

/-- Whether a comparator is allowed for a source (R436). -/
def cmpAllowed (src cmp : Nat) : Bool := if src < 3 then cmp < 2 else if src < 5 then cmp < 7 else cmp == 6

/-- Whether a predicate is malformed (R435). -/
def Pred.malformed (p : Pred) : Bool :=
  p.act == 7 || decide (5 < p.src) || bits p[0].toNat 12 0 != 0 || decide (56 < p.sz) || (decide (3 ≤ p.src) && p.sz != 0) ||
  (decide (p.src < 3) && p.base % 2 ^ p.sz != 0) || !cmpAllowed p.src p.cmp ||
  (p.src == 5 && (bits p[1].toNat 31 5 != 0 || p[2] != 0)) ||
  (p.mir && ((p.src != 1 && p.src != 2) || decide (21 < p.sz)))

/-- The comparison of a predicate with x (R436). -/
def Pred.holds (p : Pred) (x : Nat) : Bool :=
  if p.src < 3 then ((x ^^^ p.base) >>> p.sz == 0) == (p.cmp == 0)
  else if p.src = 5 then x &&& bits p[1].toNat 4 0 != 0
  else
    let w := BitVec.ofNat 32 x &&& p[2]
    let o := p[1] &&& p[2]
    match p.cmp with
    | 0 => w == o
    | 1 => w != o
    | 2 => w.slt o
    | 3 => w.ult o
    | 4 => !w.slt o
    | 5 => !w.ult o
    | _ => w != 0

/-- One value of a lane for a source; an any-address predicate takes both address sources (R437). -/
structure Sample where
  lane : Fin 16
  x : Nat
  deriving DecidableEq, Repr

/-- Whether a predicate is in force for a context. -/
def Pred.inForce (p : Pred) (ctx : Nat) : Bool := p.en && p.ctx == ctx

/-- The lanes that match, each lane once. -/
def Pred.matching (p : Pred) (xs : List Sample) : Mask :=
  maskOf fun l => xs.any fun x => x.lane == l && p.holds x.x

/-- The match counter after n matches, and the lanes that fire, lanes in increasing order (R438). -/
def fireLanes (thr : Nat) (m : Mask) (cnt : Nat) : Nat × Mask :=
  (laneList m).foldl (fun (c, f) l =>
    let c' := min (c + 1) (2 ^ 32 - 1)
    (c', if thr ≤ c' then f ||| (1#16 <<< l.val) else f)) (cnt, 0)

/-- The result of an evaluation: the core's counters, and for each predicate the matching and the firing lanes. -/
structure Verdict where
  counters : Vector Nat 16
  hits : List (Nat × Mask × Mask)
  deriving DecidableEq, Repr

/-- Every predicate in force of the context evaluated once at a core, on the samples of its source (R437, R438). -/
def State.evaluate (s : State) (core ctx : Nat) (f : Nat → List Sample) : Verdict :=
  (List.finRange 16).foldl (fun (v : Verdict) (k : Fin 16) =>
    let p : Pred := s.preds[k]
    if p.inForce ctx then
      let m := p.matching (f p.src)
      let (c, fired) := fireLanes p.thr m v.counters[k]
      { counters := v.counters.set k c
        hits := if m = 0 then v.hits else v.hits ++ [(k.val, m, if p.act = 0 then 0 else fired)] }
    else v) ⟨(s.core core).matches_, []⟩

/-- The samples of some sources. -/
def samplesOf (srcs : List Nat) (xs : List Sample) (src : Nat) : List Sample := if srcs.contains src then xs else []

/-- The order of actions in R439: context, gang, group, path, lane, trap. -/
def actRank (act : Nat) : Nat := if act = 1 then 1 else act

/-- The action taken (R439): the act, the lanes it applies to, and the predicate reported. -/
def State.chosenAct (s : State) (v : Verdict) : Option (Nat × Mask × Nat) :=
  let fired := v.hits.filter fun h => h.2.2 != 0
  let actOf (k : Nat) : Nat := if h : k < 16 then Pred.act s.preds[k] else 0
  match fired.foldl (fun r h => max r (actRank (actOf h.1))) 0 with
  | 0 => none
  | a =>
    let hs := fired.filter fun h => actOf h.1 == a
    some (a, hs.foldl (fun m h => m ||| h.2.2) 0, (hs.map (·.1)).headD 0)

/-! ### The counters of an evaluation -/

/-- The counters of an evaluation stored, and trace records for the matches of predicates with log = 1. -/
def State.countMatches (s : State) (g : Group) (v : Verdict) (pc : Nat) : State :=
  let s := s.updCore g.core fun c => { c with matches_ := v.counters }
  v.hits.foldl (fun s h =>
    let p : Pred := if hk : h.1 < 16 then s.preds[h.1] else s.preds[0]
    if p.log then s.trace g 2 pc h.2.2 (h.1 + 16 * p.act + 128 * p.src) else s) s

/-! ### Halts (19 R442, R446) -/

/-- Every live lane of every path halts. A handler's path keeps the lanes that run it, since those that halted before have their path
in the trap frame (19 R448). -/
def Group.haltAll (g : Group) : Group :=
  { g with
    hlm := g.paths.toList.foldl (fun m e => if e.kind = .path then m ||| e.mask else m) g.hlm
    paths := Vector.ofFn fun i =>
      let e := g.paths[i]
      if g.trap.tstat.getLsbD 0 ∧ e.kind = .path ∧ g.liveOf e.mask ≠ 0 then { e with mask := g.liveOf e.mask } else e }

/-- The groups that a halt of act 5 or 6 reaches besides the triggering one. -/
def State.haltTargets (s : State) (gid : Nat) (g : Group) (act : Nat) : List Nat :=
  (s.groups.filter fun e => e.1 != gid &&
    (if act = 5 then e.2.block == g.block else act == 6 && e.2.ctx == g.ctx)).map (·.1)

/-- A halt of act 4 to 6 on its way to a group (R443): a stronger one stays, and so does a count of instructions that a
halt of another group in the core has begun (`bounded`). -/
def Group.askHalt (g : Group) (act : Nat) (bounded : Bool) : Group :=
  { g with
    haltReq := some (max act (g.haltReq.getD 0))
    skid := if bounded && g.skid.isNone then some (Vector.replicate 16 0) else g.skid }

/-- A halt in a core (R442) with the record of R451; va is the first firing lane's address, 0 for value sources. -/
def State.halt (s : State) (gid q : Nat) (act : Nat) (lanes : Mask) (pred src : Nat) (pc : DWord) (va : Nat) : State :=
  match s.groups.get? gid with
  | none => s
  | some g =>
    let e := g.entryAt q
    let divides := g.liveOf e.mask &&& ~~~lanes != 0
    let act' := if act = 2 && divides && g.noRoom 1 then 3 else act
    let g' := if act' = 2 then g.haltLanes q lanes pc s.gnomon
      else
        let g := g.haltLanes q (g.liveOf e.mask) pc s.gnomon
        if act' = 3 then g else { g.haltAll with halted := act' = 6 || g.halted }
    let s := s.setHalted gid (g'.fillTable s.gnomon)
    let s := (s.haltTargets gid g act').foldl (fun s t => s.updGroup t fun x => x.askHalt act' true) s
    let (s, _) := s.postFault g.ctx
      { id := 0, va := if src < 3 then va else 0, kind := 6, src := 0, detail := pred + 16 * act', arg := g.rib.toNat }
    s.trace g 3 pc.toNat lanes (pred + 16 * act' + 128 * src)

/-- The group takes a new replay point after a halt, as at a sink (R440; 16 R389). -/
def State.watchPoint (s : State) (gid : Nat) (pc : DWord) : State :=
  s.updGroup gid fun g => if s.native g then g.newReplayPoint pc s.nextOp else g

/-- The action of a firing evaluation at a halt point (R441, R442): the watch trap or a halt. -/
def State.watchAct (s : State) (gid q : Nat) (a : Nat × Mask × Nat) (pc : DWord) (va : Nat) : State :=
  let (act, lanes, pred) := a
  let src := if h : pred < 16 then Pred.src s.preds[pred] else 0
  if act = 1 then
    match s.groups.get? gid with
    | none => s
    | some g => s.takeTrap gid pc (g.liveOf (g.entryAt q).mask)
        { cause := 0x22, detail := src, val := BitVec.ofNat 32 pred, lanes := lanes }
  else (s.halt gid q act lanes pred src pc va).watchPoint gid pc

/-- What an evaluation comes to. -/
inductive WatchRes where
  | go (s : State)
  | stay
  | ended (s : State)

/-- The evaluation at a pre-access halt point (R437 to R442): the samples of each source and the address of each firing
lane. A native group first resolves its faults and takes a deferred error, as at a sink (R440; 16 R388), and what was counted stays,
since the replay evaluates again (R437). -/
def State.watchPre (s : State) (gid q : Nat) (e : PathEntry) (f : Nat → List Sample) (va : Fin 16 → Nat) : WatchRes :=
  match s.groups.get? gid with
  | none => .go s
  | some g =>
    if e.seen then .go s
    else
      let v := s.evaluate g.core g.ctx f
      if v.hits.isEmpty then .go s
      else
        let s' := s.countMatches g v e.pc.toNat
        match s.chosenAct v with
        | none => .go s'
        | some a =>
          if s.native g && !s.settled gid then .stay
          else if s.native g && s.pending gid g then .ended (s'.updGroup gid Group.stopForFault)
          else match (if s.native g then g.deferred else none) with
          | some d => .ended ((s'.updGroup gid fun g => { g with deferred := none }).takeTrap gid e.pc (g.liveOf e.mask) (d.trap (g.liveOf e.mask)))
          | none =>
            let addr := ((laneList a.2.1).head?.map va).getD 0
            let s' := s'.watchAct gid q a e.pc addr
            let more := a.1 == 2 && g.liveOf e.mask &&& ~~~a.2.1 != 0
            .ended (if more then s'.updGroup gid fun g => g.updEntry q fun x => { x with seen := true } else s')

/-- Whether a predicate is in force for a context (R437). -/
def State.anyWatch (s : State) (ctx : Nat) : Bool := s.preds.toList.any fun p => Pred.inForce p ctx

/-- Whether a predicate with source 3 or 5 is in force for a context (R441). -/
def State.valueWatch (s : State) (ctx : Nat) : Bool :=
  s.preds.toList.any fun p => Pred.en p && Pred.ctx p == ctx && (Pred.src p == 3 || Pred.src p == 5)

end Sys2Proof.Machine
end

