-- ==== Sys2Proof/Machine/Ops.lean ====
section
/-! DEFINITION. The issue of an instruction: who has the turn, the conditions of R25, the checks of R41, the end action
of R156, stop points and sinks (16 R388), and what is done after the instruction's own effect. -/

namespace Sys2Proof.Machine

/-- The image lines of some registers (07 R168). -/
def RegSet.lines (r : RegSet) : List Nat :=
  r.v ++ r.s.map (fun n => 256 + n / 16) ++ r.a.map (fun n => 260 + n / 8) ++ (r.p.map fun _ => 262) ++
  (if r.rng then [263, 265, 266, 267, 268, 269, 270] else [])

/-- What an instruction names and needs (01 R17, R18, R25; 02 R41; 16 R388). -/
structure Use where
  /-- vector, scalar, address and predicate registers read -/
  vr : List Nat := []
  sr : List Nat := []
  ar : List Nat := []
  pr : List Nat := []
  /-- registers whose values the instruction writes as it issues -/
  vw : List Nat := []
  sw : List Nat := []
  aw : List Nat := []
  pw : List Nat := []
  /-- tiles named (10 R259) -/
  tiles : List Nat := []
  /-- a further register-range failure of check 5 (10 R264, 11 R299, 13) -/
  range : Bool := false
  /-- registers that an operation in flight will write -/
  later : RegSet := {}
  /-- it reads or writes the random state (05 R132) -/
  rng : Bool := false
  /-- vector numbers that must be even (R18) -/
  pairs : List Nat := []
  /-- return class (07 R177) -/
  cls : Option Nat := none
  /-- supervisor only (check 4) -/
  sup : Bool := false
  /-- feature group (03 R66) -/
  ext : Option Nat := none
  /-- element types it takes, when it uses MD.type (R23) -/
  types : Option (List Ty) := none
  rounds : Bool := false
  /-- it uses the guard -/
  guard : Bool := true
  /-- a uniform instruction: without an active lane it has no effect (05 R98) -/
  uniform : Bool := false
  /-- its result depends on every active lane of its sources (05 R125, R126) -/
  cross : Bool := false
  /-- its effect itself says which results its sources poison (05 R124, R127) -/
  ownPoison : Bool := false
  sink : Bool := false
  /-- a stop point that is not a sink: it makes its path wait (16 R388) -/
  stop : Bool := false
  /-- a control instruction of R146 other than nop and yield (06 R156) -/
  ctl : Bool := false
  /-- yield (06 R152) -/
  yields : Bool := false
  /-- its path ends and new ones stand in its place (06 R139, R150) -/
  ends : Bool := false
  deriving DecidableEq, Repr

/-- An instruction about to have its effect: its path as it issued, with the end action's next PC. -/
structure Iss where
  gid : Nat
  path : Nat
  e : PathEntry
  pc : DWord
  next : DWord
  md : Word
  live : Mask
  act : Mask
  word : Word
  len : Nat
  tick : Nat
  /-- operations so far -/
  mark : Nat
  /-- its number among all that issue -/
  seq : Nat := 0
  native : Bool
  /-- the group with the end action applied -/
  g : Group
  /-- the loop registers before the end action -/
  loops : LoopRegs := {}
  deriving DecidableEq, Repr

/-- What an instruction's own effect comes to. -/
inductive Eff where
  /-- the state after it, with the exception flags of each lane (04 R83) -/
  | ok (s : State) (flags : List (Fin 16 × Flags))
  | trap (t : Trap)
  /-- it may not issue yet (01 R25) -/
  | stay
  /-- the issue ended otherwise (a watch action, a record fault, a stop) -/
  | ended (s : State)

/-- What comes before the effect. -/
inductive Pre where
  | noIssuer
  | stay (why : Nat)
  | ended (s : State)
  | go (c : Iss)

/-! ### Who may issue -/

/-- Whether a halt on its way to the group lets a path of these lanes issue (19 R443): at most 4 instructions a path after a
halt of another group in the core, and no bound after a mirror's (log 160). -/
def Group.maySkid (g : Group) (live : Mask) : Bool :=
  g.haltReq.isNone || match g.skid with
  | none => true
  | some v => (List.finRange 16).all fun l => !live.getLsbD l || decide (v[l] < 4)

/-- The issue of a path of these lanes counts in the skid of a halt on its way (19 R443). -/
def Group.noteSkid (g : Group) (live : Mask) : Group :=
  match g.skid with
  | none => g
  | some v => { g with skid := some (Vector.ofFn fun l => if live.getLsbD l then v[l] + 1 else v[l]) }

/-- Whether path q of a group may issue, as far as the group's state says (01 R15, 06 R164, 08 R206). -/
def Group.mayTurn (g : Group) (q : Nat) : Bool :=
  let e := g.entryAt q
  g.home == .resident && g.mode == .run && g.order.isNone && g.maySkid (g.liveOf e.mask) && decide (q < 4) && g.runnable e &&
  match g.step with
  | none => true
  | some (m, issued) =>
    if e.mask &&& m ≠ 0 then issued.isNone
    else g.paths.toList.any fun x => x.kind == .path && x.mask &&& m != 0 && x.hold != .none

/-- The registers of a group with a write pending (01 R25, R26). -/
def State.pendingRegs (s : State) (gid : Nat) : RegSet :=
  s.ops.foldl (fun r e =>
    if e.2.g = gid ∧ !e.2.finished then
      { v := r.v ++ e.2.writes.v, s := r.s ++ e.2.writes.s, a := r.a ++ e.2.writes.a, p := r.p ++ e.2.writes.p,
        t := r.t ++ e.2.writes.t, rng := r.rng || e.2.writes.rng }
    else r) {}

/-- No number of one list in the other. -/
def disjoint (a b : List Nat) : Bool := a.all fun x => !b.contains x

/-- The vector registers an instruction names. -/
def Use.vs (u : Use) : List Nat := u.vr ++ u.vw ++ u.later.v

/-- The predicate registers it reads, the guard with them. -/
def Use.prs (u : Use) (md : Word) : List Nat := if u.guard && mdGe md then (mdGp md).toNat :: u.pr else u.pr

/-- No register it names has a write pending (01 R25); nor has the random state, for an instruction that may draw from it
(04 R95; log 144). -/
def Use.clear (u : Use) (r : RegSet) (md : Word) : Bool :=
  (!r.rng || !(u.rng || u.later.rng || mdRnd md == 5)) &&
  disjoint u.vs r.v && disjoint (u.sr ++ u.sw ++ u.later.s) r.s && disjoint (u.ar ++ u.aw ++ u.later.a) r.a &&
  disjoint (u.prs md ++ u.pw ++ u.later.p) r.p && disjoint u.tiles r.t

/-- The return-class counter is below 255 (01 R25). -/
def Use.counterOk (u : Use) (g : Group) : Bool :=
  match u.cls with
  | none => true
  | some k => if h : k < 6 then g.cnt[k] < 255 else true

/-- Every vector line it names is present (01 R25, R30); a number beyond the allocation has no line, and check 5 answers
for it (01 R18). -/
def Use.linesOk (u : Use) (g : Group) : Bool := u.vs.all fun n => 16 * g.valloc ≤ n || g.present.getLsbD n

/-- Whether an operation of the path's lanes still awaits an evaluation of a loaded value (19 R441). -/
def State.awaitsValue (s : State) (gid : Nat) (g : Group) (m : Mask) : Bool :=
  s.valueWatch g.ctx && s.ops.any fun e => e.2.g == gid && e.2.live &&& m != 0 && !e.2.finished && e.2.cls == some 0

/-- The issue conditions of R25, of precise mode (16 R390) and of R441. -/
def State.mayIssue (s : State) (gid : Nat) (g : Group) (e : PathEntry) (u : Use) : Bool :=
  u.clear (s.pendingRegs gid) e.md && u.counterOk g && u.linesOk g && !(s.awaitsValue gid g e.mask) &&
  (!g.precise || s.ops.all fun o => o.2.g != gid || o.2.finished || o.2.queued ||
    (o.2.undo.isNone && !o.2.searching && o.2.accs.all fun a => a.st != .walk && a.st != .ready))

/-- The reason of R458 for which a path does not issue: the first condition that fails. -/
def State.whyNot (s : State) (gid : Nat) (g : Group) (e : PathEntry) (u : Use) : Nat :=
  if !u.clear (s.pendingRegs gid) e.md then 1 else if !u.counterOk g then 3 else if !u.linesOk g then 4
  else if s.awaitsValue gid g e.mask then 15 else 2

/-- The state after an attempt to issue that finds a path waiting. -/
def State.stall (s : State) (gid q why : Nat) : State :=
  { s.updGroup gid (fun g => g.updEntry q fun e => { e with why := why }) with stalled := true }

/-! ### The checks -/

/-- EMINF of an extension word (03 R70). -/
def eminfOf (ng sup len8 : Bool) (group : Nat) : BitVec 7 :=
  BitVec.ofBool ng ++ BitVec.ofBool sup ++ BitVec.ofBool len8 ++ BitVec.ofNat 4 group

/-- The emulation trap of an extension word (03 R68, R70). -/
def emulation (w k : Word) (len8 ng sup : Bool) (group : Nat) (live : Mask) : Trap :=
  { cause := 0x07, val := w, lanes := live, em := some (w, if len8 then k else 0, eminfOf ng sup len8 (if ng then 0 else group)) }

/-- Checks 2, 4, 5 and 6 of R41: the first that fails. -/
def checkFails (g : Group) (md : Word) (live : Mask) (w k : Word) (len8 : Bool) (u : Use) : Option Trap :=
  let off (grp : Nat) : Bool := !(g.xmask.getLsbD grp)
  if u.ext.any off then some (emulation w k len8 false g.sup (u.ext.getD 0) live)
  else if u.sup && !g.sup then some { cause := 0x03, val := w, lanes := live }
  else if u.range || u.vs.any (fun n => 16 * g.valloc ≤ n) || u.pairs.any (fun n => n % 2 == 1) then
    some { cause := 0x04, val := w, lanes := live }
  else if u.types.any (fun l => !l.contains (mdType md)) || (u.rounds && 6 ≤ mdRnd md) then
    some { cause := 0x05, val := md, lanes := live }
  else none

/-- The live loops that end at an address, in the order of R156. -/
def LoopRegs.ending (r : LoopRegs) (x : DWord) : List Nat :=
  let l0 := r.lc0 != 0 && r.le0 == x
  let l1 := r.lc1 != 0 && r.le1 == x
  if l0 && l1 then (if r.ls1.toNat < r.ls0.toNat then [0, 1] else [1, 0]) else if l0 then [0] else if l1 then [1] else []

/-- The counting of R156: the next PC and the loop registers. -/
def LoopRegs.count (r : LoopRegs) (next : DWord) : List Nat → DWord × LoopRegs
  | [] => (next, r)
  | 0 :: l => let r := { r with lc0 := r.lc0 - 1 }; if r.lc0 ≠ 0 then (r.ls0, r) else r.count next l
  | _ :: l => let r := { r with lc1 := r.lc1 - 1 }; if r.lc1 ≠ 0 then (r.ls1, r) else r.count next l

/-- The traps of R156. -/
def loopTrap (g : Group) (ends : List Nat) (ctl : Bool) (live : Mask) (w : Word) : Option Trap :=
  if ends.isEmpty then none
  else if ctl then some { cause := 0x0C, val := w, lanes := live }
  else if g.manyPaths then some { cause := 0x06, val := w, lanes := live }
  else none

/-! ### Stop points and traps -/

/-- A pending deferred error is taken (16 R487). -/
def State.takeDeferred (s : State) (gid : Nat) (pc : DWord) (live : Mask) (d : Deferred) : State :=
  (s.updGroup gid fun g => { g with deferred := none }).takeTrap gid pc live (d.trap live)

/-- A trap at a PC with the live lanes of the stopped path: a stop point and a sink (16 R388), a deferred error before it
(16 R487), then the entry to the handler. None when an earlier access is not settled. -/
def State.raiseTrapAt (s : State) (gid : Nat) (pc : DWord) (live : Mask) (t : Trap) : Option State :=
  match s.groups.get? gid with
  | none => some s
  | some g =>
    if s.native g && !s.settled gid then none
    else if s.native g && s.pending gid g then some (s.updGroup gid Group.stopForFault)
    else some (match g.deferred with
      | some d => s.takeDeferred gid pc live d
      | none => s.takeTrap gid pc live t)

/-- A trap of an instruction of path q. -/
def State.raiseTrap (s : State) (gid q : Nat) (t : Trap) : Option State :=
  match s.groups.get? gid with
  | none => some s
  | some g => s.raiseTrapAt gid (g.entryAt q).pc (g.liveOf (g.entryAt q).mask) t

/-- Whether the guard predicate that a control instruction reads is poisoned (16 R388). -/
def Group.guardPoisoned (g : Group) (md : Word) (live : Mask) : Bool :=
  mdGe md && (g.poison.p[(mdGp md).toNat]'(by have := (mdGp md).isLt; omega)) &&& live != 0

/-- What a stop point does before its instruction (16 R388, R487): none to go on, `some none` to wait. In precise and in
compatibility mode every instruction takes a deferred error that has arrived. -/
def State.stopPoint (s : State) (gid : Nat) (g : Group) (e : PathEntry) (u : Use) : Option (Option State) :=
  let live := g.liveOf e.mask
  let isStop := u.sink || u.stop || (u.ctl && u.guard && g.guardPoisoned e.md live)
  let due := g.deferred.isSome && (isStop || g.precise || !s.native g)
  if s.native g && (u.sink || due) && !s.settled gid then some none
  else if s.native g && (isStop || due) && s.pending gid g then some (some (s.updGroup gid Group.stopForFault))
  else match g.deferred with
    | some d => if due then some (some (s.takeDeferred gid e.pc live d)) else none
    | none => none

/-- The lanes whose sources are poisoned (16 R386). -/
def Use.poisonIn (u : Use) (g : Group) (md : Word) (act : Mask) : Mask :=
  let vm := u.vr.foldl (fun m n => if h : n < 256 then m ||| g.poison.v[n] else m) (0 : Mask)
  let pm := (u.prs md).foldl (fun m n => if h : n < 8 then m ||| g.poison.p[n] else m) (0 : Mask)
  let all := u.sr.any (fun n => g.poison.s.getLsbD n) || u.ar.any fun n => g.poison.a.getLsbD n
  let m := vm ||| pm
  if all || (u.cross && m &&& act != 0) then BitVec.allOnes 16 else m

/-- In precise and in compatibility mode an instruction that reads a poisoned register, or whose path's word is poisoned, takes the
trap of the poison (16 R390; 21 R469). -/
def poisonTrap (g : Group) (compat : Bool) (e : PathEntry) (u : Use) (live : Mask) (w : Word) : Option Trap :=
  let act := if u.guard then g.activeOf e.mask e.md else live
  if (g.precise || compat) && e.bad then some { cause := 0x31, detail := 2, val := w, lanes := live, addr := some 0 } else
  let m := (if g.precise || compat then u.poisonIn g e.md act else 0) &&& live
  if m ≠ 0 then
    let (cause, detail) := if 0x100 ≤ g.poison.code then (0x21, g.poison.code - 0x100) else (0x31, g.poison.code)
    some { cause := cause, detail := detail, val := w, lanes := m, addr := some 0 }
  else none

/-- Everything before an instruction's own effect: the turn, R25, checks 2 to 6 of R41, the end action of R156 and its
traps, the stop point. -/
def preIssue (i : IWord) (u : Use) (s : State) : Pre :=
  match s.cur with
  | none => .noIssuer
  | some (gid, q) =>
    match s.groups.get? gid with
    | none => .noIssuer
    | some g =>
      if !g.mayTurn q then .noIssuer
      else
        let e := g.entryAt q
        let live := g.liveOf e.mask
        let raise (t : Trap) : Pre := match s.raiseTrap gid q t with | none => .stay 2 | some s => .ended s
        if !s.mayIssue gid g e u then .stay (s.whyNot gid g e u)
        else match checkFails g e.md live i.word i.k i.lit u with
        | some t => raise t
        | none =>
          let x := e.pc + BitVec.ofNat 64 i.len
          let ends := g.loops.ending x
          match loopTrap g ends u.ctl live i.word with
          | some t => raise t
          | none =>
            match poisonTrap g (!s.native g) e u live i.word with
            | some t => raise t
            | none =>
            match s.stopPoint gid g e u with
            | some none => .stay 2
            | some (some s) => .ended s
            | none =>
              let (next, loops) := g.loops.count x ends
              let act := if u.guard then g.activeOf e.mask e.md else live
              .go { gid := gid, path := q, e := e, pc := e.pc, next := next, md := e.md, live := live, act := act,
                    word := i.word, len := i.len, tick := s.gnomon, mark := s.nextOp, seq := s.issues + 1, native := s.native g, loops := g.loops,
                    g := { g with loops := loops }.updEntry q fun e => { e with pc := next } }

/-! ### After the effect -/

/-- The poison of the registers an instruction wrote: its active lanes take the poison of their sources. -/
def Group.spreadPoison (g : Group) (u : Use) (src act : Mask) : Group :=
  let uni := src &&& act != 0
  let P := g.poison
  if !P.any then g else
  { g with poison := {
      v := u.vw.foldl (fun v n => if h : n < 256 then v.set n ((v[n] &&& ~~~act) ||| (src &&& act)) else v) P.v
      p := if u.uniform then (if act = 0 then P.p else u.pw.foldl (fun v n =>
          if h : n < 8 then v.set n (if uni then BitVec.allOnes 16 else 0) else v) P.p)
        else u.pw.foldl (fun v n => if h : n < 8 then v.set n ((v[n] &&& ~~~act) ||| (src &&& act)) else v) P.p
      s := if act = 0 then P.s else u.sw.foldl (fun b n => if uni then b ||| (1#64 <<< n) else b &&& ~~~(1#64 <<< n)) P.s
      a := if act = 0 then P.a else u.aw.foldl (fun b n => if uni then b ||| (1#16 <<< n) else b &&& ~~~(1#16 <<< n)) P.a } }

/-- A counter raised by one (07 R177). -/
def Group.raiseCnt (g : Group) (k : Nat) : Group :=
  if h : k < 6 then { g with cnt := g.cnt.set k (g.cnt[k] + 1) } else g
/-- A counter lowered by one. -/
def Group.lowerCnt (g : Group) (k : Nat) : Group :=
  if h : k < 6 then { g with cnt := g.cnt.set k (g.cnt[k] - 1) } else g

/-- The path that issued notes its issue. -/
def Group.noteIssue (g : Group) (q n : Nat) (yields : Bool) : Group :=
  if (g.entryAt q).kind = .path then g.updEntry q fun e => { e with issued := n, yielded := yields, seen := false, why := 0 } else g
/-- The exchange of R144, when the issue of path q ends a round. -/
def Group.endRound (g : Group) (q tick : Nat) : Group :=
  if q ≤ g.lastPath then { g.exchange tick with round := tick } else g
/-- The group notes the issue. -/
def Group.lastIssue (g : Group) (q n : Nat) : Group := { g with issued := n, lastPath := q }
/-- The group notes which vector lines an instruction names (01 R30). -/
def Group.noteUse (g : Group) (vs : List Nat) (n : Nat) : Group := { g with used := vs.foldl (fun m k => m.set k n) g.used }
/-- The stamps of an issue, the exchange of R144 at the end of a round, and the reloads of R143. -/
def Group.stamp (g : Group) (q n tick : Nat) (yields ends : Bool) : Group :=
  ((((if ends then g else g.noteIssue q n yields)).endRound q tick).lastIssue q n).fillTable tick

/-- The single-lane step of R455 ends at the issue: the lane halts again, at its instruction if that made it wait. After a
`bar` it first stands waiting, since its group may then arrive (State.settleGroups). -/
def State.endHstep (s : State) (c : Iss) : State :=
  match s.groups.get? c.gid with
  | none => s
  | some g =>
    if g.hstep = 0 ∨ !g.steps c.live then s
    else
      match (laneList c.live).head?.bind g.pathOfLane with
      | none => s.stepEnds c.gid g c.live c.pc
      | some q =>
        if (g.entryAt q).hold = .none then s.stepEnds c.gid g c.live c.pc
        else if (g.entryAt q).hold = .bar none then s.setGroup c.gid { g with hbar := g.hbar ||| c.live }
        else s.stepEnds c.gid (g.updEntry q fun e => { e with hold := .none, pc := c.pc }) c.live c.pc

/-- The results' poison, and the return-class counter that a variable-latency instruction raises (16 R386; 07 R177). -/
def Group.afterEffect (old : Group) (c : Iss) (u : Use) (g : Group) : Group :=
  let g := if !u.ownPoison then g.spreadPoison u (u.poisonIn old c.md c.act) c.act else g
  match u.cls with
  | some k => if u.uniform && c.act = 0 then g else g.raiseCnt k
  | none => g

/-- A step that was armed before the issue notes that its path has issued (06 R164), which a roll-back undoes. -/
def Group.noteStep (old g : Group) (c : Iss) : Group :=
  match old.step, g.step with
  | some (_, none), some (m, _) => if c.live &&& m ≠ 0 then { g with step := some (m, some c.next), stepBack := true } else g
  | _, _ => g

/-- The group with the journal entries of a change made; none when they do not fit (16 R389). -/
def Group.journaled (old g : Group) (vs later : List Nat) : Option Group :=
  let j := old.journalOf g vs later
  if 64 < j.length then none else some { g with journal := j }

/-- What follows an instruction's own effect on the group: poison, the return-class counter, the replay point or the
journal, the stamps and an armed step. None when its journal entries do not fit (16 R389). -/
def Group.finish (old : Group) (c : Iss) (u : Use) (issues : Nat) (nextOp : Nat) (g : Group) : Option Group :=
  let g := (((((old.noteStep (old.afterEffect c u g) c).noteSkid c.live).dropKeptB (u.vw ++ u.later.v)).noteUse u.vs issues).stamp
    c.path issues c.tick u.yields u.ends)
  if !c.native then some g
  else if u.sink then
    some (g.newReplayPoint (if (g.entryAt c.path).kind = .path then (g.entryAt c.path).pc else c.next) nextOp)
  else old.journaled g u.vw (if c.act = 0 then [] else u.later.lines)

/-- The implicit sink of R389: with a fault pending the group stops; once its accesses are settled it takes a deferred
error (16 R487) or a new replay point, and the instruction issues at a later step. -/
def State.implicitSink (s : State) (c : Iss) : State :=
  match s.groups.get? c.gid with
  | none => s
  | some g =>
    if s.pending c.gid g then s.updGroup c.gid Group.stopForFault
    else if !s.settled c.gid then s.stall c.gid c.path 2
    else match g.deferred with
      | some d => s.takeDeferred c.gid c.pc c.live d
      | none => s.setGroup c.gid (g.newReplayPoint c.pc s.nextOp)

/-- What an `st`, `sts` or `rtw` does that meets a full speculative store queue: it is a stop point (16 R388, R487), and it
issues when an entry has drained. -/
def State.fullQueue (s : State) (c : Iss) : Eff :=
  match s.groups.get? c.gid with
  | none => .stay
  | some g =>
    if s.pending c.gid g then .ended (s.updGroup c.gid Group.stopForFault)
    else match g.deferred with
      | some d => if s.settled c.gid then .ended (s.takeDeferred c.gid c.pc c.live d) else .stay
      | none => .stay

/-- The samples of the exception flags (19 R437). -/
def flagSamples (fl : List (Fin 16 × Flags)) : List Sample := (fl.filter (·.2 != 0)).map fun x => ⟨x.1, x.2.toNat⟩

/-- The evaluation of source 5 after the instruction (19 R437 to R442), at the next PC of its path, wherever an exchange of
paths has put it; none while a native group's accesses have to settle, or a deferred error is to be taken, before an action (19
R440). -/
def State.watchFlags (s : State) (c : Iss) (fl : List (Fin 16 × Flags)) : Option State :=
  let xs := flagSamples fl
  if xs.isEmpty then some s
  else
    let v := s.evaluate c.g.core c.g.ctx (samplesOf [5] xs)
    if v.hits.isEmpty then some s
    else
      let s' := s.countMatches c.g v c.pc.toNat
      match s.chosenAct v, s.groups.get? c.gid with
      | some a, some g =>
        if c.native && (!s.settled c.gid || g.deferred.isSome) then none
        else if c.native && s.pending c.gid g then some (s'.updGroup c.gid Group.stopForFault)
        else some (s'.watchAct c.gid (((laneList c.live).head?.bind g.pathOfLane).getD c.path) a c.next 0)
      | _, _ => some s'

/-- The state with its count of issues. -/
def State.counted (s : State) (n : Nat) : State := { s with issues := n }

/-- The state after an instruction whose effect gave `t` from `s` (16 R386, R389; 06 R143, R144, R164; 19 R437, R455). -/
def State.retire (s : State) (c : Iss) (u : Use) (t : State) (fl : List (Fin 16 × Flags)) : State :=
  match s.groups.get? c.gid, t.groups.get? c.gid with
  | some old, some g =>
    match old.finish c u (s.issues + 1) t.nextOp g with
    | none => s.implicitSink c
    | some g => match ((t.setGroup c.gid g).counted (s.issues + 1)).watchFlags c fl with
      | none => match (if s.settled c.gid && !s.pending c.gid old then old.deferred else none) with
        | some d => s.takeDeferred c.gid c.pc c.live d
        | none => s.stall c.gid c.path 15
      | some t => t.endHstep c
  | _, _ => t.counted (s.issues + 1)

/-- The path that has the turn waits. -/
def State.stay (s : State) (why : Nat) : State :=
  match s.cur with
  | some (gid, q) => s.stall gid q why
  | none => s

/-- The issue of an instruction: what it names and needs is `u`, its own effect is `eff`. -/
def issue (i : IWord) (u : Use) (eff : Iss → State → Eff) (s : State) : Host.Outcome State Fault Refusal :=
  match preIssue i u s with
  | .noIssuer => .fault .noIssuer
  | .stay why => .next (s.stay why)
  | .ended t => .next t
  | .go c =>
    match eff c s with
    | .ok t fl => .next (s.retire c u t fl)
    | .trap t => match s.raiseTrap c.gid c.path t with
      | none => .next (s.stall c.gid c.path 2)
      | some t => .next t
    | .stay => .next (s.stall c.gid c.path 2)
    | .ended t => .next t

/-- An effect on the group alone, with the flags it raises. -/
def groupEffF (f : Iss → Group × List (Fin 16 × Flags)) (c : Iss) (s : State) : Eff :=
  .ok (s.setGroup c.gid (f c).1) (f c).2

/-- An effect on the group alone. -/
def groupEff (f : Iss → Group) (c : Iss) (s : State) : Eff := .ok (s.setGroup c.gid (f c)) []

/-- An effect on the group alone that may trap at check 7 (02 R41). -/
def groupTrapEff (f : Iss → Except Trap Group) (c : Iss) (s : State) : Eff :=
  match f c with
  | .ok g => .ok (s.setGroup c.gid g) []
  | .error t => .trap t

end Sys2Proof.Machine
end

