-- ==== Sys2Proof/Machine/Operands.lean ====
section
/-! DEFINITION. Operand forms: vector lanes and pairs, elements of a lane, the scalar and trailing-word forms, the
scalar, address and predicate registers (01 R16 to R19, 04 R72, 05 R97 to R100). -/

namespace Sys2Proof.Machine

/-- A vector register. -/
def Group.vreg (g : Group) (r : BitVec 8) : Lanes := g.v[r.toNat]'(by have := r.isLt; omega)
/-- A lane of a vector register. -/
def Group.vlane (g : Group) (r : BitVec 8) (l : Fin 16) : Word := (g.vreg r)[l]
/-- A lane of a register pair: the lower register carries bits [31:0] (R18). -/
def Group.vpair (g : Group) (r : BitVec 8) (l : Fin 16) : DWord := g.vlane (r + 1) l ++ g.vlane r l
/-- A lane of vector register n, 0 beyond the registers. -/
def Group.vget (g : Group) (n : Nat) (l : Fin 16) : Word := if h : n < 256 then g.v[n][l] else 0

/-- The lanes of a mask written (R97). -/
def Group.setV (g : Group) (r : BitVec 8) (m : Mask) (f : Fin 16 → Word) : Group :=
  { g with v := g.v.set r.toNat (Vector.ofFn fun l => if lane m l then f l else g.vlane r l) (by have := r.isLt; omega) }
/-- The lanes of a mask of a pair written (R97). -/
def Group.setPair (g : Group) (r : BitVec 8) (m : Mask) (f : Fin 16 → DWord) : Group :=
  (g.setV r m fun l => (f l).setWidth 32).setV (r + 1) m fun l => (f l).extractLsb' 32 32

/-- A scalar register. -/
def Group.sreg (g : Group) (r : BitVec 6) : Word := g.s[r.toNat]'(by have := r.isLt; omega)
/-- A scalar register written. -/
def Group.setS (g : Group) (r : BitVec 6) (x : Word) : Group :=
  { g with s := g.s.set r.toNat x (by have := r.isLt; omega) }
/-- Scalar n modulo 64, of a run of scalars. -/
def Group.sAt (g : Group) (n : Nat) : Word := g.sreg (BitVec.ofNat 6 n)
/-- An address register. -/
def Group.areg (g : Group) (r : BitVec 4) : DWord := g.a[r.toNat]'(by have := r.isLt; omega)
/-- An address register written. -/
def Group.setA (g : Group) (r : BitVec 4) (x : DWord) : Group :=
  { g with a := g.a.set r.toNat x (by have := r.isLt; omega) }
/-- A predicate written whole. -/
def Group.setP (g : Group) (r : BitVec 3) (x : Mask) : Group :=
  { g with p := g.p.set r.toNat x (by have := r.isLt; omega) }
/-- The lanes of a mask of a predicate written (R97). -/
def Group.setPLanes (g : Group) (r : BitVec 3) (m x : Mask) : Group := g.setP r ((g.pred r &&& ~~~m) ||| (x &&& m))

/-! ### Elements (04 R72, 05 R99) -/

/-- Element i of a lane of 32 or 64 bits. -/
def elem (t : Ty) (x i : Nat) : Nat := (x >>> (t.width * i)) % 2 ^ t.width

/-- Elements packed from element 0 up. -/
def packElems (t : Ty) : List Nat → Nat
  | [] => 0
  | x :: l => x % 2 ^ t.width + 2 ^ t.width * packElems t l

/-- A lane computed element by element. -/
def mapElems (t : Ty) (f : Nat → Nat) : Nat := packElems t ((List.range t.count).map f)

/-- The B operand of an element operation (05 R100): a vector, or the word of a scalar register or the trailing word for
every lane. -/
inductive BOp where
  | vec (r : BitVec 8)
  | sreg (r : BitVec 6)
  | lit (w : Word)
  deriving DecidableEq, Repr

/-- The lane of the B operand under a type: a pair or a word widened with sign for s64 (R100). -/
def BOp.laneVal (b : BOp) (g : Group) (t : Ty) (l : Fin 16) : Nat :=
  match b with
  | .vec r => if t = .s64 then (g.vpair r l).toNat else (g.vlane r l).toNat
  | .sreg r => if t = .s64 then (sx64 (g.sreg r)).toNat else (g.sreg r).toNat
  | .lit w => if t = .s64 then (sx64 w).toNat else w.toNat

/-- The 32 bits of a lane of the B operand. -/
def BOp.lane32 (b : BOp) (g : Group) (l : Fin 16) : Word :=
  match b with
  | .vec r => g.vlane r l
  | .sreg r => g.sreg r
  | .lit w => w

/-- A lane of a vector operand under a type. -/
def Group.laneVal (g : Group) (t : Ty) (r : BitVec 8) (l : Fin 16) : Nat :=
  if t = .s64 then (g.vpair r l).toNat else (g.vlane r l).toNat

/-- The lanes of a destination written under a type: a pair for s64. -/
def Group.setLanes (g : Group) (t : Ty) (r : BitVec 8) (m : Mask) (f : Fin 16 → Nat) : Group :=
  if t = .s64 then g.setPair r m fun l => BitVec.ofNat 64 (f l) else g.setV r m fun l => BitVec.ofNat 32 (f l)

/-- The vector numbers an operand of a type names (R18, R103). -/
def vnums (t : Ty) (r : BitVec 8) : List Nat := if t = .s64 then [r.toNat, r.toNat + 1] else [r.toNat]
/-- The vector numbers of operands that must be even. -/
def evens (t : Ty) (rs : List (BitVec 8)) : List Nat := if t = .s64 then rs.map (·.toNat) else []

/-- MD of the path that has the turn (01 R22). -/
def State.curMd (s : State) : Word :=
  match s.cur with
  | none => 0
  | some (gid, q) => ((s.groups.get? gid).map fun g => (g.entryAt q).md).getD 0

/-- The element type in force (01 R22). -/
def State.curTy (s : State) : Ty := mdType s.curMd

/-- What a vector operation of destination d and operands a and b names, under a type; `acc` when it reads d as well. -/
def useV (t : Ty) (d : BitVec 8) (as : List (BitVec 8)) (b : BOp) (acc : Bool := false) : Use :=
  let rs := as ++ (match b with | .vec r => [r] | _ => []) ++ (if acc then [d] else [])
  { vr := rs.flatMap (vnums t)
    sr := match b with | .sreg r => [r.toNat] | _ => []
    vw := vnums t d
    pairs := evens t (d :: rs) }

/-! ### Draws (04 R93 to R95) -/

/-- n draws in every lane of a mask: the words of each lane, and the group after them. -/
def Group.draw (g : Group) (m : Mask) (n : Nat) : (Fin 16 → List Nat) × Group :=
  (fun l => if lane m l then (g.rng[l].draws n).1 else [],
   { g with rng := Vector.ofFn fun l => if lane m l then (g.rng[l].draws n).2 else g.rng[l] })

/-- The draws of an instruction that rounds: n in each active lane under rs, none otherwise (R95). -/
def Group.drawIf (g : Group) (md : Word) (m : Mask) (n : Nat) : (Fin 16 → List Nat) × Group :=
  if mdRnd md = 5 then g.draw m n else (fun _ => [], g)

end Sys2Proof.Machine
end

