-- ==== Sys2Proof/Machine/Fetch.lean ====
section
/-! DEFINITION. Fetching instruction words through the core's instruction cache (02 R32, R45; 16 R391), and the order
in which groups and paths are tried (15 R367, 06 R144). -/

namespace Sys2Proof.Machine

/-- The instruction-cache line of a context that holds an address. -/
def Core.icLine (c : Core) (ctx va : Nat) : Option ICLine :=
  c.icache.find? fun l => l.ctx == ctx && l.va == va / 64 * 64

/-- A word of an instruction-cache line. -/
def ICLine.word (l : ICLine) (va : Nat) : Word := BitVec.ofNat 32 (l.data >>> (8 * (va % 64)))

/-- What a fetch gives. -/
inductive Fetched where
  /-- the line of an address is not in the instruction cache -/
  | missing (va : Nat)
  /-- it does not translate or is not permitted, with the detail (16 R380) -/
  | denied (va detail : Nat)
  /-- it is poisoned, with the detail of its origin (21 R469) -/
  | poisoned (va detail : Nat)
  | words (w k : Word)
  deriving DecidableEq, Repr

/-- The word at an address, through the instruction cache. -/
def Core.fetchWord (c : Core) (ctx va : Nat) : Except Fetched Word :=
  match c.icLine ctx va with
  | none => .error (.missing va)
  | some l => match l.poison with
    | some d => .error (.poisoned va d)
    | none => .ok (l.word va)

/-- The word at an address as a group fetches it: its page translates and permits the fetch (check 1 of R41), and the word is
not poisoned. -/
def State.fetchWord (s : State) (g : Group) (va : Nat) : Except Fetched Word :=
  match s.resolve g.core g.ctx g.sup .fetch va with
  | .error d => .error (.denied va d)
  | .ok _ => (s.core g.core).fetchWord g.ctx va

/-- The instruction word at an address and, for the literal format, its trailing word (check 1 of R41). -/
def State.fetch (s : State) (g : Group) (va : Nat) : Fetched :=
  match s.fetchWord g va with
  | .error e => e
  | .ok w =>
    if isLit (w.extractLsb' 24 8).toNat then
      match s.fetchWord g ((va + 4) % 2 ^ 64) with
      | .error e => e
      | .ok k => .words w k
    else .words w 0

/-- The table entries of a group that may have a turn, in the order of R144: after the path that issued last. -/
def Group.pathOrder (g : Group) : List Nat :=
  ([1, 2, 3, 4].map fun k => (g.lastPath + k) % 4).filter fun q => g.mayTurn q && !g.owesTurn q

/-- Whether group a goes before group b (15 R367): least recent issue, then the lower slot. -/
def groupBefore (a b : Nat × Group) : Bool :=
  decide (a.2.issued < b.2.issued) || (a.2.issued == b.2.issued && decide (a.2.slot ≤ b.2.slot))

/-- Insertion by R367. -/
def insertGroup (x : Nat × Group) : List (Nat × Group) → List (Nat × Group)
  | [] => [x]
  | y :: l => if groupBefore x y then x :: y :: l else y :: insertGroup x l

/-- The paths that may have the turn, in the order in which they are tried. -/
def State.candidates (s : State) : List (Nat × Nat) :=
  ((s.groups.filter fun e => !e.2.pathOrder.isEmpty).foldl (fun l x => insertGroup x l) []).flatMap fun e =>
    e.2.pathOrder.map fun q => (e.1, q)

end Sys2Proof.Machine
end

