-- ==== Sys2Proof/Machine/Place.lean ====
section
/-! DEFINITION. Where the next instruction is fetched, and how a program is placed there for one step (log 3). -/

namespace Sys2Proof.Machine

/-- The two 64-byte instruction-cache lines that hold n bytes of x at va. -/
def icLinesFor (ctx va x : Nat) : List ICLine :=
  let b := va / 64 * 64
  let y := x <<< (8 * (va - b))
  [⟨ctx, b, y % 2 ^ 512, none⟩, ⟨ctx, b + 64, y >>> 512, none⟩]

/-- Code bytes stored at a virtual address as the core of a group fetches them: in memory where the address translates,
and in the core's instruction cache. -/
def State.storeCode (s : State) (core ctx va n x : Nat) : State :=
  let s := match s.resolve core ctx true .read va with
    | .ok l => if l.mt = 0 then s.wrMem (l.phys va) n x else s
    | .error _ => s
  s.updCore core fun c => { c with
    icache := icLinesFor ctx va x ++ c.icache.filter fun l => l.ctx != ctx || (l.va != va / 64 * 64 && l.va != va / 64 * 64 + 64) }

/-- The context that a program is placed in when no path may issue: as a resident context in stage 4. -/
def bareCtx : Ctx := { resident := true, en := true, psz := 16, pool := 0x200000 }
/-- The virtual address of the program, its page, and the physical page of the module. -/
def bareVa : Nat := 0x100000
/-- The physical page of the program. -/
def barePa : Nat := 0x400000
/-- The leaf of the program's page: user, read, write, execute. -/
def bareLeaf : Leaf := ⟨barePa, 16, 0, false, false, true, true, true⟩

/-- Its path: all 16 lanes at the program's first word. -/
def barePath : PathEntry := { kind := .path, mask := 0xFFFF, pc := BitVec.ofNat 64 bareVa }

/-- One block of one group on core 0, as a launch's placement leaves it (15 R362, 07 R169, 06 R138). -/
def bareGroup : Group :=
  { ctx := 0, block := 0, core := 0, slot := 0, rib := 0x200000, ribPa := 0x600000, valloc := 16,
    entry := BitVec.ofNat 64 bareVa, rpc := BitVec.ofNat 64 bareVa, rng := Vector.ofFn fun l => { gidx := BitVec.ofNat 64 l.val }
    paths := (Vector.replicate 64 ({} : PathEntry)).set 0 barePath }

/-- Its launch. -/
def bareLaunch : Entity :=
  { kind := .launch, queue := 0, ctx := 0, rcd := 0, started := true, placed := 1, desc := { entry := bareVa, vregs := 16 } }

/-- Its block. -/
def bareBlock : Block := { launch := 0, ctx := 0, cores := [0], ngroups := 1, groups := [0], ssize := 65536, sbases := [[0]], aibs := [0x208000] }

/-- The module with that block placed: what bring-up, a job's start and a block's placement come to (log 3). -/
def State.placeBare (s : State) : State :=
  { s with
    boot := { s.boot with stage := 4 }
    ctxs := s.ctxs.set 0 bareCtx
    tlb := ⟨0, 0, bareVa / 65536, bareLeaf⟩ :: s.tlb
    entities := s.entities.set 0 bareLaunch
    blocks := s.blocks.set 0 bareBlock
    groups := s.groups.set 0 bareGroup }

/-- The path that the next step tries first. -/
def State.fetchPath (s : State) : Option (Nat × Nat) := s.candidates.head?

/-- The state with an instruction's bytes stored where the next step fetches, and the turn given to that path. -/
def State.placeCode (s : State) (n x : Nat) : State :=
  let s := if s.fetchPath.isSome then s else s.placeBare
  match s.fetchPath with
  | none => s
  | some (g, q) =>
    match s.groups.get? g with
    | none => s
    | some gr => { s.storeCode gr.core gr.ctx (gr.entryAt q).pc.toNat n x with agenda := [.issue g q] }

end Sys2Proof.Machine
end

