-- ==== Sys2Proof/Machine/Flags.lean ====
section
/-! DEFINITION. Exception flags (04 R83): results with flags, gathered by element and by lane. -/

namespace Sys2Proof.Machine

/-- Element results with their flags, packed into a lane with the union of the flags (04 R83, 19 R437). -/
def packF (t : Ty) (l : List (Nat × Flags)) : Nat × Flags :=
  (packElems t (l.map (·.1)), l.foldl (fun f x => f ||| x.2) 0)

/-- A lane computed element by element with flags, element i with draw i. -/
def mapElemsF (t : Ty) (n : Nat) (qs : List Nat) (f : Nat → Nat → Nat × Flags) : Nat × Flags :=
  packF t ((List.range n).map fun i => f i (qs.getD i 0))

/-- The lanes' results as flags of the active lanes. -/
def laneFlags (m : Mask) (f : Fin 16 → Flags) : List (Fin 16 × Flags) := (laneList m).map fun l => (l, f l)

/-- A destination written from results with flags: the group and the flags of its active lanes. -/
def Group.setLanesF (g : Group) (t : Ty) (d : BitVec 8) (m : Mask) (f : Fin 16 → Nat × Flags) :
    Group × List (Fin 16 × Flags) :=
  (g.setLanes t d m fun l => (f l).1, laneFlags m fun l => (f l).2)

end Sys2Proof.Machine
end

