-- ==== Sys2Proof/Machine/Convert.lean ====
section
/-! DEFINITION. Conversions, unpacking and packing, block quantisation (05 R118 to R121). -/

namespace Sys2Proof.Machine

/-- The types of cvt (R118): codes 0 to 11 and 14. -/
def cvtTypes : List Ty := memTypes

/-- Elements that cvt converts in a lane (R118). -/
def cvtCount (f t : Ty) : Nat := if f = .s64 ∨ t = .s64 then 1 else 32 / max f.width t.width

/-- A lane of cvt: elements converted in turn with their draws; higher bits are 0. -/
def cvtLane (f t : Ty) (md : Word) (qs : List Nat) (x : Nat) : Nat × Flags :=
  mapElemsF t (cvtCount f t) qs fun i q => convertEl f t 0 (mdRnd md) (mdSat md) (mdFtz md) q (elem f x i)

/-- The draws of a conversion: n for each active lane under rs, none when it does not round (R23, R95). -/
def Group.drawCvt (g : Group) (rounds : Bool) (md : Word) (m : Mask) (n : Nat) : (Fin 16 → List Nat) × Group :=
  if rounds then g.drawIf md m n else (fun _ => [], g)

/-- The effect of cvt. -/
def cvtEff (f : Ty) (d a : BitVec 8) (c : Iss) : Group × List (Fin 16 × Flags) :=
  let t := mdType c.md
  let (qs, g) := c.g.drawCvt (cvtRounds f t) c.md c.act (cvtCount f t)
  g.setLanesF t d c.act fun l => cvtLane f t c.md (qs l) (c.g.laneVal f a l)

/-- What cvt names and needs; a source code of 12, 13 or 15 raises the illegal-mode trap. -/
def useCvt (f t : Ty) (d a : BitVec 8) : Use :=
  { vr := vnums f a, vw := vnums t d, pairs := evens f [a] ++ evens t [d]
    types := some (if cvtTypes.contains f then cvtTypes else []), rounds := cvtRounds f t }

/-- cvt (R118) -/
def cvtOp (i : IWord) (d a : BitVec 8) (f : Ty) (s : State) : Host.Outcome State Fault Refusal :=
  issue i (useCvt f s.curTy d a) (groupEffF (cvtEff f d a)) s

/-- The sources of unpk (R119). -/
def unpkSources : List Ty := [.s16, .n16, .s8, .n8, .f16, .bf16, .e4m3, .e5m2, .e2m1]

/-- The effect of unpk. -/
def unpkEff (f : Ty) (k : Nat) (d a : BitVec 8) (c : Iss) : Group × List (Fin 16 × Flags) :=
  let t := mdType c.md
  let (qs, g) := c.g.drawCvt (cvtRounds f t) c.md c.act 1
  g.setLanesF t d c.act fun l =>
    convertEl f t 0 (mdRnd c.md) (mdSat c.md) (mdFtz c.md) ((qs l).headD 0) (elem f (c.g.vlane a l).toNat k)

/-- unpk (R119) -/
def unpkOp (i : IWord) (d a : BitVec 8) (k : Nat) (f : Ty) (s : State) : Host.Outcome State Fault Refusal :=
  issue i { useV .n32 d [a] (.lit 0) with
      types := some (if unpkSources.contains f then [.s32, .n32, .f32] else []), rounds := cvtRounds f s.curTy }
    (groupEffF (unpkEff f k d a)) s

/-- The source type of pack2 for a destination type (R120). -/
def packSrc (t : Ty) : Ty := if t.isFloat then .f32 else .s32

/-- A lane of pack2: x and y converted, x first; an 8-bit type keeps the upper half of D in its lower half. -/
def packLane (t : Ty) (md : Word) (qs : List Nat) (a b d : Nat) : Nat × Flags :=
  let x := convertEl (packSrc t) t 0 (mdRnd md) (mdSat md) (mdFtz md) (qs.getD 0 0) a
  let y := convertEl (packSrc t) t 0 (mdRnd md) (mdSat md) (mdFtz md) (qs.getD 1 0) b
  (if t.width = 16 then x.1 + 2 ^ 16 * y.1 else d >>> 16 + 2 ^ 16 * x.1 + 2 ^ 24 * y.1, x.2 ||| y.2)

/-- The effect of pack2. -/
def packEff (d a b : BitVec 8) (c : Iss) : Group × List (Fin 16 × Flags) :=
  let t := mdType c.md
  let (qs, g) := c.g.drawCvt t.isFloat c.md c.act 2
  g.setLanesF .n32 d c.act fun l =>
    packLane t c.md (qs l) (c.g.vlane a l).toNat (c.g.vlane b l).toNat (c.g.vlane d l).toNat

/-- pack2 (R120); it reads D for an 8-bit type. -/
def packOp (i : IWord) (d a b : BitVec 8) (s : State) : Host.Outcome State Fault Refusal :=
  issue i { useV .n32 d [a] (.vec b) (s.curTy.width == 8) with
      types := some [.f16, .bf16, .e4m3, .e5m2, .s16, .n16, .s8, .n8], rounds := s.curTy.isFloat }
    (groupEffF (packEff d a b)) s

/-! ### Block quantisation (R121; 04 R85) -/

/-- The element type of a block type (04 R84). -/
def blockElem (t : Ty) : Ty := if t = .mx8 then .e4m3 else .e2m1
/-- emax of R85. -/
def blockEmax (t : Ty) : Int := if t = .mx8 then 8 else 2

/-- Element i of the block held in v[A] and v[A + 1], after R77. -/
def blockIn (a : BitVec 8) (c : Iss) (i : Nat) : FV × Flags :=
  finput (mdFtz c.md) .f32 (c.g.vget (a.toNat + i / 16) (Fin.ofNat 16 i)).toNat

/-- The illegal-convergence trap at check 7 (R41, 06 R160). -/
def convergence (c : Iss) : Trap := { cause := 0x06, val := c.word, lanes := c.live }

/-- The effect of mxscl: it needs all 16 lanes active. -/
def mxsclEff (d : BitVec 6) (a : BitVec 8) (c : Iss) : Except Trap Group :=
  if c.act ≠ 0xFFFF then .error (convergence c)
  else .ok (c.g.setS d (BitVec.ofNat 32
    (blockScale (blockEmax (mdType c.md)) ((List.range 32).map fun i => (blockIn a c i).1))))

/-- mxscl (R121); it raises no flag of 04 R83 (log 164). -/
def mxsclOp (i : IWord) (d : BitVec 6) (a : BitVec 8) (s : State) : Host.Outcome State Fault Refusal :=
  issue i { vr := [a.toNat, a.toNat + 1], sw := [d.toNat], ext := some 0, types := some [.mx8, .mx4], cross := true }
    (groupTrapEff (mxsclEff d a)) s

/-- Element i quantised under scale x, with the draw of lane i mod 16 that is its own. -/
def mxqEl (a : BitVec 8) (x : Nat) (c : Iss) (qs : Fin 16 → List Nat) (i : Nat) : Nat × Flags :=
  let (v, f) := blockIn a c i
  let r := quantEl (blockElem (mdType c.md)) x (mdRnd c.md) ((qs (Fin.ofNat 16 i)).getD (i / 16) 0) v
  (r.1, r.2 ||| f)

/-- Lane l of the packed block: elements from 32 / width × l up; 0 beyond the block. -/
def mxqLane (t : Ty) (es : List Nat) (l : Nat) : Nat :=
  packElems (blockElem t) ((List.range (32 / (blockElem t).width)).map fun j => es.getD (32 / (blockElem t).width * l + j) 0)

/-- The group and flags of mxq. -/
def mxqGroup (d a : BitVec 8) (b : BitVec 6) (c : Iss) : Group × List (Fin 16 × Flags) :=
  let t := mdType c.md
  let x := (c.g.sreg b).toNat % 256
  let (qs, g) := c.g.drawIf c.md c.act 2
  let rs := (List.range 32).map (mxqEl a x c qs)
  (g.setV d c.act fun l => BitVec.ofNat 32 (mxqLane t (rs.map (·.1)) l.val),
   laneFlags c.act fun l => (rs.getD l.val (0, 0)).2 ||| (rs.getD (l.val + 16) (0, 0)).2)

/-- The effect of mxq: it needs all 16 lanes active. -/
def mxqEff (d a : BitVec 8) (b : BitVec 6) (c : Iss) (s : State) : Eff :=
  if c.act ≠ 0xFFFF then .trap (convergence c) else groupEffF (mxqGroup d a b) c s

/-- mxq (R121) -/
def mxqOp (i : IWord) (d a : BitVec 8) (b : BitVec 6) (s : State) : Host.Outcome State Fault Refusal :=
  issue i { vr := [a.toNat, a.toNat + 1], sr := [b.toNat], vw := [d.toNat], ext := some 0,
            types := some [.mx8, .mx4], rounds := true, cross := true }
    (mxqEff d a b) s

/-- cvt (R118) -/
def execCvt (d : BitVec 8) (a : BitVec 8) (s1 : BitVec 4) (s : State) : Host.Outcome State Fault Refusal :=
  cvtOp (W.cvt d a s1) d a (Ty.ofCode s1.toNat) s
/-- unpk (R119) -/
def execUnpk (d : BitVec 8) (a : BitVec 8) (k : BitVec 3) (s1 : BitVec 4) (s : State) : Host.Outcome State Fault Refusal :=
  unpkOp (W.unpk d a k s1) d a k.toNat (Ty.ofCode s1.toNat) s
/-- pack2 (R120) -/
def execPack2 (d : BitVec 8) (a : BitVec 8) (b : BitVec 8) (s : State) : Host.Outcome State Fault Refusal :=
  packOp (W.pack2 d a b) d a b s
/-- mxscl (R121) -/
def execMxscl (d : BitVec 6) (a : BitVec 8) (s : State) : Host.Outcome State Fault Refusal :=
  mxsclOp (W.mxscl d a) d a s
/-- mxq (R121) -/
def execMxq (d : BitVec 8) (a : BitVec 8) (b : BitVec 6) (s : State) : Host.Outcome State Fault Refusal :=
  mxqOp (W.mxq d a b) d a b s

end Sys2Proof.Machine
end

