-- ==== Sys2Proof/Machine/TileWrite.lean ====
section
/-! DEFINITION. Cumin pages: tile updates and plain writes at their home (13 R324, R325; 08 R220). -/

namespace Sys2Proof.Machine

/-- A tile update: the stored form of a decoded image written at one tick (R220, R324). -/
def State.putTile (s : State) (block mode : Nat) (raw : Bool) (P : Nat) : State :=
  let (m, x, n) := cumEncode raw P
  s.applyWrites [(block, n, x), (mode, 1, m)]

/-- Bytes of a number replaced. -/
def withBytes (x off n y : Nat) : Nat :=
  x % 2 ^ (8 * off) + 2 ^ (8 * off) * (y % 2 ^ (8 * n)) + 2 ^ (8 * (off + n)) * (x >>> (8 * (off + n)))

/-- A plain device write of n bytes in a Cumin page: the decoded tile with the bytes replaced, stored raw; none for a
malformed tile, which stays unchanged (R325). -/
def State.cumWrite (s : State) (pa n x : Nat) : Option State :=
  match cumBlock pa with
  | none => some (s.applyWrite pa n x)
  | some (b, m) => (s.tileAt b m).map fun P =>
    (s.tileKeeps b m (pa - b) (pa - b + n)).foldl (fun t e => t.addPoison [e.1] e.2)
      ((s.wakeSlice true b true).putTile b m true (withBytes P (pa - b) n x))

/-- n bytes written by a device agent to a page (R325). -/
def State.writeDec (s : State) (cum : Bool) (pa n x : Nat) : Option State :=
  if cum then s.cumWrite pa n x else some (s.applyWrite pa n x)

/-- Whether a write of an agent that is no access is refused: by a poisoned half or a poisoned tile (21 R468). -/
def State.leafRefuses (s : State) (l : Leaf) (pa n : Nat) : Bool :=
  l.mt == 0 && match (if l.cum then cumBlock pa else none) with
    | some (b, m) => s.tileRefuses b m (pa - b) (pa - b + n) fun _ => false
    | none => s.partialPoison pa n

/-- n bytes written under a leaf by an agent that is no group: host memory, or module memory, where a write that a poisoned half or
a malformed tile refuses has no effect (R325; 21 R468). -/
def State.wrLeaf (s : State) (l : Leaf) (pa n x : Nat) : State :=
  if l.mt = 1 then { s with hostMem := memWriteN s.hostMem pa n x }
  else if s.leafRefuses l pa n then s
  else (s.writeDec l.cum pa n x).getD s

/-- The command processor's write of a virtual address of a context. -/
def State.wrVa (s : State) (ctx : Nat) (sup : Bool) (va n x : Nat) : Option State :=
  match s.resolveCp ctx sup .write va with
  | .ok l => some (s.wrLeaf l (l.phys va) n x)
  | .error _ => none

end Sys2Proof.Machine
end

