-- ==== Sys2Proof/Machine/Record.lean ====
section
/-! DEFINITION. Buffer records, where elements lie, and the conversion stage (07 R180 to R184; 04 R86 to R88). -/

namespace Sys2Proof.Machine

/-- The plain record under a type (R181). -/
def plainRec (t : Ty) : BufRec := { stype := t }

/-- A record from its bytes 0 to 39 (R180). -/
def BufRec.ofBytes (x : Nat) : BufRec :=
  { base := bits x 63 0
    stype := Ty.ofCode (bits x 67 64)
    emode := x.testBit 68
    ro := x.testBit 69
    sx := (BitVec.ofNat 8 (bits x 79 72)).toInt
    ig := bits x 83 80
    pitch := bits x 127 96
    limit := bits x 191 128
    sbase := bits x 255 192 }

/-- Whether a record's reserved bits are not zero (R180). -/
def recReserved (x : Nat) : Bool := bits x 71 70 != 0 || bits x 95 84 != 0 || bits x 319 256 != 0

/-- Whether a record is malformed for a type (R181). -/
def recMalformed (x : Nat) (t : Ty) : Bool :=
  let r := BufRec.ofBytes x
  recReserved x || ((r.stype == .s64) != (t == .s64)) ||
  (!r.emode && (r.stype == .e2m1 || r.stype == .mx8 || r.stype == .mx4 || r.stype == .c15)) ||
  (r.emode && r.stype == .s64) || (r.pitch != 0 && decide (r.pitch < 2 ^ r.ig))

/-- Bits of a stored element. -/
def BufRec.sw (r : BufRec) : Nat := r.stype.width

/-- `Pos(e)` (R182). -/
def BufRec.pos (r : BufRec) (e : Nat) : Nat :=
  if r.pitch = 0 then e % 2 ^ 64 else ((e >>> r.ig) * r.pitch + e % 2 ^ r.ig) % 2 ^ 64

/-- Whether n bytes from va lie within the limit (R182). -/
def BufRec.within (r : BufRec) (va n : Nat) : Bool :=
  r.limit == 0 || decide ((va + 2 ^ 64 - r.base) % 2 ^ 64 + n ≤ r.limit)

/-- Where stored element j of a lane at ea lies: first byte, bytes, and the half of a byte (R182). -/
def BufRec.loc (r : BufRec) (ea j : Nat) : Nat × Nat × Nat :=
  if r.emode then
    let p := r.pos ((ea + j) % 2 ^ 64)
    if r.stype = .c15 then ((r.base + 640 * (p / 1024)) % 2 ^ 64, 640, 0)
    else if r.sw = 4 then ((r.base + p / 2) % 2 ^ 64, 1, 1 + p % 2)
    else ((r.base + p * (r.sw / 8)) % 2 ^ 64, r.sw / 8, 0)
  else ((r.base + ea + j * r.sw / 8) % 2 ^ 64, r.sw / 8, 0)

/-- Where the scale byte of element j lies (R182). -/
def BufRec.scaleVa (r : BufRec) (ea j : Nat) : Nat := (r.sbase + r.pos ((ea + j) % 2 ^ 64) / 32) % 2 ^ 64

/-- Whether element j is accessed (R182). -/
def BufRec.touched (r : BufRec) (ea j : Nat) : Bool := let (va, n, _) := r.loc ea j; r.within va n

/-- Whether a stored type has scale bytes. -/
def Ty.scaled (t : Ty) : Bool := t == .mx8 || t == .mx4

/-- The bytes of a whole lane under byte addressing (R182). -/
def BufRec.laneSize (r : BufRec) (t : Ty) : Nat := t.count * r.sw / 8

/-- Whether a lane access is misaligned under byte addressing (R182, R184 detail 3; log 24). -/
def BufRec.misaligned (r : BufRec) (t : Ty) (ea : Nat) : Bool :=
  let n := r.laneSize t
  !r.emode && (!([1, 2, 4, 8].contains n && t.count * r.sw % 8 == 0) || ((r.base + ea) % 2 ^ 64) % n != 0)

/-- Whether the conversion stage moves bits unchanged (R183). -/
def BufRec.identity (r : BufRec) (t : Ty) : Bool := r.stype == t && r.sx == 0

/-- The element type behind a stored type for the rounding test (R183). -/
def BufRec.rounds (r : BufRec) (t : Ty) : Bool :=
  !r.identity t && !(r.stype.isInt && t.isInt)

/-- One span of bytes cut at 128-byte lines: address, bytes, offset in the datum. -/
def cutLines : Nat → Nat → Nat → Nat → List (Nat × Nat × Nat)
  | 0, _, _, _ => []
  | f + 1, va, n, off =>
    if n = 0 then []
    else
      let k := min n (128 - va % 128)
      ((va % 2 ^ 64), k, off) :: cutLines f (va + k) (n - k) (off + k)

/-- The accesses of one datum: lane, element name, what is asked. -/
def spanAccs (lane elem : Nat) (ask : Ask) (nib va n : Nat) : List Access :=
  (cutLines 8 va n 0).map fun (a, k, off) => { lane := lane, elem := elem, off := off, va := a, len := k, ask := ask, nib := nib }

/-- Element names: 0 to 7 the elements of a lane, from 64 their scale bytes, from 128 their superblocks, 255 the whole
lane. -/
def scaleElem (j : Nat) : Nat := 64 + j
/-- The name of the superblock of element j. -/
def blockName (j : Nat) : Nat := 128 + j
/-- The name of a whole lane. -/
def wholeLane : Nat := 255

/-- The accesses of a lane at ea (R182, R186): under byte addressing one for the elements within the limit, which lie side by
side; else one for each element within it, with its scale byte; one for each superblock. -/
def BufRec.laneAccs (r : BufRec) (t : Ty) (l : Nat) (ask : Ask) (ea : Nat) : List Access :=
  if !r.emode then
    match (List.range t.count).filter (r.touched ea) with
    | [] => []
    | j :: js =>
      (spanAccs l wholeLane ask 0 ((r.base + ea + j * r.sw / 8) % 2 ^ 64) ((js.length + 1) * r.sw / 8)).map fun a =>
        { a with off := a.off + j * r.sw / 8 }
  else
    ((List.range t.count).filter (r.touched ea)).flatMap fun j =>
      let (va, n, nib) := r.loc ea j
      if r.stype = .c15 then
        if (List.range j).any fun i => r.touched ea i && (r.loc ea i).1 == va then [] else spanAccs l (blockName j) ask 0 va n
      else spanAccs l j ask nib va n ++ (if r.stype.scaled then spanAccs l (scaleElem j) ask 0 (r.scaleVa ea j) 1 else [])

/-- The datum that the accesses of a lane with an element name read. -/
def gather (accs : List Access) (l e : Nat) : Nat :=
  (accs.filter fun a => a.lane == l && a.elem == e).foldl (fun x a => x + (a.data % 2 ^ (8 * a.len)) <<< (8 * a.off)) 0

/-- Whether a superblock is malformed (04 R88). -/
def nutmegBad (b : Nat) : Bool :=
  let h := bits b 4383 4352
  let n := h % 32
  let e (k : Nat) : Nat := bits (b >>> (8 * (548 + 4 * k))) 31 0
  decide (23 < n) || decide (32 ≤ h) || (List.range n).any fun k =>
    bits (e k) 15 10 != 0 || (0 < k && decide (bits (e k) 9 0 ≤ bits (e (k - 1)) 9 0))

/-- The value of element i of a superblock (04 R87): the pattern and type of an outlier, else the block value. -/
def nutmegVal (b i : Nat) : FV :=
  let n := bits b 4356 4352
  let e (k : Nat) : Nat := bits (b >>> (8 * (548 + 4 * k))) 31 0
  match (List.range n).find? fun k => bits (e k) 9 0 == i with
  | some k => fval .bf16 (e k >>> 16)
  | none => blockVal .e2m1 (bits (b >>> (8 * (512 + i / 32))) 7 0) (b >>> (4 * i) % 16)

/-- A floating value from memory converted to a type with its record's scale (R183). -/
def fvIn (t : Ty) (sx : Int) (md : Word) (q : Nat) (v : FV) : Nat × Flags :=
  fvTo t (mdRnd md) (mdSat md) (mdFtz md) q (match v with
    | .fin s n e => if t.isInt then v else .fin s n (e + sx)
    | w => w)

/-- `ConvertIn` (R183, R186) of element j of lane l at ea. -/
def BufRec.elemIn (r : BufRec) (t : Ty) (md : Word) (accs : List Access) (l ea j q : Nat) : Nat × Flags :=
  if !r.touched ea j then (0, 0)
  else if r.stype = .c15 then
    let i := ((List.range (j + 1)).find? fun i => (r.loc ea i).1 == (r.loc ea j).1).getD j
    fvIn t r.sx md q (nutmegVal (gather accs l (blockName i)) (r.pos ((ea + j) % 2 ^ 64) % 1024))
  else
    let x := if accs.any fun a => a.lane == l && a.elem == wholeLane then gather accs l wholeLane >>> (r.sw * j)
      else gather accs l j
    let x := (if (r.loc ea j).2.2 = 2 then x / 16 else x) % 2 ^ r.sw
    if r.stype.scaled then fvIn t r.sx md q (blockVal (blockElem r.stype) (gather accs l (scaleElem j)) x)
    else if r.identity t then (x, 0)
    else convertEl r.stype t r.sx (mdRnd md) (mdSat md) (mdFtz md) q x

/-- Whether a lane read a malformed superblock. -/
def BufRec.badLane (r : BufRec) (accs : List Access) (l : Nat) : Bool :=
  r.stype == .c15 && (accs.filter fun a => a.lane == l && a.off == 0).any fun a => nutmegBad (gather accs l a.elem)

/-- `ConvertOut` (R183, R186) of a register element. -/
def BufRec.elemOut (r : BufRec) (t : Ty) (md : Word) (q x : Nat) : Nat × Flags :=
  if r.identity t then (x, 0) else convertEl t r.stype (-r.sx) (mdRnd md) (mdSat md) (mdFtz md) q x

/-- The lane's stored datum as the bytes of its accesses (R186). -/
def BufRec.storeData (r : BufRec) (es : List Nat) (a : Access) : Access :=
  let x := if a.elem = wholeLane then (es.mapIdx fun j e => e <<< (r.sw * j)).foldl (· + ·) 0
    else (es.getD a.elem 0) <<< (if a.nib = 2 then 4 else 0)
  { a with data := x >>> (8 * a.off) % 2 ^ (8 * a.len) }

end Sys2Proof.Machine
end

