-- ==== Sys2Proof/Machine/MemOps.lean ====
section
/-! DEFINITION. Memory operations in flight: their translation, what serves them and in which order, what they deliver and
when their counters fall (07 R177, R186; 08 R198 to R204; 16 R380, R386 to R392). -/

namespace Sys2Proof.Machine

/-! ### Translation of accesses -/

/-- Whether an access writes. -/
def Ask.writes : Ask → Bool
  | .read | .monitor | .fetch => false
  | _ => true

/-- The check of a cached leaf for an access (16 R380). -/
def Access.under (a : Access) (sup : Bool) (r : Except Nat Leaf) : Access :=
  match r with
  | .error d => { a with st := .fault, detail := d }
  | .ok l =>
    match l.deny sup a.ask with
    | some d => { a with st := .fault, detail := d }
    | none => { a with st := .ready, pa := l.phys a.va, mt := l.mt, cum := l.cum }

/-- The module's own number in the peer aperture names its own memory (18 R430). -/
def Access.home (a : Access) (own : Nat) : Access :=
  if a.st = .ready ∧ a.mt = 0 ∧ inAperture a.pa ∧ bits a.pa 47 40 = own then { a with pa := a.pa % 2 ^ 40 } else a

/-- An access translated from the micro-TLB or its die's slices when it is there; with `walk`, by a walk as well, which reads
the table as memory then is (log 155). -/
def State.transAcc (s : State) (core ctx : Nat) (sup walk : Bool) (a : Access) : State × Access :=
  if a.st ≠ .walk then (s, a)
  else if !canonical a.va then (s, { a with st := .fault, detail := 6 })
  else match s.tlbFind core ctx a.va with
    | some l => (s.tlbFill core ctx a.va l, (a.under sup (.ok l)).home s.own)
    | none =>
      if !walk then (s, a)
      else match s.walk ctx a.va with
        | .ok l => (s.tlbFill core ctx a.va l, (a.under sup (.ok l)).home s.own)
        | .error d => (s, { a with st := .fault, detail := d })

/-- Several accesses translated in turn. -/
def State.transAccs (s : State) (core ctx : Nat) (sup walk : Bool) : List Access → State × List Access
  | [] => (s, [])
  | a :: l =>
    let (s, a) := s.transAcc core ctx sup walk a
    let (s, l) := s.transAccs core ctx sup walk l
    (s, a :: l)

/-- The lane number of an access that a uniform instruction makes for the path. -/
def uniLane : Nat := 16

/-- The lanes that depend on an access. -/
def Access.lanes (a : Access) : Mask := if a.lane < 16 then 1#16 <<< a.lane else BitVec.allOnes 16

/-- The lanes of the accesses that faulted. -/
def faultLanes (accs : List Access) : Mask := accs.foldl (fun m a => if a.st = .fault then m ||| a.lanes else m) 0

/-- The faulting access with the lowest address. -/
def lowestFault (accs : List Access) : Option Access :=
  (accs.filter (·.st == .fault)).foldl (fun r a => match r with
    | none => some a
    | some b => if a.va < b.va then some a else some b) none

/-- The pending faults of some accesses (16 R386, R390). -/
def pendOf (accs : List Access) (src : Nat := 0) : List PendFault :=
  (accs.filter (·.st == .fault)).map fun a => ⟨a.va, a.ask.kind, src, a.detail, false⟩

/-- One record for each distinct page and kind (16 R390 step 3), posted; their numbers. -/
def State.postPend (s : State) (ctx : Nat) : List PendFault → State × List Nat
  | [] => (s, [])
  | p :: l =>
    let (s, r) := s.postFault ctx { id := 0, va := p.va, kind := p.kind, src := p.src, detail := p.detail }
    let (s, rs) := s.postPend ctx l
    (s, if rs.contains r then rs else r :: rs)

/-- The stop of a native group at a sink for the sink's own faults: nothing is rolled back, the records are posted
(16 R388, R390). -/
def State.sinkFault (s : State) (c : Iss) (accs : List Access) (src : Nat := 0) : State :=
  let (s, rs) := s.postPend c.g.ctx (pendOf accs src)
  s.updGroup c.gid fun g => { g.newReplayPoint c.pc s.nextOp with
    mode := .faulted, posted := rs, trap := { g.trap with flm := faultLanes accs &&& c.act } }

/-- The access fault of an instruction of a word and active lanes (06 R159; 16 R390 step 5). -/
def accessTrap (w : Word) (act : Mask) (accs : List Access) : Trap :=
  let a := (lowestFault accs).getD { va := 0, len := 0 }
  { cause := 0x30, detail := a.detail, val := w, lanes := faultLanes accs &&& act, addr := some (BitVec.ofNat 64 a.va) }

/-- A record that a group of a compatibility context waits for: posted once (16 R385, R392). -/
def State.postFor (s : State) (gid ctx : Nat) (r : FaultRec) : State :=
  let waits := (s.groups.get? gid).any fun g => (s.ctx ctx).recs.any fun q =>
    g.posted.contains q.id && q.kind == r.kind && q.va / 65536 == r.va / 65536
  if waits then s
  else
    let (s, id) := s.postFault ctx r
    s.updGroup gid fun g => { g with posted := id :: g.posted }

/-- In compatibility mode a faulting access is parked and a record is posted; an access to the page of a parked one parks
behind it (16 R392); `src` says what reads (R384). -/
def State.parkAccs (s : State) (gid ctx src : Nat) : List Access → State × List Access
  | [] => (s, [])
  | a :: l =>
    let behind := s.ops.any fun o => o.2.g == gid && o.2.accs.any fun b => b.st == .parked && b.va / 65536 == a.va / 65536
    let (s, a) :=
      if a.st = .fault then
        ((s.postFault ctx { id := 0, va := a.va, kind := a.ask.kind, src := src, detail := a.detail }).1, { a with st := .parked })
      else if behind && (a.st == .walk || a.st == .ready) then (s, { a with st := .parked })
      else (s, a)
    let (s, l) := s.parkAccs gid ctx src l
    (s, a :: l)

/-! ### Record reads (16 R391) -/

/-- A fetch or record read that does not translate or is not permitted: the group stops precisely, after any pending fault,
and posts a record (R391). -/
def State.recordFault (s : State) (c : Iss) (va detail kind : Nat) (isRec : Bool) (word : Word) (lanes : Mask) : Eff :=
  if c.native && !s.settled c.gid then .stay
  else if c.native && s.pending c.gid c.g then .ended (s.updGroup c.gid Group.stopForFault)
  else
    let (s, r) := s.postFault c.g.ctx { id := 0, va := va, kind := kind, src := 0, detail := detail }
    .ended (s.updGroup c.gid fun g => { g with mode := .fetch c.path va detail isRec word lanes, posted := [r] })

/-- What the look-up of the buffer record comes to (R181, R184, R391). -/
inductive RecRes where
  | trap (t : Trap)
  | fault (va detail : Nat)
  | ok (r : BufRec) (poison : Option Nat)

/-- The data-format fault (R184). -/
def formatTrap (c : Iss) (detail : Nat) (val : Word) (lanes : Mask := c.act) : Trap :=
  { cause := 0x21, detail := detail, val := val, lanes := lanes }

/-- n bytes of a record at a virtual address at the group's level, and the detail of poison among them (R180, R391). -/
def State.readRec (s : State) (c : Iss) (va n : Nat) : Except Nat (Nat × Option Nat) :=
  match s.resolve c.g.core c.g.ctx c.g.sup .read va with
  | .error d => .error d
  | .ok l => if l.mt = 1 ∧ Sys2Proof.Config.hostError s.gnomon (l.phys va) then .error 10
    else if l.mt = 0 ∧ s.taps (l.phys va) n then .error 0xFF
    else .ok (s.rdType l.mt (l.phys va) n, if l.mt = 0 then s.homePoison (l.phys va) n else none)

/-- Buffer record k of the kernel under a type, k not the plain case (R180, R181, R184 details 1 and 2). -/
def State.bufRec (s : State) (c : Iss) (k : Nat) (t : Ty) : RecRes :=
  let d := s.descOf c.g
  if d.nbuf ≤ k then .trap (formatTrap c 1 (BitVec.ofNat 32 k))
  else match s.readRec c (d.brtab + 64 * k) 40 with
    | .error e => .fault (d.brtab + 64 * k) e
    | .ok (x, p) =>
      if recMalformed x t then .trap (formatTrap c 2 (BitVec.ofNat 32 k)) else .ok (BufRec.ofBytes x) p

/-- The record of a memory instruction (R181): MD.bufrec, or the plain record. -/
def State.curRec (s : State) (c : Iss) : RecRes :=
  let k := mdBuf c.md
  if k = 0 ∧ (s.descOf c.g).nbuf = 0 then .ok (plainRec (mdType c.md)) none else s.bufRec c k (mdType c.md)

/-- The checks at issue that follow details 1 and 2: the mode of a rounding conversion, alignment, a refused store
(R183, R184); of several that fail, this order is the model's (DESIGN CHOICE, log 180). -/
def accessChecks (c : Iss) (r : BufRec) (store : Bool) (lanes : Mask) (ea : Fin 16 → Nat) : Option Trap :=
  let t := mdType c.md
  let bad := maskOf fun l => lane lanes l && r.misaligned t (ea l)
  if r.rounds t && decide (6 ≤ mdRnd c.md) then some { cause := 0x05, val := c.md, lanes := c.act }
  else if bad ≠ 0 then some (formatTrap c 3 c.word bad)
  else if store && (r.ro || r.stype.scaled || r.stype == .c15) then some (formatTrap c 4 (BitVec.ofNat 32 (mdBuf c.md)))
  else none

/-! ### Order within a group (08 R204) -/

/-- Whether two accesses touch a common byte: by physical address when both are translated, else by virtual. -/
def Access.overlaps (a b : Access) : Bool :=
  let (x, y) := if a.st = .walk ∨ a.st = .parked ∨ b.st = .walk ∨ b.st = .parked ∨ a.mt ≠ b.mt then (a.va, b.va) else (a.pa, b.pa)
  ((a.mt == 3) == (b.mt == 3)) && decide (x < y + b.len ∧ y < x + a.len)

/-- Whether an access is not served yet. -/
def Access.open (a : Access) : Bool := a.st == .walk || a.st == .ready || a.st == .parked

/-- Whether the accesses of lower lanes of the operation to the same bytes have been applied (R186; 09 R232). -/
def Op.lowerApplied (o : Op) (k : Nat) (a : Access) : Bool := (o.accs.take k).all fun b => !b.open || !(b.overlaps a)

/-- How the reads of an operation are made: a sampler's and a ray engine's as `ld` reads (11 R278; 12 R309). -/
def OpKind.how : OpKind → Option LoadHow
  | .load _ _ _ how => some how
  | .sample .. | .trace .. => some .l1
  | _ => none

/-- Whether a second load may not go back behind a first one of the same group and byte (R211): `ld` counts for a prefetch
as well, an acquire load as `ldc`. -/
def OpKind.follows (first second : OpKind) : Bool :=
  match first.how, second.how with
  | some f, some g =>
    match f, g with
    | .l1, .bound .. | .home, .bound .. | .acq, .bound .. => false
    | .home, .l1 | .acq, .l1 => false
    | _, _ => true
  | _, _ => false

/-- Whether an earlier access still holds back a later one (R204): a read until it is served; a write until it is applied,
and for a later read until its completion time has returned. -/
def Access.holdsBack (b : Access) (finished : Bool) (a : Access) : Bool :=
  b.overlaps a && (b.open || (b.ask.writes && !a.ask.writes && !finished)) &&
  (a.ask.writes || b.ask.writes)

/-- Whether an access that was parked and is retried comes in its turn: the earlier ones of its group to that page have been performed
(16 R392). -/
def State.retryOrder (s : State) (id : Nat) (o : Op) (a : Access) : Bool :=
  !a.retried || s.ops.all fun e => e.2.g != o.g || decide (id ≤ e.1) ||
    e.2.accs.all fun b => !(b.retried && b.open && b.va / 65536 == a.va / 65536)

/-- Whether access a of operation id may be served, as far as its own group's earlier accesses say (R204, R211): a load that
may not go back waits for the data of the earlier one; an undrained store does not hold back a load, which has its bytes.
A unit that has still to find its reads holds back all that follows (log 29). -/
def State.inOrder (s : State) (id : Nat) (o : Op) (a : Access) : Bool :=
  let isLoad : Bool := o.kind == .pref || o.kind.how.isSome
  s.retryOrder id o a && s.ops.all fun e => e.2.g != o.g || decide (id ≤ e.1) || (e.2.queued && isLoad) ||
    !(e.2.searching || e.2.accs.any fun b => b.holdsBack e.2.finished a ||
      (e.2.kind.follows o.kind && (b.open || b.st == .fill) && b.overlaps a))

/-! ### Forwarding from the speculative store queue (08 R204) -/

/-- The bits of a datum at address y, n bytes, seen through a window at address x of m bytes. -/
def window (x m y n v : Nat) : Nat :=
  (if x ≤ y then (v % 2 ^ (8 * n)) <<< (8 * (y - x)) else (v % 2 ^ (8 * n)) >>> (8 * (x - y))) % 2 ^ (8 * m)

/-- The bits that a store writes. -/
def Access.bitMask (a : Access) : Nat := match a.nib with | 0 => 2 ^ (8 * a.len) - 1 | 1 => 0x0F | _ => 0xF0

/-- A number with the bits of a mask replaced. -/
def mixBits (x m y : Nat) : Nat := x - (x &&& m) + (y &&& m)

/-- A load access with the bytes of one store access of its group. -/
def Access.forward (a b : Access) : Access :=
  if b.overlaps a && b.ask.writes then
    let (x, y) := if a.st = .walk ∨ b.st = .walk then (a.va, b.va) else (a.pa, b.pa)
    let m := window x a.len y b.len (if b.ask = .target then b.fwd else b.bitMask)
    { a with fwd := a.fwd ||| m, fwdData := mixBits a.fwdData m (window x a.len y b.len b.data) }
  else a

/-- A load access of operation id with the bytes of every undrained store of its group that came before, the newest last
(R204); it is complete when they cover it. -/
def State.forwarded (s : State) (g : Group) (id : Nat) (a : Access) : Access :=
  let a := ((g.ssq.filter (· < id)).filterMap s.ops.get?).foldl (fun a o => o.accs.foldl Access.forward a) a
  if a.fwd = 2 ^ (8 * a.len) - 1 ∧ a.st ≠ .fault then { a with st := .done, data := a.fwdData } else a

/-- An access that has read x, with its forwarded bytes. -/
def Access.served (a : Access) (st : AccSt) (x tick : Nat) (p : Option Nat) : Access :=
  { a with st := st, data := mixBits (x % 2 ^ (8 * a.len)) a.fwd a.fwdData, tick := tick, poison := p }

/-! ### The L1 (08 R199 to R202, R214) -/

/-- The 128-byte line of a physical address. -/
def lineAt (pa : Nat) : Nat := pa / 128

/-- The detail of poison among n bytes of an L1 copy (21 R468). -/
def L1Line.poisonOf (c : L1Line) (off n : Nat) : Option Nat :=
  (wordsOf off n).findSome? c.poison.get?

/-- Whether an L1 copy holds n bytes. -/
def L1Line.hasBytes (c : L1Line) (off n : Nat) : Bool := (64 ≤ off || c.valid.getLsbD 0) && (off + n ≤ 64 || c.valid.getLsbD 1)

/-- The observed round of a core for a region, from the region's counter when the core holds none (R213). -/
def State.observed (s : State) (core key : Nat) : Nat :=
  match (s.core core).obs.get? key with
  | some (o, _) => o
  | none => ((s.regions.get? key).map (·.counter)).getD 0

/-- Whether an L1 copy serves a load: under its lease, or for `ldb` by the round test of R214. -/
def State.copyServes (s : State) (o : Op) (how : LoadHow) (va : Nat) (c : L1Line) : Bool :=
  match how with
  | .l1 => decide (s.gnomon < c.expiry)
  | .bound k _ =>
    match s.regionAt o.ctx va with
    | none => decide (s.gnomon < c.expiry)
    | some (key, _) => match c.round, c.region with
      | some f, some r => r == key && decide (s.observed o.core key ≤ f + k)
      | _, _ => false
  | _ => false

/-- Whether an L1 holds the whole tile of an access in a Cumin page, from one fill (R220). -/
def Core.wholeTile (c : Core) (a : Access) : Bool :=
  match (if a.cum then cumBlock a.pa else none) with
  | none => true
  | some (b, _) => match c.l1.get? (b / 128), c.l1.get? (b / 128 + 1) with
    | some x, some y => x.rho == y.rho
    | _, _ => false

/-- Whether two accesses go to one kind of memory, as far as they are translated. -/
def Access.samePlace (a b : Access) : Bool :=
  a.st == .walk || a.st == .parked || b.st == .walk || b.st == .parked || (a.mt == b.mt && inAperture a.pa == inAperture b.pa)

/-- The other parts of the element of an access that lies across a 128-byte line: an element under element addressing is
single-copy atomic (07 R186), so that its parts are read or written at one tick; those of two kinds of memory are not one unit (DESIGN
CHOICE, log 196). -/
def Op.otherParts (o : Op) (a : Access) : List Access :=
  if 64 ≤ a.elem then []
  else o.accs.filter fun b => b.lane == a.lane && b.elem == a.elem && b.ask == a.ask && b.off != a.off && b.samePlace a

/-- Whether a copy of the L1 may serve a part of an element: the element lies in one line, or for `ldb` every part has a copy
of one reading tick that no store has changed (07 R186; 08 R202). -/
def Core.wholeElem (c : Core) (o : Op) (how : LoadHow) (a : Access) (x : L1Line) : Bool :=
  (o.otherParts a).all fun b => (match how with | .bound .. => true | _ => false) && x.upd.isEmpty &&
    match c.l1.get? (lineAt b.pa) with
    | some y => b.mt == 0 && y.rho == x.rho && y.upd.isEmpty
    | none => false

/-- The copy of the core's L1 that would serve an access, as far as the access itself says (R199). -/
def State.copyFor (s : State) (id : Nat) (o : Op) (how : LoadHow) (a : Access) : Option L1Line :=
  if a.st = .ready ∧ a.ask = .read ∧ a.mt = 0 ∧ s.inOrder id o a then
    ((s.core o.core).l1.get? (lineAt a.pa)).filter fun c =>
      s.copyServes o how a.va c && (s.core o.core).wholeTile a && (s.core o.core).wholeElem o how a c && c.hasBytes (a.pa % 128) a.len
  else none

/-- Whether an access is a read, not served yet, of the Cumin tile of another or may still turn out to be (R220). -/
def Access.ofTile (a x : Access) : Bool :=
  match (if a.cum then cumBlock a.pa else none) with
  | none => false
  | some b => x.ask == .read && x.open && decide (x.va / 65536 = a.va / 65536) && (x.st != .ready || cumBlock x.pa == some b)

/-- An access served from the core's L1 when a copy serves it (R199); the reads of one tile are served together or not at all (R220). -/
def State.tryL1 (s : State) (id : Nat) (o : Op) (how : LoadHow) (a : Access) : Access :=
  match s.copyFor id o how a with
  | some c => if o.accs.all fun b => !(a.ofTile b) || (s.copyFor id o how b).isSome then
      a.served .done (c.data >>> (8 * (a.pa % 128))) c.rho (c.poisonOf (a.pa % 128) a.len) else a
  | none => a

/-! ### Expiry records and completion times (08 R200 to R203) -/

/-- Records joined. -/
def Expiry.join (a b : Expiry) : Expiry := { a with d0 := max a.d0 b.d0, d1 := max a.d1 b.d1, f := max a.f b.f }

/-- The home slices of a line: one, but for a line of mode bytes of a Cumin page, whose bytes have their tiles' homes (13
R320). -/
def State.lineHomes (s : State) (cum : Bool) (line : Nat) : List Nat :=
  if cum && decide (65280 ≤ 128 * line % 65536) then ((List.range 128).map fun i => s.homeOf true (128 * line + i)).dedup
  else [s.homeOf cum (128 * line)]

/-- The records of a line: its own, or the floors of its home slices (R201). -/
def State.expiryOf (s : State) (cum : Bool) (line : Nat) : Expiry :=
  match s.lines.get? line with
  | some e => e
  | none => (s.lineHomes cum line).foldl (fun e k => e.join (s.floors.getD k {})) { cum := cum }

/-- The records of a line raised by a grant (R201). -/
def State.raiseLine (s : State) (cum : Bool) (line : Nat) (f : Expiry → Expiry) : State :=
  { s with lines := s.lines.set line (f (s.expiryOf cum line)) }

/-- The floors of a slice raised to a record (R201). -/
def State.raiseFloor (s : State) (slice : Nat) (e : Expiry) : State :=
  { s with floors := s.floors.set slice ((s.floors.getD slice {}).join e) }

/-- The record of a line leaves its slice's tags, whose floors rise (R201). -/
def State.dropLine (s : State) (line : Nat) : State :=
  match s.lines.get? line with
  | none => s
  | some e => (s.lineHomes e.cum line ++ if e.f = 0 then [] else s.lineHomes (!e.cum) line).foldl (fun s k => s.raiseFloor k e)
      { s with lines := s.lines.erase line }

/-- A lease to a core of a die raises the records of its lines (R201). -/
def State.raiseExpiry (s : State) (cum : Bool) (lines : List Nat) (die e : Nat) : State :=
  lines.foldl (fun s l => s.raiseLine cum l fun x => if die = 0 then { x with d0 := max x.d0 e } else { x with d1 := max x.d1 e }) s

/-- Components of completion times joined. -/
def ctMax (a b : Nat × Nat × Nat) : Nat × Nat × Nat := (max a.1 b.1, max a.2.1 b.2.1, max a.2.2 b.2.2)

/-- The completion time of a write applied now to a page (R203): of a tile, over the lines that it changes. -/
def State.completion (s : State) (cum : Bool) (pa : Nat) : Nat × Nat × Nat :=
  (linesOf cum pa).foldl (fun ct l =>
    let e := s.expiryOf cum l
    ctMax ct (e.d0, e.d1, e.f + s.disc.sigma)) (s.gnomon, s.gnomon, s.gnomon)

/-! ### Counters and the end of operations (07 R177, R179) -/

/-- The paths whose `wret` the counters now satisfy go on (R178). -/
def Group.wretEnds (g : Group) : Group :=
  { g with paths := Vector.ofFn fun q => match g.paths[q].hold with
      | .wret k t => if g.cnt.toList.getD k 0 ≤ t then { g.paths[q] with hold := .none, pc := g.paths[q].next } else g.paths[q]
      | _ => g.paths[q] }

/-- The stamp of the paths that a change released from a wait where they lie spilled (06 R143): in R144 too they have waited
since then (DESIGN CHOICE, log 167). -/
def Group.stampReleased (old new : Group) (tick : Nat) : Group :=
  { new with paths := Vector.ofFn fun i =>
      let e := new.paths[i]
      if 4 ≤ i.val ∧ e.kind = .path ∧ e.hold = .none ∧ old.paths[i].kind = .path ∧ old.paths[i].hold ≠ .none
      then { e with since := tick } else e }

/-- A change of a group outside an instruction, from g to g': paths that may run come back to the table (06 R143), and in
native mode the change is journaled as an instruction's is. When its lines do not fit, the change waits for a new replay
point as an instruction would (16 R389; log 133); none while it waits. -/
def State.changed? (s : State) (gid : Nat) (g g' : Group) : Option State :=
  let g' := (g.stampReleased g' s.gnomon).fillTable s.gnomon
  if !s.native g then some (s.setGroup gid g')
  else
    let j := g.journalOf g' []
    if j.length ≤ 64 then some (s.setGroup gid { g' with journal := j })
    else if !s.settled gid then none
    else if s.pending gid g then some (s.updGroup gid Group.stopForFault)
    else
      let g := g.newReplayPoint g.rpc s.nextOp
      some (s.setGroup gid { g'.newReplayPoint g.rpc s.nextOp with journal := g.journalOf g' [] })

/-- A change of a group's paths outside an instruction; it is tried again later when it must wait. -/
def State.pathEvent (s : State) (gid : Nat) (g g' : Group) : State := (s.changed? gid g g').getD s

/-- Paths of a group change by an event whose effect stays through a roll-back, so in the journal's copies too (16 R389);
then paths that may run come back to the table. -/
def State.endWaits (s : State) (gid : Nat) (f : PathEntry → PathEntry) : State :=
  match s.groups.get? gid with
  | none => s
  | some g =>
    let h := g.stampReleased (g.mapPaths f) s.gnomon
    (s.setGroup gid h).pathEvent gid h h

/-- A counter of a saved group falls in its image too, from which it is read back (R173); the image of an ended group is
released (R179). -/
def State.fallSaved (s : State) (g : Group) (cls n : Nat) : State :=
  if g.home ≠ .saved ∨ g.mode = .ended ∨ n = 0 then s
  else
    let pa := g.ribPa + 64 * 263 + 6 + cls
    s.wrImage pa 1 (s.rdMem pa 1 - n)

/-- Operations of a class that have finished, from the oldest up to the first that has not, fall in order (R177). -/
def State.falls (s : State) (gid cls : Nat) : State :=
  let l := (s.ops.filter fun e => e.2.g == gid && e.2.cls == some cls).takeWhile (·.2.finished)
  let s' := { s with ops := s.ops.keep fun id _ => !(l.any fun e => e.1 == id) }
  match s'.groups.get? gid with
  | none => s'
  | some g =>
    let s' := s'.fallSaved g cls l.length
    let g' := (l.foldl (fun g _ => g.lowerCnt cls) g)
    let w := g'.wretEnds
    if w.paths = g'.paths then s'.setGroup gid g' else (s'.setGroup gid g').pathEvent gid g' w

/-- An operation finishes: its completion components count for its group's releases (08 R206), its block and its launch
(15 R355); it leaves when its counter falls. -/
def State.finishOp (s : State) (id : Nat) : State :=
  match s.ops.get? id with
  | none => s
  | some o =>
    let s := s.updOp id fun o => { o with finished := true }
    let blk := ((s.groups.get? o.g).map (·.block)).getD 0
    let s := s.updGroup o.g fun g => { g with wmax := ctMax g.wmax o.ct }
    let s := if (s.groups.get? o.g).isSome then s.updBlock blk fun b => { b with ct := ctMax b.ct o.ct } else s
    match o.cls with
    | some k => s.falls o.g k
    | none => { s with ops := s.ops.erase id }

/-- Whether the group of an operation has ended: data that return for its registers are discarded (R179). -/
def State.overFor (s : State) (o : Op) : Bool := (s.groups.get? o.g).any (·.mode == .ended)

/-- A result of an operation lands in its group: `f` writes the registers, `lines` are the image lines concerned; an
operation issued before the replay point updates the journal copies too (16 R389). -/
def Group.deliver (g : Group) (id : Nat) (lines : List Nat) (f : Group → Group) : Group :=
  if id < g.replayMark then
    { f g with journal := g.journal.map fun j =>
        if lines.contains j.line then (f (g.restoreLine j)).entryOf j.line else j }
  else f g

/-- Poison bits of some lanes of vector n. -/
def Group.markV (g : Group) (n : Nat) (m p : Mask) : Group :=
  if g.poison.v.toList.getD n 0 &&& m = p &&& m then g
  else if h : n < 256 then { g with poison := { g.poison with v := g.poison.v.set n ((g.poison.v[n] &&& ~~~m) ||| (p &&& m)) } }
  else g

/-- The cause and detail of a code of faulty data: poison (21 R469), or 0x100 + the detail of a data-format fault. -/
def dataCause (code : Nat) : Nat × Nat := if 0x100 ≤ code then (0x21, code - 0x100) else (0x31, code)

/-- Data faults of lanes as pending faults (16 R386); to a group of compatibility mode, which takes its trap at the access where the
poison is there as it issues (State.ownTrap), one that comes later is a deferred error (21 R469; DESIGN CHOICE, log 42). -/
def State.dataFault (s : State) (o : Op) (m : Mask) (code va : Nat) (tval : Word) : State :=
  if m = 0 then s
  else match s.groups.get? o.g with
  | none => s
  | some g =>
    let (cause, detail) := dataCause code
    if s.native g then
      s.updGroup o.g fun g => { g with
        pend := g.pend ++ [⟨va, 0, 0, detail, true⟩], trap := { g.trap with flm := g.trap.flm ||| m }
        poison := { g.poison with code := code } }
    else s.defer o.g ⟨cause, detail, tval, va⟩

/-- A read of module memory at the home as a decoding reader: the data and the detail of poison; 0x100 + 13 for a
malformed tile (13 R323). -/
def State.readAcc (s : State) (a : Access) : Nat × Option Nat :=
  if a.cum then
    match s.cumRead a.pa a.len with
    | none => (0, some 0x10D)
    | some x => (x, s.cumPoison a.pa a.len)
  else (s.homeRead a.pa a.len, s.homePoison a.pa a.len)

/-- The first access of a list with poison: its detail and the lowest address. -/
def poisonFirst (accs : List Access) : Option (Nat × Nat) :=
  (accs.filter (·.poison.isSome)).foldl (fun r a => match r with
    | none => some (a.poison.getD 1, a.va)
    | some (d, v) => if a.va < v then some (a.poison.getD 1, a.va) else some (d, v)) none

/-- The lanes whose accesses read poison. -/
def poisonLanes (accs : List Access) : Mask :=
  accs.foldl (fun m a => if a.poison.isSome then m ||| a.lanes else m) 0

/-- The trap of an instruction whose own accesses fault or meet faulty data in precise mode (16 R390 step 5; 21 R469), from
accesses that are translated and read. -/
def preciseTrap (w : Word) (act : Mask) (accs : List Access) : Option Trap :=
  if faultLanes accs ≠ 0 then some (accessTrap w act accs)
  else match poisonFirst accs with
    | some (d, va) => some { cause := (dataCause d).1, detail := (dataCause d).2, val := w, lanes := poisonLanes accs &&& act, addr := some (BitVec.ofNat 64 va) }
    | none => none

/-- In precise mode an instruction whose access comes back with a fault or faulty data takes its trap (16 R390 step 5; 21 R469), and
so it does in compatibility mode while the group has issued nothing since (log 42). What the instruction itself changed goes back: its
place, the loop registers, the random state and its return-class counter. None when there is no trap, or the operation issued in
another mode. -/
def State.preciseStop (s : State) (id : Nat) (o : Op) (t : Option Trap) : Option State :=
  match t, o.undo, s.groups.get? o.g with
  | some t, some (loops, rng), some g =>
    if !(g.precise || (!s.native g && g.issued == o.seq && g.mode == .run && g.home == .resident)) then none
    else
      let q := ((laneList o.live).head?.bind g.pathOfLane).getD 64
      let h := { g with loops := loops, rng := rng }.updEntry q fun e => { e with pc := o.pc, hold := .none }
      let h := o.cls.elim h h.lowerCnt
      some (({ s with ops := s.ops.erase id }.setGroup o.g h).takeTrap o.g o.pc (g.liveOf (g.entryAt q).mask) t)
  | _, _, _ => none

end Sys2Proof.Machine
end

