-- ==== Sys2Proof/Machine/Access.lean ====
section
/-! DEFINITION. Loads, stores, prefetches and scratchpad accesses at their issue (07 R185 to R188; 08 R214; 09 R234). -/

namespace Sys2Proof.Machine

/-- The offset of a memory operand (R185). -/
inductive MOff where
  | vec (r : BitVec 8)
  | sreg (r : BitVec 6)
  | lit (w : Word)
  deriving DecidableEq, Repr

/-- A lane's address a[A] + off (R185). -/
def MOff.ea (o : MOff) (g : Group) (a : BitVec 4) (l : Fin 16) : Nat :=
  (g.areg a + sx64 (match o with
    | .vec r => g.vlane r l
    | .sreg r => g.sreg r
    | .lit w => w)).toNat

/-- The lanes whose address is poisoned (16 R386). -/
def MOff.poison (o : MOff) (g : Group) (a : BitVec 4) : Mask :=
  if g.poison.a.getLsbD a.toNat then BitVec.allOnes 16
  else match o with
    | .vec r => g.poison.v.toList.getD r.toNat 0
    | .sreg r => if g.poison.s.getLsbD r.toNat then BitVec.allOnes 16 else 0
    | .lit _ => 0

/-- The registers of a memory operand. -/
def MOff.use (o : MOff) (a : BitVec 4) : Use :=
  { ar := [a.toNat]
    vr := match o with | .vec r => [r.toNat] | _ => []
    sr := match o with | .sreg r => [r.toNat] | _ => [] }

/-- The samples of an address source: element 0 of each lane (19 R437). -/
def addrSamples (r : BufRec) (lanes : Mask) (ea : Fin 16 → Nat) : List Sample :=
  (laneList lanes).map fun l => ⟨l, (r.loc (ea l) 0).1⟩

/-- An operation of the issuing instruction. -/
def Iss.op (c : Iss) (kind : OpKind) (cls : Option Nat) : Op :=
  { g := c.gid, ctx := c.g.ctx, core := c.g.core, pc := c.pc, word := c.word, path := c.path, act := c.act, live := c.live,
    sup := c.g.sup, kind := kind, cls := cls, tick := c.tick, seq := c.seq
    undo := if c.g.precise || !c.native then some (c.loops, c.g.rng) else none }

/-- A new operation, with its number. -/
def State.addOp (s : State) (o : Op) : State × Nat := ({ s with ops := s.ops.set s.nextOp o, nextOp := s.nextOp + 1 }, s.nextOp)

/-- The group of an instruction after its accesses were translated: FLM and pending faults of a native group
(16 R386). -/
def Group.noteFaults (g : Group) (native : Bool) (accs : List Access) : Group :=
  let m := faultLanes accs
  if native && m != 0 then { g with trap := { g.trap with flm := g.trap.flm ||| m }, pend := g.pend ++ pendOf accs } else g

/-- What the bytes of translated accesses hold now, for the check of precise mode (16 R390). -/
def State.peek (s : State) (accs : List Access) : List Access :=
  accs.map fun a =>
    if a.st = .ready ∧ a.mt = 0 then { a with data := (s.readAcc a).1, poison := (s.readAcc a).2 } else a

/-- The lanes of a mask whose lane reads a malformed superblock. -/
def badLanes (r : BufRec) (accs : List Access) (m : Mask) : Mask := maskOf fun l => lane m l && r.badLane accs l.val

/-- What the beginning of an instruction's accesses comes to. -/
inductive AccRes where
  | trap (t : Trap)
  /-- it may not issue yet -/
  | stay
  /-- a watch action or a stop for a fault has ended the issue -/
  | ended (s : State)
  | ok (s : State) (accs : List Access)

/-- What Reticle evaluates before an instruction's accesses (19 R437): the samples of each source, from the accesses as they
translate, and the address of each lane. -/
structure Watched where
  xs : State → List Access → Nat → List Sample := fun _ _ _ => []
  va : Fin 16 → Nat := fun _ => 0

/-- What translated reads would bring now: from a copy of the core's L1 for a load that may take it, else from their home. -/
def State.peekBy (s : State) (c : Iss) (how : Option LoadHow) (accs : List Access) : List Access :=
  match how with
  | none => s.peek accs
  | some how =>
    let o := { c.op (.load 0 {} 0 how) (some 0) with accs := accs }
    accs.map fun a => let b := s.tryL1 s.nextOp o how a; if b.st = .done then { b with st := .ready } else (s.peek [a]).headD a

/-- The trap that an instruction takes for its own accesses as it issues: in precise mode for a fault or faulty data (16 R390
step 5), in compatibility mode for poison (21 R469), as far as they are translated; what comes to a group of compatibility mode later is a
trap while it has issued nothing since, else a deferred error (log 42). -/
def State.ownTrap (s : State) (c : Iss) (how : Option LoadHow) (accs : List Access) : Option Trap :=
  let seen := s.peekBy c how (accs.filter (·.ask.reads))
  if c.g.precise then preciseTrap c.word c.act (seen ++ accs.filter (!·.ask.reads))
  else if c.native then none
  else preciseTrap c.word c.act (seen.filter fun a => a.poison.any (· < 0x100))

/-- In compatibility mode, while a predicate is in force, an instruction whose own accesses fault issues only when their records are
answered, so that the evaluation comes after the fault (19 R440; 16 R392): the accesses that fault are parked, by themselves. -/
def State.parkFirst (s : State) (c : Iss) (accs : List Access) : AccRes :=
  let parked (a : Access) : Bool := s.ops.any fun o => o.2.g == c.gid && o.2.accs.any fun b => b.st == .parked && b.va / 65536 == a.va / 65536
  let new := accs.filter fun a => a.st == .fault && !parked a
  if new.isEmpty then .stay
  else
    let (s, l) := s.parkAccs c.gid c.g.ctx 0 new
    .ended (s.addOp { c.op .pref none with accs := l }).1

/-- The beginning of an instruction's accesses: their translation, from the cached leaves or, with `walk`, all of them (16 R381,
R386, R392); the instruction's own trap; then the evaluation of the watch predicates, which comes after a fault of the
instruction itself (19 R440); `own` is a further check of precise mode. -/
def State.beginAccs (s : State) (c : Iss) (walk : Bool) (accs : List Access) (w : Watched := {})
    (own : State → List Access → Option Trap := fun _ _ => none) (how : Option LoadHow := none) : AccRes :=
  let (s, accs) := s.transAccs c.g.core c.g.ctx c.g.sup (walk || c.g.precise || !c.native || s.anyWatch c.g.ctx) accs
  match (s.ownTrap c how accs).or (if c.g.precise then own s accs else none) with
  | some t => .trap t
  | none =>
    if c.native && faultLanes accs != 0 then .ok s accs
    else if !c.native && s.anyWatch c.g.ctx && faultLanes accs != 0 then s.parkFirst c accs
    else match s.watchPre c.gid c.path c.e (w.xs s accs) w.va with
      | .stay => .stay
      | .ended s => .ended s
      | .go s =>
        if c.native then .ok s accs
        else
          let (s, accs) := s.parkAccs c.gid c.g.ctx 0 accs
          .ok s accs

/-! ### Loads -/

/-- The lanes of `ldb.nf` that fetch nothing: some element lies in a region and no copy of its line passes the test
(R214; 09 R248); a lane served by the group's own stores counts as a hit (log 154). -/
def State.nfMiss (s : State) (o : Op) (how : LoadHow) (accs : List Access) (lanes : Mask) : Mask :=
  match how with
  | .bound k true => maskOf fun l => lane lanes l && accs.any fun a =>
      a.lane == l.val && a.st == .ready && (s.regionAt o.ctx a.va).isSome &&
      match (s.core o.core).l1.get? (lineAt a.pa) with
      | none => true
      | some x => !s.copyServes o (.bound k true) a.va x
  | _ => 0

/-- The core observes the regions that an `ldb` names (R213; 18 R427: at most 1,024, the least recently used dropped). -/
def State.touchObs (s : State) (core key : Nat) : State :=
  let o := s.observed core key
  s.updCore core fun c =>
    let m := c.obs.erase key
    let m := if m.length < 1024 then m else
      match m.foldl (fun (r : Option (Nat × Nat)) e => match r with
        | none => some (e.1, e.2.2)
        | some (k, t) => if e.2.2 < t then some (e.1, e.2.2) else some (k, t)) none with
      | some (k, _) => m.erase k
      | none => m
    { c with obs := m.set key (o, s.gnomon) }

/-- The regions that the accesses of an `ldb` name are observed. -/
def State.observeAll (s : State) (how : LoadHow) (ctx core : Nat) (accs : List Access) : State :=
  match how with
  | .bound .. => ((accs.filterMap fun a => (s.regionAt ctx a.va).map (·.1)).dedup).foldl (fun s k => s.touchObs core k) s
  | _ => s

/-- Whether a load is `ldb`. -/
def LoadHow.isBound : LoadHow → Bool
  | .bound .. => true
  | _ => false

/-- An operation added, its accesses then as the state with it gives them. -/
def State.addOpWith (s : State) (o : Op) (f : State → Nat → List Access) : State × Op × Nat :=
  let (s, id) := s.addOp o
  let o := { o with accs := f s id }
  (s.updOp id fun _ => o, o, id)

/-- The operation of a load, added to the state (R186): record `r`, lanes with a good address `lanes`. -/
def State.addLoad (s : State) (c : Iss) (d : BitVec 8) (r : BufRec) (how : LoadHow) (lanes : Mask) (ea : Fin 16 → Nat)
    (qs : AMap (List Nat)) (pdata : Bool) (accs : List Access) : State × Op × Nat :=
  let t := mdType c.md
  let o := { c.op (.load d.toNat r c.md how) (some 0) with
    vals := (laneList c.act).map fun l => (l.val, ea l)
    draws := qs
    poison := if pdata then c.act else c.act &&& ~~~lanes
    writes := { v := vnums t d, p := match how with | .bound _ true => [7] | _ => [] } }
  let accs := if c.native then accs.map (s.forwarded c.g s.nextOp) else accs
  let s := s.observeAll how c.g.ctx c.g.core accs
  let miss := s.nfMiss o how accs lanes
  let accs := accs.filter fun a => !miss.getLsbD a.lane
  let o := { o with result := miss.toNat, accs := accs }
  s.addOpWith o fun s id => accs.map (s.tryL1 id o how)

/-- The acquire of `lda`, after its load (R234). -/
def LoadHow.order (how : LoadHow) (c : Iss) (mark : Nat) : Option Order :=
  match how with
  | .acq => some { acquire := true, scope := 3, path := c.path, mark := mark, tick := 0, then_ := .drops }
  | _ => c.g.order

/-- The effect of a load (R186; R184, R391 for what it may meet first). -/
def loadEff (how : LoadHow) (d : BitVec 8) (a : BitVec 4) (off : MOff) (c : Iss) (s : State) : Eff :=
  let t := mdType c.md
  let ea (l : Fin 16) : Nat := off.ea c.g a l
  let forw (s : State) (accs : List Access) : List Access := if c.native then accs.map (s.forwarded c.g s.nextOp) else accs
  let fin (r : BufRec) (lanes : Mask) (pdata : Option Nat) (g : Group) (qs : AMap (List Nat)) (s : State) (accs : List Access) : Eff :=
    let (s, _, id) := s.addLoad { c with g := g } d r how lanes ea qs pdata.isSome accs
    let g := (g.noteFaults c.native accs)
    let g := { g with order := how.order c (id + 1) }
    let s := s.setGroup c.gid g
    .ok (match pdata with
      | some p => s.dataFault (c.op .pref none) c.act p 0 c.word
      | none => s) []
  if c.act = 0 then fin (plainRec t) 0 none c.g [] s []
  else match s.curRec c with
    | .trap x => .trap x
    | .fault va e => s.recordFault c va e 0 true c.word c.act
    | .ok r p =>
      let lanes := c.act &&& ~~~(off.poison c.g a)
      match accessChecks c r false lanes ea with
      | some x => .trap x
      | none =>
        let (qf, g) := c.g.drawCvt (r.rounds t) c.md c.act t.count
        let qs := if r.rounds t && mdRnd c.md == 5 then (laneList c.act).map fun l => (l.val, qf l) else []
        match p with
        | some pd => if c.g.precise || !c.native then .trap { cause := 0x31, detail := pd, val := c.word, lanes := c.act, addr := some (BitVec.ofNat 64 ((s.descOf c.g).brtab + 64 * mdBuf c.md)) }
          else fin r 0 (some pd) g qs s []
        | none =>
          let accs := (laneList lanes).flatMap fun l => r.laneAccs t l.val .read (ea l)
          let w : Watched := {
            xs := fun s accs => samplesOf [0, 2] (addrSamples r (lanes &&& ~~~s.nfMiss (c.op .pref none) how (forw s accs) lanes) ea)
            va := fun l => (r.loc (ea l) 0).1 }
          match s.beginAccs c how.isBound accs w (fun s accs =>
              let bad := badLanes r (s.peek accs) lanes
              if bad ≠ 0 then some (formatTrap c 5 (BitVec.ofNat 32 (mdBuf c.md)) bad) else none) (some how) with
          | .trap x => .trap x
          | .stay => .stay
          | .ended s => .ended s
          | .ok s accs => fin r lanes none g qs s accs

/-- What a load names and needs (R185). -/
def useLoad (t : Ty) (d : BitVec 8) (a : BitVec 4) (off : MOff) : Use :=
  { off.use a with later := { v := vnums t d }, pairs := evens t [d], cls := some 0, types := some memTypes, ownPoison := true }

/-- ld, ldc, lda (R186; 09 R234) -/
def loadOp (how : LoadHow) (i : IWord) (d : BitVec 8) (a : BitVec 4) (off : MOff) (s : State) : Host.Outcome State Fault Refusal :=
  issue i (useLoad s.curTy d a off) (loadEff how d a off) s

/-- The bound register s63 (09 R248). -/
def boundOf (g : Group) : LoadHow :=
  let k := g.sAt 63
  .bound (k.toNat % 2 ^ 31) (k.getLsbD 31)

/-- ldb (09 R248) -/
def ldbOp (i : IWord) (d : BitVec 8) (a : BitVec 4) (off : MOff) (s : State) : Host.Outcome State Fault Refusal :=
  let u := useLoad s.curTy d a off
  issue i { u with sr := 63 :: u.sr, ext := some 2, later := { u.later with p := [7] } }
    (fun c s => loadEff (boundOf c.g) d a off c s) s

/-! ### Stores -/

/-- The elements of a lane of the source, whose words are x, converted, with their flags (R183, R186). -/
def BufRec.storeElems (r : BufRec) (md : Word) (qs : List Nat) (x : Nat) : List (Nat × Flags) :=
  let t := mdType md
  (List.range t.count).map fun j => r.elemOut t md (qs.getD j 0) (elem t x j)

/-- The accesses of a lane of a store at ea, with the elements' data (R186). -/
def BufRec.storeLane (r : BufRec) (md : Word) (l ea : Nat) (qs : List Nat) (x : Nat) : List Access :=
  (r.laneAccs (mdType md) l .write ea).map (r.storeData ((r.storeElems md qs x).map (·.1)))

/-- The 32-bit words of a lane of the source (19 R437). -/
def wordSamples (t : Ty) (m : Mask) (x : Fin 16 → Nat) : List Sample :=
  (laneList m).flatMap fun l => if t = .s64 then [⟨l, x l % 2 ^ 32⟩, ⟨l, x l >>> 32⟩] else [⟨l, x l % 2 ^ 32⟩]

/-- The operation of a store, added to the state; a native `st` enters the speculative store queue (16 R387), `str` waits
behind its release (09 R234). -/
def State.addStore (s : State) (c : Iss) (rel : Bool) (accs : List Access) (o : Op) : State :=
  let (s, id) := s.addOp { o with accs := accs, queued := rel || c.native }
  s.updGroup c.gid fun g =>
    if rel then { g with order := some { acquire := false, scope := 3, path := c.path, mark := id, tick := c.tick, then_ := .store id } }
    else if c.native then { g with ssq := g.ssq ++ [id] } else g

/-- A store as an operation, with what its lanes' accesses are formed from (R186; 16 R387). -/
def storeForm (d : BitVec 8) (a : BitVec 4) (off : MOff) (c : Iss) (r : BufRec) (lanes : Mask) : Op :=
  let t := mdType c.md
  let qf := (c.g.drawCvt (r.rounds t) c.md c.act t.count).1
  let at_ (f : Fin 16 → Nat) : AMap Nat := (laneList lanes).map fun l => (l.val, f l)
  { c.op .store (some 1) with
    form := some (r, c.md), vals := at_ (off.ea c.g a), src := at_ (c.g.laneVal t d)
    draws := if r.rounds t && mdRnd c.md == 5 then (laneList lanes).map fun l => (l.val, qf l) else [] }

/-- The accesses of a store (R186). -/
def storeAccs (d : BitVec 8) (a : BitVec 4) (off : MOff) (c : Iss) (r : BufRec) (lanes : Mask) : List Access :=
  let t := mdType c.md
  let qf := (c.g.drawCvt (r.rounds t) c.md c.act t.count).1
  (laneList lanes).flatMap fun l => r.storeLane c.md l.val (off.ea c.g a l) (qf l) (c.g.laneVal t d l)

/-- The effect of a store (R186; 09 R234 for str). -/
def storeEff (rel : Bool) (d : BitVec 8) (a : BitVec 4) (off : MOff) (c : Iss) (s : State) : Eff :=
  let t := mdType c.md
  let ea (l : Fin 16) : Nat := off.ea c.g a l
  if !rel && c.native && decide (8 ≤ c.g.ssq.length) then s.fullQueue c
  else if c.act = 0 then .ok ((s.setGroup c.gid c.g).addStore c rel [] (c.op .store (some 1))) []
  else match s.curRec c with
    | .trap x => .trap x
    | .fault va e => s.recordFault c va e 0 true c.word c.act
    | .ok r p =>
      let lanes := if p.isSome then 0 else c.act &&& ~~~(off.poison c.g a)
      match accessChecks c r true lanes ea with
      | some x => .trap x
      | none =>
        let (qf, g) := c.g.drawCvt (r.rounds t) c.md c.act t.count
        let vals (l : Fin 16) : List (Nat × Flags) := r.storeElems c.md (qf l) (c.g.laneVal t d l)
        let accs := storeAccs d a off c r lanes
        let w : Watched := {
          xs := fun _ _ k => if k = 4 then wordSamples t lanes (c.g.laneVal t d) else samplesOf [1, 2] (addrSamples r lanes ea) k
          va := fun l => (r.loc (ea l) 0).1 }
        let fl := laneFlags lanes fun l => (vals l).foldl (fun f x => f ||| x.2) 0
        match p with
        | some pd => if c.g.precise || !c.native then .trap { cause := 0x31, detail := pd, val := c.word, lanes := c.act, addr := some (BitVec.ofNat 64 ((s.descOf c.g).brtab + 64 * mdBuf c.md)) }
          else .ok (((s.setGroup c.gid g).addStore c rel [] (c.op .store (some 1))).dataFault (c.op .pref none) c.act pd 0 c.word) fl
        | none =>
          match s.beginAccs c rel accs w with
          | .trap x => .trap x
          | .stay => .stay
          | .ended s => .ended s
          | .ok s accs =>
            if rel && c.native && faultLanes accs ≠ 0 then .ended (s.sinkFault c accs)
            else .ok ((s.setGroup c.gid (g.noteFaults c.native accs)).addStore c rel accs (storeForm d a off c r lanes)) fl

/-- st and str (R186; 09 R234) -/
def storeOp (rel : Bool) (i : IWord) (d : BitVec 8) (a : BitVec 4) (off : MOff) (s : State) : Host.Outcome State Fault Refusal :=
  let t := s.curTy
  let u := off.use a
  issue i { u with vr := u.vr ++ vnums t d, pairs := evens t [d], cls := some 1, types := some memTypes, sink := rel }
    (storeEff rel d a off) s

/-! ### Prefetch (R188) -/

/-- The effect of pref: a request for the line of element 0 of each lane; what would fault is dropped. -/
def prefEff (a : BitVec 4) (off : MOff) (c : Iss) (s : State) : Eff :=
  if c.act = 0 then .ok (s.setGroup c.gid c.g) []
  else match s.curRec c with
    | .ok r none =>
      let ls := (laneList (c.act &&& ~~~(off.poison c.g a))).filter fun l => r.touched (off.ea c.g a l) 0
      let accs := ls.map fun l => ({ lane := l.val, va := (r.loc (off.ea c.g a l) 0).1, len := 1 } : Access)
      let (s, accs) := s.transAccs c.g.core c.g.ctx c.g.sup false accs
      .ok ((s.setGroup c.gid c.g).addOp { c.op .pref none with accs := accs.filter (·.st != .fault) }).1 []
    | _ => .ok (s.setGroup c.gid c.g) []

/-- pref (R188) -/
def prefOp (i : IWord) (a : BitVec 4) (off : MOff) (s : State) : Host.Outcome State Fault Refusal :=
  issue i { off.use a with types := some memTypes, ownPoison := true } (prefEff a off) s

/-! ### Scratchpad (R187) -/

/-- The gang member that a group belongs to: group g of a block runs on member g >> 8 (15 R361). -/
def State.memberOf (_s : State) (g : Group) : Nat := g.idx / 256

/-- The accesses of lds and sts: 4 bytes of each lane at an offset (memory type 3 in the model). -/
def scratchAccs (lanes : Mask) (ask : Ask) (ea : Fin 16 → Nat) (x : Fin 16 → Nat) : List Access :=
  (laneList lanes).map fun l => { lane := l.val, va := ea l, len := 4, ask := ask, st := .ready, pa := ea l, mt := 3, data := x l }

/-- The checks of lds and sts (R184 details 3 and 6), in that order (log 150). -/
def scratchChecks (c : Iss) (size : Nat) (lanes : Mask) (ea : Fin 16 → Nat) : Option Trap :=
  let mis := maskOf fun l => lane lanes l && ea l % 4 != 0
  let out := maskOf fun l => lane lanes l && decide (size < ea l + 4)
  if mis ≠ 0 then some (formatTrap c 3 c.word mis) else if out ≠ 0 then some (formatTrap c 6 c.word out) else none

/-- A lane's word of the scratchpad with undrained stores of its group, and poison (R187; 08 R204; 21 R468). -/
def State.scratchAccess (s : State) (g : Group) (a : Access) : Access :=
  let m := s.memberOf g
  match s.blocks.get? g.block with
  | none => { a with st := .done }
  | some b =>
    let a := (g.ssq.filterMap s.ops.get?).foldl (fun a o => o.accs.foldl Access.forward a) a
    a.served .done (b.rdScratch m a.va 4) s.gnomon (if b.scratchPoisoned m a.va 4 && a.fwd != 2 ^ 32 - 1 then some 2 else none)

/-- The effect of lds. -/
def ldsEff (d : BitVec 8) (a : BitVec 4) (off : MOff) (c : Iss) (s : State) : Eff :=
  let ea (l : Fin 16) : Nat := off.ea c.g a l
  let lanes := c.act &&& ~~~(off.poison c.g a)
  match scratchChecks c (((s.blocks.get? c.g.block).map (·.ssize)).getD 0) lanes ea with
  | some t => .trap t
  | none =>
    let accs := (scratchAccs lanes .read ea fun _ => 0).map (s.scratchAccess c.g)
    match if c.g.precise || !c.native then preciseTrap c.word c.act (accs.map fun a => { a with va := 0 }) else none with
    | some t => .trap t
    | none =>
      .ok ((s.setGroup c.gid c.g).addOp { c.op (.lds d.toNat) (some 0) with
        accs := accs, poison := c.act &&& ~~~lanes, writes := { v := [d.toNat] } }).1 []

/-- lds (R187) -/
def ldsOp (i : IWord) (d : BitVec 8) (a : BitVec 4) (off : MOff) (s : State) : Host.Outcome State Fault Refusal :=
  issue i { off.use a with later := { v := [d.toNat] }, cls := some 0, ownPoison := true } (ldsEff d a off) s

/-- The scratchpad write of an `sts` that drains or issues in compatibility mode, lanes in order (01 R31). -/
def State.applyScratch (s : State) (o : Op) : State :=
  match s.groups.get? o.g with
  | none => s
  | some g =>
    let m := s.memberOf g
    s.updBlock g.block fun b => o.accs.foldl (fun b a => b.wrScratch m a.va 4 a.data false) b

/-- The effect of sts: into the speculative store queue of a native group, else at once. -/
def stsEff (d : BitVec 8) (a : BitVec 4) (off : MOff) (c : Iss) (s : State) : Eff :=
  let ea (l : Fin 16) : Nat := off.ea c.g a l
  if c.native && decide (8 ≤ c.g.ssq.length) then s.fullQueue c
  else
    let lanes := c.act &&& ~~~(off.poison c.g a)
    match scratchChecks c (((s.blocks.get? c.g.block).map (·.ssize)).getD 0) lanes ea with
    | some t => .trap t
    | none =>
      let o := { c.op .sts (some 1) with accs := scratchAccs lanes .write ea fun l => (c.g.vlane d l).toNat, queued := c.native }
      let (s, id) := (s.setGroup c.gid c.g).addOp o
      if c.native then .ok (s.updGroup c.gid fun g => { g with ssq := g.ssq ++ [id] }) []
      else .ok ((s.applyScratch o).updOp id fun o => { o with finished := true }) []

/-- sts (R187) -/
def stsOp (i : IWord) (d : BitVec 8) (a : BitVec 4) (off : MOff) (s : State) : Host.Outcome State Fault Refusal :=
  let u := off.use a
  issue i { u with vr := d.toNat :: u.vr, cls := some 1 } (stsEff d a off) s

/-! ### Waiting for return classes, and the allocation (R175, R178) -/

/-- The issuing path waits; it keeps its PC and goes on at the next one (06 R156). -/
def Iss.hold (c : Iss) (h : Hold) : Group :=
  c.g.updEntry c.path fun e => { e with hold := h, pc := c.pc, next := c.next }

/-- The effect of wret. -/
def wretEff (a : BitVec 6) (k : Nat) (c : Iss) : Group :=
  let t := (c.g.sreg a).toNat
  if c.g.cnt.toList.getD k 0 ≤ t then c.g else c.hold (.wret k t)

/-- The allocation that grow, grow.try and shrink ask for, in units of 16 registers (R175). -/
def growTarget (k : Word) : Nat := min 16 (max 1 ((k.toNat + 15) / 16))

/-- Register lines that a core's register cache admits (07 R165, R167). -/
def Core.lineLimit (c : Core) : Nat := min 0x200000 (0x2C0000 - 65536 * c.sp) / 64

/-- The allocation that a group keeps room for, in units of 16 lines: its own, or a greater one that a roll-back to its replay point
gives back to it (R175; log 177). -/
def Group.claim (g : Group) : Nat :=
  max g.valloc (((g.journal.find? (·.line == 263)).map fun j => vallocOf (bits j.data.toNat 39 32)).getD 0)

/-- Register lines allocated on a core, in lines (07 R167). -/
def State.linesUsed (s : State) (core : Nat) : Nat :=
  (s.groups.filter fun e => e.2.core == core && e.2.home != .saved).foldl (fun n e => n + 16 * e.2.claim) 0

/-- Whether a core admits more lines for a group (R175). -/
def State.admits (s : State) (g : Group) (n : Nat) : Bool :=
  decide (s.linesUsed g.core + 16 * (n - g.claim) ≤ (s.core g.core).lineLimit)

/-- Whether a `grow` of a group waits on a core: the group is there, or it gave way to another `grow` and its block is still there
(R175; log 148). -/
def Group.growsOn (g : Group) (core : Nat) (s : State) : Bool :=
  g.core == core && g.mode != .ended && (g.home != .saved || (s.blocks.get? g.block).any fun b => b.cores.contains core)

/-- The paths that wait at `grow` on a core: the number of the issue, group, path, allocation. -/
def State.growers (s : State) (core : Nat) : List (Nat × Nat × Nat × Nat) :=
  (s.groups.filter fun e => e.2.growsOn core s).flatMap fun e =>
    e.2.pathIdx.filterMap fun q => match (e.2.entryAt q).hold with
      | .grow n => some ((e.2.entryAt q).issued, e.1, q, n)
      | _ => none

/-- The `grow` that waits longest on a core. -/
def State.oldestGrow (s : State) (core : Nat) : Option (Nat × Nat × Nat × Nat) :=
  (s.growers core).foldl (fun r x => match r with
    | none => some x
    | some y => if x.1 < y.1 then some x else some y) none

/-- The register lines that the oldest waiting `grow` of a core lacks: what a resident group adds, all that a saved one needs. -/
def State.owedLines (s : State) (core : Nat) : Nat :=
  match s.oldestGrow core with
  | none => 0
  | some (_, owner, _, n) => match s.groups.get? owner with
    | some g => 16 * (if g.home = .saved then max g.claim n else n - g.claim)
    | none => 0

/-- Whether a core has room for what its oldest waiting `grow` lacks. -/
def State.growFits (s : State) (core : Nat) : Bool := decide (s.linesUsed core + s.owedLines core ≤ (s.core core).lineLimit)

/-- Register lines that a core's register cache holds: those present of its groups, and those left by groups that were saved
there (01 R30; 16 R393). -/
def State.linesHeld (s : State) (core : Nat) : Nat :=
  s.groups.foldl (fun n e =>
    n + (if e.2.core = core ∧ e.2.home ≠ .saved then ((List.range (16 * e.2.valloc)).filter e.2.present.getLsbD).length else 0) +
      (e.2.former.filter (·.2 == core)).length) 0

/-- A line of a group that a core holds goes back to its image (01 R30 REGISTER_LINE_EVICT). -/
def State.evictLine (s : State) (gid n : Nat) : State :=
  match s.groups.get? gid with
  | none => s
  | some g =>
    ((if n < 16 * g.valloc then (s.wrMem (g.ribPa + 64 * n) 64 (g.line n).toNat).clearPoison [g.ribPa / 64 + n] else s).updGroup gid
      fun g => { g with former := g.former.erase n, present := g.present &&& ~~~(1#256 <<< n) })

/-- Lines (group, line) in the order of their last use (01 R30; log 135). -/
def State.byUse (s : State) (l : List (Nat × Nat)) : List (Nat × Nat) :=
  let used (x : Nat × Nat) : Nat := ((s.groups.get? x.1).map fun g => g.used.getD x.2 0).getD 0
  l.foldl (fun l x => l.insertIdx ((l.takeWhile fun y => decide (used y ≤ used x)).length) x) []

/-- The lines that saved groups left in a core, the least recently used first (01 R30). -/
def State.leftLines (s : State) (core : Nat) : List (Nat × Nat) :=
  s.byUse (s.groups.flatMap fun e => (e.2.former.filter (·.2 == core)).map fun x => (e.1, x.1))

/-- The lines in a core of resident groups with no runnable path, the least recently used first (01 R30; 09 R239). -/
def State.idleLines (s : State) (core : Nat) : List (Nat × Nat) :=
  s.byUse ((s.groups.filter fun e => e.2.core == core && e.2.home == .resident && !(e.2.paths.toList.any e.2.runnable)).flatMap fun e =>
    ((List.range (16 * e.2.valloc)).filter e.2.present.getLsbD).map fun n => (e.1, n))

/-- A core's register cache makes room for n lines (01 R30): lines of saved groups leave it, then those of resident groups with no
runnable path. -/
def State.evictFor (s : State) (core n : Nat) : State :=
  match s.linesHeld core + n - (s.core core).lineLimit with
  | 0 => s
  | k => ((s.leftLines core ++ s.idleLines core).take k).foldl (fun s x => s.evictLine x.1 x.2) s

/-- Every line that saved groups left in a core goes back to its image. -/
def State.evictAll (s : State) (core : Nat) : State := (s.leftLines core).foldl (fun s x => s.evictLine x.1 x.2) s

/-- The group with a greater allocation, the new registers 0 and present (R175). -/
def Group.growTo (g : Group) (n : Nat) : Group :=
  { g with
    valloc := n
    former := g.former.keep fun k _ => decide (k < 16 * g.valloc)
    v := Vector.ofFn fun r => if 16 * g.valloc ≤ r.val ∧ r.val < 16 * n then Vector.replicate 16 0 else g.v[r]
    present := g.present ||| ((BitVec.allOnes 256 >>> (256 - 16 * n)) &&& (BitVec.allOnes 256 <<< (16 * g.valloc))) }

/-- The effect of grow (R175). -/
def growEff (k : Word) (c : Iss) (s : State) : Eff :=
  let n := growTarget k
  if c.act = 0 ∨ n ≤ c.g.valloc then .ok (s.setGroup c.gid c.g) []
  else if (s.growers c.g.core).isEmpty && s.admits c.g n then
    .ok (((s.setGroup c.gid c.g).evictFor c.g.core (16 * (n - c.g.valloc))).updGroup c.gid (·.growTo n)) []
  else .ok (s.setGroup c.gid (c.hold (.grow n))) []

/-- The effect of grow.try (R175). -/
def growTryEff (d : BitVec 3) (k : Word) (c : Iss) (s : State) : Eff :=
  let n := growTarget k
  if c.act = 0 then .ok (s.setGroup c.gid c.g) []
  else if n ≤ c.g.valloc then .ok (s.setGroup c.gid (c.g.setP d 0xFFFF)) []
  else if (s.growers c.g.core).isEmpty && s.admits c.g n then 
    .ok (((s.setGroup c.gid c.g).evictFor c.g.core (16 * (n - c.g.valloc))).updGroup c.gid fun g => (g.growTo n).setP d 0xFFFF) []
  else .ok (s.setGroup c.gid (c.g.setP d 0)) []

/-- The effect of shrink: it issues only when no register to be dropped has a write pending (R175). -/
def shrinkEff (k : Word) (c : Iss) (s : State) : Eff :=
  let n := growTarget k
  if c.act = 0 then .ok (s.setGroup c.gid c.g) []
  else if (s.pendingRegs c.gid).v.any (16 * n ≤ ·) then .stay
  else .ok (s.setGroup c.gid (if n < c.g.valloc then
    { c.g with valloc := n, former := c.g.former.keep fun k _ => decide (k < 16 * n) } else c.g)) []

/-- GROW_GRANT: the oldest `grow` that waits on its core goes on when the core admits it (R175). -/
def State.growGrant (s : State) (gid q : Nat) : State :=
  match s.groups.get? gid with
  | none => s
  | some g =>
    match (g.entryAt q).hold with
    | .grow n =>
      let first := (s.growers g.core).all fun x => decide ((g.entryAt q).issued ≤ x.1)
      if g.home == .resident && g.mode == .run && first && (s.admits g n || decide (n ≤ g.valloc)) then
        let s := s.evictFor g.core (16 * (n - g.valloc))
        let g := (s.groups.get? gid).getD g
        let g' := if g.valloc < n then g.growTo n else g
        s.pathEvent gid g (g'.updEntry q fun e => { e with hold := .none, pc := e.next })
      else s
    | _ => s

/-! ### The instructions -/

/-- ld (07 R186) -/
def execLdReg (d : BitVec 8) (a : BitVec 4) (b : BitVec 8) (s : State) : Host.Outcome State Fault Refusal :=
  loadOp .l1 (W.ldReg d a b) d a (.vec b) s
/-- ld (07 R186) -/
def execLdScb (d : BitVec 8) (a : BitVec 4) (b : BitVec 6) (s : State) : Host.Outcome State Fault Refusal :=
  loadOp .l1 (W.ldScb d a b) d a (.sreg b) s
/-- ld (07 R186) -/
def execLdLit (d : BitVec 8) (a : BitVec 4) (k : BitVec 32) (s : State) : Host.Outcome State Fault Refusal :=
  loadOp .l1 (W.ldLit d a k) d a (.lit k) s
/-- ldc (07 R186) -/
def execLdcReg (d : BitVec 8) (a : BitVec 4) (b : BitVec 8) (s : State) : Host.Outcome State Fault Refusal :=
  loadOp .home (W.ldcReg d a b) d a (.vec b) s
/-- ldc (07 R186) -/
def execLdcLit (d : BitVec 8) (a : BitVec 4) (k : BitVec 32) (s : State) : Host.Outcome State Fault Refusal :=
  loadOp .home (W.ldcLit d a k) d a (.lit k) s
/-- lda (09 R234) -/
def execLdaReg (d : BitVec 8) (a : BitVec 4) (b : BitVec 8) (s : State) : Host.Outcome State Fault Refusal :=
  loadOp .acq (W.ldaReg d a b) d a (.vec b) s
/-- lda (09 R234) -/
def execLdaLit (d : BitVec 8) (a : BitVec 4) (k : BitVec 32) (s : State) : Host.Outcome State Fault Refusal :=
  loadOp .acq (W.ldaLit d a k) d a (.lit k) s
/-- ldb (09 R248) -/
def execLdbReg (d : BitVec 8) (a : BitVec 4) (b : BitVec 8) (s : State) : Host.Outcome State Fault Refusal :=
  ldbOp (W.ldbReg d a b) d a (.vec b) s
/-- ldb (09 R248) -/
def execLdbLit (d : BitVec 8) (a : BitVec 4) (k : BitVec 32) (s : State) : Host.Outcome State Fault Refusal :=
  ldbOp (W.ldbLit d a k) d a (.lit k) s
/-- st (07 R186) -/
def execStReg (d : BitVec 8) (a : BitVec 4) (b : BitVec 8) (s : State) : Host.Outcome State Fault Refusal :=
  storeOp false (W.stReg d a b) d a (.vec b) s
/-- st (07 R186) -/
def execStScb (d : BitVec 8) (a : BitVec 4) (b : BitVec 6) (s : State) : Host.Outcome State Fault Refusal :=
  storeOp false (W.stScb d a b) d a (.sreg b) s
/-- st (07 R186) -/
def execStLit (d : BitVec 8) (a : BitVec 4) (k : BitVec 32) (s : State) : Host.Outcome State Fault Refusal :=
  storeOp false (W.stLit d a k) d a (.lit k) s
/-- str (09 R234) -/
def execStrReg (d : BitVec 8) (a : BitVec 4) (b : BitVec 8) (s : State) : Host.Outcome State Fault Refusal :=
  storeOp true (W.strReg d a b) d a (.vec b) s
/-- str (09 R234) -/
def execStrLit (d : BitVec 8) (a : BitVec 4) (k : BitVec 32) (s : State) : Host.Outcome State Fault Refusal :=
  storeOp true (W.strLit d a k) d a (.lit k) s
/-- lds (07 R187) -/
def execLdsReg (d : BitVec 8) (a : BitVec 4) (b : BitVec 8) (s : State) : Host.Outcome State Fault Refusal :=
  ldsOp (W.ldsReg d a b) d a (.vec b) s
/-- lds (07 R187) -/
def execLdsLit (d : BitVec 8) (a : BitVec 4) (k : BitVec 32) (s : State) : Host.Outcome State Fault Refusal :=
  ldsOp (W.ldsLit d a k) d a (.lit k) s
/-- sts (07 R187) -/
def execStsReg (d : BitVec 8) (a : BitVec 4) (b : BitVec 8) (s : State) : Host.Outcome State Fault Refusal :=
  stsOp (W.stsReg d a b) d a (.vec b) s
/-- sts (07 R187) -/
def execStsLit (d : BitVec 8) (a : BitVec 4) (k : BitVec 32) (s : State) : Host.Outcome State Fault Refusal :=
  stsOp (W.stsLit d a k) d a (.lit k) s
/-- pref (07 R188) -/
def execPrefReg (a : BitVec 4) (b : BitVec 8) (s : State) : Host.Outcome State Fault Refusal :=
  prefOp (W.prefReg a b) a (.vec b) s
/-- pref (07 R188) -/
def execPrefLit (a : BitVec 4) (k : BitVec 32) (s : State) : Host.Outcome State Fault Refusal :=
  prefOp (W.prefLit a k) a (.lit k) s
/-- wret (07 R178): a stop point, not a sink -/
def execWret (a : BitVec 6) (c : BitVec 3) (s : State) : Host.Outcome State Fault Refusal :=
  issue (W.wret a c) { sr := [a.toNat], guard := false, stop := true } (groupEff (wretEff a c.toNat)) s
/-- grow (07 R175) -/
def execGrow (k : BitVec 32) (s : State) : Host.Outcome State Fault Refusal :=
  issue (W.grow k) { uniform := true, stop := true } (growEff k) s
/-- grow.try (07 R175) -/
def execGrowTry (d : BitVec 3) (k : BitVec 32) (s : State) : Host.Outcome State Fault Refusal :=
  issue (W.growTry d k) { pw := [d.toNat], uniform := true } (growTryEff d k) s
/-- shrink (07 R175) -/
def execShrink (k : BitVec 32) (s : State) : Host.Outcome State Fault Refusal :=
  issue (W.shrink k) { uniform := true } (shrinkEff k) s
/-- GROW_GRANT (07 R175) -/
def execGrowGrant (g : Nat) (path : Nat) (s : State) : Host.Outcome State Fault Refusal :=
  .next (s.growGrant g path)
end Sys2Proof.Machine
end

