-- ==== Sys2Proof/Machine/MemEvents.lean ====
section
/-! DEFINITION. What the homes, the caches and the bridges do for accesses in flight, and what comes back to the group
(08 R199 to R204, R219, R223 to R225; 16 R381, R387, R392). -/

namespace Sys2Proof.Machine

/-- The state with access k of an operation changed. -/
def State.updAcc (s : State) (id k : Nat) (f : Access → Access) : State :=
  s.updOp id fun o => { o with accs := o.accs.mapIdx fun j a => if j = k then f a else a }

/-- The access that an event names, when its operation is in flight. -/
def State.acc? (s : State) (id k : Nat) : Option (Op × Access) := (s.ops.get? id).bind fun o => (o.accs[k]?).map fun a => (o, a)

/-- Whether the host holds a half that the home reads or writes for an access (R223; 13 R325). -/
def State.hostHolds (s : State) (a : Access) : Bool := (needHalves a.cum a.pa a.len).any s.hostHas

/-- Whether an access of an operation. -/
def Waiter.ofOp (id : Nat) : Waiter → Bool
  | .acc o _ => o == id
  | .move .. => false

/-- Whether an access waits behind another operation's or another move that arrived before it, for a half that has just come back from
the host (18 R429; log 159). -/
def State.behind (s : State) (id : Nat) (a : Access) : Bool :=
  (needHalves a.cum a.pa a.len).any fun h => match s.halves.get? h with
    | some (.w l) => (s.waiting.takeWhile fun w => !w.ofOp id).any l.contains
    | _ => false

/-- Whether some byte of an access lies in a register line that a core holds (07 R171). -/
def State.isHeld (s : State) (a : Access) : Bool := (halvesOf a.pa a.len).any fun h => (s.held h).isSome

/-- Whether an access is on its way to an ordinary home slice of the module and may be served. -/
def State.atHome (s : State) (id : Nat) (o : Op) (a : Access) : Bool :=
  a.st == .ready && !o.queued && a.mt == 0 && !inAperture a.pa && s.inOrder id o a && !s.hostHolds a && !s.behind id a

/-- Whether an operation takes leases (08 R200; 07 R186, R188; 11 R278; 12 R309). -/
def Op.leases (o : Op) : Bool :=
  match o.kind with
  | .load _ _ _ .l1 | .load _ _ _ (.bound ..) | .pref | .sample .. | .trace .. => true
  | _ => false

/-- Whether an access of an operation takes a lease: one without bytes, which only translates for a read that takes none, does not (11
R278). -/
def Op.leasesFor (o : Op) (a : Access) : Bool := o.leases && a.len != 0

/-- The lease length that a home grants (R200). -/
def leaseLen (x : Nat) : Nat := min 8192 (max 256 x)

/-- The lines that a fill brings: the line, or both lines of a tile (R220). -/
def Access.fillLines (a : Access) : List Nat :=
  match (if a.cum then cumBlock a.pa else none) with
  | some (b, _) => [b / 128, b / 128 + 1]
  | none => [lineAt a.pa]

/-- Whether a fill brings a half: not one that the host or a core holds (R223; 07 R171); a tile is whole. -/
def State.fills (s : State) (cum : Bool) (half : Nat) : Bool := cum || (!s.hostHas half && (s.held half).isNone)

/-- The data of a line as a decoding reader receives it, of the halves that a fill brings. -/
def State.lineData (s : State) (cum : Bool) (line : Nat) : Nat :=
  let half (h : Nat) : Nat := if s.fills cum h then (s.readDec cum (64 * h) 64).getD 0 else 0
  half (2 * line) + 2 ^ 512 * half (2 * line + 1)

/-- The codes of what is wrong with the halves of a line, 0 nothing. -/
def State.lineCodes (s : State) (cum : Bool) (line : Nat) : List Nat :=
  [2 * line, 2 * line + 1].map fun h =>
    if s.fills cum h then ((s.readAcc { va := 0, len := 64, pa := 64 * h, cum := cum }).2).getD 0 else 0

/-- The halves of a line that a fill brings. -/
def State.lineHalves (s : State) (cum : Bool) (line : Nat) : BitVec 2 :=
  BitVec.ofBool (s.fills cum (2 * line + 1)) ++ BitVec.ofBool (s.fills cum (2 * line))

/-- The home serves a read (R199, R200, R212): the value at this tick, and for a leasing load its lines with their lease and
fill round. -/
def State.serveRead (s : State) (id k : Nat) (o : Op) (a : Access) (lease : Nat) : State :=
  let (x, p) := s.readAcc a
  let a' := a.served .fill x s.gnomon p
  if o.leasesFor a && !s.isHeld a then
    let e := s.gnomon + leaseLen lease
    let ls := a.fillLines
    let t := (s.raiseExpiry a.cum ls (coreDie o.core) e).wakeSlice a.cum a.pa a.cum
    t.updAcc id k fun _ => { a' with
      expiry := e
      lineData := (ls.map fun l => s.lineData a.cum l).foldr (fun d x => d + 2 ^ 1024 * x) 0
      linePoison := ls.flatMap fun l => s.lineCodes a.cum l
      lineValid := s.lineHalves a.cum (lineAt a.pa)
      round := (s.regionAt o.ctx a.va).map fun g => (g.1, g.2.counter) }
  else (s.wakeSlice a.cum a.pa a.cum).updAcc id k fun _ => a'

/-- The reads of an operation that the home serves at one tick with a read: all those of one tile (R220), and the parts of one
element (07 R186); none while one of them is not ready. -/
def State.readsWith (s : State) (id : Nat) (o : Op) (a : Access) : List Nat :=
  let same (x : Access) : Bool := x == a || a.ofTile x || (x.open && (o.otherParts a).contains x)
  let ks := (List.range o.accs.length).filter fun j => (o.accs[j]?).any same
  if ks.all fun j => (o.accs[j]?).any (s.atHome id o) then ks else []

/-- An access whose fill, if it brings one of some lines, leaves no copy. -/
def Access.forget (lines : List Nat) (a : Access) : Access :=
  if a.st = .fill ∧ a.fillLines.any lines.contains then { a with expiry := 0 } else a

/-- Fills of some lines on their way to a core leave no copy there. -/
def State.forgetFills (s : State) (core : Nat) (lines : List Nat) : State :=
  { s with ops := s.ops.mapVals fun _ o => if o.core = core then { o with accs := o.accs.map (Access.forget lines) } else o }

/-- The reads of an operation that copies of the core's L1 serve. -/
def State.serveCopies (s : State) (id : Nat) (how : LoadHow) : State :=
  s.updOp id fun o => { o with accs := o.accs.map (s.tryL1 id o how) }

/-- A read that is about to leave the core: served by a copy that has come to the L1 meanwhile, else by `serve`; a lane of
`ldb.nf` that no copy serves by then is not fetched (R214). -/
def State.unlessCopy (s : State) (id k : Nat) (o : Op) (a : Access) (serve : State) : State :=
  match o.kind.how with
  | none => serve
  | some how =>
    let b := s.tryL1 id o how a
    if b.st = .done then s.serveCopies id how
    else match how with
      | .bound _ true =>
        if (s.regionAt o.ctx a.va).isSome then
          s.updOp id fun o => { o with
            result := (BitVec.ofNat 16 o.result ||| a.lanes).toNat
            accs := o.accs.map fun b => if b.lane = a.lane ∧ b.open then { b with st := .skip } else b }
        else serve
      | _ => serve

/-- HOME_READ (R199): the home serves a read that no copy of the core's L1 serves. -/
def State.homeReadStep (s : State) (id k lease : Nat) : State :=
  match s.acc? id k with
  | none => s
  | some (o, a) =>
    if !(s.atHome id o a && a.ask == .read && !s.isHeld a) then s
    else s.unlessCopy id k o a ((s.readsWith id o a).foldl (fun s j => match s.acc? id j with
      | some (o, b) => s.serveRead id j o b lease
      | none => s) s)

/-! ### Replies -/

/-- L1 copies that a core's store holds: 3 MiB less the register cache and the scratchpads, in lines (07 R165). -/
def Core.l1Lines (c : Core) : Nat := (0x300000 - 64 * c.lineLimit - 65536 * c.sp) / 128

/-- The L1 copy with the oldest reading tick. -/
def Core.oldestLine (c : Core) : Option Nat :=
  (c.l1.foldl (fun (r : Option (Nat × Nat)) e => match r with
    | some (_, t) => if e.2.rho < t then some (e.1, e.2.rho) else r
    | none => some (e.1, e.2.rho)) none).map (·.1)

/-- A line installed in the L1; a full L1 evicts the copy that was read first (07 R165; 08 R200; log 136). -/
def Core.installLine (c : Core) (line : Nat) (x : L1Line) : Core :=
  let c := { c with l1 := c.l1.erase line }
  let c := if c.l1.length < c.l1Lines then c else { c with l1 := (c.oldestLine).elim c.l1 c.l1.erase }
  { c with l1 := c.l1.set line x }

/-- A copy of some lines is dropped where it was read no later than a tick. -/
def Core.dropOlder (c : Core) (lines : List Nat) (tick : Nat) : Core :=
  { c with l1 := c.l1.keep fun k x => !(lines.contains k && decide (x.rho ≤ tick)) }

/-- Whether the writes of an operation whose replies are there, with that of access a, cover all of a 32-bit word. -/
def Op.wrote (o : Op) (a : Access) (pa : Nat) : Bool :=
  let hit (i n : Nat) : Bool := o.accs.any fun b =>
    b.ask == .write && (b == a || b.st == .done) && b.nib == n && decide (b.pa ≤ pa + i ∧ pa + i < b.pa + b.len)
  (List.range 4).all fun i => hit i 0 || (hit i 1 && hit i 2)

/-- The issuing core's L1 copy after a store's reply (R202); a word written whole carries no poison (21 R468). -/
def Core.storeReply (c : Core) (o : Op) (a : Access) : Core :=
  match c.l1.get? (lineAt a.pa) with
  | some x =>
    if x.rho ≤ a.tick then
      let off := 8 * (a.pa % 128)
      { c with l1 := c.l1.set (lineAt a.pa) { x with
          data := mixBits x.data (a.bitMask <<< off) (a.data <<< off), upd := x.upd.set (a.pa % 128) a.tick
          poison := x.poison.keep fun w _ => !o.wrote a (a.pa / 128 * 128 + 4 * w) } }
    else c
  | none => c

/-- The copies of some lines that were read no later than a tick serve no `ld` any more. -/
def Core.endOlder (c : Core) (lines : List Nat) (tick : Nat) : Core :=
  { c with l1 := c.l1.mapVals fun k x => if lines.contains k && decide (x.rho ≤ tick) then { x with expiry := 0 } else x }

/-- The poisoned words of line i of a fill. -/
def Access.poisonWords (a : Access) (i : Nat) : AMap Nat :=
  (List.range 32).filterMap fun w => match a.linePoison.getD (2 * i + w / 16) 0 with
    | 0 => none
    | c => some (w, c)

/-- What a reply does in the issuing core's L1 (R202): a fill with a lease is installed unless it was read before the latest
drop tick; an older copy of what an `ldb` read then goes, so that no later `ldb` reads that (R211; log 170); a store updates the
copy; an atomic operation, a reduction and a tile update end it, so that no later load of the group reads an older value
(R204; log 136). -/
def Core.reply (c : Core) (o : Op) (a : Access) : Core :=
  if a.mt ≠ 0 then c
  else match a.ask with
    | .read | .fetch | .monitor =>
      if a.expiry ≠ 0 ∧ c.drop ≤ a.tick then
        (a.fillLines.zipIdx).foldl (fun c li => c.installLine li.1
          { data := a.lineData >>> (1024 * li.2) % 2 ^ 1024
            poison := a.poisonWords li.2
            valid := a.lineValid, rho := a.tick, expiry := a.expiry
            round := a.round.map (·.2), region := a.round.map (·.1), peer := inAperture a.pa }) c
      else match o.kind.how with
        | some (.bound ..) => c.dropOlder a.fillLines a.tick
        | _ => c
    | .write => if a.poison.isSome then c else c.storeReply o a
    | .atomic | .red => c.dropOlder [lineAt a.pa] a.tick
    | .target => c.dropOlder a.fillLines a.tick

/-- Whether a reply is the next of its home slice to reach the core: each slice's replies to one core arrive in the order in
which it produced them (R202), those of one instruction in the order of their lanes (07 R186). -/
def State.arrivesNext (s : State) (k : Nat) (o : Op) (a : Access) : Bool :=
  let fromSlice (b : Access) : Bool := b.mt == 0 && !inAperture b.pa
  !fromSlice a || ((o.accs.take k).all fun b => b.st != .fill || !(b.overlaps a)) && s.ops.all fun e =>
    e.2.core != o.core || e.2.accs.all fun b =>
      b.st != .fill || a.tick ≤ b.tick || !fromSlice b || s.homeOf b.cum b.pa != s.homeOf a.cum a.pa

/-- Whether a reply comes from a home that an `ldc` or an acquire load read, to a group with an acquire in progress: a later `ld` may not
go back behind it (R211; log 170). -/
def State.behindAcquire (s : State) (o : Op) : Bool :=
  (match o.kind.how with | some .home | some .acq => true | _ => false) && (s.groups.get? o.g).any fun g => g.order.any (·.acquire)

/-- FILL_ARRIVAL (R202): the reply to an access reaches the core. -/
def State.fillStep (s : State) (id k : Nat) : State :=
  match s.acc? id k with
  | some (o, a) =>
    if a.st = .fill ∧ s.arrivesNext k o a then
      let s := if s.behindAcquire o then s.updCore o.core (·.endOlder a.fillLines a.tick) else s
      (s.updCore o.core (·.reply o a)).updAcc id k fun a => { a with st := .done }
    else s
  | none => s

/-! ### Writes -/

/-- The bytes of a write as its home stores them: a 4-bit element keeps the other half of its byte. -/
def State.writeBytes (s : State) (a : Access) : Nat :=
  if a.nib = 0 then a.data else mixBits ((s.readAcc { a with nib := 0 }).1) a.bitMask a.data

/-- Whether an operation's accesses of a kind cover all bytes of a half-line. -/
def Op.coversBy (o : Op) (ask : Ask) (half : Nat) : Bool :=
  let hit (i n : Nat) : Bool := o.accs.any fun a =>
    a.ask == ask && a.nib == n && decide (a.pa ≤ 64 * half + i ∧ 64 * half + i < a.pa + a.len)
  (List.range 64).all fun i => hit i 0 || (hit i 1 && hit i 2)

/-- Whether an operation's writes cover all bytes of a half-line. -/
def Op.covers (o : Op) (half : Nat) : Bool := o.coversBy .write half

/-- Whether a write is refused because it covers part of a poisoned half-line (21 R468). -/
def State.refused (s : State) (o : Op) (a : Access) : Bool :=
  match (if a.cum then cumBlock a.pa else none) with
  | some (b, m) => s.tileRefuses b m (a.pa - b) (a.pa - b + a.len) o.covers
  | none => (halvesOf a.pa a.len).any fun h => (s.halfPoison h).isSome && !o.covers h

/-- A write that its home refuses, with the code of its error: the reply brings a deferred error (16 R487). -/
def State.refuseAcc (s : State) (id k code : Nat) : State :=
  s.updAcc id k fun a => { a with st := .fill, tick := s.gnomon, poison := some code }

/-- The components of a write's completion time (R203; R219 when a core performs it on a line that it holds). -/
def State.timesOf (s : State) (holder : Bool) (a : Access) : Nat × Nat × Nat :=
  if holder then (s.gnomon, s.gnomon, s.gnomon) else s.completion a.cum a.pa

/-- The completion time of n bytes of module memory written by an agent that is no access of an operation (R203, R219). -/
def State.homeTimes (s : State) (cum : Bool) (pa n : Nat) : Nat × Nat × Nat :=
  if (halvesOf pa n).any fun h => (s.held h).isSome then (s.gnomon, s.gnomon, s.gnomon) else s.completion cum pa

/-- The same of n bytes written under a leaf (R224). -/
def State.writeTimes (s : State) (l : Leaf) (pa n : Nat) : Nat × Nat × Nat :=
  if l.mt ≠ 0 then (s.gnomon, s.gnomon, s.gnomon) else s.homeTimes l.cum pa n

/-- One write applied at its home at this tick, or refused (R198, R203; 13 R325; 21 R468); `holder` when a core performs it
on a register line (R219). -/
def State.serveWrite (s : State) (id k : Nat) (holder : Bool) : State :=
  match s.acc? id k with
  | none => s
  | some (o, a) =>
    if s.lost a.pa then s.refuseAcc id k 4
    else if s.refused o a then s.refuseAcc id k 5
    else match (s.clearPoison ((halvesOf a.pa a.len).filter o.covers)).writeDec a.cum a.pa a.len (s.writeBytes a) with
      | none => s.refuseAcc id k 0x10D
      | some t =>
        ((t.wakeSlice a.cum a.pa a.cum).updAcc id k fun a =>
          { a with st := .fill, tick := s.gnomon }).updOp id fun o => { o with ct := ctMax o.ct (s.timesOf holder a) }

/-- Whether a write of an operation and the other parts of its element may be applied now, or were at this tick (07 R186). -/
def State.partsReady (s : State) (id : Nat) (o : Op) (a : Access) : Bool :=
  o.accs.zipIdx.all fun x => !(x.1 == a || (o.otherParts a).contains x.1) ||
    (s.atHome id o x.1 && o.lowerApplied x.2 x.1) || (x.1.st == .fill && x.1.tick == s.gnomon)

/-- HOME_WRITE (R198): the writes of the operation to one line that are ready are applied at one tick, lanes in order, each
with the other parts of its element (07 R186). -/
def State.homeWriteStep (s : State) (id k : Nat) : State :=
  match s.acc? id k with
  | none => s
  | some (o, a) =>
    if s.atHome id o a && a.ask == .write && (!s.isHeld a || !(o.otherParts a).isEmpty) then
      (List.range o.accs.length).foldl (fun s j => match s.acc? id j with
        | some (o, b) =>
          if s.atHome id o b && b.ask == .write && s.partsReady id o b &&
            ((lineAt b.pa == lineAt a.pa && !s.isHeld b) || (o.otherParts b).any fun x => lineAt x.pa == lineAt a.pa)
          then s.serveWrite id j (s.isHeld b) else s
        | none => s) s
    else s

/-- The refused access of an operation with the lowest address (16 R487). -/
def Op.refusal (o : Op) : Option Access :=
  (o.accs.filter (·.poison.isSome)).foldl (fun r a => match r with
    | none => some a
    | some b => if a.va < b.va then some a else some b) none

/-- The deferred error of a refused write (16 R487; 13 R325, R338; 21 R469). -/
def Op.deferredBy (o : Op) (a : Access) : Deferred :=
  let (c, d) := dataCause (a.poison.getD 5)
  ⟨c, d, match o.kind with | .rdcmp _ => if c = 0x21 then BitVec.ofNat 32 a.elem else 0 | _ => 0, a.va⟩

/-- COMPLETION_TIME_RETURN (R203): the replies to every write of the operation are there; a refusal reaches the group, and the
counter may fall (07 R177). -/
def State.completionReturn (s : State) (id : Nat) : State :=
  match s.ops.get? id with
  | none => s
  | some o =>
    let writes : Bool := match o.kind with
      | .store | .rtw _ | .rclr .. | .rdcmp _ | .atom none .. => true
      | _ => false
    if o.finished || o.queued || !writes || !(o.accs.all fun a => a.st == .done || a.st == .skip) then s
    else
      let s := s.finishOp id
      match o.refusal with
      | some a => s.defer o.g (o.deferredBy a)
      | none => s

/-! ### Translation -/

/-- What reads for an operation, as a fault record says it (16 R384). -/
def OpKind.src : OpKind → Nat
  | .sample .. | .trace .. => 2
  | _ => 0

/-- Access k of an operation replaced by what it has become: a fault is noted (16 R386), which a unit does as it ends, or
parked in compatibility mode (R392); a prefetch drops it (07 R188). One of a queued store that is older than the replay point, which
no replay issues again, is a deferred error in precise mode (R396, R487; log 178). -/
def State.setAcc (s : State) (id k : Nat) (o : Op) (a : Access) : State :=
  let a := if (o.kind == .pref || a.quiet) && a.st == .fault then { a with st := .skip } else a
  match s.groups.get? o.g with
  | none => s.updAcc id k fun _ => { a with st := if a.st = .fault then .skip else a.st }
  | some g =>
    if g.precise && o.queued && decide (id < g.replayMark) && a.st == .fault then
      (s.updAcc id k fun _ => { a with st := .skip }).defer o.g ⟨0x30, a.detail, 0, a.va⟩
    else if s.native g then
      (s.updAcc id k fun _ => a).updGroup o.g fun g => if o.kind.src = 2 then g else g.noteFaults true [a]
    else
      let (s, l) := s.parkAccs o.g o.ctx o.kind.src [a]
      s.updAcc id k fun _ => l.headD a

/-- An access translates; a fault is noted (R386), or parked in compatibility mode (R392). -/
def State.walkOne (s : State) (id k : Nat) : State :=
  match s.acc? id k with
  | none => s
  | some (o, a) =>
    if a.st ≠ .walk then s
    else
      let (s, a) := s.transAcc o.core o.ctx o.sup true a
      let s := s.setAcc id k o a
      match o.kind.how with
      | some how => s.serveCopies id how
      | none => s

/-- The accesses that wait on one walk: those of a die to one page of a context that no cached leaf serves (R381). -/
def State.walkers (s : State) (die ctx va : Nat) : List (Nat × Nat) :=
  s.ops.flatMap fun e =>
    if e.2.ctx = ctx ∧ coreDie e.2.core = die then
      (e.2.accs.zipIdx.filter fun x => x.1.st == .walk && x.1.va / 65536 == va / 65536).map fun x => (e.1, x.2)
    else []

/-- WALK_COMPLETE (16 R381): a walk ends, and every miss that waits on it translates; a table entry that the host may hold is
asked back first (08 R223). -/
def State.walkStep (s : State) (id k : Nat) : State :=
  match s.acc? id k with
  | none => s
  | some (o, a) =>
    if a.st ≠ .walk then s
    else if (s.tlbFind o.core o.ctx a.va).isSome then s.walkOne id k
    else if !(s.walkHeld o.ctx a.va).isEmpty then s.backInval (s.walkHeld o.ctx a.va)
    else (s.walkers (coreDie o.core) o.ctx a.va).foldl (fun s x => s.walkOne x.1 x.2) s

/-- SSQ_DRAIN (16 R387): the oldest entry of a group's speculative store queue goes to its home. -/
def State.ssqDrain (s : State) (gid : Nat) : State :=
  match s.groups.get? gid with
  | none => s
  | some g =>
    match g.ssq with
    | [] => s
    | id :: rest =>
      match s.ops.get? id with
      | none => s.setGroup gid { g with ssq := rest }
      | some o =>
        let settled := s.ops.all fun e => e.2.g != gid || decide (id < e.1) || (!e.2.searching && e.2.accs.all fun a => a.st != .walk)
        if (g.home == .resident || g.mode == .ended) && settled && !s.pending gid g then
          let s := (s.setGroup gid { g with ssq := rest }).updOp id fun o => { o with queued := false }
          match o.kind with
          | .sts => (s.applyScratch o).finishOp id
          | _ => s
        else s

/-! ### Data return -/

/-- The value of a lane of a load: its elements, with the union of their flags (07 R186). -/
def loadLane (r : BufRec) (md : Word) (o : Op) (l : Nat) : Nat × Flags :=
  let t := mdType md
  let ea := o.vals.getD l 0
  let qs := o.draws.getD l []
  packF t ((List.range t.count).map fun j => r.elemIn t md o.accs l ea j (qs.getD j 0))

/-- The registers of a load written: the lanes `m`, of which `p` are poisoned. -/
def Group.putLoad (g : Group) (t : Ty) (d : Nat) (m p : Mask) (f : Fin 16 → Nat) : Group :=
  let d := BitVec.ofNat 8 d
  let g := (g.setLanes t d (m &&& ~~~p) f).markV d.toNat m p
  if t = .s64 then g.markV (d.toNat + 1) m p else g

/-- A firing evaluation after a load's registers are written (19 R440, R441): a native group first resolves its faults;
none when its accesses are not settled. -/
def State.watchPost (s : State) (gid : Nat) (xs : List Sample) (fl : List (Fin 16 × Flags)) : Option State :=
  match s.groups.get? gid with
  | none => some s
  | some g =>
    let v := s.evaluate g.core g.ctx fun k => if k = 3 then xs else if k = 5 then flagSamples fl else []
    if v.hits.isEmpty then some s
    else
      let q := ((v.hits.head?.bind fun h => (laneList h.2.1).head?).bind g.pathOfLane).getD 64
      let pc := (g.entryAt q).pc
      let s' := s.countMatches g v pc.toNat
      match s.chosenAct v with
      | none => some s'
      | some a =>
        if s.native g && !s.settled gid then none
        else if s.native g && s.pending gid g then some (s'.updGroup gid Group.stopForFault)
        else some (s'.watchAct gid q a pc 0)

/-- DATA_RETURN of a load (07 R177, R186; 16 R386; 21 R469). In compatibility mode a lane that read a malformed superblock gets
nothing (04 R88). -/
def State.loadReturn (s : State) (id : Nat) (o : Op) (d : Nat) (r : BufRec) (md : Word) (how : LoadHow) : State :=
  match s.groups.get? o.g with
  | none => { s with ops := s.ops.erase id }
  | some g =>
    let t := mdType md
    let miss := BitVec.ofNat 16 o.result
    let bad := badLanes r o.accs o.act
    (s.preciseStop id o ((preciseTrap o.word o.act o.accs).or (if o.act &&& ~~~miss &&& bad = 0 then none
      else some { cause := 0x21, detail := 5, val := BitVec.ofNat 32 (mdBuf md), lanes := o.act &&& ~~~miss &&& bad }))).getD <|
    let m := o.act &&& ~~~miss &&& ~~~(if s.native g then 0 else bad)
    let p := if s.native g then m &&& (o.poison ||| faultLanes o.accs ||| poisonLanes o.accs ||| bad) else 0
    let vals : Fin 16 → Nat × Flags := fun l => loadLane r md o l.val
    let put (g : Group) : Group :=
      let g := g.putLoad t d m p fun l => (vals l).1
      match how with
      | .bound _ true => g.setPLanes 7 o.act (o.act &&& ~~~miss)
      | _ => g
    let s' := s.setGroup o.g (g.deliver id (vnums t (BitVec.ofNat 8 d) ++ [262]) put)
    let s' := match poisonFirst o.accs with
      | some (code, va) => s'.dataFault o (m &&& poisonLanes o.accs) code va o.word
      | none => s'
    let s' := s'.dataFault o (o.act &&& ~~~miss &&& bad) 0x105 0 (BitVec.ofNat 32 (mdBuf md))
    let fl := laneFlags (m &&& ~~~p) fun l => (vals l).2
    match s'.watchPost o.g (wordSamples t (m &&& ~~~p) fun l => (vals l).1) fl with
    | none => s
    | some s' => s'.finishOp id

/-- DATA_RETURN of `lds` (07 R187). -/
def State.ldsReturn (s : State) (id : Nat) (o : Op) (d : Nat) : State :=
  match s.groups.get? o.g with
  | none => { s with ops := s.ops.erase id }
  | some g =>
    let p := if s.native g then o.act &&& (o.poison ||| poisonLanes o.accs) else 0
    let put (g : Group) : Group := g.putLoad .n32 d o.act p fun l => gather o.accs l.val 0
    let s := s.setGroup o.g (g.deliver id [d] put)
    let s := match poisonFirst o.accs with
      | some (code, _) => s.dataFault o (poisonLanes o.accs) code 0 o.word
      | none => s
    s.finishOp id

/-- Whether every access of an operation is complete. -/
def Op.complete (o : Op) : Bool := o.accs.all fun a => a.st == .done || a.st == .skip || a.st == .fault

/-- LEASE_EXPIRY (R200): the lease on an L1 copy is over; the copy stays for `ldb`. -/
def State.leaseEnd (s : State) (core line : Nat) : State :=
  s.updCore core fun c => { c with l1 := c.l1.upd line fun x => if x.expiry ≤ s.gnomon then { x with expiry := 0 } else x }

/-! ### Host memory (R224) -/

/-- The host completes an access to its memory; an error is the access fault of detail 10 (16 R380), in precise mode the trap of the
access (State.preciseStop; 16 R390 step 5). Writes are posted (log 138). -/
def State.hostServe (s : State) (id k : Nat) (a : Access) (o : Op) (ok : Bool) : State :=
  match a.ask with
  | .write =>
    let x := if a.nib = 0 then a.data else mixBits (memReadN s.hostMem a.pa a.len) a.bitMask a.data
    ({ s with hostMem := memWriteN s.hostMem a.pa a.len x }).updAcc id k fun a => { a with st := .fill, tick := s.gnomon }
  | _ =>
    if ok then s.updAcc id k fun a => a.served .done (memReadN s.hostMem a.pa a.len) s.gnomon none
    else
      let a := { a with st := .fault, detail := 10 }
      if o.undo.isSome && (s.groups.get? o.g).any (·.precise) then s.updAcc id k fun _ => a else s.setAcc id k o a

/-- HOST_MEMORY_COMPLETION: the host completes an access to its memory, with the other parts of its element there (07 R186). -/
def State.hostMemStep (s : State) (id k : Nat) (ok : Bool) : State :=
  match s.acc? id k with
  | none => s
  | some (o, a) =>
    let ready (j : Nat) (b : Access) : Bool :=
      b.st == .ready && b.mt == 1 && !o.queued && s.inOrder id o b && (!b.ask.writes || o.lowerApplied j b || (o.otherParts a).contains b)
    let parts := o.accs.zipIdx.filter fun x => x.2 == k || (x.1.open && (o.otherParts a).contains x.1)
    if !(parts.all fun x => ready x.2 x.1) then s
    else parts.foldl (fun s x => s.hostServe id x.2 x.1 o (ok || x.2 != k)) s

end Sys2Proof.Machine
end

