-- ==== Sys2Proof/Machine/Order.lean ====
section
/-! DEFINITION. Releases and acquires (08 R206 to R208, R215), barriers and their waits (09 R240 to R246), and the results
that a sink delivers after it (16 R389). -/

namespace Sys2Proof.Machine

/-! ### Acquire (R207, R215) -/

/-- Whether the block of a group is a gang. -/
def State.gang (s : State) (g : Group) : Bool := decide (1 < ((s.blocks.get? g.block).map (·.cores.length)).getD 1)

/-- Whether an acquire at a scope drops leases and imports rounds: the second row of R207. -/
def State.drops (s : State) (g : Group) (scope : Nat) : Bool := decide (2 ≤ scope) || (scope == 1 && s.gang g)

/-- The drop tick: every unexpired lease of a core's L1 ends (R207). -/
def State.dropLeases (s : State) (core : Nat) : State :=
  s.updCore core fun c => { c with drop := s.gnomon, l1 := c.l1.mapVals fun _ x => { x with expiry := 0 } }

/-- The import of rounds: O := max(O, counter) for the context's regions (R215). -/
def State.importRounds (s : State) (core ctx : Nat) : State :=
  s.updCore core fun c => { c with obs := c.obs.mapVals fun k x =>
    if k / 256 = ctx then (max x.1 (((s.regions.get? k).map (·.counter)).getD 0), x.2) else x }

/-- A core acquires at .dev at once, before a group of a context issues first (15 R356, 16 R396). -/
def State.acquireNow (s : State) (core ctx : Nat) : State := (s.dropLeases core).importRounds core ctx

/-- A group begins an acquire. -/
def State.startAcquire (s : State) (gid scope path : Nat) : State :=
  match s.groups.get? gid with
  | none => s
  | some g =>
    (if s.drops g scope then s.dropLeases g.core else s).updGroup gid fun g => { g with
      order := some { acquire := true, scope := scope, path := path, mark := s.nextOp, tick := s.gnomon, then_ := .done } }

/-- Whether every operation of some return classes that a group issued before a mark has finished; a write of the group's by
another unit, which raises no counter, is done when a store is (18 R426). -/
def State.doneBefore (s : State) (gid mark : Nat) (cls : List Nat) : Bool :=
  s.ops.all fun e => e.2.g != gid || decide (mark ≤ e.1) || e.2.finished ||
    !(e.2.cls.any cls.contains || (e.2.cls.isNone && e.2.kind == .store && cls.contains 1))

/-- The end of an acquire: the earlier loads have returned and the import is done. That of an acquire load begins only then: it takes
its drop tick after its load (09 R234). -/
def State.acquireEnd (s : State) (gid : Nat) : State :=
  match s.groups.get? gid with
  | none => s
  | some g =>
    match g.order with
    | none => s
    | some o =>
      if o.acquire && s.doneBefore gid o.mark [0, 3, 4] then
        let t := if o.then_ = .drops then s.dropLeases g.core else s
        let t := if s.drops g o.scope then t.importRounds g.core g.ctx else t
        t.updGroup gid fun g => { g with order := none }
      else s

/-! ### Release (R206) -/

/-- Whether Gnomon has passed a component; 0 when no write has it. -/
def State.passed (s : State) (x : Nat) : Bool := x == 0 || decide (x < s.gnomon)

/-- Whether Gnomon has passed every component of some writes of a group that a release at a scope waits for (R206);
a lost die's counts as passed (21 R473). -/
def State.passedBy (s : State) (g : Group) (w : Nat × Nat × Nat) (scope : Nat) : Bool :=
  let w := (if s.deadDies.contains 0 then 0 else w.1, if s.deadDies.contains 1 then 0 else w.2.1, w.2.2)
  let own := if coreDie g.core = 0 then w.1 else w.2.1
  match scope with
  | 0 => true
  | 1 => !s.gang g || s.passed own
  | 2 => s.passed own
  | 3 | 4 => s.passed w.1 && s.passed w.2.1
  | _ => s.passed w.1 && s.passed w.2.1 && s.passed w.2.2

/-- The same of every write of the group. -/
def State.passedAt (s : State) (g : Group) (scope : Nat) : Bool := s.passedBy g g.wmax scope

/-- Whether a release in progress may end (R206): earlier loads have returned, earlier stores have their completion times,
and Gnomon has passed them. -/
def State.releaseOver (s : State) (gid : Nat) (g : Group) (o : Order) : Bool :=
  !o.acquire && s.doneBefore gid o.mark [0, 1, 3, 4] && s.passedAt g o.scope

/-- The group of an instruction begins a release. -/
def Iss.release (c : Iss) (scope : Nat) (a : After) : Group :=
  { c.g with order := some { acquire := false, scope := scope, path := c.path, mark := c.mark, tick := c.tick, then_ := a } }

/-! ### Waits that end -/

/-- A path goes on past its wait, with an acquire at a scope owed. -/
def PathEntry.owe (e : PathEntry) (scope : Nat) : PathEntry := { e with hold := .owed scope, pc := e.next }
/-- A path goes on past its wait. -/
def PathEntry.go (e : PathEntry) : PathEntry := { e with hold := .none, pc := e.next }

/-- Bytes of a saved group's image written by the device, and of the journal's copy of the line (R239; 16 R389). -/
def State.poke (s : State) (g : Group) (line off n x : Nat) : State :=
  let s := s.wrImage (g.ribPa + 64 * line + off) n x
  match g.journal.findIdx? (·.line == line) with
  | some j => s.wrImage (g.ribPa + 64 * (320 + j) + off) n x
  | none => s

/-! ### Arrival of a group at a barrier (R243, R245; 13 R339) -/

/-- Whether every path of a group with a live lane waits as `isIt` says, but with `merges` one at a merge, and one of them
anew (R243). -/
def Group.gathers (g : Group) (merges : Bool) (isIt : Hold → Bool) (fresh : Hold) : Bool :=
  let ps := g.paths.toList.filter fun e => e.kind == .path && g.liveOf e.mask != 0 && !(merges && e.hold == .merge)
  ps.any (·.hold == fresh) && ps.all fun e => isIt e.hold

/-- Whether a group arrives at `rend` (13 R339). -/
def Group.atRend (g : Group) : Bool := g.gathers false (fun h => match h with | .rend _ => true | _ => false) (.rend none)

/-- The release that a group's arrival performs, and what follows it. -/
def Group.arrival (g : Group) : Option (Nat × After) :=
  if g.gathers true (fun h => match h with | .bar _ => true | _ => false) (.bar none) then some (1, .bar)
  else if g.gathers true (fun h => match h with | .gbar _ => true | _ => false) (.gbar none) then some (3, .gbar)
  else none

/-- One arrival of a group at a block barrier (R240, R242). -/
def Barrier.arrive (b : Barrier) (gid expected : Nat) : Barrier :=
  { b with expected := if b.count = 0 then expected else b.expected, count := b.count + 1, arrived := gid :: b.arrived }

/-- A barrier of a block. -/
def Block.bar (b : Block) (k : Nat) : Barrier := if h : k < 16 then b.bars[k] else {}
/-- The block with a barrier changed. -/
def Block.updBar (b : Block) (k : Nat) (f : Barrier → Barrier) : Block :=
  if h : k < 16 then { b with bars := b.bars.set k (f b.bars[k]) } else b

/-- Arrivals at a barrier's generation with the groups that have ended (R240). -/
def Block.arrivals (b : Block) (k : Nat) : Nat :=
  (b.bar k).count + (b.ended.filter fun g => !(b.bar k).arrived.contains g).length

/-- Whether a barrier's generation completes (R240): ended groups are no part of the count, and one live arrival there must be (DESIGN
CHOICE, log 189). -/
def Block.barFull (b : Block) (k : Nat) : Bool := decide (0 < (b.bar k).count ∧ (b.bar k).expected ≤ b.arrivals k)

/-- A barrier's generation completes as soon as its count is reached (R240). -/
def Block.settleBar (b : Block) (k : Nat) : Block := if b.barFull k then b.updBar k fun x => { gen := (x.gen + 1) % 2 ^ 28 } else b

/-- Every barrier of a block, after one of its groups has ended (R240). -/
def Block.settleBars (b : Block) : Block := (List.range 16).foldl Block.settleBar b

/-- A path's wait at barrier k whose generation is no longer its own (R242 to R244). -/
def PathEntry.barOver (e : PathEntry) (b : Block) (k : Nat) : Bool :=
  match e.hold with
  | .bar (some n) => k == 0 && (b.bar 0).gen != n
  | .barw i n => i == k && (b.bar k).gen != n
  | _ => false

/-- BAR_GENERATION_COMPLETE (R240, R243): the paths that wait for a generation that has completed go on with an acquire. -/
def State.barComplete (s : State) (bid k : Nat) : State :=
  match s.blocks.get? bid with
  | none => s
  | some b =>
    (b.groups.filter fun g => (s.groups.get? g).any fun x => x.home != .saved && x.paths.toList.any (·.barOver b k)).foldl (fun s g =>
      s.endWaits g fun e => if e.barOver b k then e.owe 1 else e) s

/-! ### The grid barrier (R245, R246) -/

/-- Grid counters in use (R246; 15 R363). -/
def State.gridCounters (s : State) : Nat := (s.entities.filter fun e => e.2.gcount.isSome).length

/-- A launch asks for a grid counter: it gets one at once, or waits (R246). -/
def State.askCounter (s : State) (launch : Nat) : State :=
  s.updEntity launch fun e =>
    if e.gcount.isSome then e
    else if s.gridCounters < 4096 then { e with gcount := some 0 } else { e with gwait := true }

/-- GRID_COUNTER_ASSIGN (R246) -/
def State.assignCounter (s : State) (launch : Nat) : State :=
  s.updEntity launch fun e =>
    if e.gwait && decide (s.gridCounters < 4096) then { e with gcount := some 0, gwait := false } else e

/-- Whether every group of a block has arrived at the grid barrier or ended (R245). -/
def Block.atGrid (b : Block) : Bool := b.groups.all fun g => b.garrived.contains g || b.ended.contains g

/-- Blocks of a launch that have arrived: those that wait and those that are complete (R245). -/
def State.gridArrivals (s : State) (launch : Nat) (e : Entity) : Nat :=
  e.done + (s.blocks.filter fun b => b.2.launch == launch && b.2.pixelOf.isNone && b.2.atGrid).length

/-- Blocks of a grid. -/
def Grid.blocks (g : Grid) : Nat := g.gx * g.gy * g.gz

/-- Whether the launch's generation completes. -/
def State.gridFull (s : State) (launch : Nat) : Bool :=
  match s.entities.get? launch with
  | some e => e.gcount.isSome && decide (e.grid.blocks ≤ s.gridArrivals launch e) &&
      s.blocks.any fun b => b.2.launch == launch && !b.2.garrived.isEmpty
  | none => false

/-- GBAR_GENERATION_COMPLETE (R245): every waiting path goes on with an acquire at .dev. -/
def State.gridComplete (s : State) (launch : Nat) : State :=
  if s.gridFull launch then
    let s := s.updEntity launch fun e => { e with gcount := e.gcount.map (· + 1) }
    let mine := s.blocks.filter fun b => b.2.launch == launch
    let s := mine.foldl (fun s b => s.updBlock b.1 fun b => { b with garrived := [] }) s
    ((mine.flatMap (·.2.groups)).filter fun g => ((s.groups.get? g).map (·.home != .saved)).getD false).foldl (fun s g =>
      s.endWaits g fun e => match e.hold with | .gbar (some _) => e.owe 3 | _ => e) s
  else s

/-- The launch of a group's block. -/
def State.launchOf (s : State) (g : Group) : Nat := ((s.blocks.get? g.block).map (·.launch)).getD 0

/-! ### What a group does between instructions -/

/-- The waits of a group that its own state ends: `wret`, and `barw` whose generation completed (R242; 07 R178). -/
def State.ownWaits (s : State) (gid : Nat) (g : Group) : State :=
  let past (e : PathEntry) : Bool := match e.hold with
    | .barw k _ => (s.blocks.get? g.block).any fun b => e.barOver b k
    | _ => false
  let s := if g.paths.toList.any past then s.endWaits gid fun e => if past e then e.owe 1 else e else s
  let w := g.wretEnds
  if w.paths = g.paths then s else s.pathEvent gid g w

/-- A group with nothing in progress: an owed acquire begins (R239, R243), else an arrival that is due (R243, R245); a native
group stops for a pending fault before it arrives (R251). -/
def State.between (s : State) (gid : Nat) (g : Group) : State :=
  if g.home != .resident || g.mode != .run || g.order.isSome then s
  else match g.paths.toList.findSome? fun e => match e.kind, e.hold with | .path, .owed k => some k | _, _ => none with
    | some k => (s.endWaits gid fun e => if e.hold = .owed k ∧ e.kind = .path then { e with hold := .none } else e).startAcquire gid k 0
    | none =>
      match g.arrival with
      | some (scope, a) =>
        if a == .gbar && !((s.entities.get? (s.launchOf g)).any (·.gcount.isSome)) then s
        else if s.native g && !s.settled gid then s
        else if s.native g && s.pending gid g then s.updGroup gid Group.stopForFault
        else s.updGroup gid fun g => { g with
          order := some { acquire := false, scope := scope, path := 0, mark := s.nextOp, tick := s.gnomon, then_ := a } }
      | none =>
        if g.atRend then
          let pass := ((s.blocks.get? g.block).map (·.pass)).getD 0
          let s := s.updBlock g.block fun b => { b with rarrived := if b.rarrived.contains gid then b.rarrived else gid :: b.rarrived }
          s.endWaits gid fun e => if e.hold = .rend none then { e with hold := .rend (some pass) } else e
        else s

/-- A single-lane step that has issued a `bar` ends once its group arrives, or has no arrival due (19 R455): then the lane
halts at the `bar`. -/
def State.endBarStep (s : State) (gid : Nat) : State :=
  match s.groups.get? gid with
  | none => s
  | some g =>
    match (laneList g.hbar).head?.bind fun l => (g.pathOfLane l).map fun q => (q, l) with
    | none => s
    | some (q, l) =>
      let pc := (g.entryAt q).pc
      if g.order.any (·.then_ == .bar) then s.stepEnds gid g (1#16 <<< l.val) pc
      else if g.arrival == some (1, .bar) then s
      else s.stepEnds gid (g.updEntry q fun e => { e with hold := .none }) (1#16 <<< l.val) pc

/-- The groups with a wait of one of these kinds, after a step, and those whose path table is to be filled. -/
def State.settleGroups (s : State) : State :=
  s.groups.foldl (fun s e =>
    let s := if e.2.home = .resident ∧ e.2.mode = .run ∧ e.2.mustFill then s.pathEvent e.1 e.2 e.2 else s
    if e.2.home = .resident ∧ e.2.paths.toList.any (fun x => x.hold != .none) then
      let s := (s.groups.get? e.1).elim s (s.ownWaits e.1)
      let s := match s.groups.get? e.1 with
        | some g => s.between e.1 g
        | none => s
      if e.2.hbar ≠ 0 then s.endBarStep e.1 else s
    else s) s

/-! ### What follows an arrival's release -/

/-- Arrival at barrier 0 by `bar` (R243). -/
def State.barArrive (s : State) (gid : Nat) : State :=
  match s.groups.get? gid with
  | none => s
  | some g =>
    match s.blocks.get? g.block with
    | none => s
    | some b =>
      let s := s.updBlock g.block fun b => (b.updBar 0 fun x => x.arrive gid b.ngroups).settleBar 0
      s.endWaits gid fun e => if e.hold = .bar none then { e with hold := .bar (some (b.bar 0).gen) } else e

/-- Arrival by `barv`, whose token goes to s[d] (R242). -/
def State.barvArrive (s : State) (gid d k expected : Nat) : State :=
  match s.groups.get? gid with
  | none => s
  | some g =>
    match s.blocks.get? g.block with
    | none => s
    | some b =>
      let s := s.updBlock g.block fun b => (b.updBar k fun x => x.arrive gid expected).settleBar k
      s.updGroup gid fun g => g.setS (BitVec.ofNat 6 d) (BitVec.ofNat 32 (16 * (b.bar k).gen + k))

/-- Arrival at the grid barrier (R245). -/
def State.gbarArrive (s : State) (gid : Nat) : State :=
  match s.groups.get? gid with
  | none => s
  | some g =>
    let gen := ((s.entities.get? (s.launchOf g)).bind (·.gcount)).getD 0
    let s := s.updBlock g.block fun b => { b with garrived := if b.garrived.contains gid then b.garrived else gid :: b.garrived }
    s.endWaits gid fun e => if e.hold = .gbar none then { e with hold := .gbar (some gen) } else e

/-- The round of a region rises at the Orrery and at every slice (R249). -/
def State.raiseRound (s : State) (key : Nat) : State :=
  { s with regions := s.regions.upd key fun r => if r.counter < 2 ^ 64 - 1 then { r with counter := r.counter + 1 } else r }

/-- BEACON (R213; 18 R427): a core's observed round of a region rises to the region's counter. -/
def State.beaconStep (s : State) (core key : Nat) : State :=
  match s.regions.get? key with
  | some r => s.updCore core fun c => { c with obs := c.obs.upd key fun x => (max x.1 r.counter, x.2) }
  | none => s

end Sys2Proof.Machine
end

