-- ==== Sys2Proof/Machine/Matrix.lean ====
section
/-! DEFINITION. Accumulator tiles, tokens, matrix engines and the lending of dot arrays (10; 11 R302, R303). -/

namespace Sys2Proof.Machine

/-! ### Tiles (R252 to R258) -/

/-- The tile store's key of a line of a tile of a gang member. -/
def tileLineKey (member tile row : Nat) : Nat := member * 4096 + 16 * tile + row
/-- The key of a tile's token. -/
def tokenKey (member tile : Nat) : Nat := member * 256 + tile

/-- Tiles of a group's block (R252). -/
def State.tilesOf (s : State) (g : Group) : Nat := (s.descOf g).acc

/-- Whether every line of a tile is present (R276). -/
def Block.tilePresent (b : Block) (m t : Nat) : Bool := (List.range 16).all fun r => (b.tiles.get? (tileLineKey m t r)).isSome
/-- The data of a row of a tile. -/
def Block.tileRow (b : Block) (m t r : Nat) : Line := ((b.tiles.get? (tileLineKey m t r)).map (·.data)).getD 0
/-- The poisoned words of a row of a tile. -/
def Block.tilePoison (b : Block) (m t r : Nat) : Mask := ((b.tiles.get? (tileLineKey m t r)).map (·.poison)).getD 0

/-- One tile update: every row rewritten; with `clear` its words are no longer poisoned (21 R468). -/
def Block.setTile (b : Block) (m t : Nat) (rows : List Line) (clear : Bool) : Block :=
  { b with tiles := (List.range 16).foldl (fun ts r => ts.upd (tileLineKey m t r) fun x =>
      { x with data := rows.getD r 0, poison := if clear then 0 else x.poison }) b.tiles }

/-- The tile that an operation's tile entry names (R258). -/
def OpKind.entryTile : OpKind → Option Nat
  | .mma t .. => some t
  | .acczr t => some t
  | .accq t => some t
  | _ => none

/-- The tile that an accumulator move names. -/
def OpKind.moveTile : OpKind → Option Nat
  | .accld _ t => some t
  | .accst t _ => some t
  | _ => none

/-- The block and the token key of a tile of a group. -/
def State.tileId (s : State) (g : Group) (tile : Nat) : Nat × Nat := (g.block, tokenKey (s.memberOf g) tile)

/-- The tile of an operation's entry, as block and token key; a request withdrawn at a save has left tile order (R276). -/
def State.opTile (s : State) (o : Op) : Option (Nat × Nat) :=
  match o.kind.entryTile, s.groups.get? o.g with
  | some t, some g => if o.queued then none else some (s.tileId g t)
  | _, _ => none

/-- The block group index that holds a token. -/
def State.tokenOf (s : State) (id : Nat × Nat) : Option Nat := (s.blocks.get? id.1).bind fun b => b.tokens.get? id.2

/-- Whether a tile entry may begin (R258): no earlier entry of its tile is in force and no group holds the token. -/
def State.mayBegin (s : State) (id : Nat) (o : Op) : Bool :=
  match s.opTile o with
  | none => false
  | some x => (s.tokenOf x).isNone && s.ops.all fun e => decide (id ≤ e.1) || e.2.finished || s.opTile e.2 != some x

/-- The bay of a group (01 R12). -/
def Group.bay (g : Group) : Nat := g.slot / 64

/-! ### K-steps (R261, R262, R265) -/

/-- The types of `mma` (R264). -/
def mmaTypes : List Ty := [.e4m3, .e5m2, .e2m1, .mx8, .mx4, .f16, .bf16, .s8, .n8]
/-- The types of `xmma` (11 R302). -/
def xmmaTypes : List Ty := [.e4m3, .e5m2, .mx8, .e2m1, .mx4]

/-- Width of an operand element. -/
def mmaWidth (t : Ty) : Nat := if t = .e2m1 ∨ t = .mx4 then 4 else if t = .f16 ∨ t = .bf16 then 16 else 8
/-- Elements of a k-step (R265). -/
def mmaStepLen (t : Ty) : Nat := if mmaWidth t = 4 then 64 else 32
/-- K-steps of an entry (R265). -/
def mmaSteps (t : Ty) : Nat := if mmaWidth t = 16 then 6 else 12
/-- Registers of a scale run (R262). -/
def scaleRegs (t : Ty) : Nat := match t with | .mx8 => 3 | .mx4 => 6 | _ => 0

/-- Element k of a row of A or a column of B (R261). -/
def mmaElem (t : Ty) (row k : Nat) : Nat := row >>> (mmaWidth t * k) % 2 ^ mmaWidth t

/-- The value of element k under its block's scale (R262). -/
def mmaVal (t : Ty) (row scales k : Nat) : FV :=
  if t.scaled then blockVal (blockElem t) (scales >>> (8 * (k / 32)) % 256) (mmaElem t row k) else fval t (mmaElem t row k)

/-- One element after k-step n (R265). -/
def mmaStep (t : Ty) (a b sa sb n acc : Nat) : Nat :=
  let ks := (List.range (mmaStepLen t)).map (· + mmaStepLen t * n)
  if t.isInt then matrixStepInt acc (ks.map fun k => (intVal t (mmaElem t a k), intVal t (mmaElem t b k)))
  else matrixStep acc (ks.map fun k => (mmaVal t a sa k, mmaVal t b sb k))

/-- A row of the tile after k-step n. -/
def mmaRow (t : Ty) (a sa : Nat) (b sb : List Nat) (n : Nat) (row : Line) : Line :=
  lanesLine (Vector.ofFn fun c => BitVec.ofNat 32 (mmaStep t a (b.getD c.val 0) sa (sb.getD c.val 0) n ((lineLanes row)[c]).toNat))

/-- The rows of a tile after the next update of an entry (R265, R267). -/
def OpKind.update (k : OpKind) (n : Nat) (row : Nat → Line) : List Line :=
  match k with
  | .mma _ _ t a b sa sb => (List.range 16).map fun r => mmaRow t (a.getD r 0) (sa.getD r 0) b sb n (row r)
  | _ => List.replicate 16 0

/-- The updates of an entry. -/
def OpKind.updates : OpKind → Nat
  | .mma _ _ t .. => mmaSteps t
  | _ => 1

/-- The updates that an engine applies at a clock (the figures after R277): two k-steps at 8 and 4 bits, one at 16 (log 172). -/
def OpKind.perClock : OpKind → Nat
  | .mma _ _ t .. => if mmaWidth t = 16 then 1 else 2
  | _ => 1

/-- The lines of a tile in the tile store, as writes that a monitor compares (09 R237; R275). -/
def State.tileWrites (s : State) (bid m t : Nat) : List (Nat × Nat) :=
  (List.range 16).filterMap fun r =>
    ((s.blocks.get? bid).bind fun b => b.tiles.get? (tileLineKey m t r)).map fun x => (64 * x.half, 64)

/-- The next update of an entry applied at one tick: a write of the group, with the monitors that it wakes (R275). -/
def State.applyUpdate (s : State) (id : Nat) : State :=
  match s.ops.get? id with
  | none => s
  | some o =>
    match o.kind.entryTile, s.groups.get? o.g with
    | some t, some g =>
      let m := s.memberOf g
      let clear : Bool := match o.kind with | .acczr _ => true | _ => false
      ((s.updBlock g.block fun b => b.setTile m t (o.kind.update o.phase (b.tileRow m t)) clear).updOp id fun o =>
        { o with phase := o.phase + 1, ct := (s.gnomon, s.gnomon, s.gnomon) }).wakeMonitors (s.tileWrites g.block m t)
    | _, _ => s

/-! ### The engines (R272, R273) -/

/-- Whether an operation is an entry of a bay's engine queue, not yet ended; the one that the engine works on is (DESIGN CHOICE, log 191). -/
def State.inQueue (s : State) (core bay : Nat) (o : Op) : Bool :=
  !o.finished && (match o.kind with | .mma _ false .. => true | .acczr _ => true | _ => false) &&
  (match s.groups.get? o.g with | some g => g.core == core && g.bay == bay | none => false)

/-- Whether an operation is an entry of a bay's lending queue (11 R303). -/
def State.inLending (s : State) (core bay : Nat) (o : Op) : Bool :=
  !o.finished && (match o.kind with | .mma _ true .. => true | _ => false) &&
  (match s.groups.get? o.g with | some g => g.core == core && g.bay == bay | none => false)

/-- An entry's own priority, raised by its ageing; 3 while its group is being saved (R272, R276). -/
def State.agedPrio (s : State) (o : Op) : Nat :=
  if (s.groups.get? o.g).any (·.home == .saving) then 3 else min 3 (o.prio + o.aged)

/-- The effective priority (R272): also that of every later entry of the tile that waits in a queue. -/
def State.effPrio (s : State) (id : Nat) (o : Op) : Nat :=
  s.ops.foldl (fun p e =>
    let queued : Bool := match e.2.kind with | .mma .. => true | .acczr _ => true | _ => false
    if decide (id < e.1) && !e.2.finished && queued && s.opTile e.2 == s.opTile o then max p (s.agedPrio e.2) else p) (s.agedPrio o)

/-- Whether an entry's tile is in the tile store. -/
def State.entryReady (s : State) (o : Op) : Bool :=
  match o.kind.entryTile.or o.kind.moveTile, s.groups.get? o.g with
  | some t, some g => (s.blocks.get? g.block).any fun b => b.tilePresent (s.memberOf g) t
  | _, _ => false

/-- The entry that a bay's engine begins next, or switches to (R273): highest effective priority, then first in the
queue, of those whose tile is in the tile store (DESIGN CHOICE, log 190). -/
def State.engineChoice (s : State) (core bay : Nat) : Option Nat :=
  ((s.ops.filter fun e => s.inQueue core bay e.2 && s.mayBegin e.1 e.2 && s.entryReady e.2).foldl
    (fun (r : Option (Nat × Nat)) e =>
      let p := s.effPrio e.1 e.2
      match r with
      | none => some (e.1, p)
      | some (j, q) => if q < p then some (e.1, p) else some (j, q)) none).map (·.1)

/-- The entry an engine works on. -/
def State.engineAt (s : State) (core bay : Nat) : Option Nat :=
  if h : bay < 4 then ((s.core core).engines[bay]) else none
/-- An engine's entry set. -/
def State.setEngine (s : State) (core bay : Nat) (x : Option Nat) : State :=
  s.updCore core fun c => if h : bay < 4 then { c with engines := c.engines.set bay x } else c

/-- TILE_ENTRY_BEGIN (R258, R273) -/
def State.entryBegin (s : State) (core bay id : Nat) : State :=
  if (s.engineAt core bay).isNone && s.engineChoice core bay == some id then s.setEngine core bay (some id) else s

/-- A clock of an engine on an entry. -/
def State.engineClock (s : State) (id n : Nat) : State := (List.range n).foldl (fun s _ => s.applyUpdate id) s

/-- KSTEP_BOUNDARY (R265, R273): the k-steps of a clock are applied, and a strictly higher entry overtakes. -/
def State.kstep (s : State) (core bay : Nat) : State :=
  match s.engineAt core bay with
  | none => s
  | some id =>
    match s.ops.get? id with
    | none => s.setEngine core bay none
    | some o =>
      if o.phase + o.kind.perClock < o.kind.updates then
        let s := s.engineClock id o.kind.perClock
        match s.engineChoice core bay with
        | some j => if (s.ops.get? j).any fun x => s.effPrio id o < s.effPrio j x then s.setEngine core bay (some j) else s
        | none => s
      else s

/-- TILE_ENTRY_END (R258, R271): the last update, and MX may fall. -/
def State.entryEnd (s : State) (core bay : Nat) : State :=
  match s.engineAt core bay with
  | none => s
  | some id =>
    match s.ops.get? id with
    | none => s.setEngine core bay none
    | some o =>
      if o.phase + o.kind.perClock = o.kind.updates then
        ((s.engineClock id o.kind.perClock).setEngine core bay none).finishOp id
      else s

/-- Ticks of 4,096 clocks (18 R421: a clock is 1.25 ticks). -/
def agingTicks : Nat := 5120

/-- ENTRY_AGING (R272) -/
def State.entryAge (s : State) (id : Nat) : State :=
  match s.ops.get? id with
  | none => s
  | some o =>
    let queued : Bool := match o.kind with | .mma _ false .. => true | .acczr _ => true | _ => false
    let current := (s.groups.get? o.g).any fun g => s.engineAt g.core g.bay == some id
    if queued && !o.finished && !current && decide (o.prio + o.aged < 3 ∧ o.tick + agingTicks * (o.aged + 1) ≤ s.gnomon) then
      s.updOp id fun o => { o with aged := o.aged + 1 }
    else s

/-! ### Lending steps (11 R303) -/

/-- A sampler array's lending. -/
def State.lendAt (s : State) (core bay : Nat) : Lend := if h : bay < 4 then (s.core core).arrays[bay] else {}
/-- A sampler array's lending set. -/
def State.setLend (s : State) (core bay : Nat) (x : Lend) : State :=
  s.updCore core fun c => if h : bay < 4 then { c with arrays := c.arrays.set bay x } else c

/-- Whether a neural evaluation waits for a bay's dot array: any unfinished `smpn` of the bay counts, also one that still reads its
header, latents or weights; the spec does not say from when it waits (DESIGN CHOICE, log 175). -/
def State.neuralWaits (s : State) (core bay : Nat) : Bool :=
  s.ops.any fun e => !e.2.finished && (match e.2.kind with | .sample 4 _ _ _ => true | _ => false) &&
    (match s.groups.get? e.2.g with | some g => g.core == core && g.bay == bay | none => false)

/-- The earliest entry of a lending queue that may begin. -/
def State.lendChoice (s : State) (core bay : Nat) : Option Nat :=
  ((s.ops.filter fun e => s.inLending core bay e.2 && s.mayBegin e.1 e.2 && s.entryReady e.2).head?).map (·.1)

/-- LENDING_STEP_BEGIN -/
def State.lendBegin (s : State) (core bay id : Nat) : State :=
  let l := s.lendAt core bay
  if l.cur.isNone && s.lendChoice core bay == some id && (l.timer || !s.neuralWaits core bay) then
    s.setLend core bay { l with cur := some id }
  else s

/-- LENDING_STEP_END: 64 consecutive k are applied. -/
def State.lendEnd (s : State) (core bay : Nat) : State :=
  let l := s.lendAt core bay
  match l.cur with
  | none => s
  | some id =>
    let s := s.setLend core bay { cur := none, last := s.gnomon, timer := false }
    match s.ops.get? id with
    | none => s
    | some o =>
      let n := match o.kind with | .mma _ _ t .. => 64 / mmaStepLen t | _ => 1
      let s := s.engineClock id n
      if o.phase + n = o.kind.updates then s.finishOp id else s

/-- LENDING_TIMER: 1,024 clocks (1,280 ticks) since the array last completed a step. -/
def State.lendTimer (s : State) (core bay : Nat) : State :=
  let l := s.lendAt core bay
  if l.last + 1280 ≤ s.gnomon then s.setLend core bay { l with timer := true } else s

/-! ### Tokens and moves (R259, R260, R268, R269) -/

/-- Whether a group holds a tile's token, or has requested it by a pending `accq`. -/
def State.hasToken (s : State) (gid : Nat) (g : Group) (tile : Nat) : Bool :=
  s.tokenOf (s.tileId g tile) == some g.idx ||
  s.ops.any fun e => e.2.g == gid && !e.2.finished && (match e.2.kind with | .accq t => t == tile | _ => false)

/-- The token fault (R260). -/
def tokenFault (c : Iss) (detail tile : Nat) : Trap :=
  { cause := 0x20, detail := detail, val := BitVec.ofNat 32 tile, lanes := c.live }

/-- Check 7 of a matrix instruction (R264): convergence, then the token: `need` for accld, accst and accr, otherwise the
detail raised when the group has it. -/
def matrixCheck (c : Iss) (s : State) (tile : Nat) (need : Bool) (detail : Nat) : Option Trap :=
  if c.act ≠ 0xFFFF then some (convergence c)
  else if s.hasToken c.gid c.g tile = need then none
  else some (tokenFault c detail tile)

/-- A token request is over; one that entered tile order again after a save ends the request that the group issued with it
(R271, R276). -/
def State.requestOver (s : State) (id : Nat) (o : Op) : State :=
  let s := s.finishOp id
  if o.result = 0 then s else s.finishOp o.result

/-- TOKEN_GRANT (R258, R268); an ended group's request is withdrawn. -/
def State.grant (s : State) (id : Nat) : State :=
  match s.ops.get? id with
  | none => s
  | some o =>
    match o.kind, s.groups.get? o.g with
    | .accq t, some g =>
      if o.finished then s
      else if g.mode = .ended then s.requestOver id o
      else if s.mayBegin id o then
        (s.updBlock g.block fun b => { b with tokens := b.tokens.set (tokenKey (s.memberOf g) t) g.idx }).requestOver id o
      else s
    | _, _ => s

/-- Whether an operation is a token request that has not been granted. -/
def Op.requests (o : Op) : Bool := !o.finished && (match o.kind with | .accq _ => true | _ => false)

/-- The token requests of a group that a save withdrew from tile order, oldest first (R276). -/
def State.withdrawn (s : State) (gid : Nat) : List (Nat × Op) := s.ops.filter fun o => o.2.g == gid && o.2.requests && o.2.queued

/-- A group's pending token requests leave tile order as it is saved: the tile of the first is recorded, and each keeps its
place in the MX counter (R271, R276; log 146). -/
def State.withdraw (s : State) (gid : Nat) : State :=
  let again := (s.ops.filter fun o => o.2.g == gid && o.2.requests && o.2.result != 0).map (·.1)
  let s := { s with ops := (s.ops.keep fun k _ => !again.contains k).mapVals fun _ o =>
    if o.g = gid ∧ o.requests then { o with queued := true } else o }
  s.updGroup gid fun g => { g with qtile := (s.withdrawn gid).head?.bind (·.2.kind.entryTile) }

/-- A withdrawn request of a group enters tile order after every entry then present (R276): `old` is the request that it
issued, 0 when the image alone names one. -/
def State.request (s : State) (gid : Nat) (g : Group) (old tile : Nat) : State :=
  (s.addOp { g := gid, ctx := g.ctx, core := g.core, pc := 0, word := 0, path := 0, act := 0xFFFF, live := 0xFFFF, sup := g.sup,
             kind := .accq tile, tick := s.gnomon, writes := { t := [tile] }, prio := g.mprio, result := old }).1

/-- A resumed group's requests enter tile order again (R276): the first on the tile that its group-table entry names, or not
at all when that names none. -/
def State.requeue (s : State) (gid : Nat) (g : Group) : State :=
  let l := s.withdrawn gid
  let s := match l.head?, g.qtile with
    | some o, some t => s.request gid g o.1 t
    | some o, none => s.finishOp o.1
    | none, some t => s.request gid g 0 t
    | none, none => s
  let s := (l.drop 1).foldl (fun s o => s.request gid g o.1 (o.2.kind.entryTile.getD 0)) s
  s.updGroup gid fun g => { g with qtile := none }

/-- The tokens that a group holds and has no pending `accst` for return to the engine once it has ended (R268). -/
def State.returnTokens (s : State) (gid : Nat) (g : Group) : State :=
  let m := s.memberOf g
  let stores (t : Nat) : Bool := s.ops.any fun e =>
    e.2.g == gid && !e.2.finished && (match e.2.kind with | .accst u _ => u == t | _ => false)
  s.updBlock g.block fun b => { b with tokens := b.tokens.keep fun k x => !(k / 256 == m && x == g.idx) || stores (k % 256) }

/-- ACC_MOVE_DONE (R269, R275): the earlier moves of the tile come first; what an `accld` that a roll-back undid reads is
discarded (R277). -/
def State.accMove (s : State) (id : Nat) : State :=
  match s.ops.get? id with
  | none => s
  | some o =>
    match o.kind.moveTile, s.groups.get? o.g with
    | some t, some g =>
      let first := s.ops.all fun e => decide (id ≤ e.1) || e.2.finished || e.2.g != o.g || e.2.kind.moveTile != some t
      if o.finished || !first || !s.entryReady o then s
      else
        let m := s.memberOf g
        match o.kind, s.blocks.get? g.block with
        | .accst _ rows, _ =>
          let s := (((s.updBlock g.block fun b => b.setTile m t (rows.map (BitVec.ofNat 512)) true).updOp id fun o =>
            { o with ct := (s.gnomon, s.gnomon, s.gnomon) }).wakeMonitors (s.tileWrites g.block m t)).finishOp id
          if g.mode = .ended then s.returnTokens o.g g else s
        | .accld d _, some b =>
          if g.mode = .ended ∨ o.phase = 9 then s.finishOp id else
          let bad := (List.range 16).foldl (fun k r => k ||| b.tilePoison m t r) 0
          (s.preciseStop id o (if bad &&& o.act = 0 then none else
            some { cause := 0x31, detail := 2, val := o.word, lanes := bad &&& o.act, addr := some 0 })).getD <|
          let put (g : Group) : Group := (List.range 16).foldl (fun g r =>
            let p := b.tilePoison m t r
            (g.setV (BitVec.ofNat 8 (d + r)) (~~~p) fun c => (lineLanes (b.tileRow m t r))[c]).markV (d + r) 0xFFFF
              (if s.native g then p else 0)) g
          ((s.setGroup o.g (g.deliver id ((List.range 16).map (· + d)) put)).dataFault o bad 2 0 o.word).finishOp id
        | _, _ => s
    | _, _ => s

/-- A group that has ended gives back its tokens, its pins and its place in the block's barriers (R268; 09 R240; 11
R300); a token whose `accst` is pending returns after that has written, as by `accr` (State.accMove). -/
def State.groupEnded (s : State) (gid : Nat) (g : Group) : State :=
  let s := (s.returnTokens gid g).updBlock g.block fun b => ({ b with
    ended := if b.ended.contains gid then b.ended else gid :: b.ended } : Block).settleBars
  s.updCore g.core fun c => { c with wcache := c.wcache.map fun w => { w with pins := w.pins.filter (· != gid) } }

/-- Groups that have ended since the last step. -/
def State.settleEnded (s : State) : State :=
  s.groups.foldl (fun s e =>
    if e.2.mode = .ended ∧ (s.blocks.get? e.2.block).any (fun b => !b.ended.contains e.1) then s.groupEnded e.1 e.2 else s) s

/-- Counters whose oldest operation has finished fall (07 R177). -/
def State.settleFalls (s : State) : State :=
  s.ops.foldl (fun s e => match e.2.finished, e.2.cls with | true, some k => s.falls e.2.g k | _, _ => s) s

/-! ### Tile lines from the image (R276) -/

/-- The physical address of a byte of an image (16 R379; 18 R430); image lines are the device's own, at supervisor level. Those of a
page in a peer's memory are kept under their aperture address (DESIGN CHOICE, log 195). -/
def State.imagePa (s : State) (ctx va : Nat) (ask : Ask) : Except Nat Nat :=
  match s.resolveCp ctx true ask va with
  | .ok l => if l.mt ≠ 0 then .error 8 else .ok (if s.foreign (l.phys va) then l.phys va else ownPa (l.phys va))
  | .error d => .error d

/-- Whether a record of an image line's page awaits its answer. -/
def State.imageWaits (s : State) (ctx va kind : Nat) : Bool :=
  (s.ctx ctx).recs.any fun r => r.kind == kind && r.va / 65536 == va / 65536

/-- The parts of n bytes at va that lie in one 64 KiB page each: address and length. -/
def pageSpans (va n : Nat) : List (Nat × Nat) :=
  (List.range ((va + n - 1) / 65536 - va / 65536 + 1)).map fun k =>
    let lo := max va (65536 * (va / 65536 + k))
    (lo, min (va + n) (65536 * (va / 65536 + k + 1)) - lo)

/-- Parts of an image translated: physical address, offset from `base`, length; or the first that is refused, with its
detail. -/
def State.spansFrom (s : State) (ctx base : Nat) (ask : Ask) : List (Nat × Nat) → Except (Nat × Nat) (List (Nat × Nat × Nat))
  | [] => .ok []
  | (va, n) :: l =>
    match s.imagePa ctx va ask, s.spansFrom ctx base ask l with
    | .error d, _ => .error (va, d)
    | _, .error e => .error e
    | .ok pa, .ok r => .ok ((pa, va - base, n) :: r)

/-- n bytes of an image at va, page by page. -/
def State.imageSpans (s : State) (ctx va n : Nat) (ask : Ask) : Except (Nat × Nat) (List (Nat × Nat × Nat)) :=
  s.spansFrom ctx va ask (pageSpans va n)

/-- The tile lines of a block's accumulator images in memory, as far as they translate (10 R257). -/
def State.tileSpans (s : State) (ctx : Nat) (aibs : List Nat) (acc : Nat) : List (Nat × Nat × Nat) :=
  if acc = 0 then [] else (aibs.zipIdx).flatMap fun x =>
    match s.imageSpans ctx x.1 (1024 * acc) .read with
    | .ok l => l.map fun y => (y.1, 4096 * x.2 + y.2.1 / 64, y.2.2)
    | .error _ => []

/-- The bytes of an image's parts as a number. -/
def State.rdSpans (s : State) (l : List (Nat × Nat × Nat)) : Nat := (l.map fun x => s.rdMem x.1 x.2.2 <<< (8 * x.2.1)).sum
/-- The bytes of an image's parts written. -/
def State.wrSpans (s : State) (l : List (Nat × Nat × Nat)) (x : Nat) : State :=
  l.foldl (fun s y => s.wrImage y.1 y.2.2 (x >>> (8 * y.2.1))) s

/-- TILE_LINE_FILL (R276): line 16·T + r of a member's image arrives when it is first needed, since none is there as a block starts (DESIGN
CHOICE, log 192); a translation fault is posted as an image line's. -/
def State.tileFill (s : State) (bid member line : Nat) : State :=
  match s.blocks.get? bid with
  | none => s
  | some b =>
    let n := (s.blockDesc b).acc
    let key := member * 4096 + line
    if b.cores.length ≤ member ∨ 16 * n ≤ line ∨ (b.tiles.get? key).isSome then s
    else
      let va := b.aibs.getD member 0 + 64 * line
      match s.imagePa b.ctx va .read with
      | .ok pa =>
        let p : Mask := if (s.imagePoison (pa / 64)).isSome then 0xFFFF else 0
        s.updBlock bid fun b => { b with tiles := b.tiles.set key ⟨BitVec.ofNat 512 (s.rdMem pa 64), p, pa / 64⟩ }
      | .error d =>
        if s.imageWaits b.ctx va 0 then s
        else (s.postFault b.ctx { id := 0, va := va, kind := 0, src := 3, detail := d }).1

/-! ### Issue -/

/-- The registers of an operand run with its scale run (R261, R262). -/
def runRegs (t : Ty) (x : BitVec 8) : List Nat := (List.range (96 + scaleRegs t)).map (· + x.toNat)

/-- Row i of an operand run: 384 bytes (R261). -/
def Group.fragRow (g : Group) (x : BitVec 8) (i : Nat) : Nat :=
  packBits ((List.range 6).map fun j => (512, packBits ((List.finRange 16).map fun l => (32, (g.vget (x.toNat + 16 * j + i) l).toNat))))

/-- The scales of row i (R262). -/
def Group.fragScales (g : Group) (t : Ty) (x : BitVec 8) (i : Nat) : Nat :=
  packBits ((List.range (scaleRegs t)).map fun q => (32, (g.vget (x.toNat + 96 + q) (Fin.ofNat 16 i)).toNat))

/-- Whether a bay's engine queue, or with `lend` its lending queue, holds 16 entries (R272; 11 R303). -/
def State.queueFull (s : State) (g : Group) (lend : Bool) : Bool :=
  decide (16 ≤ (s.ops.filter fun e => if lend then s.inLending g.core g.bay e.2 else s.inQueue g.core g.bay e.2).length)

/-- The group that has the turn. -/
def State.curGroup (s : State) : Group := ((s.cur.bind fun x => s.groups.get? x.1)).getD {}

/-- What `mma`, `mmakb` and `xmma` name and need (R263, R264). -/
def useMma (s : State) (lend : Bool) (d a b : BitVec 8) : Use :=
  { vr := runRegs s.curTy a ++ runRegs s.curTy b
    tiles := [d.toNat]
    range := decide (s.tilesOf s.curGroup ≤ d.toNat) || a.toNat % 16 != 0 || b.toNat % 16 != 0
    types := some (if lend then xmmaTypes else mmaTypes)
    ext := if lend then some 5 else none
    cls := some 5, sink := true }

/-- An entry of the issuing group, added to the tile order. -/
def State.addEntry (s : State) (c : Iss) (k : OpKind) (w : RegSet) : State :=
  (s.addOp { c.op k (some 5) with prio := c.g.mprio, writes := w }).1

/-- The effect of `mma`, `mmakb` and `xmma` (R265, R266; 11 R302). -/
def mmaEff (lend : Bool) (d a b : BitVec 8) (c : Iss) (s : State) : Eff :=
  let t := mdType c.md
  if s.queueFull c.g lend then .stay
  else match matrixCheck c s d.toNat false 2 with
  | some t => .trap t
  | none =>
    let rows (x : BitVec 8) : List Nat := (List.range 16).map (c.g.fragRow x)
    let scales (x : BitVec 8) : List Nat := (List.range 16).map (c.g.fragScales t x)
    let g := if lend then c.g else { c.g with keptB := some (b.toNat, t.code) }
    .ok ((s.setGroup c.gid g).addEntry c (.mma d.toNat lend t (rows a) (rows b) (scales a) (scales b)) {}) []

/-- What an instruction that names only a tile needs (R263, R264). -/
def useTile (s : State) (d : BitVec 8) : Use :=
  { tiles := [d.toNat], range := decide (s.tilesOf s.curGroup ≤ d.toNat), cls := some 5, sink := true }

/-- The effect of `acczr` (R267). -/
def acczrEff (d : BitVec 8) (c : Iss) (s : State) : Eff :=
  if s.queueFull c.g false then .stay
  else match matrixCheck c s d.toNat false 2 with
  | some t => .trap t
  | none => .ok ((s.setGroup c.gid c.g).addEntry c (.acczr d.toNat) {}) []

/-- The effect of `accq` (R268). -/
def accqEff (d : BitVec 8) (c : Iss) (s : State) : Eff :=
  match matrixCheck c s d.toNat false 3 with
  | some t => .trap t
  | none => .ok ((s.setGroup c.gid c.g).addEntry c (.accq d.toNat) { t := [d.toNat] }) []

/-- The effect of `accr` (R268): the token returns; an `accld` of the tile in flight comes first. -/
def accrEff (d : BitVec 8) (c : Iss) (s : State) : Eff :=
  match matrixCheck c s d.toNat true 1 with
  | some t => .trap t
  | none =>
    if s.ops.any fun e => e.2.g == c.gid && !e.2.finished && e.2.kind.moveTile == some d.toNat then .stay
    else
      let x := s.tileId c.g d.toNat
      let (s, id) := (s.setGroup c.gid c.g).addOp (c.op (.accr d.toNat) (some 5))
      .ok ((s.updBlock x.1 fun b => { b with tokens := b.tokens.erase x.2 }).updOp id fun o => { o with finished := true }) []

/-- What `accld` and `accst` name and need. -/
def useMove (s : State) (store : Bool) (tile run : BitVec 8) : Use :=
  let rs := (List.range 16).map (· + run.toNat)
  { vr := if store then rs else []
    later := if store then {} else { v := rs }
    tiles := [tile.toNat]
    range := decide (s.tilesOf s.curGroup ≤ tile.toNat) || run.toNat % 16 != 0
    cls := some 5, sink := store, ownPoison := true }

/-- The effect of `accld` (R269): not a sink. -/
def accldEff (d a : BitVec 8) (c : Iss) (s : State) : Eff :=
  match matrixCheck c s a.toNat true 1 with
  | some t => .trap t
  | none => .ok ((s.setGroup c.gid c.g).addEntry c (.accld d.toNat a.toNat) { v := (List.range 16).map (· + d.toNat) }) []

/-- The effect of `accst` (R269). -/
def accstEff (d a : BitVec 8) (c : Iss) (s : State) : Eff :=
  match matrixCheck c s d.toNat true 1 with
  | some t => .trap t
  | none =>
    let rows := (List.range 16).map fun r => packBits ((List.finRange 16).map fun l => (32, (c.g.vget (a.toNat + r) l).toNat))
    .ok ((s.setGroup c.gid c.g).addEntry c (.accst d.toNat rows) { t := [d.toNat] }) []

/-- The effect of `mprio` (R270). -/
def mprioEff (a : BitVec 6) (c : Iss) : Group := if c.act = 0 then c.g else { c.g with mprio := (c.g.sreg a).toNat % 4 }

/-! ### The instructions -/

/-- mma (10 R265): a sink -/
def execMma (d : BitVec 8) (a : BitVec 8) (b : BitVec 8) (s : State) : Host.Outcome State Fault Refusal :=
  issue (W.mma d a b) (useMma s false d a b) (mmaEff false d a b) s

/-- mmakb (10 R266): a sink -/
def execMmakb (d : BitVec 8) (a : BitVec 8) (b : BitVec 8) (s : State) : Host.Outcome State Fault Refusal :=
  issue (W.mmakb d a b) (useMma s false d a b) (mmaEff false d a b) s

/-- xmma (11 R302): a sink -/
def execXmma (d : BitVec 8) (a : BitVec 8) (b : BitVec 8) (s : State) : Host.Outcome State Fault Refusal :=
  issue (W.xmma d a b) (useMma s true d a b) (mmaEff true d a b) s

/-- accq (10 R268): a sink -/
def execAccq (d : BitVec 8) (s : State) : Host.Outcome State Fault Refusal :=
  issue (W.accq d) (useTile s d) (accqEff d) s

/-- accr (10 R268): a sink -/
def execAccr (d : BitVec 8) (s : State) : Host.Outcome State Fault Refusal :=
  issue (W.accr d) (useTile s d) (accrEff d) s

/-- acczr (10 R267): a sink -/
def execAcczr (d : BitVec 8) (s : State) : Host.Outcome State Fault Refusal :=
  issue (W.acczr d) (useTile s d) (acczrEff d) s

/-- accld (10 R269) -/
def execAccld (d : BitVec 8) (a : BitVec 8) (s : State) : Host.Outcome State Fault Refusal :=
  issue (W.accld d a) (useMove s false a d) (accldEff d a) s

/-- accst (10 R269): a sink -/
def execAccst (d : BitVec 8) (a : BitVec 8) (s : State) : Host.Outcome State Fault Refusal :=
  issue (W.accst d a) (useMove s true d a) (accstEff d a) s

/-- mprio (10 R270) -/
def execMprio (a : BitVec 6) (s : State) : Host.Outcome State Fault Refusal :=
  issue (W.mprio a) { sr := [a.toNat], uniform := true } (groupEff (mprioEff a)) s

/-- TILE_ENTRY_BEGIN (10 R258, R273) -/
def execTileEntryBegin (core : Nat) (engine : Nat) (entry : Nat) (s : State) : Host.Outcome State Fault Refusal :=
  .next (s.entryBegin core engine entry)

/-- KSTEP_BOUNDARY (10 R273) -/
def execKstepBoundary (core : Nat) (engine : Nat) (s : State) : Host.Outcome State Fault Refusal :=
  .next (s.kstep core engine)

/-- TILE_ENTRY_END (10 R271) -/
def execTileEntryEnd (core : Nat) (engine : Nat) (s : State) : Host.Outcome State Fault Refusal :=
  .next (s.entryEnd core engine)

/-- TOKEN_GRANT (10 R268) -/
def execTokenGrant (op : Nat) (s : State) : Host.Outcome State Fault Refusal :=
  .next (s.grant op)

/-- ACC_MOVE_DONE (10 R269) -/
def execAccMoveDone (op : Nat) (s : State) : Host.Outcome State Fault Refusal :=
  .next (s.accMove op)

/-- ENTRY_AGING (10 R272) -/
def execEntryAging (op : Nat) (s : State) : Host.Outcome State Fault Refusal :=
  .next (s.entryAge op)

/-- LENDING_STEP_BEGIN (11 R303) -/
def execLendingStepBegin (core : Nat) (array : Nat) (entry : Nat) (s : State) : Host.Outcome State Fault Refusal :=
  .next (s.lendBegin core array entry)

/-- LENDING_STEP_END (11 R303) -/
def execLendingStepEnd (core : Nat) (array : Nat) (s : State) : Host.Outcome State Fault Refusal :=
  .next (s.lendEnd core array)

/-- LENDING_TIMER (11 R303) -/
def execLendingTimer (core : Nat) (array : Nat) (s : State) : Host.Outcome State Fault Refusal :=
  .next (s.lendTimer core array)

/-- TILE_LINE_FILL (10 R276) -/
def execTileLineFill (blk : Nat) (member : Nat) (line : Nat) (s : State) : Host.Outcome State Fault Refusal :=
  .next (s.tileFill blk member line)

end Sys2Proof.Machine
end

