-- ==== Sys2Proof/Machine/IntAlu.lean ====
section
/-! DEFINITION. Integer element, bitwise, carry, bit-field, select, compare and unary operations (05 R104 to R110). -/

namespace Sys2Proof.Machine

/-- The integer binary operations (R104). -/
inductive IntOp where
  | add | sub | mul | mulh | mad | min | max | shl | shr | sra | rotl
  deriving DecidableEq, Repr

/-- The types an operation takes (R104). -/
def IntOp.types : IntOp → List Ty
  | .mul | .mulh | .mad | .rotl => narrowInt
  | _ => allInt

/-- The element result of R104, from the patterns of a, b and, for mad, d. -/
def intEl (op : IntOp) (t : Ty) (sat : Bool) (a b d : Nat) : Nat :=
  let w := t.width
  let x := intVal t a
  let y := intVal t b
  let n := b % 2 ^ w % w
  match op with
  | .add => fitInt sat t (x + y)
  | .sub => fitInt sat t (x - y)
  | .mul => fitInt sat t (x * y)
  | .mulh => wrapInt t (x * y / 2 ^ w)
  | .mad => fitInt sat t (x * y + intVal t d)
  | .min => if x ≤ y then a else b
  | .max => if x ≤ y then b else a
  | .shl => (a <<< n) % 2 ^ w
  | .shr => (a % 2 ^ w) >>> n
  | .sra => (((if a % 2 ^ w < 2 ^ (w - 1) then (a % 2 ^ w : Int) else (a % 2 ^ w : Int) - 2 ^ w) / 2 ^ n) % 2 ^ w).toNat
  | .rotl => ((a % 2 ^ w) <<< n ||| (a % 2 ^ w) >>> (w - n)) % 2 ^ w

/-- A lane of R104: each element on its own (R99). -/
def intLane (op : IntOp) (t : Ty) (sat : Bool) (a b d : Nat) : Nat :=
  mapElems t fun i => intEl op t sat (elem t a i) (elem t b i) (elem t d i)

/-- What an integer binary operation names and needs; under an s64 mode its operands are s64 operands (log 149). -/
def IntOp.use (op : IntOp) (t : Ty) (d a : BitVec 8) (b : BOp) : Use :=
  { useV t d [a] b (op == .mad) with types := some op.types }

/-- The effect of R104 on the group. -/
def IntOp.eff (op : IntOp) (d a : BitVec 8) (b : BOp) (c : Iss) : Group :=
  let t := mdType c.md
  c.g.setLanes t d c.act fun l =>
    intLane op t (mdSat c.md) (c.g.laneVal t a l) (b.laneVal c.g t l) (c.g.laneVal t d l)

/-- An integer binary operation (R104). -/
def intOp (op : IntOp) (i : IWord) (d a : BitVec 8) (b : BOp) (s : State) : Host.Outcome State Fault Refusal :=
  issue i (op.use s.curTy d a b) (groupEff (op.eff d a b)) s

/-- The bitwise operations (R105). -/
inductive BitOp where
  | and | or | xor | andn
  deriving DecidableEq, Repr

/-- The lane result of R105. -/
def bitLane (op : BitOp) (a b : Word) : Word :=
  match op with
  | .and => a &&& b
  | .or => a ||| b
  | .xor => a ^^^ b
  | .andn => a &&& ~~~b

/-- The effect of a lane-wise 32-bit operation. -/
def lane32Eff (f : Word → Word → Word) (d a : BitVec 8) (b : BOp) (c : Iss) : Group :=
  c.g.setV d c.act fun l => f (c.g.vlane a l) (b.lane32 c.g l)

/-- A bitwise operation (R105): it ignores type. -/
def bitOp (op : BitOp) (i : IWord) (d a : BitVec 8) (b : BOp) (s : State) : Host.Outcome State Fault Refusal :=
  issue i (useV .n32 d [a] b) (groupEff (lane32Eff (bitLane op) d a b)) s

/-- The sum or difference with carry of a lane (R106), 33 bits for addc, 64 for subb. -/
def carryLane (sub : Bool) (a b : Word) (c : Bool) : Nat :=
  let k := if c then 1 else 0
  if sub then (a.toNat + 2 ^ 64 - b.toNat - k) % 2 ^ 64 else a.toNat + b.toNat + k

/-- The effect of addc and subb (R106): the result, and the carry or borrow into p7. -/
def carryEff (sub : Bool) (d a : BitVec 8) (b : BOp) (c : Iss) : Group :=
  let x (l : Fin 16) : Nat := carryLane sub (c.g.vlane a l) (b.lane32 c.g l) (lane (c.g.pred 7) l)
  (c.g.setV d c.act fun l => BitVec.ofNat 32 (x l)).setPLanes 7 c.act
    (maskOf fun l => (x l).testBit (if sub then 63 else 32))

/-- addc and subb (R106). -/
def carryOp (sub : Bool) (i : IWord) (d a : BitVec 8) (b : BOp) (s : State) : Host.Outcome State Fault Refusal :=
  issue i { useV .n32 d [a] b with pr := [7], pw := [7] } (groupEff (carryEff sub d a b)) s

/-- The position and length of R107. -/
def fieldPos (b : Word) : Nat × Nat := (bits b.toNat 4 0, min (bits b.toNat 13 8) (32 - bits b.toNat 4 0))

/-- The lane of bfx (R107). -/
def bfxLane (signed : Bool) (a b : Word) : Word :=
  let (pos, len) := fieldPos b
  let f := a.toNat / 2 ^ pos % 2 ^ len
  if len = 0 then 0
  else if signed && f.testBit (len - 1) then BitVec.ofNat 32 (2 ^ 32 - 2 ^ len + f) else BitVec.ofNat 32 f

/-- The lane of bfi (R107). -/
def bfiLane (d a b : Word) : Word :=
  let (pos, len) := fieldPos b
  let m := (2 ^ len - 1) * 2 ^ pos
  BitVec.ofNat 32 ((d.toNat &&& (2 ^ 32 - 1 - m)) ||| ((a.toNat % 2 ^ len) * 2 ^ pos))

/-- bfx (R107): s32 and n32. -/
def bfxOp (i : IWord) (d a : BitVec 8) (b : BOp) (s : State) : Host.Outcome State Fault Refusal :=
  issue i { useV .n32 d [a] b with types := some [.s32, .n32] }
    (groupEff fun c => lane32Eff (bfxLane (mdType c.md == .s32)) d a b c) s

/-- The effect of bfi (R107). -/
def bfiEff (d a : BitVec 8) (b : BOp) (c : Iss) : Group :=
  c.g.setV d c.act fun l => bfiLane (c.g.vlane d l) (c.g.vlane a l) (b.lane32 c.g l)

/-- bfi (R107): it ignores type and reads D. -/
def bfiOp (i : IWord) (d a : BitVec 8) (b : BOp) (s : State) : Host.Outcome State Fault Refusal :=
  issue i (useV .n32 d [a] b true) (groupEff (bfiEff d a b)) s

/-- The effect of sel (R108): every live lane, by p[MD.gp] and MD.gs. -/
def selEff (d a : BitVec 8) (b : BOp) (c : Iss) : Group :=
  c.g.setV d c.live fun l =>
    if lane (c.g.pred (mdGp c.md)) l != mdGs c.md then c.g.vlane a l else b.lane32 c.g l

/-- sel (R108): it does not apply the guard. -/
def selOp (i : IWord) (d a : BitVec 8) (b : BOp) (s : State) : Host.Outcome State Fault Refusal :=
  issue i { useV .n32 d [a] b with guard := false, pr := [(mdGp s.curMd).toNat] } (groupEff (selEff d a b)) s

/-- What a compare of vectors into a predicate names. -/
def useCmp (t : Ty) (d : BitVec 3) (a : BitVec 8) (b : BOp) : Use :=
  { useV t a [a] b with vw := [], pw := [d.toNat] }

/-- The effect of a compare (R109, R114, R115): bit l of p[D] for each active lane. -/
def cmpEff (d : BitVec 3) (f : Iss → Fin 16 → Bool) (c : Iss) : Group :=
  c.g.setPLanes d c.act (maskOf (f c))

/-- Whether lane l of an integer compare holds (R109). -/
def intCmp (lt : Bool) (a : BitVec 8) (b : BOp) (c : Iss) (l : Fin 16) : Bool :=
  let t := mdType c.md
  let x := intVal t (c.g.laneVal t a l)
  let y := intVal t (b.laneVal c.g t l)
  if lt then x < y else x == y

/-- cmp.eq and cmp.lt (R109). -/
def cmpOp (lt : Bool) (i : IWord) (d : BitVec 3) (a : BitVec 8) (b : BOp) (s : State) : Host.Outcome State Fault Refusal :=
  issue i { useCmp s.curTy d a b with types := some [.s32, .n32, .s64] } (groupEff (cmpEff d (intCmp lt a b))) s

/-- The effect of a unary 32-bit function. -/
def unary32Eff (f : Word → Word) (d a : BitVec 8) (c : Iss) : Group := c.g.setV d c.act fun l => f (c.g.vlane a l)

/-- not, clz, popc, brev (R110): they ignore type. -/
def unary32 (i : IWord) (f : Word → Word) (d a : BitVec 8) (s : State) : Host.Outcome State Fault Refusal :=
  issue i (useV .n32 d [a] (.lit 0)) (groupEff (unary32Eff f d a)) s

/-- clz (R110) -/
def clzLane (a : Word) : Word := if a = 0 then 32 else BitVec.ofNat 32 (31 - Nat.log2 a.toNat)
/-- popc (R110) -/
def popcLane (a : Word) : Word := BitVec.ofNat 32 ((List.range 32).filter a.getLsbD).length
/-- brev (R110) -/
def brevLane (a : Word) : Word := BitVec.ofFnLE fun k : Fin 32 => a.getLsbD (31 - k.val)

/-- The effect of abs and neg (R110). -/
def absNegEff (neg : Bool) (d a : BitVec 8) (c : Iss) : Group :=
  let t := mdType c.md
  c.g.setLanes t d c.act fun l => mapElems t fun i =>
    let x := intVal t (elem t (c.g.laneVal t a l) i)
    fitInt (mdSat c.md) t (if neg then -x else x.natAbs)

/-- abs and neg (R110). -/
def absNeg (neg : Bool) (i : IWord) (d a : BitVec 8) (s : State) : Host.Outcome State Fault Refusal :=
  issue i { useV s.curTy d [a] (.lit 0) with types := some [.s32, .s16, .s8, .s64] } (groupEff (absNegEff neg d a)) s

/-- add (R104) -/
def execAddReg (d : BitVec 8) (a : BitVec 8) (b : BitVec 8) (s : State) : Host.Outcome State Fault Refusal :=
  intOp .add (W.addReg d a b) d a (.vec b) s
/-- add (R104) -/
def execAddScb (d : BitVec 8) (a : BitVec 8) (b : BitVec 6) (s : State) : Host.Outcome State Fault Refusal :=
  intOp .add (W.addScb d a b) d a (.sreg b) s
/-- add (R104) -/
def execAddLit (d : BitVec 8) (a : BitVec 8) (k : BitVec 32) (s : State) : Host.Outcome State Fault Refusal :=
  intOp .add (W.addLit d a k) d a (.lit k) s
/-- sub (R104) -/
def execSubReg (d : BitVec 8) (a : BitVec 8) (b : BitVec 8) (s : State) : Host.Outcome State Fault Refusal :=
  intOp .sub (W.subReg d a b) d a (.vec b) s
/-- sub (R104) -/
def execSubScb (d : BitVec 8) (a : BitVec 8) (b : BitVec 6) (s : State) : Host.Outcome State Fault Refusal :=
  intOp .sub (W.subScb d a b) d a (.sreg b) s
/-- sub (R104) -/
def execSubLit (d : BitVec 8) (a : BitVec 8) (k : BitVec 32) (s : State) : Host.Outcome State Fault Refusal :=
  intOp .sub (W.subLit d a k) d a (.lit k) s
/-- mul (R104) -/
def execMulReg (d : BitVec 8) (a : BitVec 8) (b : BitVec 8) (s : State) : Host.Outcome State Fault Refusal :=
  intOp .mul (W.mulReg d a b) d a (.vec b) s
/-- mul (R104) -/
def execMulScb (d : BitVec 8) (a : BitVec 8) (b : BitVec 6) (s : State) : Host.Outcome State Fault Refusal :=
  intOp .mul (W.mulScb d a b) d a (.sreg b) s
/-- mul (R104) -/
def execMulLit (d : BitVec 8) (a : BitVec 8) (k : BitVec 32) (s : State) : Host.Outcome State Fault Refusal :=
  intOp .mul (W.mulLit d a k) d a (.lit k) s
/-- mulh (R104) -/
def execMulhReg (d : BitVec 8) (a : BitVec 8) (b : BitVec 8) (s : State) : Host.Outcome State Fault Refusal :=
  intOp .mulh (W.mulhReg d a b) d a (.vec b) s
/-- mulh (R104) -/
def execMulhScb (d : BitVec 8) (a : BitVec 8) (b : BitVec 6) (s : State) : Host.Outcome State Fault Refusal :=
  intOp .mulh (W.mulhScb d a b) d a (.sreg b) s
/-- mulh (R104) -/
def execMulhLit (d : BitVec 8) (a : BitVec 8) (k : BitVec 32) (s : State) : Host.Outcome State Fault Refusal :=
  intOp .mulh (W.mulhLit d a k) d a (.lit k) s
/-- mad (R104) -/
def execMadReg (d : BitVec 8) (a : BitVec 8) (b : BitVec 8) (s : State) : Host.Outcome State Fault Refusal :=
  intOp .mad (W.madReg d a b) d a (.vec b) s
/-- mad (R104) -/
def execMadScb (d : BitVec 8) (a : BitVec 8) (b : BitVec 6) (s : State) : Host.Outcome State Fault Refusal :=
  intOp .mad (W.madScb d a b) d a (.sreg b) s
/-- mad (R104) -/
def execMadLit (d : BitVec 8) (a : BitVec 8) (k : BitVec 32) (s : State) : Host.Outcome State Fault Refusal :=
  intOp .mad (W.madLit d a k) d a (.lit k) s
/-- min (R104) -/
def execMinReg (d : BitVec 8) (a : BitVec 8) (b : BitVec 8) (s : State) : Host.Outcome State Fault Refusal :=
  intOp .min (W.minReg d a b) d a (.vec b) s
/-- min (R104) -/
def execMinScb (d : BitVec 8) (a : BitVec 8) (b : BitVec 6) (s : State) : Host.Outcome State Fault Refusal :=
  intOp .min (W.minScb d a b) d a (.sreg b) s
/-- min (R104) -/
def execMinLit (d : BitVec 8) (a : BitVec 8) (k : BitVec 32) (s : State) : Host.Outcome State Fault Refusal :=
  intOp .min (W.minLit d a k) d a (.lit k) s
/-- max (R104) -/
def execMaxReg (d : BitVec 8) (a : BitVec 8) (b : BitVec 8) (s : State) : Host.Outcome State Fault Refusal :=
  intOp .max (W.maxReg d a b) d a (.vec b) s
/-- max (R104) -/
def execMaxScb (d : BitVec 8) (a : BitVec 8) (b : BitVec 6) (s : State) : Host.Outcome State Fault Refusal :=
  intOp .max (W.maxScb d a b) d a (.sreg b) s
/-- max (R104) -/
def execMaxLit (d : BitVec 8) (a : BitVec 8) (k : BitVec 32) (s : State) : Host.Outcome State Fault Refusal :=
  intOp .max (W.maxLit d a k) d a (.lit k) s
/-- shl (R104) -/
def execShlReg (d : BitVec 8) (a : BitVec 8) (b : BitVec 8) (s : State) : Host.Outcome State Fault Refusal :=
  intOp .shl (W.shlReg d a b) d a (.vec b) s
/-- shl (R104) -/
def execShlScb (d : BitVec 8) (a : BitVec 8) (b : BitVec 6) (s : State) : Host.Outcome State Fault Refusal :=
  intOp .shl (W.shlScb d a b) d a (.sreg b) s
/-- shl (R104) -/
def execShlLit (d : BitVec 8) (a : BitVec 8) (k : BitVec 32) (s : State) : Host.Outcome State Fault Refusal :=
  intOp .shl (W.shlLit d a k) d a (.lit k) s
/-- shr (R104) -/
def execShrReg (d : BitVec 8) (a : BitVec 8) (b : BitVec 8) (s : State) : Host.Outcome State Fault Refusal :=
  intOp .shr (W.shrReg d a b) d a (.vec b) s
/-- shr (R104) -/
def execShrScb (d : BitVec 8) (a : BitVec 8) (b : BitVec 6) (s : State) : Host.Outcome State Fault Refusal :=
  intOp .shr (W.shrScb d a b) d a (.sreg b) s
/-- shr (R104) -/
def execShrLit (d : BitVec 8) (a : BitVec 8) (k : BitVec 32) (s : State) : Host.Outcome State Fault Refusal :=
  intOp .shr (W.shrLit d a k) d a (.lit k) s
/-- sra (R104) -/
def execSraReg (d : BitVec 8) (a : BitVec 8) (b : BitVec 8) (s : State) : Host.Outcome State Fault Refusal :=
  intOp .sra (W.sraReg d a b) d a (.vec b) s
/-- sra (R104) -/
def execSraScb (d : BitVec 8) (a : BitVec 8) (b : BitVec 6) (s : State) : Host.Outcome State Fault Refusal :=
  intOp .sra (W.sraScb d a b) d a (.sreg b) s
/-- sra (R104) -/
def execSraLit (d : BitVec 8) (a : BitVec 8) (k : BitVec 32) (s : State) : Host.Outcome State Fault Refusal :=
  intOp .sra (W.sraLit d a k) d a (.lit k) s
/-- rotl (R104) -/
def execRotlReg (d : BitVec 8) (a : BitVec 8) (b : BitVec 8) (s : State) : Host.Outcome State Fault Refusal :=
  intOp .rotl (W.rotlReg d a b) d a (.vec b) s
/-- rotl (R104) -/
def execRotlScb (d : BitVec 8) (a : BitVec 8) (b : BitVec 6) (s : State) : Host.Outcome State Fault Refusal :=
  intOp .rotl (W.rotlScb d a b) d a (.sreg b) s
/-- rotl (R104) -/
def execRotlLit (d : BitVec 8) (a : BitVec 8) (k : BitVec 32) (s : State) : Host.Outcome State Fault Refusal :=
  intOp .rotl (W.rotlLit d a k) d a (.lit k) s
/-- and (R105) -/
def execAndReg (d : BitVec 8) (a : BitVec 8) (b : BitVec 8) (s : State) : Host.Outcome State Fault Refusal :=
  bitOp .and (W.andReg d a b) d a (.vec b) s
/-- and (R105) -/
def execAndScb (d : BitVec 8) (a : BitVec 8) (b : BitVec 6) (s : State) : Host.Outcome State Fault Refusal :=
  bitOp .and (W.andScb d a b) d a (.sreg b) s
/-- and (R105) -/
def execAndLit (d : BitVec 8) (a : BitVec 8) (k : BitVec 32) (s : State) : Host.Outcome State Fault Refusal :=
  bitOp .and (W.andLit d a k) d a (.lit k) s
/-- or (R105) -/
def execOrReg (d : BitVec 8) (a : BitVec 8) (b : BitVec 8) (s : State) : Host.Outcome State Fault Refusal :=
  bitOp .or (W.orReg d a b) d a (.vec b) s
/-- or (R105) -/
def execOrScb (d : BitVec 8) (a : BitVec 8) (b : BitVec 6) (s : State) : Host.Outcome State Fault Refusal :=
  bitOp .or (W.orScb d a b) d a (.sreg b) s
/-- or (R105) -/
def execOrLit (d : BitVec 8) (a : BitVec 8) (k : BitVec 32) (s : State) : Host.Outcome State Fault Refusal :=
  bitOp .or (W.orLit d a k) d a (.lit k) s
/-- xor (R105) -/
def execXorReg (d : BitVec 8) (a : BitVec 8) (b : BitVec 8) (s : State) : Host.Outcome State Fault Refusal :=
  bitOp .xor (W.xorReg d a b) d a (.vec b) s
/-- xor (R105) -/
def execXorScb (d : BitVec 8) (a : BitVec 8) (b : BitVec 6) (s : State) : Host.Outcome State Fault Refusal :=
  bitOp .xor (W.xorScb d a b) d a (.sreg b) s
/-- xor (R105) -/
def execXorLit (d : BitVec 8) (a : BitVec 8) (k : BitVec 32) (s : State) : Host.Outcome State Fault Refusal :=
  bitOp .xor (W.xorLit d a k) d a (.lit k) s
/-- andn (R105) -/
def execAndnReg (d : BitVec 8) (a : BitVec 8) (b : BitVec 8) (s : State) : Host.Outcome State Fault Refusal :=
  bitOp .andn (W.andnReg d a b) d a (.vec b) s
/-- andn (R105) -/
def execAndnScb (d : BitVec 8) (a : BitVec 8) (b : BitVec 6) (s : State) : Host.Outcome State Fault Refusal :=
  bitOp .andn (W.andnScb d a b) d a (.sreg b) s
/-- andn (R105) -/
def execAndnLit (d : BitVec 8) (a : BitVec 8) (k : BitVec 32) (s : State) : Host.Outcome State Fault Refusal :=
  bitOp .andn (W.andnLit d a k) d a (.lit k) s
/-- addc (R106) -/
def execAddcReg (d : BitVec 8) (a : BitVec 8) (b : BitVec 8) (s : State) : Host.Outcome State Fault Refusal :=
  carryOp false (W.addcReg d a b) d a (.vec b) s
/-- addc (R106) -/
def execAddcScb (d : BitVec 8) (a : BitVec 8) (b : BitVec 6) (s : State) : Host.Outcome State Fault Refusal :=
  carryOp false (W.addcScb d a b) d a (.sreg b) s
/-- addc (R106) -/
def execAddcLit (d : BitVec 8) (a : BitVec 8) (k : BitVec 32) (s : State) : Host.Outcome State Fault Refusal :=
  carryOp false (W.addcLit d a k) d a (.lit k) s
/-- subb (R106) -/
def execSubbReg (d : BitVec 8) (a : BitVec 8) (b : BitVec 8) (s : State) : Host.Outcome State Fault Refusal :=
  carryOp true (W.subbReg d a b) d a (.vec b) s
/-- subb (R106) -/
def execSubbScb (d : BitVec 8) (a : BitVec 8) (b : BitVec 6) (s : State) : Host.Outcome State Fault Refusal :=
  carryOp true (W.subbScb d a b) d a (.sreg b) s
/-- subb (R106) -/
def execSubbLit (d : BitVec 8) (a : BitVec 8) (k : BitVec 32) (s : State) : Host.Outcome State Fault Refusal :=
  carryOp true (W.subbLit d a k) d a (.lit k) s
/-- bfx (R107) -/
def execBfxReg (d : BitVec 8) (a : BitVec 8) (b : BitVec 8) (s : State) : Host.Outcome State Fault Refusal :=
  bfxOp (W.bfxReg d a b) d a (.vec b) s
/-- bfx (R107) -/
def execBfxScb (d : BitVec 8) (a : BitVec 8) (b : BitVec 6) (s : State) : Host.Outcome State Fault Refusal :=
  bfxOp (W.bfxScb d a b) d a (.sreg b) s
/-- bfx (R107) -/
def execBfxLit (d : BitVec 8) (a : BitVec 8) (k : BitVec 32) (s : State) : Host.Outcome State Fault Refusal :=
  bfxOp (W.bfxLit d a k) d a (.lit k) s
/-- bfi (R107) -/
def execBfiReg (d : BitVec 8) (a : BitVec 8) (b : BitVec 8) (s : State) : Host.Outcome State Fault Refusal :=
  bfiOp (W.bfiReg d a b) d a (.vec b) s
/-- bfi (R107) -/
def execBfiScb (d : BitVec 8) (a : BitVec 8) (b : BitVec 6) (s : State) : Host.Outcome State Fault Refusal :=
  bfiOp (W.bfiScb d a b) d a (.sreg b) s
/-- bfi (R107) -/
def execBfiLit (d : BitVec 8) (a : BitVec 8) (k : BitVec 32) (s : State) : Host.Outcome State Fault Refusal :=
  bfiOp (W.bfiLit d a k) d a (.lit k) s
/-- sel (R108) -/
def execSelReg (d : BitVec 8) (a : BitVec 8) (b : BitVec 8) (s : State) : Host.Outcome State Fault Refusal :=
  selOp (W.selReg d a b) d a (.vec b) s
/-- sel (R108) -/
def execSelScb (d : BitVec 8) (a : BitVec 8) (b : BitVec 6) (s : State) : Host.Outcome State Fault Refusal :=
  selOp (W.selScb d a b) d a (.sreg b) s
/-- sel (R108) -/
def execSelLit (d : BitVec 8) (a : BitVec 8) (k : BitVec 32) (s : State) : Host.Outcome State Fault Refusal :=
  selOp (W.selLit d a k) d a (.lit k) s
/-- cmp.eq (R109) -/
def execCmpEqReg (d : BitVec 3) (a : BitVec 8) (b : BitVec 8) (s : State) : Host.Outcome State Fault Refusal :=
  cmpOp false (W.cmpEqReg d a b) d a (.vec b) s
/-- cmp.eq (R109) -/
def execCmpEqScb (d : BitVec 3) (a : BitVec 8) (b : BitVec 6) (s : State) : Host.Outcome State Fault Refusal :=
  cmpOp false (W.cmpEqScb d a b) d a (.sreg b) s
/-- cmp.eq (R109) -/
def execCmpEqLit (d : BitVec 3) (a : BitVec 8) (k : BitVec 32) (s : State) : Host.Outcome State Fault Refusal :=
  cmpOp false (W.cmpEqLit d a k) d a (.lit k) s
/-- cmp.lt (R109) -/
def execCmpLtReg (d : BitVec 3) (a : BitVec 8) (b : BitVec 8) (s : State) : Host.Outcome State Fault Refusal :=
  cmpOp true (W.cmpLtReg d a b) d a (.vec b) s
/-- cmp.lt (R109) -/
def execCmpLtScb (d : BitVec 3) (a : BitVec 8) (b : BitVec 6) (s : State) : Host.Outcome State Fault Refusal :=
  cmpOp true (W.cmpLtScb d a b) d a (.sreg b) s
/-- cmp.lt (R109) -/
def execCmpLtLit (d : BitVec 3) (a : BitVec 8) (k : BitVec 32) (s : State) : Host.Outcome State Fault Refusal :=
  cmpOp true (W.cmpLtLit d a k) d a (.lit k) s
/-- abs (R110) -/
def execAbs (d a : BitVec 8) (s : State) : Host.Outcome State Fault Refusal :=
  absNeg false (W.abs d a) d a s
/-- neg (R110) -/
def execNeg (d a : BitVec 8) (s : State) : Host.Outcome State Fault Refusal :=
  absNeg true (W.neg d a) d a s
/-- not (R110) -/
def execNotB (d a : BitVec 8) (s : State) : Host.Outcome State Fault Refusal :=
  unary32 (W.notB d a) (~~~·) d a s
/-- clz (R110) -/
def execClz (d a : BitVec 8) (s : State) : Host.Outcome State Fault Refusal :=
  unary32 (W.clz d a) clzLane d a s
/-- popc (R110) -/
def execPopc (d a : BitVec 8) (s : State) : Host.Outcome State Fault Refusal :=
  unary32 (W.popc d a) popcLane d a s
/-- brev (R110) -/
def execBrev (d a : BitVec 8) (s : State) : Host.Outcome State Fault Refusal :=
  unary32 (W.brev d a) brevLane d a s

end Sys2Proof.Machine
end

