-- ==== Sys2Proof/Machine/FpAlu.lean ====
section
/-! DEFINITION. Floating-point element operations, compares, classes, unary functions and dot products (05 R111 to R117,
R122). -/

namespace Sys2Proof.Machine

/-- The binary floating-point operations (R111). -/
inductive FpOp where
  | add | sub | mul | fma | min | max
  deriving DecidableEq, Repr

/-- fmin and fmax (R113): the chosen operand; a NaN only when both are. -/
def minMaxRes (less : Bool) (a b : FV) : FV :=
  if a = .nan then b else if b = .nan then a
  else if less then (if fvBelow b a then b else a) else (if fvBelow a b then b else a)

/-- A value as an unrounded result. -/
def FV.res : FV → FRes
  | .nan => .nan 0
  | .inf s => .inf s 0
  | .fin s n e => exactOf s n e

/-- The exact element result of R111 to R113 of inputs after R77. -/
def fpExact (op : FpOp) (rnd : Nat) (a b d : FV) : FRes :=
  match op with
  | .add => fvAdd rnd a b
  | .sub => fvAdd rnd a b.neg
  | .mul => fvMul a b
  | .fma => fvFma rnd a b d
  | .min => (minMaxRes true a b).res
  | .max => (minMaxRes false a b).res

/-- The element result of R111 to R113 with its flags: `In`, the exact operation, `Out`. -/
def fpEl (op : FpOp) (t : Ty) (rnd : Nat) (ftz : Bool) (q a b d : Nat) : Nat × Flags :=
  let (x, f) := finput ftz t a
  let (y, f') := finput ftz t b
  let (z, f'') := if op = .fma then finput ftz t d else (.nan, 0)
  let r := foutput rnd ftz t q (fpExact op rnd x y z)
  (r.1, f ||| f' ||| f'' ||| r.2)

/-- Whether an operation rounds (R112, R113). -/
def FpOp.rounds : FpOp → Bool
  | .min | .max => false
  | _ => true

/-- The floating-point types of R111. -/
def fpTypes : List Ty := [.f32, .f16, .bf16]

/-- What a binary floating-point operation names and needs. -/
def FpOp.use (op : FpOp) (d a : BitVec 8) (b : BOp) : Use :=
  { useV .f32 d [a] b (op == .fma) with types := some fpTypes, rounds := op.rounds }

/-- The effect of R111 on the group, with flags. -/
def FpOp.eff (op : FpOp) (d a : BitVec 8) (b : BOp) (c : Iss) : Group × List (Fin 16 × Flags) :=
  let t := mdType c.md
  let (qs, g) := if op.rounds then c.g.drawIf c.md c.act t.count else (fun _ => [], c.g)
  g.setLanesF t d c.act fun l => mapElemsF t t.count (qs l) fun i q =>
    fpEl op t (mdRnd c.md) (mdFtz c.md) q (elem t (c.g.laneVal t a l) i) (elem t (b.laneVal c.g t l) i)
      (elem t (c.g.laneVal t d l) i)

/-- A binary floating-point operation (R111). -/
def fpOp (op : FpOp) (i : IWord) (d a : BitVec 8) (b : BOp) (s : State) : Host.Outcome State Fault Refusal :=
  issue i (op.use d a b) (groupEffF (op.eff d a b)) s

/-- The floating-point compares (R114). -/
inductive FCmp where
  | eq | lt | le
  deriving DecidableEq, Repr

/-- Whether a compare holds, with its flags (R114). -/
def fcmpEl (op : FCmp) (ftz : Bool) (a b : Nat) : Bool × Flags :=
  let (x, f) := finput ftz .f32 a
  let (y, f') := finput ftz .f32 b
  let bad := x == .nan || y == .nan
  (match op with
    | .eq => fvEq x y
    | .lt => fvLt x y
    | .le => fvLt x y || fvEq x y,
   f ||| f' ||| flagIf (bad && op != .eq) fInvalid)

/-- The effect of a floating-point compare on the group, with flags. -/
def fcmpEff (op : FCmp) (d : BitVec 3) (a : BitVec 8) (b : BOp) (c : Iss) : Group × List (Fin 16 × Flags) :=
  let r (l : Fin 16) := fcmpEl op (mdFtz c.md) (c.g.vlane a l).toNat (b.lane32 c.g l).toNat
  (cmpEff d (fun _ l => (r l).1) c, laneFlags c.act fun l => (r l).2)

/-- fcmp (R114). -/
def fcmpOp (op : FCmp) (i : IWord) (d : BitVec 3) (a : BitVec 8) (b : BOp) (s : State) : Host.Outcome State Fault Refusal :=
  issue i { useCmp .f32 d a b with types := some [.f32] } (groupEffF (fcmpEff op d a b)) s

/-- The class of an f32 pattern by its raw bits (R115). -/
def fclass (x : Nat) : Nat :=
  let neg := x.testBit 31
  match fval .f32 x with
  | .nan => 8
  | .inf s => if s then 0 else 7
  | .fin _ n _ =>
    if n = 0 then (if neg then 3 else 4)
    else if isSubnormal .f32 x then (if neg then 2 else 5) else (if neg then 1 else 6)

/-- fcls (R115). -/
def fclsOp (i : IWord) (d : BitVec 3) (a : BitVec 8) (b : BOp) (s : State) : Host.Outcome State Fault Refusal :=
  issue i { useCmp .f32 d a b with types := some [.f32] }
    (groupEff (cmpEff d fun c l => (b.lane32 c.g l).getLsbD (fclass (c.g.vlane a l).toNat))) s

/-- The effect of fabs and fneg (R116): they only move bits. -/
def signEff (neg : Bool) (d a : BitVec 8) (c : Iss) : Group :=
  let t := mdType c.md
  c.g.setLanes t d c.act fun l => mapElems t fun i =>
    let x := elem t (c.g.laneVal t a l) i
    if neg then x ^^^ t.signPat else x % t.signPat

/-- fabs and fneg (R116). -/
def signOp (neg : Bool) (i : IWord) (d a : BitVec 8) (s : State) : Host.Outcome State Fault Refusal :=
  issue i { useV .f32 d [a] (.lit 0) with types := some fpTypes } (groupEff (signEff neg d a)) s

/-- A function of R116 on an element: `In`, the exact value, `Out`. -/
def ufnEl (f : UFn) (rnd : Nat) (ftz : Bool) (q a : Nat) : Nat × Flags :=
  let (x, fl) := finput ftz .f32 a
  let r := foutput rnd ftz .f32 q (ufn f x)
  (r.1, fl ||| r.2)

/-- The effect of a function of R116 that rounds. -/
def ufnEff (f : UFn) (d a : BitVec 8) (c : Iss) : Group × List (Fin 16 × Flags) :=
  let (qs, g) := c.g.drawIf c.md c.act 1
  g.setLanesF .f32 d c.act fun l => ufnEl f (mdRnd c.md) (mdFtz c.md) ((qs l).headD 0) (c.g.vlane a l).toNat

/-- frcp to fcos (R116, R117). -/
def ufnOp (f : UFn) (i : IWord) (d a : BitVec 8) (s : State) : Host.Outcome State Fault Refusal :=
  issue i { useV .f32 d [a] (.lit 0) with types := some [.f32], rounds := true } (groupEffF (ufnEff f d a)) s

/-- The effect of frnd (R116, R117). -/
def frndEff (d a : BitVec 8) (c : Iss) : Group × List (Fin 16 × Flags) :=
  let t := mdType c.md
  let (qs, g) := c.g.drawIf c.md c.act t.count
  g.setLanesF t d c.act fun l => mapElemsF t t.count (qs l) fun i q =>
    let (x, f) := finput (mdFtz c.md) t (elem t (c.g.laneVal t a l) i)
    let r := frndRes t (mdRnd c.md) (mdFtz c.md) q x
    (r.1, f ||| r.2)

/-- The lane of dot4 (R122, 04 R91, R92). -/
def dot4Lane (t : Ty) (a b d : Nat) : Nat :=
  matrixStepInt d ((List.range 4).map fun i => (intVal t (elem t a i), intVal t (elem t b i)))

/-- The effect of dot4 (R122). -/
def dot4Eff (d a : BitVec 8) (b : BOp) (c : Iss) : Group :=
  let t := mdType c.md
  c.g.setV d c.act fun l => BitVec.ofNat 32 (dot4Lane t (c.g.vlane a l).toNat (b.lane32 c.g l).toNat (c.g.vlane d l).toNat)

/-- dot4 (R122). -/
def dot4Op (i : IWord) (d a : BitVec 8) (b : BOp) (s : State) : Host.Outcome State Fault Refusal :=
  issue i { useV .n32 d [a] b true with types := some [.s8, .n8] } (groupEff (dot4Eff d a b)) s

/-- The flags of a matrix step that fdot2 raises as an element result of floating point (04 R83, R89, R92; log 22): overflow of
either rounding; inexact and underflow of the result against the exact value of the accumulator and both products. -/
def stepFlags (acc : Nat) (ab : List (FV × FV)) : Flags :=
  let p := prodSum ab
  let a := fval .f32 acc
  let anyNan := a == .nan || ab.any fun x => x.1 == .nan || x.2 == .nan
  if anyNan then 0 else if p.nan then fInvalid
  else
    let t : Nat × Flags := match p.inf with
      | some s => (infResult .f32 false s, 0)
      | none => roundTo .f32 0 0 false (p.sum.exact p.negZero)
    let r := foutput 0 false .f32 0 (fvAdd 0 a (fval .f32 t.1))
    match a, p.inf, fval .f32 r.1 with
    | .fin s n e, none, .fin s' n' e' =>
      let x := (dyOf s n e).add p.sum
      let tiny := Dy.lt ⟨x.m.natAbs, x.e⟩ ⟨1, 1 - Ty.f32.fmt.bias⟩
      if x.eq (dyOf s' n' e') then 0 else fInexact ||| flagIf tiny fUnderflow
    | .fin .., none, _ => (t.2 ||| r.2) &&& fOverflow ||| fInexact
    | _, _, _ => (t.2 &&& fOverflow) ||| r.2

/-- The lane of fdot2 (R122, 04 R92): flushed inputs, one k-step of width 2, a flushed result. -/
def fdot2Lane (t : Ty) (ftz : Bool) (a b d : Nat) : Nat × Flags :=
  let ins := (List.range 2).map fun i => (finput ftz t (elem t a i), finput ftz t (elem t b i))
  let ab := ins.map fun x => (x.1.1, x.2.1)
  let r := flushOut ftz .f32 (matrixStep d ab, stepFlags d ab)
  (r.1, ins.foldl (fun f x => f ||| x.1.2 ||| x.2.2) r.2)

/-- The effect of fdot2 (R122). -/
def fdot2Eff (d a : BitVec 8) (b : BOp) (c : Iss) : Group × List (Fin 16 × Flags) :=
  let t := mdType c.md
  c.g.setLanesF .f32 d c.act fun l =>
    fdot2Lane t (mdFtz c.md) (c.g.vlane a l).toNat (b.lane32 c.g l).toNat (c.g.vlane d l).toNat

/-- fdot2 (R122). -/
def fdot2Op (i : IWord) (d a : BitVec 8) (b : BOp) (s : State) : Host.Outcome State Fault Refusal :=
  issue i { useV .f32 d [a] b true with types := some [.f16, .bf16] } (groupEffF (fdot2Eff d a b)) s

/-- fadd (R111) -/
def execFaddReg (d : BitVec 8) (a : BitVec 8) (b : BitVec 8) (s : State) : Host.Outcome State Fault Refusal :=
  fpOp .add (W.faddReg d a b) d a (.vec b) s
/-- fadd (R111) -/
def execFaddScb (d : BitVec 8) (a : BitVec 8) (b : BitVec 6) (s : State) : Host.Outcome State Fault Refusal :=
  fpOp .add (W.faddScb d a b) d a (.sreg b) s
/-- fadd (R111) -/
def execFaddLit (d : BitVec 8) (a : BitVec 8) (k : BitVec 32) (s : State) : Host.Outcome State Fault Refusal :=
  fpOp .add (W.faddLit d a k) d a (.lit k) s
/-- fsub (R111) -/
def execFsubReg (d : BitVec 8) (a : BitVec 8) (b : BitVec 8) (s : State) : Host.Outcome State Fault Refusal :=
  fpOp .sub (W.fsubReg d a b) d a (.vec b) s
/-- fsub (R111) -/
def execFsubScb (d : BitVec 8) (a : BitVec 8) (b : BitVec 6) (s : State) : Host.Outcome State Fault Refusal :=
  fpOp .sub (W.fsubScb d a b) d a (.sreg b) s
/-- fsub (R111) -/
def execFsubLit (d : BitVec 8) (a : BitVec 8) (k : BitVec 32) (s : State) : Host.Outcome State Fault Refusal :=
  fpOp .sub (W.fsubLit d a k) d a (.lit k) s
/-- fmul (R111) -/
def execFmulReg (d : BitVec 8) (a : BitVec 8) (b : BitVec 8) (s : State) : Host.Outcome State Fault Refusal :=
  fpOp .mul (W.fmulReg d a b) d a (.vec b) s
/-- fmul (R111) -/
def execFmulScb (d : BitVec 8) (a : BitVec 8) (b : BitVec 6) (s : State) : Host.Outcome State Fault Refusal :=
  fpOp .mul (W.fmulScb d a b) d a (.sreg b) s
/-- fmul (R111) -/
def execFmulLit (d : BitVec 8) (a : BitVec 8) (k : BitVec 32) (s : State) : Host.Outcome State Fault Refusal :=
  fpOp .mul (W.fmulLit d a k) d a (.lit k) s
/-- fma (R111) -/
def execFmaReg (d : BitVec 8) (a : BitVec 8) (b : BitVec 8) (s : State) : Host.Outcome State Fault Refusal :=
  fpOp .fma (W.fmaReg d a b) d a (.vec b) s
/-- fma (R111) -/
def execFmaScb (d : BitVec 8) (a : BitVec 8) (b : BitVec 6) (s : State) : Host.Outcome State Fault Refusal :=
  fpOp .fma (W.fmaScb d a b) d a (.sreg b) s
/-- fma (R111) -/
def execFmaLit (d : BitVec 8) (a : BitVec 8) (k : BitVec 32) (s : State) : Host.Outcome State Fault Refusal :=
  fpOp .fma (W.fmaLit d a k) d a (.lit k) s
/-- fmin (R111) -/
def execFminReg (d : BitVec 8) (a : BitVec 8) (b : BitVec 8) (s : State) : Host.Outcome State Fault Refusal :=
  fpOp .min (W.fminReg d a b) d a (.vec b) s
/-- fmin (R111) -/
def execFminScb (d : BitVec 8) (a : BitVec 8) (b : BitVec 6) (s : State) : Host.Outcome State Fault Refusal :=
  fpOp .min (W.fminScb d a b) d a (.sreg b) s
/-- fmin (R111) -/
def execFminLit (d : BitVec 8) (a : BitVec 8) (k : BitVec 32) (s : State) : Host.Outcome State Fault Refusal :=
  fpOp .min (W.fminLit d a k) d a (.lit k) s
/-- fmax (R111) -/
def execFmaxReg (d : BitVec 8) (a : BitVec 8) (b : BitVec 8) (s : State) : Host.Outcome State Fault Refusal :=
  fpOp .max (W.fmaxReg d a b) d a (.vec b) s
/-- fmax (R111) -/
def execFmaxScb (d : BitVec 8) (a : BitVec 8) (b : BitVec 6) (s : State) : Host.Outcome State Fault Refusal :=
  fpOp .max (W.fmaxScb d a b) d a (.sreg b) s
/-- fmax (R111) -/
def execFmaxLit (d : BitVec 8) (a : BitVec 8) (k : BitVec 32) (s : State) : Host.Outcome State Fault Refusal :=
  fpOp .max (W.fmaxLit d a k) d a (.lit k) s
/-- fcmp.eq (R114) -/
def execFcmpEqReg (d : BitVec 3) (a : BitVec 8) (b : BitVec 8) (s : State) : Host.Outcome State Fault Refusal :=
  fcmpOp .eq (W.fcmpEqReg d a b) d a (.vec b) s
/-- fcmp.eq (R114) -/
def execFcmpEqScb (d : BitVec 3) (a : BitVec 8) (b : BitVec 6) (s : State) : Host.Outcome State Fault Refusal :=
  fcmpOp .eq (W.fcmpEqScb d a b) d a (.sreg b) s
/-- fcmp.eq (R114) -/
def execFcmpEqLit (d : BitVec 3) (a : BitVec 8) (k : BitVec 32) (s : State) : Host.Outcome State Fault Refusal :=
  fcmpOp .eq (W.fcmpEqLit d a k) d a (.lit k) s
/-- fcmp.lt (R114) -/
def execFcmpLtReg (d : BitVec 3) (a : BitVec 8) (b : BitVec 8) (s : State) : Host.Outcome State Fault Refusal :=
  fcmpOp .lt (W.fcmpLtReg d a b) d a (.vec b) s
/-- fcmp.lt (R114) -/
def execFcmpLtScb (d : BitVec 3) (a : BitVec 8) (b : BitVec 6) (s : State) : Host.Outcome State Fault Refusal :=
  fcmpOp .lt (W.fcmpLtScb d a b) d a (.sreg b) s
/-- fcmp.lt (R114) -/
def execFcmpLtLit (d : BitVec 3) (a : BitVec 8) (k : BitVec 32) (s : State) : Host.Outcome State Fault Refusal :=
  fcmpOp .lt (W.fcmpLtLit d a k) d a (.lit k) s
/-- fcmp.le (R114) -/
def execFcmpLeReg (d : BitVec 3) (a : BitVec 8) (b : BitVec 8) (s : State) : Host.Outcome State Fault Refusal :=
  fcmpOp .le (W.fcmpLeReg d a b) d a (.vec b) s
/-- fcmp.le (R114) -/
def execFcmpLeScb (d : BitVec 3) (a : BitVec 8) (b : BitVec 6) (s : State) : Host.Outcome State Fault Refusal :=
  fcmpOp .le (W.fcmpLeScb d a b) d a (.sreg b) s
/-- fcmp.le (R114) -/
def execFcmpLeLit (d : BitVec 3) (a : BitVec 8) (k : BitVec 32) (s : State) : Host.Outcome State Fault Refusal :=
  fcmpOp .le (W.fcmpLeLit d a k) d a (.lit k) s
/-- fcls (R115) -/
def execFclsReg (d : BitVec 3) (a : BitVec 8) (b : BitVec 8) (s : State) : Host.Outcome State Fault Refusal :=
  fclsOp (W.fclsReg d a b) d a (.vec b) s
/-- fcls (R115) -/
def execFclsScb (d : BitVec 3) (a : BitVec 8) (b : BitVec 6) (s : State) : Host.Outcome State Fault Refusal :=
  fclsOp (W.fclsScb d a b) d a (.sreg b) s
/-- fcls (R115) -/
def execFclsLit (d : BitVec 3) (a : BitVec 8) (k : BitVec 32) (s : State) : Host.Outcome State Fault Refusal :=
  fclsOp (W.fclsLit d a k) d a (.lit k) s
/-- dot4 (R122) -/
def execDot4Reg (d : BitVec 8) (a : BitVec 8) (b : BitVec 8) (s : State) : Host.Outcome State Fault Refusal :=
  dot4Op (W.dot4Reg d a b) d a (.vec b) s
/-- dot4 (R122) -/
def execDot4Scb (d : BitVec 8) (a : BitVec 8) (b : BitVec 6) (s : State) : Host.Outcome State Fault Refusal :=
  dot4Op (W.dot4Scb d a b) d a (.sreg b) s
/-- dot4 (R122) -/
def execDot4Lit (d : BitVec 8) (a : BitVec 8) (k : BitVec 32) (s : State) : Host.Outcome State Fault Refusal :=
  dot4Op (W.dot4Lit d a k) d a (.lit k) s
/-- fdot2 (R122) -/
def execFdot2Reg (d : BitVec 8) (a : BitVec 8) (b : BitVec 8) (s : State) : Host.Outcome State Fault Refusal :=
  fdot2Op (W.fdot2Reg d a b) d a (.vec b) s
/-- fdot2 (R122) -/
def execFdot2Scb (d : BitVec 8) (a : BitVec 8) (b : BitVec 6) (s : State) : Host.Outcome State Fault Refusal :=
  fdot2Op (W.fdot2Scb d a b) d a (.sreg b) s
/-- fdot2 (R122) -/
def execFdot2Lit (d : BitVec 8) (a : BitVec 8) (k : BitVec 32) (s : State) : Host.Outcome State Fault Refusal :=
  fdot2Op (W.fdot2Lit d a k) d a (.lit k) s
/-- fabs (R116) -/
def execFabs (d a : BitVec 8) (s : State) : Host.Outcome State Fault Refusal :=
  signOp false (W.fabs d a) d a s
/-- fneg (R116) -/
def execFneg (d a : BitVec 8) (s : State) : Host.Outcome State Fault Refusal :=
  signOp true (W.fneg d a) d a s
/-- frnd (R116) -/
def execFrnd (d a : BitVec 8) (s : State) : Host.Outcome State Fault Refusal :=
  issue (W.frnd d a) { useV .f32 d [a] (.lit 0) with types := some fpTypes, rounds := true } (groupEffF (frndEff d a)) s
/-- frcp (R116) -/
def execFrcp (d a : BitVec 8) (s : State) : Host.Outcome State Fault Refusal :=
  ufnOp .rcp (W.frcp d a) d a s
/-- frsq (R116) -/
def execFrsq (d a : BitVec 8) (s : State) : Host.Outcome State Fault Refusal :=
  ufnOp .rsq (W.frsq d a) d a s
/-- fsqrt (R116) -/
def execFsqrt (d a : BitVec 8) (s : State) : Host.Outcome State Fault Refusal :=
  ufnOp .sqrt (W.fsqrt d a) d a s
/-- fex2 (R116) -/
def execFex2 (d a : BitVec 8) (s : State) : Host.Outcome State Fault Refusal :=
  ufnOp .ex2 (W.fex2 d a) d a s
/-- flg2 (R116) -/
def execFlg2 (d a : BitVec 8) (s : State) : Host.Outcome State Fault Refusal :=
  ufnOp .lg2 (W.flg2 d a) d a s
/-- fsin (R116) -/
def execFsin (d a : BitVec 8) (s : State) : Host.Outcome State Fault Refusal :=
  ufnOp .sin (W.fsin d a) d a s
/-- fcos (R116) -/
def execFcos (d a : BitVec 8) (s : State) : Host.Outcome State Fault Refusal :=
  ufnOp .cos (W.fcos d a) d a s

end Sys2Proof.Machine
end

