-- ==== Sys2Proof/Machine/Sync.lean ====
section
/-! DEFINITION. Atomic operations at the home slice, condition monitors, barriers, fences and rounds (09; 15 R373). -/

namespace Sys2Proof.Machine

/-! ### Atomic operations (R228 to R233) -/

/-- The element types of an operation code (R230). -/
def atomTypes (op : Nat) : List Ty :=
  match op with
  | 0 | 1 | 2 | 3 | 4 | 5 | 6 => if op < 3 then [.s32, .n32, .s64, .f32] else [.s32, .n32, .f32, .s64]
  | _ => [.n32]

/-- The new value of an operation (R230). -/
def atomNew (op : Nat) (t : Ty) (old b : Nat) : Nat :=
  match op with
  | 0 => if t = .f32 then (fpEl .add .f32 0 false 0 old b 0).1 else wrapInt t (intVal t old + intVal t b)
  | 1 => if t = .f32 then (fpEl .min .f32 0 false 0 old b 0).1 else if intVal t old ≤ intVal t b then old else b
  | 2 => if t = .f32 then (fpEl .max .f32 0 false 0 old b 0).1 else if intVal t b ≤ intVal t old then old else b
  | 3 => old &&& b
  | 4 => old ||| b
  | 5 => old ^^^ b
  | 6 => b
  | 7 => if b ≤ old then 0 else old + 1
  | _ => if old = 0 ∨ b < old then b else old - 1

/-- A lane of n registers from vector number r: one, or a pair for s64 (R229). -/
def Group.runLane (g : Group) (t : Ty) (r : Nat) (l : Fin 16) : Nat :=
  if t = .s64 then (g.vget (r + 1) l ++ g.vget r l).toNat else (g.vget r l).toNat

/-- Registers of one operand. -/
def runLen (t : Ty) : Nat := if t = .s64 then 2 else 1
/-- The numbers of an operand's registers. -/
def runNums (t : Ty) (r : Nat) : List Nat := if t = .s64 then [r, r + 1] else [r]

/-- What `atom`, `red` and `cas` name and need: run at d, offset register e (R229). -/
def useAtom (t : Ty) (op : Nat) (cas : Bool) (dest : Bool) (d : Nat) (a : BitVec 4) (e : Nat) : Use :=
  { ar := [a.toNat]
    vr := runNums t d ++ (if cas then runNums t (d + runLen t) else []) ++ [e]
    later := if dest then { v := runNums t d } else {}
    pairs := if t = .s64 then [d] else []
    cls := some (if dest then 0 else 1)
    types := some (if cas then [.n32, .s32, .f32, .s64] else atomTypes op)
    sink := true }

/-- A lane's address of an atomic: a[A] plus the lane of the offset register, which `e` gives for the run length. -/
def atomEa (c : Iss) (a : BitVec 4) (e : Nat → Nat) (l : Fin 16) : Nat :=
  (c.g.areg a + sx64 (c.g.vget (e (runLen (mdType c.md))) l)).toNat

/-- A lane's second operand of an atomic: for `cas` the run after the compared one. -/
def atomVal (c : Iss) (cas : Bool) (d : Nat) (l : Fin 16) : Nat :=
  c.g.runLane (mdType c.md) (if cas then d + runLen (mdType c.md) else d) l

/-- The accesses of an atomic. -/
def atomAccs (c : Iss) (cas dest : Bool) (d : Nat) (a : BitVec 4) (e : Nat → Nat) : List Access :=
  (laneList c.act).map fun l =>
    { lane := l.val, va := atomEa c a e l, len := 4 * runLen (mdType c.md), ask := if dest then .atomic else .red,
      data := atomVal c cas d l }

/-- The effect of `atom`, `red` and `cas` (R231): check 7, then an access of each active lane to the home of its word. -/
def atomEff (op : Nat) (cas dest : Bool) (d : Nat) (a : BitVec 4) (e : Nat → Nat) (c : Iss) (s : State) : Eff :=
  let t := mdType c.md
  let ea := atomEa c a e
  let bad := maskOf fun l => lane c.act l && ea l % (4 * runLen t) != 0
  if bad ≠ 0 then .trap (formatTrap c 3 c.word bad)
  else
    let b := atomVal c cas d
    let xs : List Sample := (laneList c.act).map fun l => ⟨l, ea l⟩
    let srcs := if dest then [0, 1, 2] else [1, 2]
    match s.beginAccs c true (atomAccs c cas dest d a e)
        { xs := fun _ _ k => if k = 4 then wordSamples t c.act b else samplesOf srcs xs k, va := ea } with
    | .trap x => .trap x
    | .stay => .stay
    | .ended s => .ended s
    | .ok s accs =>
      if c.native && faultLanes accs ≠ 0 then .ended (s.sinkFault c accs)
      else
        let o := { c.op (.atom (if dest then some d else none) op cas t) (some (if dest then 0 else 1)) with
          accs := accs
          vals := (laneList c.act).map fun l => (l.val, c.g.runLane t d l)
          writes := if dest then { v := runNums t d } else {} }
        .ok ((s.setGroup c.gid c.g).addOp o).1 []

/-- `atom`, `red` and `cas` -/
def atomOp (op : Nat) (cas dest : Bool) (i : IWord) (d : BitVec 8) (a : BitVec 4) (e : Nat → Nat) (s : State) :
    Host.Outcome State Fault Refusal :=
  issue i (useAtom s.curTy op cas dest d.toNat a (e (runLen s.curTy))) (atomEff op cas dest d.toNat a e) s

/-- The depth test of a raster state record (13 R326, R329): z against the stored value, as f32 patterns. -/
def depthTest (rs z stored : Nat) : Bool :=
  let x := fval .f32 z
  let y := fval .f32 stored
  match bits rs 105 103 with
  | 0 => false
  | 1 => fvLt x y
  | 2 => fvEq x y
  | 3 => fvLt x y || fvEq x y
  | 4 => fvLt y x
  | 5 => fvLt x y || fvLt y x
  | 6 => fvLt y x || fvEq x y
  | _ => true

/-- The state in which a reduction that covers a whole poisoned half-line is applied: the half is no longer poisoned, and what it held
is a free value (21 R468; log 18). -/
def State.coverRed (s : State) (o : Op) (a : Access) : State :=
  let h := a.pa / 64
  if a.ask == .red && !a.cum && a.mt == 0 && (s.halfPoison h).isSome && !s.lost a.pa && o.coversBy .red h then
    let x := packBits ((List.range 16).map fun k => (32, (Sys2Proof.Config.freeWord (s.free + k)).toNat))
    { (s.wrMem (64 * h) 64 x).clearPoison [h] with free := s.free + 16 }
  else s

/-- One lane's operation at the word's home, or in the core for a register line (R228, R231; 21 R468; 13 R323): old value,
and the new one written at this tick. A reduction that covers part of a poisoned half-line is refused; in a Cumin page the word's
whole half-line counts, as it is stored anew. -/
def State.serveAtomic (s : State) (id k : Nat) (holder : Bool) : State :=
  match s.acc? id k with
  | none => s
  | some (o, a) =>
    let s := s.coverRed o a
    let (old, p) := s.readAcc a
    let p := p.or (if a.cum then s.cumPoison (a.pa / 64 * 64) 64 else none)
    let a' := { a with st := .fill, tick := s.gnomon, data := old, poison := p }
    match p, o.kind with
    | some code, .atom none .. => s.refuseAcc id k (if 0x100 ≤ code then code else if s.lost a.pa then 4 else 5)
    | some _, _ => s.updAcc id k fun _ => a'
    | none, .atom _ op cas t =>
      let missed := cas && old != o.vals.getD a.lane 0
      let new := if cas then a.data else atomNew op t old a.data
      let s' := if missed then s else (s.writeDec a.cum a.pa a.len new).getD s
      ((s'.wakeSlice a.cum a.pa a.cum).updAcc id k fun _ => a').updOp id fun o => { o with ct := ctMax o.ct (s.timesOf holder a) }
    | none, .zts _ rs =>
      let s' := if depthTest rs a.data old then
          ((s.writeDec a.cum a.pa a.len a.data).getD s).updOp id fun o => { o with ct := ctMax o.ct (s.timesOf holder a) }
        else s
      (s'.wakeSlice a.cum a.pa a.cum).updAcc id k fun _ => a'
    | none, _ => s

/-- Whether an access is an atomic operation or a reduction. -/
def Ask.isAtomic : Ask → Bool
  | .atomic | .red => true
  | _ => false

/-- HOME_ATOMIC (R228, R231): operations of lower lanes on the same word come first (R232). -/
def State.homeAtomicStep (s : State) (id k : Nat) : State :=
  match s.acc? id k with
  | some (o, a) => if s.atHome id o a && a.ask.isAtomic && !s.isHeld a && o.lowerApplied k a then s.serveAtomic id k false else s
  | none => s

/-- The tile that an operation updates (10 R258, R269). -/
def OpKind.updatesTile : OpKind → Option Nat
  | .mma t .. => some t
  | .acczr t => some t
  | .accst t _ => some t
  | _ => none

/-- Whether the writes that were pending at the issue of an operation to a register line of its own group, or the updates to a
tile line of it, have landed, for a load of n bytes of that line by address (07 R172; 10 R257). -/
def State.ownLineLanded (s : State) (id : Nat) (o : Op) (pa n : Nat) : Bool :=
  let earlier (f : Op → Bool) : Bool := s.ops.any fun e => e.2.g == o.g && decide (e.1 < id) && !e.2.finished && f e.2
  (halvesOf pa n).all fun h => match s.held h with
    | some (.reg g k) => !(g == o.g && earlier fun e => e.writes.v.contains k)
    | some (.tile b k) => !((s.groups.get? o.g).any (fun g => g.block == b && s.memberOf g == k / 4096) &&
        earlier fun e => e.kind.updatesTile == some (k % 4096 / 16))
    | none => true

/-- HOLDER_ACCESS (08 R219): the core serves an access to a register line that it holds, at one tick; lanes that write one
byte in order (07 R186). -/
def State.holderStep (s : State) (id k : Nat) : State :=
  match s.acc? id k with
  | some (o, a) =>
    if s.atHome id o a && s.isHeld a then
      match a.ask with
      | .read | .fetch =>
        if (s.readsWith id o a).all fun j => (o.accs[j]?).all fun b => s.ownLineLanded id o b.pa b.len then
          (s.readsWith id o a).foldl (fun s j => match s.acc? id j with | some (o, b) => s.serveRead id j o b 0 | none => s) s
        else s
      | .write => if o.lowerApplied k a && (o.otherParts a).isEmpty then s.serveWrite id k true else s
      | .target => s
      | .atomic | .red => if o.lowerApplied k a then s.serveAtomic id k true else s
      | .monitor => s
    else s
  | none => s

/-- DATA_RETURN of `atom` and `cas` (R231): the old values, raw. -/
def State.atomReturn (s : State) (id : Nat) (o : Op) (d : Nat) (t : Ty) : State :=
  match s.groups.get? o.g with
  | none => { s with ops := s.ops.erase id }
  | some g =>
    (s.preciseStop id o (preciseTrap o.word o.act o.accs)).getD <|
    let p := if s.native g then o.act &&& poisonLanes o.accs else 0
    let old (l : Fin 16) : Nat := ((o.accs.find? fun a => a.lane == l.val).map (·.data)).getD 0
    let put (g : Group) : Group := g.putLoad t d o.act p old
    let s' := s.setGroup o.g (g.deliver id (runNums t d) put)
    let s' := match poisonFirst o.accs with
      | some (code, va) => s'.dataFault o (o.act &&& poisonLanes o.accs) code va o.word
      | none => s'
    match s'.watchPost o.g (wordSamples t (o.act &&& ~~~p) old) [] with
    | none => s
    | some s' => s'.finishOp id

/-! ### Condition monitors (R236 to R239; 15 R373) -/

/-- The register that a reply writes, pending from the issue on (R237; 15 R373; 01 R25). -/
def replyRegs (dest : Option Nat) : RegSet := match dest with | none => { p := [7] } | some d => { s := [d] }

/-- The effect of `mwait` and `cwait`: check 7, then the registration on its way to the home of the word. -/
def mwaitEff (dest : Option (BitVec 6)) (cond : Nat) (a : BitVec 4) (b : Group → Word) (c : Iss) (s : State) : Eff :=
  if c.act = 0 then .ok (s.setGroup c.gid c.g) []
  else
    let ea := (c.g.areg a).toNat
    if ea % 4 ≠ 0 then .trap (formatTrap c 3 c.word)
    else match s.beginAccs c true [{ lane := uniLane, va := ea, len := 4, ask := .monitor }]
        { xs := fun _ _ => samplesOf [0, 2] [(⟨0, ea⟩ : Sample)], va := fun _ => ea } with
    | .trap x => .trap x
    | .stay => .stay
    | .ended s => .ended s
    | .ok s accs =>
      if c.native && faultLanes accs ≠ 0 then .ended (s.sinkFault c accs)
      else
        let (s, id) := s.addOp { c.op (.mwait (dest.map (·.toNat)) cond (b c.g)) none with
          accs := accs, writes := replyRegs (dest.map (·.toNat)) }
        .ok (s.setGroup c.gid (c.hold (.mon id))) []

/-- Registrations that a slice holds: 256 monitors and 16,384 overflow entries (R238). -/
def monitorRoom : Nat := 256 + 16384

/-- MONITOR_CHECK (R237): the home compares and replies met, armed or full, at one tick. -/
def State.monitorStep (s : State) (id : Nat) : State :=
  match s.acc? id 0 with
  | none => s
  | some (o, a) =>
    match o.kind with
    | .mwait _ cond b =>
      if !s.atHome id o a then s
      else
        let (x, p) := s.readAcc a
        let s := (s.wakeSlice a.cum a.pa true).updAcc id 0 fun a => { a with st := .done, tick := s.gnomon, poison := p }
        if p.isSome then s.updOp id fun o => { o with phase := 4 }
        else if monCond cond (BitVec.ofNat 32 x) b then s.updOp id fun o => { o with phase := 2, result := x }
        else if (s.monitors.filter fun m => s.homeOf m.cum m.pa == s.homeOf a.cum a.pa).length < monitorRoom then
          ({ s with monitors := s.monitors ++ [⟨id, o.g, o.path, a.pa, cond, b, a.cum⟩] } : State).updOp id fun o =>
            { o with phase := 1 }
        else s.updOp id fun o => { o with phase := 3 }
    | _ => s

/-- The register that a reply writes: p7, or s[D] (R237; 15 R373); `bad` when what it writes is poison (21 R469). -/
def Group.putReply (g : Group) (dest : Option Nat) (p7 : Mask) (x : Word) (bad : Bool) : Group :=
  match dest with
  | none => { (if bad then g else g.setP 7 p7) with poison := { g.poison with p := g.poison.p.set 7 (if bad then 0xFFFF else 0) } }
  | some d => { (if bad then g else g.setS (BitVec.ofNat 6 d) x) with
      poison := { g.poison with s := if bad then g.poison.s ||| (1#64 <<< d) else g.poison.s &&& ~~~(1#64 <<< d) } }

/-- The image line of that register. -/
def replyLine (dest : Option Nat) : Nat := match dest with | none => 262 | some d => 256 + d / 16

/-- A wake that finds its group saved: into its image (R239). -/
def State.replySaved (s : State) (id : Nat) (g : Group) (dest : Option Nat) (x : Word) : State :=
  let s := match dest with
    | none => s.poke g 262 14 2 0xFFFF
    | some d => s.poke g (256 + d / 16) (4 * (d % 16)) 4 x.toNat
  (g.entriesWhere fun _ e => (e.kind == .path || e.kind == .saved) && e.hold == .mon id).foldl (fun s q =>
    let e := g.entryAt q
    let s := s.poke g (288 + q / 4) (16 * (q % 4)) 8 e.next.toNat
    s.poke g (288 + q / 4) (16 * (q % 4) + 12) 1 (0x60 + 4 * e.kind.code)) s

/-- MWAIT_REPLY (R237, R239; 15 R373): met or woken, full, or poison; then the path goes on. -/
def State.mwaitReplyStep (s : State) (id : Nat) : State :=
  match s.ops.get? id with
  | none => s
  | some o =>
    match o.kind with
    | .mwait dest _ _ =>
      let drop (s : State) : State := { s with ops := s.ops.erase id }
      match s.groups.get? o.g with
      | none => if o.phase = 1 then s else drop s
      | some g =>
        let mine (e : PathEntry) : Bool := e.hold == .mon id
        let put (p7 : Mask) (x : Word) (bad : Bool) (s : State) : State :=
          s.setGroup o.g (g.deliver id [replyLine dest] fun g => g.putReply dest p7 x bad)
        if o.phase = 2 then
          let x := BitVec.ofNat 32 o.result
          let s := if g.home = .saved then s.replySaved id g dest x else s
          drop ((put 0xFFFF x false s).endWaits o.g fun e => if mine e then e.owe 3 else e)
        else if o.phase = 3 then drop ((put 0 0 false s).endWaits o.g fun e => if mine e then e.go else e)
        else if o.phase = 4 then
          let code := ((o.accs.head?).bind (·.poison)).getD 1
          let va := ((o.accs.head?).map (·.va)).getD 0
          (s.preciseStop id o (preciseTrap o.word o.act o.accs)).getD <|
          let s := if s.native g then put 0 0 true s else s
          drop ((s.dataFault o o.act code va o.word).endWaits o.g fun e => if mine e then e.go else e)
        else s
    | _ => s

/-! ### Barriers, fences and rounds -/

/-- The effect of `barw` (R242): a token of a completed generation passes at once, with its acquire. -/
def barwEff (a : BitVec 6) (c : Iss) (s : State) : Eff :=
  let t := (c.g.sreg a).toNat
  match s.blocks.get? c.g.block with
  | none => .ok (s.setGroup c.gid c.g) []
  | some b =>
    if (b.bar (t % 16)).gen ≠ t / 16 then .ok ((s.setGroup c.gid c.g).startAcquire c.gid 1 c.path) []
    else .ok (s.setGroup c.gid (c.hold (.barw (t % 16) (t / 16)))) []

/-- The effect of `barv` (R242): its release; the arrival and the token follow. -/
def barvEff (d a b : BitVec 6) (c : Iss) (s : State) : Group :=
  let n := ((s.blocks.get? c.g.block).map (·.ngroups)).getD 1
  if c.act = 0 then c.g
  else c.release 1 (.barv d.toNat ((c.g.sreg a).toNat % 16) (min (max (c.g.sreg b).toNat 1) n))

/-- The effect of `gbar` (R245, R246); in a pixel group `fence.ar.dev` (13 R331). -/
def gbarEff (c : Iss) (s : State) : State :=
  if c.g.pixel.isSome then s.setGroup c.gid (c.release 3 (.acquire 3))
  else (s.setGroup c.gid (c.hold (.gbar none))).askCounter (s.launchOf c.g)

/-- The effect of `fence.acq` (R207, R235). -/
def fenceAcqEff (scope : Nat) (c : Iss) (s : State) : State := (s.setGroup c.gid c.g).startAcquire c.gid scope c.path

/-- The effect of `radv` (R249): its release; the raising follows. -/
def radvEff (scope : Nat) (a : BitVec 4) (c : Iss) : Group :=
  if c.act = 0 then c.g
  else c.release scope (.radv (c.g.areg a).toNat)

/-- The effect of `rrd` and `rrd.obs` (R250). -/
def rrdEff (obs : Bool) (d a : BitVec 4) (c : Iss) (s : State) : State :=
  if c.act = 0 then s.setGroup c.gid c.g
  else ((s.setGroup c.gid c.g).addOp { c.op (.rrd d.toNat (c.g.areg a).toNat obs) (some 0) with
    writes := { a := [d.toNat] }, poison := if c.g.poison.a.getLsbD a.toNat then c.act else 0 }).1

/-- What `rrd` and `rrd.obs` name and need. -/
def useRrd (d a : BitVec 4) : Use :=
  { ar := [a.toNat], later := { a := [d.toNat] }, cls := some 0, ext := some 2, uniform := true, ownPoison := true }

/-- DATA_RETURN of `rrd` and `rrd.obs` (R250): the counter of the address's region as the Orrery serves it now, or the core's observed
round. -/
def State.rrdReturn (s : State) (id : Nat) (o : Op) (d va : Nat) (obs : Bool) : State :=
  match s.groups.get? o.g with
  | none => { s with ops := s.ops.erase id }
  | some g =>
    let key := (s.regionAt o.ctx va).map (·.1)
    let s := match key with | some k => if obs then s.touchObs o.core k else s | none => s
    let x := match key with
      | some k => if obs then s.observed o.core k else ((s.regions.get? k).map (·.counter)).getD 0
      | none => 0
    let P (g : Group) : Poison := { g.poison with a := g.poison.a &&& ~~~(1#16 <<< d) }
    let bad := s.native g && o.poison != 0
    let put (g : Group) : Group := if bad then { g with poison := { g.poison with a := g.poison.a ||| (1#16 <<< d) } }
      else { g.setA (BitVec.ofNat 4 d) (BitVec.ofNat 64 x) with poison := P g }
    (s.setGroup o.g (g.deliver id [260 + d / 8] put)).finishOp id

/-! ### The instructions -/

/-- atom (09 R231) -/
def execAtom (d : BitVec 8) (a : BitVec 4) (o : BitVec 4) (s : State) : Host.Outcome State Fault Refusal :=
  atomOp o.toNat false true (W.atom d a o) d a (d.toNat + ·) s

/-- red (09 R231) -/
def execRed (d : BitVec 8) (a : BitVec 4) (o : BitVec 4) (s : State) : Host.Outcome State Fault Refusal :=
  atomOp o.toNat false false (W.red d a o) d a (d.toNat + ·) s

/-- cas (09 R230, R231) -/
def execCas (d : BitVec 8) (a : BitVec 4) (b : BitVec 8) (s : State) : Host.Outcome State Fault Refusal :=
  atomOp 0 true true (W.cas d a b) d a (fun _ => b.toNat) s

/-- mwait (09 R236, R237): a sink -/
def execMwait (c : BitVec 3) (a : BitVec 4) (b : BitVec 6) (s : State) : Host.Outcome State Fault Refusal :=
  issue (W.mwait c a b) { ar := [a.toNat], sr := [b.toNat], later := replyRegs none, uniform := true, sink := true } (mwaitEff none c.toNat a fun g => g.sreg b) s

/-- cwait (15 R373): a sink -/
def execCwait (d : BitVec 6) (a : BitVec 4) (s : State) : Host.Outcome State Fault Refusal :=
  issue (W.cwait d a) { ar := [a.toNat], later := replyRegs (some d.toNat), uniform := true, sink := true } (mwaitEff (some d) 1 a fun _ => 0) s

/-- bar (09 R243): a sink -/
def execBar (s : State) : Host.Outcome State Fault Refusal :=
  issue W.bar { guard := false, sink := true } (groupEff fun c => c.hold (.bar none)) s

/-- barw (09 R242): it makes its path wait -/
def execBarw (a : BitVec 6) (s : State) : Host.Outcome State Fault Refusal :=
  issue (W.barw a) { sr := [a.toNat], guard := false, stop := true } (barwEff a) s

/-- barv (09 R242): a sink -/
def execBarv (d : BitVec 6) (a : BitVec 6) (b : BitVec 6) (s : State) : Host.Outcome State Fault Refusal :=
  issue (W.barv d a b) { sr := [a.toNat, b.toNat], sw := [d.toNat], uniform := true, sink := true } (fun c s => .ok (s.setGroup c.gid (barvEff d a b c s)) []) s

/-- gbar (09 R245): a sink -/
def execGbar (s : State) : Host.Outcome State Fault Refusal :=
  issue W.gbar { guard := false, sink := true } (fun c s => .ok (gbarEff c s) []) s

/-- fence.acq (09 R235) -/
def execFenceAcq (s1 : BitVec 3) (s : State) : Host.Outcome State Fault Refusal :=
  issue (W.fenceAcq s1) { guard := false } (fun c s => .ok (fenceAcqEff s1.toNat c s) []) s

/-- fence.rel (09 R235): a sink -/
def execFenceRel (s1 : BitVec 3) (s : State) : Host.Outcome State Fault Refusal :=
  issue (W.fenceRel s1) { guard := false, sink := true } (groupEff fun c => c.release s1.toNat .done) s

/-- fence.ar (09 R235; 08 R208): a sink -/
def execFenceAr (s1 : BitVec 3) (s : State) : Host.Outcome State Fault Refusal :=
  issue (W.fenceAr s1) { guard := false, sink := true } (groupEff fun c => c.release s1.toNat (.acquire s1.toNat)) s

/-- radv (09 R249): a sink -/
def execRadv (s1 : BitVec 3) (a : BitVec 4) (s : State) : Host.Outcome State Fault Refusal :=
  issue (W.radv s1 a) { ar := [a.toNat], ext := some 2, uniform := true, sink := true } (groupEff (radvEff s1.toNat a)) s

/-- rrd (09 R250) -/
def execRrd (d : BitVec 4) (a : BitVec 4) (s : State) : Host.Outcome State Fault Refusal :=
  issue (W.rrd d a) (useRrd d a) (fun c s => .ok (rrdEff false d a c s) []) s

/-- rrd.obs (09 R250) -/
def execRrdObs (d : BitVec 4) (a : BitVec 4) (s : State) : Host.Outcome State Fault Refusal :=
  issue (W.rrdObs d a) (useRrd d a) (fun c s => .ok (rrdEff true d a c s) []) s

/-- HOME_ATOMIC (09 R228) -/
def execHomeAtomic (op : Nat) (acc : Nat) (s : State) : Host.Outcome State Fault Refusal :=
  .next (s.homeAtomicStep op acc)

/-- HOLDER_ACCESS (08 R219) -/
def execHolderAccess (op : Nat) (acc : Nat) (s : State) : Host.Outcome State Fault Refusal :=
  .next (s.holderStep op acc)

/-- MONITOR_CHECK (09 R237) -/
def execMonitorCheck (op : Nat) (s : State) : Host.Outcome State Fault Refusal :=
  .next (s.monitorStep op)

/-- MWAIT_REPLY (09 R237, R239) -/
def execMwaitReply (op : Nat) (s : State) : Host.Outcome State Fault Refusal :=
  .next (s.mwaitReplyStep op)

/-- ACQUIRE_END (08 R207) -/
def execAcquireEnd (g : Nat) (s : State) : Host.Outcome State Fault Refusal :=
  .next (s.acquireEnd g)

/-- BEACON (08 R213; 18 R427) -/
def execBeacon (core : Nat) (region : Nat) (s : State) : Host.Outcome State Fault Refusal :=
  .next (s.beaconStep core region)

/-- BAR_GENERATION_COMPLETE (09 R240) -/
def execBarGenerationComplete (blk : Nat) (barrier : Nat) (s : State) : Host.Outcome State Fault Refusal :=
  .next (s.barComplete blk barrier)

/-- GRID_COUNTER_ASSIGN (09 R246) -/
def execGridCounterAssign (launch : Nat) (s : State) : Host.Outcome State Fault Refusal :=
  .next (s.assignCounter launch)

/-- GBAR_GENERATION_COMPLETE (09 R245) -/
def execGbarGenerationComplete (launch : Nat) (s : State) : Host.Outcome State Fault Refusal :=
  .next (s.gridComplete launch)

end Sys2Proof.Machine
end

