-- ==== Sys2Proof/Machine/Window.lean ====
section
/-! DEFINITION. The windows of the cores (07 R176; 08 R219), and how sampler, ray and raster units read memory (11 R278;
12 R309). -/

namespace Sys2Proof.Machine

/-! ### Windows (R176) -/

/-- What a half-line of the window range is. -/
inductive WinAt where
  | nothing
  /-- a byte address of memory or of a held line -/
  | image (pa : Nat)
  /-- a byte of a block's scratchpad: block, member, offset -/
  | scratch (b m off : Nat)
  /-- a byte of a core's partition that no resident block owns -/
  | loose (core off : Nat)
  deriving DecidableEq, Repr

/-- The resident group in a slot of a core. -/
def State.groupIn (s : State) (core slot : Nat) : Option (Nat × Group) :=
  s.groups.find? fun e => e.2.core == core && e.2.slot == slot && e.2.home != .saved

/-- The register window: group in slot G, register N (R176 kind 0). -/
def State.winReg (s : State) (core off : Nat) : WinAt :=
  match s.groupIn core (bits off 21 14) with
  | some (_, g) =>
    if bits off 38 22 = 0 ∧ bits off 13 6 < 16 * g.valloc then .image (g.ribPa + 64 * bits off 13 6 + bits off 5 0)
    else .nothing
  | none => .nothing

/-- The scratchpad window (R176 kind 1). -/
def State.winScratch (s : State) (core off : Nat) : WinAt :=
  if bits off 38 20 ≠ 0 ∨ 65536 * (s.core core).sp ≤ bits off 19 0 then .nothing
  else match s.blocks.findSome? fun e =>
      match e.2.cores.findIdx? (· == core) with
      | some m =>
        ((e.2.sbases.getD m []).findIdx? (· == bits off 19 16)).map fun k => WinAt.scratch e.1 m (65536 * k + bits off 15 0)
      | none => none with
    | some w => w
    | none => .loose core (bits off 19 0)

/-- The accumulator window: the tile in a slot (R176 kind 2; 10 R257), in the tile store where its line is there, else at the
image. -/
def State.winTile (s : State) (core off : Nat) : WinAt :=
  if bits off 38 18 ≠ 0 then .nothing
  else match s.blocks.findSome? fun e =>
      match e.2.cores.findIdx? (· == core) with
      | some m =>
        let lo := e.2.aslots.getD m 0
        let n := (s.blockDesc e.2).acc
        let t := bits off 17 10
        if lo ≤ t ∧ t < lo + n then
          match e.2.tiles.get? (tileLineKey m (t - lo) (bits off 9 6)) with
          | some x => some (WinAt.image (64 * x.half + bits off 5 0))
          | none => match s.imagePa e.2.ctx (e.2.aibs.getD m 0 + 1024 * (t - lo) + bits off 9 0) .read with
          | .ok pa => some (WinAt.image pa)
          | .error _ => none
        else none
      | none => none with
    | some w => w
    | none => .nothing

/-- What a window address names. -/
def State.winAt (s : State) (pa : Nat) : WinAt :=
  let core := 52 * bits pa 47 47 + bits pa 46 41
  if 52 ≤ bits pa 46 41 ∨ (s.core core).use ∉ [CoreUse.active, .draining] then .nothing
  else match bits pa 40 39 with
    | 0 => s.winReg core (bits pa 38 0)
    | 1 => s.winScratch core (bits pa 38 0)
    | 2 => s.winTile core (bits pa 38 0)
    | _ => .nothing

/-- A window read of n bytes, with poison (R176). -/
def State.winRead (s : State) (pa n : Nat) : Nat × Option Nat :=
  (pieces pa n).foldl (fun (x, p) (h, lo, hi, off) =>
    match s.winAt (64 * h + lo) with
    | .nothing => (x, p)
    | .image a => (x + s.homeRead a (hi - lo) <<< (8 * off), p.or (s.homePoison a (hi - lo)))
    | .scratch b m o =>
      match s.blocks.get? b with
      | some blk => (x + blk.rdScratch m o (hi - lo) <<< (8 * off), p.or (if blk.scratchPoisoned m o (hi - lo) then some 2 else none))
      | none => (x, p)
    | .loose c o => (x + memReadN (s.core c).loose o (hi - lo) <<< (8 * off),
        p.or (if (wordsOf o (hi - lo)).any (s.core c).loosePoison.contains then some 2 else none))) (0, none)

/-- A window write of n bytes (R176). -/
def State.winWrite (s : State) (pa n x : Nat) : State :=
  (pieces pa n).foldl (fun s (h, lo, hi, off) =>
    match s.winAt (64 * h + lo) with
    | .nothing => s
    | .image a => s.applyWrite a (hi - lo) (x >>> (8 * off))
    | .scratch b m o => s.updBlock b fun blk => blk.wrScratch m o (hi - lo) (x >>> (8 * off)) false
    | .loose c o => s.updCore c fun c => { c with
        loose := memWriteN c.loose o (hi - lo) (x >>> (8 * off))
        loosePoison := c.loosePoison.filter fun w => !(wordsOf o (hi - lo)).contains w }) s

/-- Words of a register of a native group become poisoned by what reaches its line in the core, in its journal copy too: a
pending fault of data (16 R386, R389). -/
def Group.spoil (g : Group) (n : Nat) (m : Mask) (code va : Nat) : Group :=
  let g := g.markV n m 0xFFFF
  { g with
    pend := g.pend ++ [⟨va, 0, 0, code, true⟩]
    poison := { g.poison with code := code }
    journal := g.journal.map fun j => if j.line = n then { j with poison := j.poison ||| m.toNat } else j }

/-- Words of a register in the core become poisoned. -/
def State.regPoison (s : State) (gid n : Nat) (m : Mask) (code va : Nat) : State :=
  match s.groups.get? gid with
  | none => s
  | some g =>
    if s.native g then
      s.setGroup gid (g.spoil n m code va)
    else s.defer gid ⟨0x31, code, 0, 0⟩

/-- Bytes at their home become poisoned: the words of a held line, else the half-lines (21 R468). -/
def State.poisonHome (s : State) (pa n d : Nat) : State :=
  (pieces pa n).foldl (fun s (h, lo, hi, _) =>
    match s.held h with
    | some (.reg g k) => s.regPoison g k (wordMask lo hi) d (64 * h + lo)
    | some (.tile b k) => s.updTile b k fun t => { t with poison := t.poison ||| wordMask lo hi }
    | none => s.addPoison [h] d) s

/-- The block with words of its scratchpad poisoned (21 R468). -/
def Block.spoilScratch (b : Block) (member off n : Nat) : Block :=
  { b with scratchPoison := b.scratchPoison ++ (wordsOf (scratchKey member off) n).filter fun w => !b.scratchPoison.contains w }

/-- Bytes that a window names become poisoned. -/
def State.winPoison (s : State) (pa n d : Nat) : State :=
  (pieces pa n).foldl (fun s (h, lo, hi, _) =>
    match s.winAt (64 * h + lo) with
    | .nothing => s
    | .loose c o => s.updCore c fun c => { c with
        loosePoison := c.loosePoison ++ (wordsOf o (hi - lo)).filter fun w => !c.loosePoison.contains w }
    | .image a => s.poisonHome a (hi - lo) d
    | .scratch b m o => s.updBlock b fun blk => blk.spoilScratch m o (hi - lo)) s

/-- WINDOW_ACCESS (08 R219): the core serves a window access at one tick; nothing is leased. Lanes that write one byte come in
order (R186); a load of the group's own line comes after the writes to it that were pending (07 R172; 10 R257). -/
def State.windowStep (s : State) (id k : Nat) : State :=
  match s.acc? id k with
  | none => s
  | some (o, a) =>
    if !(a.st == .ready && a.mt == 2 && !o.queued && s.inOrder id o a && (!a.ask.writes || o.lowerApplied k a)) then s
    else match a.ask with
      | .write | .target =>
        let x := if a.nib = 0 then a.data else mixBits (s.winRead a.pa a.len).1 a.bitMask a.data
        ((s.winWrite a.pa a.len x).updAcc id k fun a => { a with st := .fill, tick := s.gnomon }).updOp id fun o =>
          { o with ct := ctMax o.ct (s.gnomon, s.gnomon, s.gnomon) }
      | _ =>
        let landed := (pieces a.pa a.len).all fun (h, lo, hi, _) => match s.winAt (64 * h + lo) with
          | .image pa => s.ownLineLanded id o pa (hi - lo)
          | _ => true
        if landed then (let (x, p) := s.winRead a.pa a.len; s.updAcc id k fun a => a.served .done x s.gnomon p) else s

/-! ### Reads by a unit -/

/-- A read that a unit's operation has still to make: its address, its bytes, and whether it is one of a verification
(17 R410). -/
structure Need where
  va : Nat
  len : Nat
  quiet : Bool
  deriving DecidableEq, Repr

/-- What a unit's read met: no translation or permission (16 R380), of a header when `hdr` says so (12 R319), or faulty data:
a code of poison, or 0x100 + the detail of a data-format fault (21 R469; 07 R184). -/
inductive UErr where
  | fault (va detail : Nat) (hdr : Bool)
  | data (code va : Nat)
  /-- the host holds a half that it reads (08 R223) -/
  | held (half : Nat)
  /-- reads that the operation has not made yet; none when all it asked for are on their way -/
  | miss (need : List Need)
  deriving DecidableEq, Repr

/-- n bytes at a virtual address in one page as they are now, for a unit's operation `o`: for a header that an instruction of the
weight cache reads as it issues (phase 7; 11 R300), read through the L1 as `ld` reads, and for a weight blob at its home
(phase 8; R278). -/
def State.unitNow (s : State) (o : Op) (va n : Nat) : Except UErr Nat :=
  match s.resolve o.core o.ctx o.sup .read va with
  | .error d => .error (.fault va d false)
  | .ok l =>
    let a := ({ va := va, len := n, st := .ready, pa := l.phys va, mt := l.mt, cum := l.cum } : Access).home s.own
    let g := s.groups.get? o.g
    let a := if o.phase = 8 then a else (g.elim a fun g => s.forwarded g s.nextOp a)
    let a := if o.phase = 7 then s.tryL1 s.nextOp o .l1 a else a
    let out (x : Nat) : Nat := (a.served .done x 0 none).data
    if a.st = .done then (match a.poison with | some c => .error (.data c va) | none => .ok a.data)
    else if o.phase ≠ 8 ∧ !s.inOrder s.nextOp o a then .error (.miss [])
    else if l.mt = 1 then (if Sys2Proof.Config.hostError s.gnomon a.pa then .error (.fault va 10 false) else .ok (out (memReadN s.hostMem a.pa n)))
    else if l.mt = 2 then (match s.winRead a.pa n with | (x, none) => .ok (out x) | (_, some c) => .error (.data c va))
    else if o.phase = 7 ∧ !s.isHeld a then .error (.miss [⟨va, n, false⟩])
    else match (if inAperture a.pa then none else (needHalves a.cum a.pa n).find? s.hostHas), s.readAcc a with
      | some h, _ => .error (.held h)
      | none, (x, none) => .ok (out x)
      | none, (_, some c) => .error (.data c va)

/-- n bytes that a unit reads for a group at a virtual address, in one page: what the operation's access to them has brought.
Each item is read once for the instruction, for all its lanes (DESIGN CHOICE, log 197).
In phase 5 it is a read of a verification, which is made only from a cached translation (17 R410). -/
def State.unitRead (s : State) (o : Op) (va n : Nat) : Except UErr Nat :=
  if 6 ≤ o.phase then s.unitNow o va n
  else match o.accs.find? fun a => a.va == va && a.len == n && (o.phase == 5 || !a.quiet) with
    | some a =>
      (match a.st with
      | .done => match a.poison with | some c => .error (.data c va) | none => .ok a.data
      | .fault | .skip => .error (.fault va a.detail false)
      | _ => .error (.miss []))
    | none => if o.phase = 5 ∧ (s.tlbFind o.core o.ctx va).isNone then .error (.fault va 1 false)
      else .error (.miss [⟨va, n, o.phase == 5⟩])

/-- Many bytes of a weight blob, read in pieces of 64. -/
def State.unitReadBig (s : State) (o : Op) (va : Nat) : Nat → Except UErr Nat
  | 0 => .ok 0
  | n + 1 => do
    let x ← s.unitNow { o with phase := 8 } va 64
    let y ← s.unitReadBig o (va + 64) n
    .ok (x + 2 ^ 512 * y)

/-- A unit's results: for each active lane the words of its destination registers, or what went wrong. -/
abbrev URes := Fin 16 → Except UErr (List Word)

/-- The lanes of a mask whose result failed. -/
def errLanes (m : Mask) (r : URes) : Mask := maskOf fun l => lane m l && match r l with | .error _ => true | .ok _ => false

/-- The faults of translation among the results. -/
def urFaults (m : Mask) (r : URes) : List (Fin 16 × Nat × Nat) :=
  (laneList m).filterMap fun l => match r l with | .error (.fault va d _) => some (l, d, va) | _ => none

/-- The faults of data among the results. -/
def urData (m : Mask) (r : URes) : List (Fin 16 × Nat × Nat) :=
  (laneList m).filterMap fun l => match r l with | .error (.data c va) => some (l, c, va) | _ => none

/-- The entry with the lowest address, of (lane, what, address). -/
def lowestOf (x : Fin 16 × Nat × Nat) (l : List (Fin 16 × Nat × Nat)) : Fin 16 × Nat × Nat :=
  l.foldl (fun a b => if b.2.2 < a.2.2 then b else a) x

/-- The trap that an instruction of a unit takes in precise mode (16 R390 step 5): an access fault at the lowest address,
else the fault of data; a malformed item leaves FADDR as it was (DESIGN CHOICE, log 193). -/
def preciseUnit (w : Word) (act : Mask) (r : URes) : Option Trap :=
  match urFaults act r with
  | x :: l =>
    let y := lowestOf x l
    some { cause := 0x30, detail := y.2.1, val := w, lanes := maskOf fun i => (x :: l).any (·.1 == i),
           addr := some (BitVec.ofNat 64 y.2.2) }
  | [] =>
    match urData act r with
    | x :: l =>
      let y := lowestOf x l
      some { cause := (dataCause y.2.1).1, detail := (dataCause y.2.1).2, val := w,
             lanes := maskOf fun i => (x :: l).any (·.1 == i)
             addr := if 0x100 ≤ y.2.1 then none else some (BitVec.ofNat 64 y.2.2) }
    | [] => none

/-- What the lanes of a mask still have to read: none when every lane has its result. -/
def urMiss (m : Mask) (r : URes) : Option (List Need) :=
  (laneList m).foldl (fun x l => match r l with | .error (.miss need) => some (x.getD [] ++ need) | _ => x) none

/-- A read of a unit's operation as it begins; one of a verification translates from a cached leaf or is dropped (17 R410). -/
def State.readOf (s : State) (o : Op) (x : Need) : Access :=
  let a : Access := { lane := uniLane, va := x.va, len := x.len, quiet := x.quiet }
  if !x.quiet then a
  else
    let b := (s.transAcc o.core o.ctx o.sup false a).2
    if b.st = .ready then b else { a with st := .skip }

/-- A unit's operation makes some reads, as `ld` does (11 R278; 12 R309). -/
def State.addReads (s : State) (id : Nat) (need : List Need) : State :=
  let seen (g : Nat) (a : Access) : Access := match s.groups.get? g with
    | some x => if s.native x && a.st != .skip then s.forwarded x id a else a
    | none => a
  s.updOp id fun o => { o with accs := o.accs ++ need.dedup.map fun x => seen o.g (s.readOf o x) }

/-- A unit's results written at the end of its operation (16 R386): poison for the lanes that failed. Registers of a lane that
gives no words are unchanged. -/
def State.unitReturn (s : State) (id : Nat) (o : Op) (d n : Nat) (r : URes) : State :=
  match s.groups.get? o.g with
  | none => { s with ops := s.ops.erase id }
  | some g =>
    if g.mode = .ended then s.finishOp id else
    let nat := s.native g
    let good := o.act &&& ~~~o.poison
    (s.preciseStop id o (preciseUnit o.word good r)).getD <|
    let fl := urFaults good r
    let bad := o.poison ||| errLanes good r
    let words (l : Fin 16) : List Word := match r l with | .ok ws => ws | .error _ => []
    let put (g : Group) : Group := (List.range n).foldl (fun g i =>
      let m := maskOf fun l => lane (good &&& ~~~bad) l && decide (i < (words l).length)
      (g.setV (BitVec.ofNat 8 (d + i)) m fun l => (words l).getD i 0).markV (d + i) (m ||| (o.act &&& bad))
        (if nat then o.act &&& bad else 0)) g
    let s := s.setGroup o.g (g.deliver id ((List.range n).map (· + d)) put)
    let s := if nat then s.updGroup o.g fun g => { g with
        pend := g.pend ++ fl.map (fun x => ⟨x.2.2, 0, 2, x.2.1, false⟩)
        trap := { g.trap with flm := g.trap.flm ||| errLanes good r } } else s
    let s := match urData good r with
      | x :: l =>
        let y := lowestOf x l
        s.dataFault o (maskOf fun i => (x :: l).any (·.1 == i)) y.2.1 y.2.2 o.word
      | [] => s
    s.finishOp id

/-- The next step of a unit's operation that has its results `r`: the reads that they lack, or its end; that of a group that has ended
makes no more reads (07 R179; 16 R398). -/
def State.unitStep (s : State) (id : Nat) (o : Op) (d n : Nat) (r : URes) : State :=
  match urMiss (o.act &&& ~~~o.poison) r with
  | some need =>
    if s.overFor o && o.accs.all fun a => a.st == .done || a.st == .skip then s.finishOp id else s.addReads id need
  | none => s.unitReturn id o d n r

/-- Whether a lane's coordinates or address are poisoned as an operation issues. -/
def runPoison (g : Group) (rs : List Nat) (a : BitVec 4) : Mask :=
  if g.poison.a.getLsbD a.toNat then BitVec.allOnes 16
  else rs.foldl (fun m n => m ||| g.poison.v.toList.getD n 0) 0

/-! ### The instructions -/

/-- WINDOW_ACCESS (08 R219) -/
def execWindowAccess (op : Nat) (acc : Nat) (s : State) : Host.Outcome State Fault Refusal :=
  .next (s.windowStep op acc)

end Sys2Proof.Machine
end

