-- ==== Sys2Proof/Machine/Sampler.lean ====
section
/-! DEFINITION. Texture headers, coordinates and levels, classic filtering, the perceptron and the sample instructions
(11 R278 to R296); the weight cache (11 R297 to R301). -/

namespace Sys2Proof.Machine

/-! ### Headers (R279, R280, R283) -/

/-- A classic header (R280). -/
structure TexHdr where
  wrapu : Nat
  wrapv : Nat
  filt : Nat
  fmt : Nat
  lvls : Nat
  lodb : Int
  w : Nat
  h : Nat
  base : Nat
  deriving DecidableEq, Repr

/-- A neural header (R283): the widths n0 to nL, and the activation of each layer. -/
structure NetHdr where
  wrapu : Nat
  wrapv : Nat
  sf : Bool
  mx4 : Bool
  gw : Nat
  gh : Nat
  lbase : Nat
  sbase : Nat
  wbase : Nat
  widths : List Nat
  acts : List Nat
  deriving DecidableEq, Repr

/-- The fields of a classic header that break their limits (R280 to R282). -/
def texBad (x : Nat) : Bool :=
  let w := bits x 47 32 + 1
  let h := bits x 63 48 + 1
  bits x 31 24 != 0 || decide (6 < bits x 11 8) || decide (Nat.log2 (max w h) < bits x 15 12) || bits x 69 64 != 0 ||
  bits x 511 128 != 0 || (bits x 11 8 == 6 && bits x 15 12 != 0)

/-- A classic header's fields. -/
def TexHdr.of (x : Nat) : TexHdr :=
  { wrapu := bits x 3 2, wrapv := bits x 5 4, filt := bits x 7 6, fmt := bits x 11 8, lvls := bits x 15 12
    lodb := intVal .s8 (bits x 23 16), w := bits x 47 32 + 1, h := bits x 63 48 + 1, base := bits x 127 64 }

/-- Layers of a neural header. -/
def netLayers (x : Nat) : Nat := bits x 13 12 + 1

/-- The fields of a neural header that break their limits (R283). -/
def netBad (x : Nat) : Bool :=
  let L := netLayers x
  x.testBit 14 || bits x 31 26 != 0 || bits x 67 64 != 0 || bits x 197 192 != 0 || bits x 511 320 != 0 ||
  (bits x 25 18 >>> (2 * L)) != 0 || (!x.testBit 7 && bits x 191 128 != 0) || (x.testBit 7 && bits x 47 32 % 2 == 0) ||
  bits x 263 262 != 0 || bits x 271 270 != 0 || bits x 319 278 != 0 ||
  (decide (L < 2) && bits x 261 256 != 0) || (decide (L < 3) && bits x 269 264 != 0) || (decide (L < 4) && bits x 277 272 != 0)

/-- A neural header's fields. -/
def NetHdr.of (x : Nat) : NetHdr :=
  let L := netLayers x
  { wrapu := bits x 3 2, wrapv := bits x 5 4, sf := x.testBit 6, mx4 := x.testBit 7
    gw := bits x 47 32 + 1, gh := bits x 63 48 + 1
    lbase := bits x 127 64, sbase := bits x 191 128, wbase := bits x 255 192
    widths := (bits x 11 8 + 1) :: (([bits x 261 256 + 1, bits x 269 264 + 1, bits x 277 272 + 1].take (L - 1)) ++ [bits x 17 15 + 1])
    acts := (List.range L).map fun k => bits x (2 * k + 19) (2 * k + 18) }

/-- The detail of the data-format fault of a header (R279), if any; a misaligned header is malformed. -/
def hdrFault (neural : Bool) (va x : Nat) : Option Nat :=
  if va % 64 ≠ 0 ∨ 2 ≤ x % 4 then some 9
  else if (x % 4 == 1) != neural then some 10
  else if (if neural then netBad x else texBad x) then some 9
  else none

/-- A header read for a unit (R278, R279). -/
def State.unitHdr (s : State) (o : Op) (neural : Bool) (va : Nat) : Except UErr Nat :=
  if va % 64 ≠ 0 then .error (.data 0x109 0)
  else match s.unitRead o va 64 with
    | .error e => .error e
    | .ok x => match hdrFault neural va x with
      | some d => .error (.data (0x100 + d) 0)
      | none => .ok x

/-- The worse of two errors: a half that the host holds, then reads not made yet, then a fault before faulty data, of a header
first, then the lower address. -/
def UErr.pick : UErr → UErr → UErr
  | .held h, _ => .held h
  | _, .held h => .held h
  | .miss l, .miss l' => .miss (l ++ l')
  | .miss l, _ => .miss l
  | _, .miss l => .miss l
  | .fault v d h, .fault v' d' h' => if h' && !h || h' == h && decide (v' < v) then .fault v' d' h' else .fault v d h
  | .fault v d h, .data .. => .fault v d h
  | .data .., .fault v d h => .fault v d h
  | .data c v, .data c' v' => if v' < v then .data c' v' else .data c v

/-- Several reads: all their values, or the worst of their errors. -/
def seqReads {α : Type} : List (Except UErr α) → Except UErr (List α)
  | [] => .ok []
  | x :: l =>
    match x, seqReads l with
    | .ok a, .ok r => .ok (a :: r)
    | .ok _, .error e => .error e
    | .error e, .ok _ => .error e
    | .error e, .error e' => .error (e.pick e')

/-- n bytes that may cross half-lines. -/
def State.unitBytes (s : State) (o : Op) (va n : Nat) : Except UErr Nat :=
  (seqReads ((pieces va n).map fun (h, lo, hi, off) =>
    (s.unitRead o (64 * h + lo) (hi - lo)).map fun x => x <<< (8 * off))).map fun l => l.foldl (· + ·) 0

/-! ### Coordinates, wrap and level (R286 to R288) -/

/-- `Wrap(i, N, mode)` (R286); none is border. -/
def wrapIdx (i : Int) (n mode : Nat) : Option Nat :=
  match mode with
  | 0 => some (i % n).toNat
  | 1 => some (min (max i 0) (n - 1 : Int)).toNat
  | 2 => let j := (i % (2 * n)).toNat; some (if j < n then j else 2 * n - 1 - j)
  | _ => if 0 ≤ i ∧ i < n then some i.toNat else none

/-- A finite value as a dyadic number. -/
def FV.dy : FV → Dy
  | .fin s n e => dyOf s n e
  | _ => ⟨0, 0⟩

/-- Whether a value is NaN or infinite. -/
def FV.wild : FV → Bool
  | .fin .. => false
  | _ => true

/-- The nearest integer, ties to even, of a dyadic number. -/
def Dy.nearest (a : Dy) : Int := (roundInt 0 0 (a.m < 0) a.m.natAbs a.e).1

/-- The floor of a dyadic number. -/
def Dy.floor (a : Dy) : Int := if 0 ≤ a.e then a.m * 2 ^ a.e.toNat else a.m.fdiv (2 ^ (-a.e).toNat)

/-- `Corner(u, N)` (R287): the first texel and the fraction. -/
def corner (u : FV) (n : Nat) : Int × Nat :=
  let X := (((u.dy.mul ⟨n, 0⟩).add ⟨-1, -1⟩).mul ⟨256, 0⟩).nearest
  (X.fdiv 256, (X.fmod 256).toNat)

/-- The footprint of a coordinate pair (R287): index pairs with their weights, in footprint order. -/
def footprint (u v : FV) (w h : Nat) : List ((Int × Int) × Nat) :=
  let (x, fx) := corner u w
  let (y, fy) := corner v h
  [(0, 0), (1, 0), (0, 1), (1, 1)].map fun (i, j) =>
    ((x + (i : Nat), y + (j : Nat)), (if i = 0 then 256 - fx else fx) * (if j = 0 then 256 - fy else fy))

/-- 256 × log2 √(m·2^e), to the nearest integer: it is never half-way between two. -/
def lodOf (m : Nat) (e : Int) : Int := ((Nat.log2 (m ^ 256) : Int) + 256 * e + 1).fdiv 2

/-- What a value of λ gives before the bias (R288): NaN, an infinity, or an integer. -/
inductive Lod where
  | nan
  | inf (neg : Bool)
  | num (k : Int)
  deriving DecidableEq, Repr

/-- RoundInt(256 × λ) of a level operand. -/
def lodFV : FV → Lod
  | .nan => .nan
  | .inf s => .inf s
  | .fin s n e => .num (roundInt 0 0 s n (e + 8)).1

/-- The difference of two coordinates (R294). -/
def fvSub (a b : FV) : FV :=
  match a, b with
  | .nan, _ => .nan
  | _, .nan => .nan
  | .inf s, .inf s' => if s = s' then .nan else .inf s
  | .inf s, _ => .inf s
  | _, .inf s => .inf (!s)
  | a, b => let d := a.dy.add ⟨-b.dy.m, b.dy.e⟩; .fin (d.m < 0) d.m.natAbs d.e

/-- ρ² of a pair of derivatives scaled by the sizes (R288): NaN, infinite, or a dyadic number. -/
def rhoSq (du dv : FV) (w h : Nat) : FV :=
  if du = .nan ∨ dv = .nan then .nan
  else if du.wild ∨ dv.wild then .inf false
  else
    let sq (d : FV) (n : Nat) : Dy := let x := d.dy.mul ⟨n, 0⟩; x.mul x
    let r := (sq du w).add (sq dv h)
    .fin false r.m.natAbs r.e

/-- The λ of two ρ² (R288); the result is 0 when ρ is 0. -/
def lodRho (x y : FV) : Lod :=
  if x = .nan ∨ y = .nan then .nan
  else if x.wild ∨ y.wild then .inf false
  else
    let m := if x.dy.lt y.dy then y.dy else x.dy
    if m.m = 0 then .nan else .num (lodOf m.m.natAbs m.e)

/-- Λ (R288). -/
def TexHdr.level (t : TexHdr) (l : Lod) : Nat :=
  match l with
  | .nan => 0
  | .inf neg => if neg then 0 else 256 * t.lvls
  | .num k => (min (max (k + 16 * t.lodb) 0) (256 * t.lvls)).toNat

/-! ### Texels (R281, R282) -/

/-- Bytes of a texel. -/
def fmtBytes (f : Nat) : Nat := match f with | 0 => 1 | 4 => 8 | 5 => 16 | _ => 4
/-- Width of a level. -/
def TexHdr.wid (t : TexHdr) (m : Nat) : Nat := max 1 (t.w >>> m)
/-- Height of a level. -/
def TexHdr.hei (t : TexHdr) (m : Nat) : Nat := max 1 (t.h >>> m)
/-- Pitch of a level (R282). -/
def TexHdr.pitch (t : TexHdr) (m : Nat) : Nat := (t.wid m * fmtBytes t.fmt + 63) / 64 * 64
/-- Offset of a level (R282). -/
def TexHdr.off (t : TexHdr) (m : Nat) : Nat := ((List.range m).map fun k => t.pitch k * t.hei k).foldl (· + ·) 0

/-- The offset of pixel (x, y) in a Cumin surface of width w (13 R320). -/
def cumOffset (w x y : Nat) : Nat :=
  let t := (y / 8) * ((w + 7) / 8) + x / 8
  65536 * (t / 255) + 256 * (t % 255) + 4 * (8 * (y % 8) + x % 8)

/-- The virtual address of a texel. -/
def TexHdr.addr (t : TexHdr) (m x y : Nat) : Nat :=
  (t.base + (if t.fmt = 6 then cumOffset t.w x y else t.off m + y * t.pitch m + x * fmtBytes t.fmt)) % 2 ^ 64

/-- The divisor of a format's stored channels. -/
def fmtDen (f : Nat) : Nat := if f = 0 ∨ f = 1 ∨ f = 6 then 255 else 1

/-- The channels of a texel's bytes (R281), in units of 1 ÷ fmtDen. -/
def fmtChannels (f x : Nat) : List FV :=
  let un (k : Nat) : FV := .fin false (x >>> (8 * k) % 256) 0
  let hf (k : Nat) : FV := fval .f16 (x >>> (16 * k) % 65536)
  let fl (k : Nat) : FV := fval .f32 (x >>> (32 * k) % 2 ^ 32)
  let z : FV := .fin false 0 0
  match f with
  | 0 => [un 0, z, z, .fin false 255 0]
  | 2 => [hf 0, hf 1, z, .fin false 1 0]
  | 3 => [fl 0, z, z, .fin false 1 0]
  | 4 => [hf 0, hf 1, hf 2, hf 3]
  | 5 => [fl 0, fl 1, fl 2, fl 3]
  | _ => [un 0, un 1, un 2, un 3]

/-- A texel's channels; a border texel is +0 in every channel (R286). -/
def State.texel (s : State) (o : Op) (t : TexHdr) (m : Nat) (xy : Option Nat × Option Nat) : Except UErr (List FV) :=
  match xy with
  | (some x, some y) => (s.unitRead o (t.addr m x y) (fmtBytes t.fmt)).map (fmtChannels t.fmt)
  | _ => .ok (List.replicate 4 (.fin false 0 0))

/-- A texel of wrapped indices. -/
def State.texelWrap (s : State) (o : Op) (t : TexHdr) (m : Nat) (xy : Int × Int) : Except UErr (List FV) :=
  s.texel o t m (wrapIdx xy.1 (t.wid m) t.wrapu, wrapIdx xy.2 (t.hei m) t.wrapv)

/-! ### Classic filtering (R289, R290) -/

/-- One channel from its weighted texels; the weights sum to 2^sh (R289). -/
def filterChannel (t : Ty) (den sh : Nat) (xs : List (Nat × FV)) : Nat :=
  let vs := xs.map (·.2)
  if vs.contains .nan || (vs.contains (.inf true) && vs.contains (.inf false)) then t.nanPat
  else if vs.contains (.inf true) then infResult t false true
  else if vs.contains (.inf false) then infResult t false false
  else
    let S := xs.foldl (fun (a : Dy) x => a.add (x.2.dy.mul ⟨x.1, 0⟩)) ⟨0, 0⟩
    let negZero := vs.all fun v => match v with | .fin true 0 _ => true | _ => false
    (roundTo t 0 0 false { (S.exact negZero) with d := den, e := S.e - sh }).1

/-- The four channels from weighted texels. -/
def filterAll (t : Ty) (den sh : Nat) (xs : List (Nat × List FV)) : List Nat :=
  (List.range 4).map fun k => filterChannel t den sh (xs.map fun x => (x.1, x.2.getD k (.fin false 0 0)))

/-- The first candidate whose running sum of weights exceeds q. -/
def chooseBy {α : Type} (q : Nat) : List (α × Nat) → Nat → Option α
  | [], _ => none
  | (a, w) :: l, acc => if q < acc + w then some a else chooseBy q l (acc + w)

/-- The channels of a classic sample at level Λ (R288 to R290); q is the draw. -/
def State.classic (s : State) (o : Op) (t : TexHdr) (ty : Ty) (u v : FV) (lam q : Nat) : Except UErr (List Nat) :=
  if u.wild ∨ v.wild then .ok (List.replicate 4 ty.nanPat)
  else
    let den := fmtDen t.fmt
    let near := min ((lam + 128) / 256) t.lvls
    let m0 := lam / 256
    let m1 := min (m0 + 1) t.lvls
    let foot (m : Nat) : List ((Int × Int) × Nat) := footprint u v (t.wid m) (t.hei m)
    match t.filt with
    | 0 =>
      let xy := ((u.dy.mul ⟨t.wid near, 0⟩).floor, (v.dy.mul ⟨t.hei near, 0⟩).floor)
      (s.texelWrap o t near xy).map fun c => filterAll ty den 0 [(1, c)]
    | 1 => (seqReads ((foot near).map fun f => (s.texelWrap o t near f.1).map fun c => (f.2, c))).map (filterAll ty den 16)
    | 2 =>
      let lv (m w : Nat) : List (Except UErr (Nat × List FV)) :=
        (foot m).map fun f => (s.texelWrap o t m f.1).map fun c => (w * f.2, c)
      (seqReads (lv m0 (256 - lam % 256) ++ lv m1 (lam % 256))).map (filterAll ty den 24)
    | _ =>
      let cand (m w : Nat) : List ((Nat × Int × Int) × Nat) := (foot m).map fun f => ((m, f.1), w * f.2)
      match chooseBy (q / 256) (cand m0 (256 - lam % 256) ++ cand m1 (lam % 256)) 0 with
      | some (m, xy) => (s.texelWrap o t m xy).map fun c => filterAll ty den 0 [(1, c)]
      | none => .ok (List.replicate 4 0)

/-- The channels of `txf` (R294). -/
def State.texFetch (s : State) (o : Op) (t : TexHdr) (ty : Ty) (x y level : Int) : Except UErr (List Nat) :=
  let m := level.toNat
  if level < 0 ∨ (t.lvls : Int) < level ∨ x < 0 ∨ y < 0 ∨ (t.wid m : Int) ≤ x ∨ (t.hei m : Int) ≤ y then .ok (List.replicate 4 0)
  else (s.texel o t m (some x.toNat, some y.toNat)).map fun c => filterAll ty (fmtDen t.fmt) 0 [(1, c)]

/-- Destination words of four channels (R294). -/
def texWords (ty : Ty) (c : List Nat) : List Word :=
  if ty = .f16 then [BitVec.ofNat 32 (c.getD 0 0 + 65536 * c.getD 1 0), BitVec.ofNat 32 (c.getD 2 0 + 65536 * c.getD 3 0)]
  else c.map (BitVec.ofNat 32)

/-! ### The perceptron (R284, R285, R291, R292) -/

/-- A channel of a latent, and of a border one (R284, R286). -/
def State.latent (s : State) (o : Op) (h : NetHdr) (xy : Int × Int) : Except UErr (List FV) :=
  let C := h.widths.headD 1
  match wrapIdx xy.1 h.gw h.wrapu, wrapIdx xy.2 h.gh h.wrapv with
  | some x, some y =>
    let n := y * h.gw + x
    if h.mx4 then
      let b := n / 2
      match s.unitBytes o ((h.lbase + 16 * b) % 2 ^ 64) 16, s.unitBytes o ((h.sbase + b) % 2 ^ 64) 1 with
      | .ok d, .ok sc => .ok ((List.range C).map fun c => blockVal .e2m1 sc (d >>> (4 * (16 * (x % 2) + c)) % 16))
      | .error e, .ok _ => .error e
      | .ok _, .error e => .error e
      | .error e, .error e' => .error (e.pick e')
    else (s.unitBytes o ((h.lbase + n * C) % 2 ^ 64) C).map fun d => (List.range C).map fun c => fval .e4m3 (d >>> (8 * c) % 256)
  | _, _ => .ok (List.replicate C (.fin false 0 0))

/-- `Q8(a)` (R291), as a pattern. -/
def q8 : FV → Nat
  | .nan => 0x7F
  | .inf s => (if s then 0x80 else 0) + 0x7E
  | .fin s n e => (roundTo .e4m3 0 0 true ⟨s, n, 1, e⟩).1

/-- The knots of the sigmoid (R292). -/
def sigmoidKnots : List Nat :=
  [22, 36, 60, 98, 162, 267, 439, 720, 1179, 1921, 3108, 4971, 7812, 11955, 17625, 24743, 32768] ++
  [40793, 47911, 53581, 57724, 60565, 62428, 63615, 64357, 64816, 65097, 65269, 65374, 65438, 65476, 65500, 65514]

/-- σ(z) of a finite z (R292), exact, in units of 2^−16. -/
def sigmoid (z : Dy) : Dy :=
  let knot (k : Nat) : Int := (sigmoidKnots.getD k 0 : Nat)
  if !(Dy.lt ⟨-8, 0⟩ z) then ⟨knot 0, 0⟩
  else if !(z.lt ⟨8, 0⟩) then ⟨knot 32, 0⟩
  else
    let g := (z.add ⟨8, 0⟩).mul ⟨2, 0⟩
    let k := g.floor.toNat
    let f := g.add ⟨-(k : Int), 0⟩
    (f.mul ⟨knot (k + 1) - knot k, 0⟩).add ⟨knot k, 0⟩

/-- `Act` of a layer on an f32 value (R292), as a value. -/
def actFn (code : Nat) (z : FV) : FV :=
  match z with
  | .nan => .nan
  | .inf s =>
    match code with
    | 0 => z
    | 1 => if s then .fin false 0 0 else z
    | 2 => z
    | _ => let y := sigmoid ⟨if s then -8 else 8, 0⟩; .fin false y.m.natAbs (y.e - 16)
  | .fin s n e =>
    match code with
    | 0 => z
    | 1 => if s ∨ n = 0 then .fin false 0 0 else z
    | 2 => if s ∧ n ≠ 0 then fval .f32 (roundTo .f32 0 0 false ⟨s, n, 1, e - 3⟩).1 else z
    | _ =>
      let y := sigmoid (dyOf s n e)
      fval .f32 (roundTo .f32 0 0 false ⟨false, y.m.natAbs, 1, y.e - 16⟩).1

/-- The sum of a neuron rounded to f32 (R291; 04 R90), the bias one more product. -/
def neuron (ws xs : List FV) (b : FV) : FV :=
  let p := prodSum ((ws.zip xs) ++ [(b, .fin false 1 0)])
  if p.nan then .nan
  else match p.inf with
    | some s => .inf s
    | none => fval .f32 (roundTo .f32 0 0 false (p.sum.exact p.negZero)).1

/-- The offsets and widths of the layers in a blob (R285): (F, n, n of the layer before). -/
def layersOf : List Nat → Nat → List (Nat × Nat × Nat)
  | n :: m :: l, F => (F, m, n) :: layersOf (m :: l) (F + (m * n + 63) / 64 * 64 + (2 * m + 63) / 64 * 64)
  | _, _ => []

/-- Z, the blob's size (R285). -/
def NetHdr.size (h : NetHdr) : Nat :=
  (layersOf h.widths 0).foldl (fun _ x => x.1 + (x.2.1 * x.2.2 + 63) / 64 * 64 + (2 * x.2.1 + 63) / 64 * 64) 0

/-- The values of one layer before its activation. -/
def layerSums (blob : Nat) (x : Nat × Nat × Nat) (ins : List FV) : List FV :=
  let (F, n, m) := x
  let A := (n * m + 63) / 64 * 64
  (List.range n).map fun j =>
    neuron ((List.range m).map fun i => fval .e4m3 (blob >>> (8 * (F + m * j + i)) % 256)) ins
      (fval .f16 (blob >>> (8 * (F + A + 2 * j)) % 65536))

/-- The layers in turn: the outputs as f16 patterns (R291). -/
def runLayers (blob : Nat) : List ((Nat × Nat × Nat) × Nat) → List FV → List Nat
  | [], _ => []
  | [(x, a)], ins => (layerSums blob x ins).map fun z => (match actFn a z with
      | .nan => Ty.f16.nanPat
      | .inf s => infResult .f16 false s
      | .fin s n e => (roundTo .f16 0 0 false ⟨s, n, 1, e⟩).1)
  | (x, a) :: l, ins => runLayers blob l ((layerSums blob x ins).map fun z => fval .e4m3 (q8 (actFn a z)))

/-- The inputs of a network for a coordinate pair (R291); q is the draw. An interpolation that is exactly zero is −0 only if its four
latents are −0 (DESIGN CHOICE, log 182). -/
def State.netInputs (s : State) (o : Op) (h : NetHdr) (u v : FV) (q : Nat) : Except UErr (List FV) :=
  let fp := footprint u v h.gw h.gh
  let C := h.widths.headD 1
  if h.sf then
    match chooseBy (q / 65536) fp 0 with
    | some xy => s.latent o h xy
    | none => .ok (List.replicate C (.fin false 0 0))
  else
    (seqReads (fp.map fun f => (s.latent o h f.1).map fun c => (f.2, c))).map fun xs =>
      (List.range C).map fun k =>
        let vs := xs.map fun x => x.2.getD k .nan
        if vs.any FV.wild then .nan
        else
          let S := xs.foldl (fun (a : Dy) x => a.add ((x.2.getD k .nan).dy.mul ⟨x.1, 0⟩)) ⟨0, 0⟩
          let z := vs.all fun v => match v with | .fin true 0 _ => true | _ => false
          .fin (if S.m = 0 then z else S.m < 0) S.m.natAbs (S.e - 16)

/-- The four result words of `smpn` (R291, R295). -/
def State.neural (s : State) (o : Op) (h : NetHdr) (blob : Nat) (u v : FV) (q : Nat) : Except UErr (List Word) :=
  let O := h.widths.getLastD 1
  let words (out : List Nat) : List Word :=
    (List.range 4).map fun i => BitVec.ofNat 32 (out.getD (2 * i) 0 + 65536 * out.getD (2 * i + 1) 0)
  if u.wild ∨ v.wild then .ok (words (List.replicate O 0x7E00))
  else (s.netInputs o h u v q).map fun ins =>
    words (runLayers blob ((layersOf h.widths 0).zip h.acts) (ins.map fun x => fval .e4m3 (q8 x)))

/-! ### The weight cache (R297, R298) -/

/-- The entry of a blob in a core. -/
def Core.weights (c : Core) (ctx wbase : Nat) : Option WEntry := c.wcache.find? fun w => w.ctx == ctx && w.wbase == wbase

/-- Granules of an entry. -/
def WEntry.granules (w : WEntry) : Nat := (w.size + 1023) / 1024

/-- Whether an entry is evicted before another: of another context first, then the less recently used. -/
def WEntry.before (ctx : Nat) (a b : WEntry) : Bool :=
  if (a.ctx == ctx) != (b.ctx == ctx) then b.ctx == ctx else decide (a.used < b.used)

/-- Entries evicted until n granules are free. -/
def evictWeights (ctx need : Nat) : Nat → List WEntry → List WEntry
  | 0, l => l
  | k + 1, l =>
    if (l.map (·.granules)).foldl (· + ·) 0 + need ≤ 256 then l
    else match (l.filter (·.pins.isEmpty)).foldl (fun (r : Option WEntry) w => match r with
        | none => some w
        | some v => if w.before ctx v then some w else some v) none with
      | some w => evictWeights ctx need k (l.filter fun x => !(x.ctx == w.ctx && x.wbase == w.wbase))
      | none => l

/-- An entry installed. -/
def Core.install (c : Core) (w : WEntry) : Core := { c with wcache := w :: evictWeights w.ctx w.granules 256 c.wcache }

/-- The whole blob read at its home at one tick, without a lease (R278). -/
def State.readBlob (s : State) (o : Op) (h : NetHdr) : Except UErr Nat := s.unitReadBig o h.wbase (h.size / 64)

/-- The blob as an evaluation uses it: bytes that a smaller entry of the same wbase lacks are not stated (log 5). -/
def State.blobData (s : State) (w : WEntry) (size : Nat) : Nat :=
  if size ≤ w.size then w.data
  else w.data + 2 ^ (8 * w.size) * packBits ((List.range ((size - w.size + 3) / 4)).map fun i => (32, (Sys2Proof.Config.freeWord (s.free + i)).toNat))

/-- The header of an operation that needs a blob, once it has been read: of `smpn` in its accesses, of `wcpin` at its issue. -/
def Op.netHdr (o : Op) (s : State) : Option Nat :=
  match o.kind with
  | .sample 4 _ hdr _ => (s.unitHdr o true hdr).toOption
  | .wcpin .. => some o.result
  | _ => none

/-- A `wcpin` whose blob does not read stops precisely: its path is again at the instruction, after any pending fault; a record
is posted, or it traps (R300; 16 R388, R390, R392; 21 R469). -/
def State.pinFail (s : State) (id : Nat) (o : Op) (e : UErr) : State :=
  match s.groups.get? o.g with
  | none => { s with ops := s.ops.erase id }
  | some g =>
    let back (s : State) : State := (s.endWaits o.g fun e => if e.hold = .op id then { e with hold := .none } else e).finishOp id
    let trap (t : Trap) : State := ((back s).raiseTrapAt o.g o.pc (g.liveOf o.live) t).getD s
    match e with
    | .fault va d _ =>
      if s.native g && g.precise then
        trap { cause := 0x30, detail := d, val := o.word, lanes := o.act, addr := some (BitVec.ofNat 64 va) }
      else if s.native g && !s.settled o.g then s
      else if s.native g && s.pending o.g g then s.updGroup o.g Group.stopForFault
      else if s.native g then
        let (s, rs) := (back s).postPend o.ctx [⟨va, 0, 2, d, false⟩]
        s.updGroup o.g fun g => { g.newReplayPoint o.pc s.nextOp with mode := .faulted, posted := rs, trap := { g.trap with flm := o.act } }
      else (back s).postFor o.g o.ctx { id := 0, va := va, kind := 0, src := 2, detail := d }
    | .data code va =>
      trap { cause := (dataCause code).1, detail := (dataCause code).2, val := o.word, lanes := o.act
             addr := if 0x100 ≤ code then none else some (BitVec.ofNat 64 va) }
    | _ => s

/-- WEIGHT_FILL for an operation (R297). -/
def State.weightFillStep (s : State) (id : Nat) : State :=
  match s.ops.get? id with
  | none => s
  | some o =>
    match o.netHdr s with
    | none => s
    | some x =>
      let h := NetHdr.of x
      if o.finished || ((s.core o.core).weights o.ctx h.wbase).isSome then s
      else match s.readBlob o h with
        | .error (.held x) => s.backInval [x]
        | .error e => match o.kind with | .wcpin .. => s.pinFail id o e | _ => s
        | .ok d => s.updCore o.core fun c => c.install ⟨o.ctx, h.wbase, h.size, d, [], s.gnomon⟩

/-! ### Results (R294 to R296) -/

/-- The coordinates of a lane. -/
def Op.coords (o : Op) (l : Fin 16) : List Nat := o.draws.getD l.val []
/-- Coordinate k of a lane as f32. -/
def Op.coord (o : Op) (l : Fin 16) (k : Nat) : FV := fval .f32 ((o.coords l).getD k 0)

/-- The level Λ of a lane (R288, R294). -/
def Op.lod (o : Op) (ins : Nat) (t : TexHdr) (l : Fin 16) : Nat :=
  let q (k : Nat) : Fin 16 := Fin.ofNat 16 (4 * (l.val / 4) + k)
  t.level (match ins with
    | 2 => lodFV (o.coord l 2)
    | 1 => lodRho (rhoSq (o.coord l 2) (o.coord l 3) t.w t.h) (rhoSq (o.coord l 4) (o.coord l 5) t.w t.h)
    | _ =>
      let d (k c : Nat) : FV := fvSub (o.coord (q k) c) (o.coord (q 0) c)
      lodRho (rhoSq (d 1 0) (d 1 1) t.w t.h) (rhoSq (d 2 0) (d 2 1) t.w t.h))

/-- Every active lane's result of a sample instruction: nothing to read, but no result, while only its blob is absent from the
weight cache or a half of it is with the host (08 R223). In compatibility mode a fault of the blob's read is met by an access
without bytes to its page, which parks with its record (16 R392); it takes no lease, as the blob's read does not (R278). -/
def State.sampleResults (s : State) (o : Op) (ins hdr : Nat) (ty : Ty) : URes :=
  let q (l : Fin 16) : Nat := o.vals.getD l.val 0
  match s.unitHdr o (ins == 4) hdr with
  | .error e => fun _ => .error e
  | .ok x =>
    if ins = 4 then
      let h := NetHdr.of x
      match (s.core o.core).weights o.ctx h.wbase with
      | some w => fun l => s.neural o h (s.blobData w h.size) (o.coord l 0) (o.coord l 1) (q l)
      | none =>
        let waits (need : List Need) : URes := fun l => match s.netInputs o h (o.coord l 0) (o.coord l 1) (q l) with
          | .error (.miss more) => .error (.miss (need ++ more))
          | _ => .error (.miss need)
        match s.readBlob o h with
        | .ok _ | .error (.held _) => waits []
        | .error (.fault va d x) =>
          if (s.groups.get? o.g).any s.native then fun _ => .error (.fault va d x)
          else waits (if o.accs.any fun a => a.va == va && a.len == 0 && a.st != .done then [] else [⟨va, 0, false⟩])
        | .error e => fun _ => .error e
    else
      let t := TexHdr.of x
      fun l =>
        let int (k : Nat) : Int := intVal .s32 ((o.coords l).getD k 0)
        (if ins = 3 then s.texFetch o t ty (int 0) (int 1) (int 2)
          else s.classic o t ty (o.coord l 0) (o.coord l 1) (o.lod ins t l) (q l)).map (texWords ty)

/-- Registers of a sample's destination run (R293); four for a type that is neither f32 nor f16, whose trap comes after the check of the
run (DESIGN CHOICE, log 183). -/
def sampleRegs (ins : Nat) (ty : Ty) : Nat := if ins ≠ 4 ∧ ty = .f16 then 2 else 4

/-- The entry that an evaluation used is the most recently used (R297). -/
def State.usedWeights (s : State) (o : Op) (hdr : Nat) : State :=
  match s.unitHdr o true hdr with
  | .ok x => s.updCore o.core fun c => { c with wcache := c.wcache.map fun w =>
      if w.ctx = o.ctx ∧ w.wbase = (NetHdr.of x).wbase then { w with used := s.gnomon } else w }
  | .error _ => s

/-- Whether a sample with a header draws (R290). -/
def hdrDraws (ins x : Nat) : Bool := ins != 3 && (if ins = 4 then (NetHdr.of x).sf else (TexHdr.of x).filt == 3)

/-- A sample whose header has come draws in each active lane, if the header asks for it (R290, R296): phase 2, and other
instructions may draw again. -/
def State.sampleDraw (s : State) (id : Nat) (o : Op) (ins x : Nat) : State :=
  let s := s.updOp id fun o => { o with phase := 2, writes := { o.writes with rng := false } }
  match s.groups.get? o.g with
  | none => s
  | some g =>
    if hdrDraws ins x then
      let (qs, g') := g.draw o.act 1
      (s.setGroup o.g g').updOp id fun o => { o with vals := (List.finRange 16).map fun l => (l.val, (qs l).headD 0) }
    else s

/-- SAMPLE_RETURN (R278, R296): the header is read, then what the lanes need of the texture, at last the results; an evaluation
waits while its dot array is lent. -/
def State.sampleStep (s : State) (id : Nat) : State :=
  match s.ops.get? id with
  | none => s
  | some o =>
    match o.kind with
    | .sample ins d hdr ty =>
      let n := sampleRegs ins ty
      if o.finished then s
      else if o.phase = 0 then
        match s.unitHdr o (ins == 4) hdr with
        | .error e => s.unitStep id o d n fun _ => .error e
        | .ok x => s.sampleDraw id o ins x
      else
        let r := s.sampleResults o ins hdr ty
        let lent := ins == 4 && (s.groups.get? o.g).any fun g => (s.lendAt g.core g.bay).cur.isSome
        if (urMiss (o.act &&& ~~~o.poison) r).isSome then s.unitStep id o d n r
        else if lent then s.updOp id fun o => { o with phase := 1 }
        else (if ins = 4 then ({ s with free := s.free + 4096 } : State).usedWeights o hdr else s).unitStep id o d n r
    | _ => s

/-! ### Issue (R293, R296) -/

/-- Coordinate registers of an instruction. -/
def coordRegs (ins : Nat) : Nat := match ins with | 1 => 6 | 2 => 3 | 3 => 3 | _ => 2

/-- What a sample instruction names and needs. -/
def useSample (ins : Nat) (ty : Ty) (d : BitVec 8) (a : BitVec 4) (b : BitVec 8) : Use :=
  { ar := [a.toNat], vr := (List.range (coordRegs ins)).map (· + b.toNat)
    later := { v := (List.range (sampleRegs ins ty)).map (· + d.toNat), rng := ins != 3 }
    ext := if ins = 4 then some 4 else none
    types := if ins = 4 then none else some [.f32, .f16]
    cls := some 3, ownPoison := true }

/-- An instruction that meets a half that the host holds waits for it (08 R223). -/
def State.askBack (s : State) (h : Nat) : Eff :=
  match s.halves.get? h with
  | some (.h _) => .ended (s.backInval [h])
  | _ => .stay

/-- The lanes whose coordinates are poisoned: for `smp` those of the lanes of its quad that give its derivatives as well
(R294; 16 R386). -/
def samplePoison (ins : Nat) (p : Mask) : Mask :=
  if ins ≠ 0 then p else maskOf fun l => lane p l || (List.range 3).any fun k => p.getLsbD (4 * (l.val / 4) + k)

/-- The effect of a sample instruction (R293, R296): its operation. -/
def sampleEff (ins : Nat) (d : BitVec 8) (a : BitVec 4) (b : BitVec 8) (c : Iss) (s : State) : Eff :=
  let ty := mdType c.md
  let hdr := (c.g.areg a).toNat
  let run := (List.range (coordRegs ins)).map (· + b.toNat)
  let o := c.op (.sample ins d.toNat hdr ty) (some 3)
  let o := { o with
    draws := (List.finRange 16).map fun l => (l.val, run.map fun n => (c.g.vget n l).toNat)
    poison := if c.native then samplePoison ins (runPoison c.g run a) &&& c.act else 0
    writes := { v := (List.range (sampleRegs ins ty)).map (· + d.toNat), rng := ins != 3 } }
  .ok ((s.setGroup c.gid c.g).addOp o).1 []

/-! ### The weight-cache instructions (R299 to R301) -/

/-- The header of `wcpin` and `wcunp` as an access of the path, for its faults. -/
def hdrAccess (va d : Nat) : List Access := [{ lane := uniLane, va := va, len := 64, st := .fault, detail := d }]

/-- A line that an instruction of the weight cache reads is on its way to the L1 (R278): a prefetch that takes a lease. -/
def State.bring (s : State) (c : Iss) (need : List Need) : Eff :=
  if need.isEmpty ∨ (s.ops.any fun e => e.2.g == c.gid && e.2.kind == .pref && !e.2.finished) then .stay
  else .ended (s.addOp { c.op .pref none with accs := need.map fun x => { lane := uniLane, va := x.va, len := x.len } }).1

/-- A sink's precise answer to the error of a unit's read: the stop with its record, the park of compatibility mode, or the
trap of faulty data (R300; 16 R388, R392; 21 R469). -/
def sinkUnit (c : Iss) (s : State) (e : UErr) : Eff :=
  match e with
  | .held h => s.askBack h
  | .miss need => s.bring c need
  | .fault va d _ =>
    if c.native then
      if c.g.precise then .trap (accessTrap c.word c.act (hdrAccess va d)) else .ended (s.sinkFault c (hdrAccess va d) 2)
    else .ended (s.postFor c.gid c.g.ctx { id := 0, va := va, kind := 0, src := 2, detail := d })
  | .data code va =>
    .trap { cause := (dataCause code).1, detail := (dataCause code).2, val := c.word, lanes := c.act
            addr := if 0x100 ≤ code then none else some (BitVec.ofNat 64 va) }

/-- The effect of `wcpin` (R300): the path waits for the fill, the pin and p[D]. -/
def wcpinEff (d : BitVec 3) (a : BitVec 4) (c : Iss) (s : State) : Eff :=
  if c.act = 0 then .ok (s.setGroup c.gid c.g) []
  else
    let hdr := (c.g.areg a).toNat
    let o := { c.op (.wcpin d.toNat hdr) (some 3) with writes := { p := [d.toNat] }, phase := 7 }
    match s.unitHdr o true hdr with
    | .error e => sinkUnit c s e
    | .ok x =>
      let h := NetHdr.of x
      match (if ((s.core o.core).weights o.ctx h.wbase).isSome then Except.ok 0 else s.readBlob o h) with
      | .error e => sinkUnit c s e
      | .ok _ =>
        let (s, id) := (s.setGroup c.gid c.g).addOp { o with result := x }
        .ok (s.setGroup c.gid (c.hold (.op id))) []

/-- The pin of a filled entry (R300): whether it is made. -/
def Core.mayPin (c : Core) (gid : Nat) (w : WEntry) : Bool :=
  let held := (c.wcache.map fun x => x.pins.count gid).foldl (· + ·) 0
  let pinned := ((c.wcache.filter fun x => !x.pins.isEmpty).map (·.granules)).foldl (· + ·) 0
  decide (held < 4) && decide (pinned + (if w.pins.isEmpty then w.granules else 0) ≤ 192)

/-- The end of a `wcpin` whose entry is present: the pin, p[D], and its path goes on. -/
def State.pinEnd (s : State) (id : Nat) : State :=
  match s.ops.get? id with
  | none => s
  | some o =>
    match o.kind with
    | .wcpin d _ =>
      match (s.core o.core).weights o.ctx (NetHdr.of o.result).wbase, s.groups.get? o.g with
      | some w, some g =>
        if o.finished then s
        else
          let ok := (s.core o.core).mayPin o.g w
          let s := if ok then s.updCore o.core fun c => { c with wcache := c.wcache.map fun y =>
              if y.ctx = w.ctx ∧ y.wbase = w.wbase then { y with pins := o.g :: y.pins, used := s.gnomon } else y } else s
          let s := s.setGroup o.g (g.deliver id [262] fun g => g.setP (BitVec.ofNat 3 d) (if ok then 0xFFFF else 0))
          (s.endWaits o.g fun e => if e.hold = .op id then e.go else e).finishOp id
      | _, _ => s
    | _ => s

/-- WEIGHT_FILL (R297, R300) -/
def State.weightStep (s : State) (id : Nat) : State := (s.weightFillStep id).pinEnd id

/-- The effect of `wcunp` (R300). -/
def wcunpEff (a : BitVec 4) (c : Iss) (s : State) : Eff :=
  if c.act = 0 then .ok (s.setGroup c.gid c.g) []
  else
    let hdr := (c.g.areg a).toNat
    match s.unitHdr { c.op (.wcpin 0 hdr) none with phase := 7 } true hdr with
    | .error (.data code va) => if 0x100 ≤ code then .ok (s.setGroup c.gid c.g) [] else sinkUnit c s (.data code va)
    | .error e => sinkUnit c s e
    | .ok x =>
      let wb := (NetHdr.of x).wbase
      .ok ((s.setGroup c.gid c.g).updCore c.g.core fun k => { k with wcache := k.wcache.map fun w =>
        if w.ctx = c.g.ctx ∧ w.wbase = wb then { w with pins := w.pins.erase c.gid } else w }) []

/-- The effect of `wcinv` (R301): a release at .dev, then the removal on every core. -/
def wcinvEff (va : Option (BitVec 4)) (c : Iss) (s : State) : Eff :=
  if c.act = 0 then .ok (s.setGroup c.gid c.g) []
  else
    let (s, id) := s.addOp { c.op (.wcinv (va.map fun a => (c.g.areg a).toNat)) (some 3) with queued := true }
    .ok (s.setGroup c.gid ((c.release 3 (.store id)))) []

/-- WCINV_DONE (R301): once its release has ended, every core removes the entries. -/
def State.wcinvStep (s : State) (id : Nat) : State :=
  match s.ops.get? id with
  | none => s
  | some o =>
    match o.kind with
    | .wcinv va =>
      if o.finished || o.queued then s
      else
        let hit (w : WEntry) : Bool := w.ctx == o.ctx && (match va with
          | none => true
          | some b => decide (w.wbase ≤ b ∧ b < w.wbase + w.size))
        (s.updCores fun _ c => { c with wcache := c.wcache.filter fun w => !hit w }).finishOp id
    | _ => s

/-! ### The instructions -/

/-- smp (11 R293) -/
def execSmp (d : BitVec 8) (a : BitVec 4) (b : BitVec 8) (s : State) : Host.Outcome State Fault Refusal :=
  issue (W.smp d a b) (useSample 0 s.curTy d a b) (sampleEff 0 d a b) s

/-- smpg (11 R293) -/
def execSmpg (d : BitVec 8) (a : BitVec 4) (b : BitVec 8) (s : State) : Host.Outcome State Fault Refusal :=
  issue (W.smpg d a b) (useSample 1 s.curTy d a b) (sampleEff 1 d a b) s

/-- smpl (11 R293) -/
def execSmpl (d : BitVec 8) (a : BitVec 4) (b : BitVec 8) (s : State) : Host.Outcome State Fault Refusal :=
  issue (W.smpl d a b) (useSample 2 s.curTy d a b) (sampleEff 2 d a b) s

/-- txf (11 R294) -/
def execTxf (d : BitVec 8) (a : BitVec 4) (b : BitVec 8) (s : State) : Host.Outcome State Fault Refusal :=
  issue (W.txf d a b) (useSample 3 s.curTy d a b) (sampleEff 3 d a b) s

/-- smpn (11 R291, R295) -/
def execSmpn (d : BitVec 8) (a : BitVec 4) (b : BitVec 8) (s : State) : Host.Outcome State Fault Refusal :=
  issue (W.smpn d a b) (useSample 4 s.curTy d a b) (sampleEff 4 d a b) s

/-- wcpin (11 R300): a sink -/
def execWcpin (d : BitVec 3) (a : BitVec 4) (s : State) : Host.Outcome State Fault Refusal :=
  issue (W.wcpin d a) { ar := [a.toNat], later := { p := [d.toNat] }, cls := some 3, uniform := true, sink := true, ownPoison := true } (wcpinEff d a) s

/-- wcunp (11 R300): a sink -/
def execWcunp (a : BitVec 4) (s : State) : Host.Outcome State Fault Refusal :=
  issue (W.wcunp a) { ar := [a.toNat], uniform := true, sink := true } (wcunpEff a) s

/-- wcinv (11 R301): a sink -/
def execWcinv (a : BitVec 4) (s : State) : Host.Outcome State Fault Refusal :=
  issue (W.wcinv a) { ar := [a.toNat], cls := some 3, uniform := true, sink := true } (wcinvEff (some a)) s

/-- wcinv.all (11 R301): a sink -/
def execWcinvAll (s : State) : Host.Outcome State Fault Refusal :=
  issue W.wcinvAll { cls := some 3, uniform := true, sink := true } (wcinvEff none) s

/-- SAMPLE_RETURN (11 R296) -/
def execSampleReturn (op : Nat) (s : State) : Host.Outcome State Fault Refusal :=
  .next (s.sampleStep op)

/-- WEIGHT_FILL (11 R297, R300) -/
def execWeightFill (op : Nat) (s : State) : Host.Outcome State Fault Refusal :=
  .next (s.weightStep op)

/-- WCINV_DONE (11 R301) -/
def execWcinvDone (op : Nat) (s : State) : Host.Outcome State Fault Refusal :=
  .next (s.wcinvStep op)

end Sys2Proof.Machine
end

