-- ==== Sys2Proof/Machine/Ray.lean ====
section
/-! DEFINITION. Acceleration structures, rays, intersection, candidates and the ray instructions (12); the Almanac (17). -/

namespace Sys2Proof.Machine

/-! ### Structures in memory (R304 to R307) -/

/-- A structure header (R304). -/
structure RayHdr where
  sid : Nat
  bottom : Bool
  root : Nat
  bound : List Nat
  abase : Nat
  acount : Nat
  deriving DecidableEq, Repr

/-- What a malformed item gives (R307). -/
def rayBad : UErr := .data 0x10B 0

/-- Whether a child reference breaks its limits (R305). -/
def refBad (ref : Nat) : Bool := bits ref 5 4 == 3 || (bits ref 5 4 != 2 && bits ref 3 0 != 0)

/-- A structure header read and checked, its root reference with it (R304, R307). -/
def State.rayHdr (s : State) (o : Op) (va : Nat) : Except UErr RayHdr :=
  if va % 64 ≠ 0 then .error rayBad
  else match s.unitRead o va 64 with
    | .error e => .error e
    | .ok x =>
      let abase := bits x 383 320
      if refBad (bits x 127 64) ∨ bits x 31 2 ≠ 0 ∨ 2 ≤ x % 4 ∨ bits x 447 416 ≠ 0 ∨ bits x 511 448 ≠ 0 ∨ abase % (if x % 4 = 1 then 64 else 128) ≠ 0 then .error rayBad
      else .ok { sid := bits x 63 32, bottom := x % 4 == 1, root := bits x 127 64
                 bound := (List.range 6).map fun k => bits x (159 + 32 * k) (128 + 32 * k)
                 abase := abase, acount := bits x 415 384 }

/-- A value of an f32 pattern. -/
def f32v (x : Nat) : FV := fval .f32 (x % 2 ^ 32)

/-- A leaf of a structure: its address and its records − 1. -/
structure LeafRef where
  addr : Nat
  nm1 : Nat
  deriving DecidableEq, Repr

/-- The leaves below a child reference whose boxes pass a test (R305, R307); fuel is how many more box nodes may lie
below. A node is read and checked whole (R309). -/
def State.leaves (s : State) (o : Op) (test : List Nat → Bool) : Nat → Nat → Except UErr (List LeafRef)
  | fuel, ref =>
    let ck := bits ref 5 4
    let addr := ref / 64 * 64
    if refBad ref then .error rayBad
    else if ck = 0 then .ok []
    else if ck = 2 then .ok [⟨addr, bits ref 3 0⟩]
    else match fuel with
      | 0 => .error rayBad
      | n + 1 =>
        if addr % 128 ≠ 0 then .error rayBad
        else match s.unitRead o addr 128 with
          | .error e => .error e
          | .ok x =>
            let slots := (List.range 4).map fun k => bits x (256 * k + 255) (256 * k)
            let go (y : Nat) : Except UErr (List LeafRef) :=
              let r := bits y 255 192
              if bits r 5 4 ≠ 0 ∧ !(test ((List.range 6).map fun k => bits y (32 * k + 31) (32 * k))) then .ok []
              else s.leaves o test n r
            if slots.any fun y => refBad (bits y 255 192) then .error rayBad else (seqReads (slots.map go)).map List.flatten

/-- The record indices of a leaf under a header (R305, R307), with the leaf. -/
def RayHdr.records (h : RayHdr) (f : LeafRef) : Except UErr (List (Nat × LeafRef)) :=
  let sz := if h.bottom then 64 else 128
  let i := (f.addr - h.abase) / sz
  if f.addr < h.abase ∨ (f.addr - h.abase) % sz ≠ 0 ∨ h.acount < i + f.nm1 + 1 then .error rayBad
  else .ok ((List.range (f.nm1 + 1)).map fun k => (i + k, f))

/-- The records of every leaf of a structure (R307: at most 65 box nodes in a chain). -/
def State.allRecords (s : State) (o : Op) (h : RayHdr) (test : List Nat → Bool) : Except UErr (List (Nat × LeafRef)) :=
  match s.leaves o test 65 h.root with
  | .error e => .error e
  | .ok fs => (seqReads (fs.map h.records)).map List.flatten

/-! ### The ray (R310, R311) -/

/-- A ray: origin, direction, tmin, tmax and flags. -/
structure Ray where
  o : List FV
  d : List FV
  tmin : FV
  tmax : FV
  flags : Nat
  deriving DecidableEq, Repr

/-- The ray of nine words. -/
def Ray.of (w : List Nat) : Ray :=
  let f (k : Nat) : FV := f32v (w.getD k 0)
  { o := [f 0, f 1, f 2], d := [f 3, f 4, f 5], tmin := f 6, tmax := f 7, flags := w.getD 8 0 }

/-- Whether a value is zero. -/
def FV.isZero : FV → Bool
  | .fin _ 0 _ => true
  | _ => false

/-- Whether a ray is void (R310). -/
def Ray.void (r : Ray) : Bool :=
  r.o.any FV.wild || r.d.any FV.wild || r.tmin.wild || r.tmax == .nan || fvLt r.tmin (.fin false 0 0) || fvLt r.tmax r.tmin ||
  r.d.all FV.isZero

/-- Component k of a vector, as a dyadic number. -/
def comp (v : List FV) (k : Nat) : Dy := (v.getD k (.fin false 0 0)).dy

/-- a − b. -/
def Dy.sub (a b : Dy) : Dy := a.add ⟨-b.m, b.e⟩

/-- An exact dyadic number rounded to f32, as a value. -/
def Dy.toF32 (a : Dy) : FV := f32v (roundTo .f32 0 0 false (a.exact false)).1

/-- The ray carried into object space by a matrix of 12 words (R311); none when the instance yields no candidate. -/
def Ray.carry (r : Ray) (m : List Nat) : Option Ray :=
  let v (k : Nat) : FV := f32v (m.getD k 0)
  if (List.range 12).any fun k => (v k).wild then none
  else
    let dot (i : Nat) (x : List FV) : Dy :=
      (List.range 3).foldl (fun a c => a.add ((v (4 * i + c)).dy.mul (comp x c))) ⟨0, 0⟩
    let o' := (List.range 3).map fun i => ((dot i r.o).add (v (4 * i + 3)).dy).toF32
    let d' := (List.range 3).map fun i => (dot i r.d).toF32
    if o'.any FV.wild || d'.any FV.wild || d'.all FV.isZero then none else some { r with o := o', d := d' }

/-! ### Intersection (R308, R312) -/

/-- The interval of one axis, as fractions num ÷ den with den > 0, of the line's parameter inside a slab; none when the line
never is. An unbounded axis gives `some none`. -/
def slab (o d lo hi : Dy) : Option (Option ((Dy × Dy) × (Dy × Dy))) :=
  if d.m = 0 then (if o.lt lo || hi.lt o then none else some none)
  else
    let den : Dy := ⟨d.m.natAbs, d.e⟩
    let f (x : Dy) : Dy := let y := x.sub o; if d.m < 0 then ⟨-y.m, y.e⟩ else y
    if d.m < 0 then some (some ((f hi, den), (f lo, den))) else some (some ((f lo, den), (f hi, den)))

/-- Whether the line of a ray meets a box (R308): a test that never skips a box that encloses a hit. -/
def Ray.meets (r : Ray) (box : List Nat) : Bool :=
  let b (k : Nat) : FV := f32v (box.getD k 0)
  if (List.range 6).any fun k => (b k).wild then true
  else
    let ss := (List.range 3).map fun k => slab (comp r.o k) (comp r.d k) (b k).dy (b (k + 3)).dy
    if ss.any Option.isNone then false
    else
      let iv := ss.filterMap fun x => x.getD none
      iv.all fun x => iv.all fun y => !((y.2.1.mul x.1.2).lt (x.1.1.mul y.2.2))

/-- A hit of R312: t, b1, b2 as patterns, and front. -/
structure Hit where
  t : Nat
  b1 : Nat
  b2 : Nat
  front : Bool
  deriving DecidableEq, Repr

/-- a ÷ b rounded to f32, an exact zero as +0. -/
def divF32 (a b : Dy) : Nat :=
  (roundTo .f32 0 0 false ⟨a.m ≠ 0 ∧ ((a.m < 0) ≠ (b.m < 0)), a.m.natAbs, b.m.natAbs, a.e - b.e⟩).1

/-- |a| < |b|. -/
def Dy.absLt (a b : Dy) : Bool := Dy.lt ⟨a.m.natAbs, a.e⟩ ⟨b.m.natAbs, b.e⟩

/-- The test of R312 of a triangle's nine words; every coordinate is carried multiplied by d[kz]. -/
def Ray.triangle (r : Ray) (w : List Nat) : Option Hit :=
  let v (k : Nat) : FV := f32v (w.getD k 0)
  if (List.range 9).any fun k => (v k).wild then none
  else
    let d (k : Nat) : Dy := comp r.d k
    let kz := if (d 0).absLt (d 1) then (if (d 1).absLt (d 2) then 2 else 1) else (if (d 0).absLt (d 2) then 2 else 0)
    let (kx, ky) := if (d kz).m < 0 then ((kz + 2) % 3, (kz + 1) % 3) else ((kz + 1) % 3, (kz + 2) % 3)
    let K := d kz
    let q (p k : Nat) : Dy := (v (3 * p + k)).dy.sub (comp r.o k)
    let px (p : Nat) : Dy := ((q p kx).mul K).sub ((d kx).mul (q p kz))
    let py (p : Nat) : Dy := ((q p ky).mul K).sub ((d ky).mul (q p kz))
    let edge (a b : Nat) : Dy := ((px a).mul (py b)).sub ((py a).mul (px b))
    let U := edge 2 1
    let V := edge 0 2
    let W := edge 1 0
    let det := (U.add V).add W
    let nn := decide (0 ≤ U.m ∧ 0 ≤ V.m ∧ 0 ≤ W.m)
    let np := decide (U.m ≤ 0 ∧ V.m ≤ 0 ∧ W.m ≤ 0)
    if det.m = 0 ∨ !(nn || np) then none
    else
      let num := ((U.mul (q 0 kz)).add (V.mul (q 1 kz))).add (W.mul (q 2 kz))
      some { t := divF32 num (det.mul K), b1 := divF32 V det, b2 := divF32 W det, front := decide (0 < det.m) }

/-! ### Candidates (R313, R314) -/

/-- A candidate: its hit, its names and where it was found. -/
structure Cand where
  hit : Hit
  inst : Nat
  geom : Nat
  prim : Nat
  opaque_ : Bool
  leaf : LeafRef
  deriving DecidableEq, Repr

/-- `key` of a candidate as one number (R313). -/
def Cand.key (c : Cand) : Nat := ((c.hit.t * 2 ^ 32 + c.inst) * 2 ^ 24 + c.geom) * 2 ^ 32 + c.prim

/-- The candidate of a triangle record for an object-space ray (R306, R313). -/
def Ray.candidate (r : Ray) (inst opac : Nat) (nocull : Bool) (prim : Nat) (leaf : LeafRef) (x : Nat) : Option Cand :=
  match r.triangle ((List.range 9).map fun k => bits x (32 * k + 31) (32 * k)) with
  | none => none
  | some h =>
    let culled := !nocull && ((r.flags.testBit 2 && h.front) || (r.flags.testBit 3 && !h.front))
    if culled || fvLt (f32v h.t) r.tmin || fvLt r.tmax (f32v h.t) then none
    else some { hit := h, inst := inst, geom := bits x 311 288, prim := prim, leaf := leaf
                opaque_ := if r.flags.testBit 0 then true else if r.flags.testBit 1 then false
                  else if opac = 1 then true else if opac = 2 then false else x.testBit 312 }

/-- A triangle record read and checked (R306, R307). -/
def State.triRec (s : State) (o : Op) (h : RayHdr) (prim : Nat) : Except UErr Nat :=
  match s.unitRead o (h.abase + 64 * prim) 64 with
  | .error e => .error e
  | .ok x => if bits x 319 313 ≠ 0 ∨ bits x 511 320 ≠ 0 then .error rayBad else .ok x

/-- The candidates of a bottom-level structure for an object-space ray. -/
def State.bottomCands (s : State) (o : Op) (h : RayHdr) (r : Ray) (inst opac : Nat) (nocull : Bool) : Except UErr (List Cand) :=
  match s.allRecords o h r.meets with
  | .error e => .error e
  | .ok l => (seqReads (l.map fun x => (s.triRec o h x.1).map fun y => r.candidate inst opac nocull x.1 x.2 y)).map fun l => l.filterMap id

/-- An instance record read and checked (R306, R307). -/
def State.instRec (s : State) (o : Op) (h : RayHdr) (i : Nat) : Except UErr Nat :=
  match s.unitRead o (h.abase + 128 * i) 128 with
  | .error e => .error e
  | .ok x => if bits x 479 459 ≠ 0 ∨ bits x 457 456 = 3 ∨ bits x 1023 480 ≠ 0 then .error rayBad else .ok x

/-- The bottom-level header that an instance names (R307): a fault of its read is one of a header (R319). -/
def State.blasHdr (s : State) (o : Op) (x : Nat) : Except UErr RayHdr :=
  match s.rayHdr o (bits x 447 384) with
  | .error (.fault va d _) => .error (.fault va d true)
  | .error e => .error e
  | .ok h => if h.bottom then .ok h else .error rayBad

/-- The candidates of an instance (R311). The header of its bottom-level structure is read unless the ray's mask leaves the instance out, also
when its carried ray has none (DESIGN CHOICE, log 194). -/
def State.instCands (s : State) (o : Op) (h : RayHdr) (r : Ray) (i : Nat) : Except UErr (List Cand) :=
  match s.instRec o h i with
  | .error e => .error e
  | .ok x =>
    if bits x 455 448 &&& bits r.flags 15 8 = 0 then .ok []
    else match s.blasHdr o x with
      | .error e => .error e
      | .ok b => match r.carry ((List.range 12).map fun k => bits x (32 * k + 31) (32 * k)) with
        | none => .ok []
        | some r' => s.bottomCands o b r' i (bits x 457 456) (x.testBit 458)

/-- Every candidate of a ray (R308, R313): a top-level box is not tested, since the carried ray is rounded. -/
def State.candidates' (s : State) (o : Op) (h : RayHdr) (r : Ray) : Except UErr (List Cand) :=
  if r.void then .ok []
  else if h.bottom then s.bottomCands o h r 0xFFFFFFFF 0 false
  else match s.allRecords o h fun _ => true with
    | .error e => .error e
    | .ok l => (seqReads ((l.map (·.1)).dedup.map fun i => s.instCands o h r i)).map List.flatten

/-- The candidate with the least key. -/
def leastCand (l : List Cand) : Option Cand :=
  l.foldl (fun r c => match r with
    | none => some c
    | some b => if c.key < b.key then some c else some b) none

/-- `First(after)` (R314, R317): a candidate that is offered (status 1), or c (status 2). -/
def firstCand (l : List Cand) (after : Option Nat) : Option (Nat × Cand) :=
  let c := leastCand (l.filter (·.opaque_))
  let offered := l.filter fun x => !x.opaque_ && (c.all fun y => decide (x.key < y.key)) && after.all fun k => decide (k < x.key)
  match leastCand offered with
  | some x => some (1, x)
  | none => c.map fun y => (2, y)

/-- The record of eight words (R316). -/
def recordOf (x : Option (Nat × Cand)) (count : Nat) : List Word :=
  (match x with
    | none => [0, 0, 0, 0, 0, 0, 0]
    | some (st, c) => [st, c.hit.t, c.hit.b1, c.hit.b2, c.prim,
        c.geom + (if c.opaque_ then 2 ^ 24 else 0) + (if c.hit.front then 2 ^ 25 else 0), c.inst]) ++ [count] |>.map (BitVec.ofNat 32)

/-! ### The Almanac (17 R405 to R414) -/

/-- q[a] of R409. -/
def almAxis (o lo hi : FV) : Nat :=
  if lo.wild || hi.wild || !(fvLt lo hi) then 0
  else
    let n := (o.dy.sub lo.dy).mul ⟨1024, 0⟩
    let d := hi.dy.sub lo.dy
    let e := min n.e d.e
    let k := (n.m * 2 ^ (n.e - e).toNat).fdiv (d.m * 2 ^ (d.e - e).toNat)
    (min (max k 0) 1023).toNat

/-- floor(128 × (x ÷ n + 1)), clamped to 0 to 255 (R409). -/
def almDir (x n : Dy) : Nat :=
  let y := (x.add n).mul ⟨128, 0⟩
  let e := min y.e n.e
  (min (max ((y.m * 2 ^ (y.e - e).toNat).fdiv (n.m * 2 ^ (n.e - e).toNat)) 0) 255).toNat

/-- |a|. -/
def Dy.abs (a : Dy) : Dy := ⟨a.m.natAbs, a.e⟩

/-- The 48-bit key of a world-space ray (R408, R409). -/
def Ray.almKey (r : Ray) (h : RayHdr) : Nat :=
  let q (k : Nat) : Nat := almAxis (r.o.getD k .nan) (f32v (h.bound.getD k 0)) (f32v (h.bound.getD (k + 3) 0))
  let d (k : Nat) : Dy := comp r.d k
  let n := ((d 0).abs.add (d 1).abs).add (d 2).abs
  let fold (a b : Dy) : Dy := let y := n.sub b.abs; if a.m < 0 then ⟨-y.m, y.e⟩ else y
  let (px, py) := if (d 2).m < 0 then (fold (d 0) (d 1), fold (d 1) (d 0)) else (d 0, d 1)
  let cls := if r.flags.testBit 0 then 2 else if r.flags.testBit 1 then 3 else if r.flags.testBit 2 ∨ r.flags.testBit 3 then 1 else 0
  cls + 4 * almDir py n + 2 ^ 10 * almDir px n + 2 ^ 18 * q 2 + 2 ^ 28 * q 1 + 2 ^ 38 * q 0

/-- H of R408. -/
def almHash (key sid : Nat) : DWord :=
  let x := BitVec.ofNat 64 key ^^^ (BitVec.ofNat 64 sid * 0x9E3779B97F4A7C15)
  let x := x ^^^ (x >>> 32)
  let x := x * 0xD1B54A32D192ED03
  let x := x ^^^ (x >>> 29)
  let x := x * 0xAEF17502108EF2D9
  x ^^^ (x >>> 32)

/-- The set bits of ALMAP. -/
def almParts (m : DWord) : List Nat := (List.range 64).filter m.getLsbD

/-- The slot of R408; none while P is 0. -/
def almSlot (parts : DWord) (H : DWord) : Option Nat :=
  let ps := almParts parts
  if ps.isEmpty then none
  else
    let j := bits H.toNat 31 0 % (256 * ps.length)
    some (256 * ps.getD (j / 256) 0 + j % 256)

/-- The index of a generation counter (R413). -/
def genIndex (sid cslot : Nat) : Nat := (sid ^^^ cslot) % 1024

/-- An entry as its 192 bits (R406). -/
def almEntry (cslot ktag sid gen : Nat) (c : Cand) : Nat :=
  packBits [(32, c.prim), (32, c.inst), (4, c.leaf.nm1), (51, c.leaf.addr / 64), (1, 0), (8, gen), (32, sid), (19, ktag), (12, cslot), (1, 1)]

/-- The write of R413 for a lane's final hit c. -/
def State.almWrite (s : State) (core ctx : Nat) (h : RayHdr) (r : Ray) (c : Cand) : State :=
  let x := s.ctx ctx
  let H := almHash (r.almKey h) h.sid
  match almSlot x.almap H with
  | none => s
  | some slot => s.updCore core fun k =>
      { k with almanac := k.almanac.set slot (almEntry x.cslot (bits H.toNat 63 45) h.sid (k.gens.getD (genIndex h.sid x.cslot) 0) c) }

/-- The opaque candidates among some records of a bottom-level structure (R410 step 3). -/
def State.almCands (s : State) (o : Op) (h : RayHdr) (r : Ray) (inst opac : Nat) (nocull : Bool) (prim : Nat) (f : LeafRef) :
    Except UErr (List Cand) :=
  match h.records f with
  | .error e => .error e
  | .ok l =>
    if h.acount ≤ prim then .error rayBad
    else (seqReads (((prim, f) :: l).map fun x => (s.triRec o h x.1).map fun y => r.candidate inst opac nocull x.1 x.2 y)).map
      fun l => (l.filterMap id).filter (·.opaque_)

/-- The opaque candidates that the verification of an entry finds (R410); an error when a check fails. -/
def State.almVerify (s : State) (o : Op) (h : RayHdr) (r : Ray) (e : Nat) : Except UErr (List Cand) :=
  let o := { o with phase := if o.phase < 6 then 5 else o.phase }
  let inst := bits e 63 32
  let f : LeafRef := { addr := 64 * bits e 118 68, nm1 := bits e 67 64 }
  if inst = 0xFFFFFFFF then (if h.bottom then s.almCands o h r inst 0 false (bits e 31 0) f else .error rayBad)
  else if h.bottom ∨ h.acount ≤ inst then .error rayBad
  else match s.instRec o h inst with
    | .error e => .error e
    | .ok x =>
      if bits x 455 448 &&& bits r.flags 15 8 = 0 then .error rayBad
      else match s.blasHdr o x, r.carry ((List.range 12).map fun k => bits x (32 * k + 31) (32 * k)) with
        | .ok b, some r' => s.almCands o b r' inst (bits x 457 456) (x.testBit 458) (bits e 31 0) f
        | .error e, _ => .error e
        | _, none => .error rayBad

/-- Whether an entry is in force for a context's slot, a tag, a sid and a generation (R410). -/
def almMatches (e cslot ktag sid gen : Nat) : Bool :=
  e.testBit 191 && bits e 190 179 == cslot && bits e 178 160 == ktag && bits e 159 128 == sid && bits e 127 120 == gen

/-- The bound that a lookup gives a trace (R410, R411): none without a verified prediction, and the reads that the verification
still has to make. -/
def State.almBound (s : State) (o : Op) (h : RayHdr) (r : Ray) : Except UErr (Option Nat) :=
  if r.void then .ok none
  else
    let x := s.ctx o.ctx
    let H := almHash (r.almKey h) h.sid
    match almSlot x.almap H, s.cores[o.core]? with
    | some slot, some k =>
      let e := k.almanac.getD slot 0
      if almMatches e x.cslot (bits H.toNat 63 45) h.sid (k.gens.getD (genIndex h.sid x.cslot) 0) then
        match s.almVerify o h r e with
        | .ok l => .ok ((leastCand l).map Cand.key)
        | .error (.miss need) => .error (.miss need)
        | .error _ => .ok none
      else .ok none
    | _, _ => .ok none

/-! ### Results (R317 to R319) -/

/-- Whether a lane's instruction reads the structure (R317, R318): `rtnx` for status 1, `rthit` for status 1 and 2. -/
def Op.traces (o : Op) (ins : Nat) (l : Fin 16) : Bool :=
  let w := o.coords l
  match ins with
  | 0 => true
  | 1 => w.getD 9 0 == 1
  | _ => w.getD 0 0 == 1 || w.getD 0 0 == 2

/-- A lane's result of `rtrc` or `rtnx`: its words, and c when it is the final hit. A bound of a candidate that the traversal
does not reach is not used, so that no prediction changes a result (R412, R315). -/
def State.traceLane (s : State) (o : Op) (h : RayHdr) (ins : Nat) (l : Fin 16) : Except UErr (List Word × Option Cand) :=
  let w := o.coords l
  let rc (k : Nat) : Nat := w.getD (9 + k) 0
  if !o.traces ins l then .ok ([], none)
  else
    let after := if ins = 1 then some (((rc 1 * 2 ^ 32 + rc 6) * 2 ^ 24 + rc 5 % 2 ^ 24) * 2 ^ 32 + rc 4) else none
    match s.almBound o h (Ray.of w), s.candidates' o h (Ray.of w) with
    | .error e, .error e' => .error (e.pick e')
    | .error e, .ok _ => .error e
    | .ok _, .error e => .error e
    | .ok b, .ok l =>
      let bound := b.filter fun k => l.any fun c => c.opaque_ && c.key == k
      let x := firstCand (l.filter fun c => bound.all fun k => decide (c.key ≤ k)) after
      let one := match x with | some (1, _) => 1 | _ => 0
      .ok (recordOf x (if ins = 1 then rc 7 + one else one), match x with | some (2, c) => some c | _ => none)

/-- A lane's vertices of `rthit` (R318). -/
def State.hitLane (s : State) (o : Op) (h : RayHdr) (l : Fin 16) : Except UErr (List Word) :=
  let rc (k : Nat) : Nat := (o.coords l).getD k 0
  let vertices (b : RayHdr) : Except UErr (List Word) :=
    if b.acount ≤ rc 4 then .error rayBad
    else (s.triRec o b (rc 4)).map fun x => (List.range 9).map fun k => BitVec.ofNat 32 (bits x (32 * k + 31) (32 * k))
  if !o.traces 2 l then .ok []
  else if rc 6 = 0xFFFFFFFF then (if h.bottom then vertices h else .error rayBad)
  else if h.bottom ∨ h.acount ≤ rc 6 then .error rayBad
  else match s.instRec o h (rc 6) with
    | .error e => .error e
    | .ok x => match s.blasHdr o x with
      | .error e => .error e
      | .ok b => vertices b

/-- Every lane's result of a ray instruction. A header that does not translate fails every active lane (R319; log 143), a
malformed one those that read it (R317, R318). -/
def State.traceResults (s : State) (o : Op) (ins hdr : Nat) : URes :=
  let good := o.act &&& ~~~o.poison
  if !((laneList good).any (o.traces ins)) then fun _ => .ok []
  else match s.rayHdr o hdr with
  | .error (.data c va) => fun l => if o.traces ins l then .error (.data c va) else .ok []
  | .error e => fun _ => .error e
  | .ok h =>
    let r (l : Fin 16) : Except UErr (List Word) := if ins = 2 then s.hitLane o h l else (s.traceLane o h ins l).map (·.1)
    match (laneList good).find? fun l => match r l with | .error (.fault _ _ true) => true | _ => false with
    | some k => fun l => match r l with | .error (.miss need) => .error (.miss need) | _ => r k
    | none => r

/-- The entries that the lanes of a trace write whose records of status 2 are written (R413): not of a lane whose result failed,
nor of an ended group. -/
def State.traceAlm (s : State) (o : Op) (ins hdr : Nat) (r : URes) : State :=
  match s.rayHdr o hdr with
  | .error _ => s
  | .ok h =>
    if ins = 2 || s.overFor o then s
    else (laneList (o.act &&& ~~~o.poison)).foldl (fun t l =>
      match r l, s.traceLane o h ins l with
      | .ok _, .ok (_, some c) => t.almWrite o.core o.ctx h (Ray.of (o.coords l)) c
      | _, _ => t) s

/-- Registers of a ray instruction's destination. -/
def traceRegs (ins : Nat) : Nat := if ins = 2 then 9 else 8

/-- RAY_RESULT (R319): the entries that the trace brings are stored unless a precise trap undoes the instruction (17 R413; 16 R390). -/
def State.rayStep (s : State) (id : Nat) : State :=
  match s.ops.get? id with
  | none => s
  | some o =>
    match o.kind with
    | .trace ins d hdr =>
      if o.finished then s
      else
        let r := s.traceResults o ins hdr
        let good := o.act &&& ~~~o.poison
        let ends := (urMiss good r).isNone && (s.preciseStop id o (preciseUnit o.word good r)).isNone
        (if ends then s.traceAlm o ins hdr r else s).unitStep id o d (traceRegs ins) r
    | _ => s

/-! ### Issue (R317) -/

/-- The source registers of a ray instruction: ray and record run, or the record run of `rthit`. -/
def traceRun (ins : Nat) (d b : BitVec 8) : List Nat :=
  match ins with
  | 2 => (List.range 8).map (· + b.toNat)
  | 1 => (List.range 9).map (· + b.toNat) ++ (List.range 8).map (· + d.toNat)
  | _ => (List.range 9).map (· + b.toNat)

/-- What a ray instruction names and needs. -/
def useTrace (ins : Nat) (d : BitVec 8) (a : BitVec 4) (b : BitVec 8) : Use :=
  { ar := [a.toNat], vr := traceRun ins d b
    later := { v := (List.range (traceRegs ins)).map (· + d.toNat) }
    cls := some 4, ownPoison := true }

/-- The effect of `rtrc`, `rtnx` and `rthit` (R317 to R319). -/
def traceEff (ins : Nat) (d : BitVec 8) (a : BitVec 4) (b : BitVec 8) (c : Iss) (s : State) : Eff :=
  let hdr := (c.g.areg a).toNat
  let run := traceRun ins d b
  let o := { c.op (.trace ins d.toNat hdr) (some 4) with
    draws := (List.finRange 16).map fun l => (l.val, run.map fun n => (c.g.vget n l).toNat)
    poison := if c.native then runPoison c.g run a &&& c.act else 0
    writes := { v := (List.range (traceRegs ins)).map (· + d.toNat) } }
  .ok ((s.setGroup c.gid c.g).addOp o).1 []

/-- The effect of `rtrs` (R317). -/
def rtrsEff (d : BitVec 8) (c : Iss) : Group :=
  c.g.setV d (c.act &&& maskOf fun l => c.g.vlane d l == 1) fun _ => 2

/-- What `rtrs` names. -/
def useRtrs (d : BitVec 8) : Use := { vr := (List.range 8).map (· + d.toNat), vw := [d.toNat] }

/-! ### Generations and invalidation (17 R415, R416) -/

/-- The effect of `rtgen` (R415). -/
def rtgenEff (a : BitVec 6) (c : Iss) (s : State) : Eff :=
  let s := s.setGroup c.gid c.g
  if c.act = 0 then .ok s []
  else
    let i := genIndex (c.g.sreg a).toNat (s.ctx c.g.ctx).cslot
    .ok (s.updCores fun _ k => { k with gens := k.gens.set i ((k.gens.getD i 0 + 1) % 256) }) []

/-- Entries of a resident slot, and of a structure when one is given, no longer in force on any core (R415, R416). -/
def State.almClear (s : State) (cslot : Nat) (sid : Option Nat) : State :=
  let f (e : Nat) : Nat := if bits e 190 179 = cslot ∧ sid.all (· == bits e 159 128) then e % 2 ^ 191 else e
  s.updCores fun _ k => { k with almanac := k.almanac.mapVals fun _ e => f e }

/-- The effect of `rtinv` (R415). -/
def rtinvEff (a : Option (BitVec 6)) (c : Iss) (s : State) : Eff :=
  let s := s.setGroup c.gid c.g
  if c.act = 0 then .ok s []
  else .ok (s.almClear (s.ctx c.g.ctx).cslot (a.map fun r => (c.g.sreg r).toNat)) []

/-! ### The instructions -/

/-- rtrc (12 R317) -/
def execRtrc (d : BitVec 8) (a : BitVec 4) (b : BitVec 8) (s : State) : Host.Outcome State Fault Refusal :=
  issue (W.rtrc d a b) (useTrace 0 d a b) (traceEff 0 d a b) s

/-- rtnx (12 R317) -/
def execRtnx (d : BitVec 8) (a : BitVec 4) (b : BitVec 8) (s : State) : Host.Outcome State Fault Refusal :=
  issue (W.rtnx d a b) (useTrace 1 d a b) (traceEff 1 d a b) s

/-- rthit (12 R318) -/
def execRthit (d : BitVec 8) (a : BitVec 4) (b : BitVec 8) (s : State) : Host.Outcome State Fault Refusal :=
  issue (W.rthit d a b) (useTrace 2 d a b) (traceEff 2 d a b) s

/-- rtrs (12 R317) -/
def execRtrs (d : BitVec 8) (s : State) : Host.Outcome State Fault Refusal :=
  issue (W.rtrs d) (useRtrs d) (groupEff (rtrsEff d)) s

/-- rtgen (17 R415) -/
def execRtgen (a : BitVec 6) (s : State) : Host.Outcome State Fault Refusal :=
  issue (W.rtgen a) { sr := [a.toNat], uniform := true } (rtgenEff a) s

/-- rtinv (17 R415) -/
def execRtinv (a : BitVec 6) (s : State) : Host.Outcome State Fault Refusal :=
  issue (W.rtinv a) { sr := [a.toNat], uniform := true } (rtinvEff (some a)) s

/-- rtinv.all (17 R415) -/
def execRtinvAll (s : State) : Host.Outcome State Fault Refusal :=
  issue W.rtinvAll { uniform := true } (rtinvEff none) s

/-- RAY_RESULT (12 R319) -/
def execRayResult (op : Nat) (s : State) : Host.Outcome State Fault Refusal :=
  .next (s.rayStep op)

end Sys2Proof.Machine
end

