-- ==== Sys2Proof/Machine/System.lean ====
section
/-! DEFINITION. Decode failures (02 R41, R43; 03 R66 to R70), CSRs (16 R400, R401 and the rules of each), `ecall`, `sleep`,
`tlbi`, `rdtm` and `wtm` (16 R383, R402, R403; 18 R421, R422). -/

namespace Sys2Proof.Machine

/-! ### Decode failures (02 R41 check 2 and 3) -/

/-- The trap of an instruction that does not decode, at the path that has the turn. -/
def decodeTrap (t : Group → Mask → Trap) (s : State) : Host.Outcome State Fault Refusal :=
  match s.cur with
  | none => .fault .noIssuer
  | some (gid, q) =>
    match s.groups.get? gid with
    | none => .fault .noIssuer
    | some g =>
      if !g.mayTurn q then .fault .noIssuer
      else
        let e := g.entryAt q
        if !s.mayIssue gid g e { guard := false } then .next { s with stalled := true }
        else match s.raiseTrap gid q (t g (g.liveOf e.mask)) with
          | none => .next { s with stalled := true }
          | some s => .next s

/-- The opcode of a word. -/
def opcodeOf (w : Word) : Nat := (w.extractLsb' 24 8).toNat

/-- The feature group of an extension opcode 0xE0 to 0xE9 (03 R66). -/
def featureOf (op : Nat) : Option Nat :=
  if op = 0xE0 ∨ op = 0xE1 then some 0 else if op = 0xE2 then some 1 else if 0xE3 ≤ op ∧ op ≤ 0xE6 then some 2
  else if op = 0xE7 then some 3 else if op = 0xE8 then some 4 else if op = 0xE9 then some 5 else none

/-- A word with a broken field (R41): check 2 comes first, so that a word of a disabled extension is emulated (03 R68). -/
def encodingTrap (w k : Word) (g : Group) (live : Mask) : Trap :=
  match featureOf (opcodeOf w) with
  | some f => if g.xmask.getLsbD f then { cause := 0x02, val := w, lanes := live }
      else emulation w k (isLit (opcodeOf w)) false g.sup f live
  | none => { cause := 0x02, val := w, lanes := live }

/-! ### CSRs (16 R400) -/

/-- The gang member's value of a list. -/
def State.memberVal (s : State) (g : Group) (f : Block → List Nat) : Nat :=
  ((s.blocks.get? g.block).map fun b => (f b).getD (s.memberOf g) 0).getD 0

/-- The value of a CSR as 64 bits, 0 for an unassigned number; `sup` is the reader's level (R400, R401). XMASK reads
as the context's one register (03 R67), whichever value the group's own checks use (R69; log 156). -/
def State.csr (s : State) (g : Group) (sup : Bool) (n : Nat) : DWord :=
  let c := s.ctx g.ctx
  let w (x : Word) : DWord := x.setWidth 64
  let k (x : Nat) : DWord := BitVec.ofNat 64 x
  match n with
  | 0x100 => 0x0901
  | 0x101 => 0x3F
  | 0x102 => c.xmask.setWidth 64
  | 0x108 => w g.trap.emiw
  | 0x109 => w g.trap.emtw
  | 0x10A => g.trap.eminf.setWidth 64
  | 0x110 => c.tvec
  | 0x111 => g.trap.tpc
  | 0x112 => w g.trap.tcause
  | 0x113 => w g.trap.tval
  | 0x114 => g.trap.tstat.setWidth 64
  | 0x115 => g.trap.tmsk.setWidth 64
  | 0x116 => g.trap.flm.setWidth 64
  | 0x117 => g.trap.faddr
  | 0x118 => g.rib
  | 0x119 => k (16 * g.valloc)
  | 0x11A => k (packBits (g.cnt.toList.map fun x => (8, x)))
  | 0x11B => k (s.memberVal g (·.aibs))
  | 0x11C => if s.tilesOf g = 0 then 0 else k (s.memberVal g (·.aslots))
  | 0x120 => g.loops.ls0
  | 0x121 => g.loops.le0
  | 0x122 => w g.loops.lc0
  | 0x123 => g.loops.ls1
  | 0x124 => g.loops.le1
  | 0x125 => w g.loops.lc1
  | 0x130 => k g.ctx
  | 0x131 => if sup then k ((if c.compat then 1 else 0) + (if c.sys then 2 else 0)) else 0
  | 0x140 => if sup then c.almap else 0
  | 0x150 => k (16 * s.disc.src + (if s.disc.lock then 1 else 0))
  | 0x151 => k s.disc.sigma
  | 0x152 => c.ortb
  | 0x160 => c.trace.base
  | 0x161 => w c.trace.ctl
  | 0x162 => c.trace.wp
  | 0x163 => c.trace.rp
  | 0x164 => w c.trace.seq
  | 0x165 => g.hlm.setWidth 64
  | _ => 0

/-- A half of a CSR (R401). -/
def csrHalf (x : DWord) (hi : Bool) : Word := if hi then x.extractLsb' 32 32 else x.setWidth 32

/-- The effect of `csrr` (R401). -/
def csrrEff (d : BitVec 6) (k : Word) (c : Iss) (s : State) : Eff :=
  .ok (s.setGroup c.gid (if c.act = 0 then c.g
    else c.g.setS d (csrHalf (s.csr c.g c.g.sup (bits k.toNat 11 0)) (k.getLsbD 12)))) []

/-- A 64-bit CSR with one half replaced; its low bits read as zero. -/
def withHalf (x : DWord) (hi : Bool) (w : Word) (zeros : Nat) : DWord :=
  let y := if hi then w ++ x.setWidth 32 else x.extractLsb' 32 32 ++ w
  (y >>> zeros) <<< zeros

/-- The reset of a trace session (19 R460): the queue is dropped, TRSEQ rises, the writer's index is set, and a
session-start record follows. -/
def State.traceReset (s : State) (ctx : Nat) : State :=
  let t := (s.ctx ctx).trace
  let seq := t.seq + 1
  let w := packBits [(8, 7), (8, seq.toNat)]
  s.updCtx ctx fun c => { c with trace := { t with
    seq := seq, lost := 0, idx := (s.rdVa ctx true t.rp.toNat 4).getD t.idx, queue := [(s.gnomon, 0, 0, w)] } }

/-- A `csrw` of TRCTL (19 R457): bit 30 asks for the reset, bits [26:21] keep 0. -/
def State.writeTrctl (s : State) (ctx : Nat) (w : Word) : State :=
  let s' := s.updCtx ctx fun c => { c with trace := { c.trace with ctl := w &&& 0xB81FFFFF } }
  if w.getLsbD 30 then s'.traceReset ctx else s'

/-- The group's own CSRs written: the loop registers at any level, the trap registers at supervisor level (R160, R154). -/
def Group.csrw (g : Group) (n : Nat) (hi : Bool) (w : Word) : Group :=
  let lo (x y : Word) : Word := if hi then x else y
  let L := g.loops
  match n with
  | 0x120 => { g with loops := { L with ls0 := withHalf L.ls0 hi w 2 } }
  | 0x121 => { g with loops := { L with le0 := withHalf L.le0 hi w 2 } }
  | 0x122 => { g with loops := { L with lc0 := lo L.lc0 w } }
  | 0x123 => { g with loops := { L with ls1 := withHalf L.ls1 hi w 2 } }
  | 0x124 => { g with loops := { L with le1 := withHalf L.le1 hi w 2 } }
  | 0x125 => { g with loops := { L with lc1 := lo L.lc1 w } }
  | _ =>
    if !g.sup then g
    else
      let T := g.trap
      match n with
      | 0x111 => { g with trap := { T with tpc := withHalf T.tpc hi w 2 } }
      | 0x112 => { g with trap := { T with tcause := lo T.tcause (w &&& 0xFFFF) } }
      | 0x113 => { g with trap := { T with tval := lo T.tval w } }
      | 0x114 => { g with trap := { T with tstat := if hi then T.tstat else w.setWidth 3 } }
      | _ => g

/-- The context's CSRs written at supervisor level (R69, R160, R407, R425, R457). -/
def State.csrwCtx (s : State) (ctx : Nat) (n : Nat) (hi : Bool) (w : Word) : State :=
  match n with
  | 0x102 => if hi then s else s.updCtx ctx fun c => { c with xmask := w.setWidth 16 }
  | 0x110 => s.updCtx ctx fun c => { c with tvec := withHalf c.tvec hi w 2 }
  | 0x140 => s.updCtx ctx fun c => { c with almap := withHalf c.almap hi w 0 }
  | 0x152 => s.updCtx ctx fun c => { c with ortb := withHalf c.ortb hi w 12 }
  | 0x160 => s.updCtx ctx fun c => { c with trace := { c.trace with base := withHalf c.trace.base hi w 5 } }
  | 0x161 => if hi then s else s.writeTrctl ctx w
  | 0x162 => s.updCtx ctx fun c => { c with trace := { c.trace with wp := withHalf c.trace.wp hi w 2 } }
  | 0x163 => s.updCtx ctx fun c => { c with trace := { c.trace with rp := withHalf c.trace.rp hi w 2 } }
  | _ => s

/-- The effect of `csrw` of CSR n with a value (R401); ORCMD begins with its release (18 R426). -/
def csrwEff (a : BitVec 6) (k : Word) (c : Iss) (s : State) : Eff :=
  let n := bits k.toNat 11 0
  let hi := k.getLsbD 12
  let w := c.g.sreg a
  if c.act = 0 then .ok (s.setGroup c.gid c.g) []
  else
    let g := c.g.csrw n hi w
    let g := if n = 0x102 ∧ c.g.sup ∧ !hi then { g with xmask := w.setWidth 16 } else g
    let g := if n = 0x153 ∧ c.g.sup ∧ !hi then
        { g with order := (c.release 3 (.orcmd (bits w.toNat 9 8) (bits w.toNat 7 0))).order } else g
    .ok ((if c.g.sup then s.csrwCtx c.g.ctx n hi w else s).setGroup c.gid g) []

/-- A `csrw`. -/
def csrwOp (i : IWord) (a : BitVec 6) (k : Word) (s : State) : Host.Outcome State Fault Refusal :=
  issue i { sr := [a.toNat], uniform := true, sink := true } (csrwEff a k) s

/-! ### ecall, sleep, tlbi (16 R383, R402, R403) -/

/-- The effect of `ecall` (R402). -/
def ecallEff (a : BitVec 6) (c : Iss) (s : State) : Eff :=
  if c.act = 0 then .ok (s.setGroup c.gid c.g) []
  else if !c.g.trap.tstat.getLsbD 0 then .trap { cause := 0x13, val := c.g.sreg a, lanes := c.act }
  else
    let (s, r) := s.postFault c.g.ctx { id := 0, va := c.pc.toNat, kind := 5, src := 0, detail := 0, arg := (c.g.sreg a).toNat }
    .ok (s.setGroup c.gid { c.g with mode := .service c.path, posted := [r] }) []

/-- The effect of `sleep` (R403): the group is to be saved, and sleeps. -/
def sleepEff (a : BitVec 6) (c : Iss) : Group := { c.g with home := .saving, wake := c.tick + (c.g.sreg a).toNat + 1 }

/-- The effect of `tlbi` (R383): its release, then the drop and the wait. -/
def tlbiEff (kind : Nat) (va : Iss → Nat) (c : Iss) : Group := c.release 3 (.tlbi kind (va c))

/-- A `tlbi`. -/
def tlbiOp (i : IWord) (kind : Nat) (ar : List (BitVec 4)) (s : State) : Host.Outcome State Fault Refusal :=
  issue i { ar := ar.map (·.toNat), guard := false, sup := true, sink := true }
    (groupEff (tlbiEff kind fun c => (ar.map fun a => (c.g.areg a).toNat).headD 0)) s

/-- Whether a dropped translation of R383 covers an address of a context: kind 0 the page of va, 1 the context, 2 every
context. -/
def tlbiCovers (kind ctx va : Nat) (e : TlbEntry) : Bool :=
  match kind with
  | 0 => e.ctx == ctx && e.page == va >>> e.leaf.bits
  | 1 => e.ctx == ctx
  | _ => true

/-- Operations with an access in flight that may use a translation dropped by R383; the page of kind 0 is taken at the
largest page size. -/
def State.tlbiUsers (s : State) (kind ctx va : Nat) : List Nat :=
  (s.ops.filter fun e =>
    (kind == 2 || e.2.ctx == ctx) &&
    e.2.accs.any fun a => (a.st == .ready || a.st == .fill) && (kind != 0 || a.va / 2 ^ 30 == va / 2 ^ 30)).map (·.1)

/-- Translations are dropped (R383, R385; 22 R482), with the instruction-cache lines that were fetched under them. -/
def State.dropTlb (s : State) (kind ctx va : Nat) : State :=
  ({ s with tlb := s.tlb.filter fun e => !tlbiCovers kind ctx va e } : State).updCores fun _ c =>
    { c with icache := c.icache.filter fun l => kind != 2 && l.ctx != ctx }

/-- Whether an operation still has an access that was translated before (R383). -/
def State.stillUses (s : State) (id : Nat) : Bool :=
  (s.ops.get? id).any fun o => o.accs.any fun a => a.st == .ready || a.st == .fill

/-- After the release of a `tlbi` (R383): the drop; the issuing path waits for the accesses in flight. -/
def State.tlbiDrop (s : State) (gid path kind va : Nat) : State :=
  match s.groups.get? gid with
  | none => s
  | some g =>
    let kind := if kind = 2 ∧ !(s.ctx g.ctx).sys then 1 else kind
    let users := s.tlbiUsers kind g.ctx va
    let s := s.dropTlb kind g.ctx va
    { s.updGroup gid fun g => g.updEntry path fun e => { e with hold := .tlbi, next := e.pc } with
      tlbis := s.tlbis.set gid users }

/-- TLBI_END (R383) -/
def State.tlbiEndStep (s : State) (gid : Nat) : State :=
  match s.tlbis.get? gid with
  | none => s
  | some l =>
    if l.any s.stillUses then s
    else ({ s with tlbis := s.tlbis.erase gid } : State).endWaits gid fun e => if e.hold = .tlbi then e.go else e

/-! ### Time (18 R421, R422) -/

/-- The effect of `rdtm` (R421). -/
def rdtmEff (d : BitVec 4) (c : Iss) : Group := if c.act = 0 then c.g else c.g.setA d (BitVec.ofNat 64 c.tick)

/-- The effect of `wtm` (R422). -/
def wtmEff (a : BitVec 4) (c : Iss) : Group :=
  let t := (c.g.areg a).toNat
  if t ≤ c.tick then c.g else c.hold (.wtm t)

/-- WTM_EXPIRE (R422) -/
def State.wtmStep (s : State) (gid q : Nat) : State :=
  match s.groups.get? gid with
  | none => s
  | some g =>
    match (g.entryAt q).hold with
    | .wtm t => if t ≤ s.gnomon ∧ g.home ≠ .saved then s.pathEvent gid g (g.updEntry q PathEntry.go) else s
    | _ => s

/-! ### The instructions -/

/-- An unassigned opcode (02 R43): the illegal-instruction trap of check 2 -/
def execIllegalInstruction (w : BitVec 32) (s : State) : Host.Outcome State Fault Refusal :=
  decodeTrap (fun _ live => { cause := 0x01, val := w, lanes := live }) s

/-- A word of an assigned opcode with a broken field (02 R41 check 3; 03 R63) -/
def execIllegalEncoding (w : BitVec 32) (k : BitVec 32) (s : State) : Host.Outcome State Fault Refusal :=
  decodeTrap (encodingTrap w k) s

/-- Opcodes 0xEA to 0xEF (03 R66, R68): the emulation trap -/
def execNoGroupExtension (w : BitVec 32) (k : BitVec 32) (s : State) : Host.Outcome State Fault Refusal :=
  decodeTrap (fun g live => emulation w k (isLit (opcodeOf w)) true g.sup 0 live) s

/-- csrr, csrr.hi (16 R401) -/
def execCsrr (d : BitVec 6) (k : BitVec 32) (s : State) : Host.Outcome State Fault Refusal :=
  issue (W.csrr d k) { sw := [d.toNat], uniform := true } (csrrEff d k) s

/-- csrw, csrw.hi (16 R401): a sink -/
def execCsrw (a : BitVec 6) (k : BitVec 32) (s : State) : Host.Outcome State Fault Refusal :=
  csrwOp (W.csrw a k) a k s

/-- csrw of XMASK (03 R69) -/
def execXmaskWrite (a : BitVec 6) (s : State) : Host.Outcome State Fault Refusal :=
  csrwOp (W.csrw a 0x102) a 0x102 s

/-- csrw of a half of ALMAP (17 R407) -/
def execAlmapWrite (hi : Bool) (a : BitVec 6) (s : State) : Host.Outcome State Fault Refusal :=
  csrwOp (W.csrw a (if hi then 0x1140 else 0x140)) a (if hi then 0x1140 else 0x140) s

/-- csrw of TRCTL (19 R460) -/
def execTrctlReset (a : BitVec 6) (s : State) : Host.Outcome State Fault Refusal :=
  csrwOp (W.csrw a 0x161) a 0x161 s

/-- ecall (16 R402): a sink -/
def execEcall (a : BitVec 6) (s : State) : Host.Outcome State Fault Refusal :=
  issue (W.ecall a) { sr := [a.toNat], sink := true } (ecallEff a) s

/-- sleep (16 R403): a sink -/
def execSleep (a : BitVec 6) (s : State) : Host.Outcome State Fault Refusal :=
  issue (W.sleep a) { sr := [a.toNat], guard := false, sup := true, sink := true } (groupEff (sleepEff a)) s

/-- tlbi.va (16 R383): a sink -/
def execTlbiVa (a : BitVec 4) (s : State) : Host.Outcome State Fault Refusal :=
  tlbiOp (W.tlbiVa a) 0 [a] s

/-- tlbi.ctx (16 R383): a sink -/
def execTlbiCtx (s : State) : Host.Outcome State Fault Refusal :=
  tlbiOp W.tlbiCtx 1 [] s

/-- tlbi.all (16 R383): a sink -/
def execTlbiAll (s : State) : Host.Outcome State Fault Refusal :=
  tlbiOp W.tlbiAll 2 [] s

/-- TLBI_END (16 R383) -/
def execTlbiEnd (g : Nat) (s : State) : Host.Outcome State Fault Refusal :=
  .next (s.tlbiEndStep g)

/-- rdtm (18 R421) -/
def execRdtm (d : BitVec 4) (s : State) : Host.Outcome State Fault Refusal :=
  issue (W.rdtm d) { aw := [d.toNat], uniform := true } (groupEff (rdtmEff d)) s

/-- wtm (18 R422): a stop point -/
def execWtm (a : BitVec 4) (s : State) : Host.Outcome State Fault Refusal :=
  issue (W.wtm a) { ar := [a.toNat], guard := false, stop := true } (groupEff (wtmEff a)) s

/-- WTM_EXPIRE (18 R422) -/
def execWtmExpire (g : Nat) (path : Nat) (s : State) : Host.Outcome State Fault Refusal :=
  .next (s.wtmStep g path)

end Sys2Proof.Machine
end

