-- ==== Sys2Proof/Machine/Reticle.lean ====
section
/-! DEFINITION. Reticle: its instructions (19 R450 to R456), halts that travel (19 R443, R445), mirrors (19 R444, R445), PC
samples and the trace writer (19 R457 to R460). -/

namespace Sys2Proof.Machine

/-! ### Targets, resident or saved (19 R450, R454) -/

/-- The vector lines of a group that no core holds: they are in its image in memory (01 R30; 16 R393). -/
def Group.absent (g : Group) : List Nat := (List.range (16 * g.valloc)).filter fun n => !g.holds n

/-- A group's registers wherever they are: in its core, or in its image (16 R393; 01 R30). -/
def State.viewOf (s : State) (g : Group) : Group :=
  let ls := g.absent ++ if g.home ≠ .saved then [] else (List.range 48).map (· + 256) ++ (List.range g.journal.length).map (· + 320)
  ls.foldl (fun g k => g.setLine k (BitVec.ofNat 512 (s.rdMem (g.ribPa + 64 * k) 64))) g

/-- A group's registers put back after a change: the lines in memory that changed are written. -/
def State.putView (s : State) (gid : Nat) (old new : Group) : State :=
  let s' := s.setGroup gid new
  let ls := if new.home ≠ .saved then new.absent else List.range (16 * new.valloc) ++ (List.range 160).map (· + 256)
  (ls.filter fun k => old.line k != new.line k).foldl (fun s k => s.applyWrite (new.ribPa + 64 * k) 64 (new.line k).toNat) s'

/-- A change of a group from outside, made to its journal's copies of the lines too, so that a roll-back keeps it
(16 R389). -/
def Group.bothCopies (g : Group) (lines : List Nat) (f : Group → Group) : Group :=
  { f g with journal := g.journal.map fun j => if lines.contains j.line then (f (g.restoreLine j)).entryOf j.line else j }

/-- The target of `hrd`, `hwr`, `hstep` and `hres` (R450): the group whose RIB is the address, of the issuing context, or of
any context when it has sys = 1. -/
def State.target (s : State) (ctx rib : Nat) : Option Nat :=
  let is (e : Nat × Group) : Bool := e.2.rib.toNat == rib && e.2.mode != .ended
  match s.groups.find? fun e => is e && e.2.ctx == ctx with
  | some e => some e.1
  | none => if (s.ctx ctx).sys then (s.groups.find? is).map (·.1) else none

/-- A path of the trap frame more, in a free overflow entry; its index. -/
def Group.addSaved (g : Group) (e : PathEntry) : Group × Nat :=
  match g.freeOver with
  | k :: _ => (g.setEntry k { e with kind := .saved }, k)
  | [] => (g, 64)

/-- The paths of a handler without some lanes: those that halted before it have their path in the trap frame (19 R448). -/
def Group.leaveHandler (g : Group) (m : Mask) : Group :=
  { g with paths := Vector.ofFn fun i =>
      let e := g.paths[i]
      if e.kind = .path ∧ e.mask &&& m ≠ 0 ∧ e.mask &&& ~~~m ≠ 0 then { e with mask := e.mask &&& ~~~m } else e }

/-- Lane l, halted, moved into a halted path of its own (R454, R455): the group and the entry; none when no path holds it, or
when a division would leave too few overflow entries (06 R136). -/
def Group.isolate (g : Group) (l : Fin 16) (tick : Nat) : Option (Group × Nat) :=
  match g.pathOfLane l with
  | none => none
  | some q =>
    let e := g.entryAt q
    let m : Mask := 1#16 <<< l.val
    if e.mask = m then some (g, q)
    else if g.noRoom 1 then none
    else
      let g' := g.updEntry q fun e => { e with mask := e.mask &&& ~~~m }
      let (g', k) := if e.kind = .saved then g'.addSaved { e with mask := m } else g'.addPath { e with mask := m } tick
      if k < 64 then some (g', k) else none

/-! ### hrd and hwr (R454) -/

/-- The item of `hrd` (R454); none when the access is refused. -/
def State.hrdItem (s : State) (g : Group) (sel : Word) : Option Word :=
  let x := sel.toNat
  let l : Fin 16 := Fin.ofNat 16 (x % 16)
  match bits x 31 28 with
  | 0 => if bits x 15 8 < 16 * g.valloc then some (g.vget (bits x 15 8) l) else none
  | 1 => some (g.sAt (x % 64))
  | 2 => some (csrHalf (g.areg (BitVec.ofNat 4 x)) (x.testBit 4))
  | 3 => some ((g.pred (BitVec.ofNat 3 x)).setWidth 32)
  | 4 => match g.pathOfLane l with
    | none => none
    | some q =>
      let e := g.entryAt q
      match bits x 6 4 with
      | 0 => some (csrHalf e.pc false)
      | 1 => some (csrHalf e.pc true)
      | 2 => some (BitVec.ofNat 32 e.level)
      | 3 => some e.md
      | 4 => some (BitVec.ofNat 32 g.nc[l])
      | 5 => some (BitVec.ofNat 32 g.rd[l])
      | _ => none
  | 5 => some (csrHalf (s.csr g true (bits x 11 0)) (x.testBit 12))
  | _ => none

/-- The change of `hwr` (R454); none when it is refused. -/
def Group.hwrItem (g : Group) (sel w : Word) (tick : Nat) : Option Group :=
  let x := sel.toNat
  let l : Fin 16 := Fin.ofNat 16 (x % 16)
  let m : Mask := 1#16 <<< l.val
  match bits x 31 28 with
  | 0 =>
    let n := bits x 15 8
    if n < 16 * g.valloc ∧ g.hlm.getLsbD l.val then
      some (g.bothCopies [n] fun g => ((g.setV (BitVec.ofNat 8 n) m fun _ => w).markV n m 0).dropKeptB [n])
    else none
  | 1 =>
    let n := x % 64
    if g.anyLive then none
    else some (g.bothCopies [256 + n / 16] fun g => { g.setS (BitVec.ofNat 6 n) w with
      poison := { g.poison with s := g.poison.s &&& ~~~(1#64 <<< n) } })
  | 2 =>
    let n := x % 16
    let old := g.areg (BitVec.ofNat 4 n)
    if g.anyLive then none
    else some (g.bothCopies [260 + n / 8] fun g => { g.setA (BitVec.ofNat 4 n) (withHalf old (x.testBit 4) w 0) with
      poison := { g.poison with a := g.poison.a &&& ~~~(1#16 <<< n) } })
  | 3 =>
    let n := BitVec.ofNat 3 x
    if g.anyLive then none
    else some (g.bothCopies [262] fun g => { g.setP n (w.setWidth 16) with
      poison := { g.poison with p := Vector.ofFn fun i => if i.val = n.toNat then 0 else g.poison.p[i] } })
  | 4 =>
    let i := bits x 6 4
    if !(g.hlm.getLsbD l.val) || (i == 3 && !mdLegal w) then none
    else
      match g.isolate l tick with
      | none => none
      | some (g', k) =>
        let pc (p : DWord) : Group := g'.updEntry k fun e => { e with pc := p, hold := .none }
        let old := (g'.entryAt k).pc
        match i with
        | 0 => some (pc (withHalf old false (w &&& ~~~3) 0))
        | 1 => some (pc (withHalf old true w 0))
        | 3 => some (g'.updEntry k fun e => { e with md := w })
        | _ => none
  | _ => none

/-- p7 written whole (R450). -/
def Group.setP7 (g : Group) (ok : Bool) : Group := g.setP 7 (if ok then 0xFFFF else 0)

/-- The effect of `hrd` (R454). -/
def hrdEff (d : BitVec 6) (a : BitVec 4) (b : BitVec 6) (c : Iss) (s : State) : Eff :=
  let s := s.setGroup c.gid c.g
  if c.act = 0 then .ok s []
  else
    let r := (s.target c.g.ctx (c.g.areg a).toNat).bind fun t => (s.groups.get? t).bind fun g => s.hrdItem (s.viewOf g) (c.g.sreg b)
    .ok (s.setGroup c.gid ((c.g.setS d (r.getD 0)).setP7 r.isSome)) []

/-- Whether a change of a group's paths from outside must wait, because a roll-back could still undo it: the group has
written lines since its replay point and an access or a fault is open (R440 for a halt; the others alike, log 134). -/
def State.mustSettle (s : State) (gid : Nat) (g : Group) : Bool :=
  s.native g && (g.mode == .settle || (g.mode == .run && !g.journal.isEmpty && (!s.settled gid || s.pending gid g)))

/-- A group whose paths were changed from outside: it takes a new replay point, so that a roll-back keeps the change. -/
def State.pathsKept (s : State) (g : Group) : Group :=
  if g.journal.isEmpty then g else g.newReplayPoint g.rpc s.nextOp

/-- A change of the target of an instruction, and p7 (R450); `paths` when it changes the target's paths. -/
def State.onTarget (s : State) (c : Iss) (rib : Nat) (paths : Bool) (f : Group → Option Group) : Eff :=
  let s := s.setGroup c.gid c.g
  match (s.target c.g.ctx rib).bind fun t => (s.groups.get? t).map fun g => (t, g) with
  | none => .ok (s.updGroup c.gid (·.setP7 false)) []
  | some (t, g) =>
    match f (s.viewOf g) with
    | none => .ok (s.updGroup c.gid (·.setP7 false)) []
    | some new =>
      if paths && s.mustSettle t g then .stay
      else .ok ((s.putView t (s.viewOf g) (if paths then s.pathsKept new else new)).updGroup c.gid (·.setP7 true)) []

/-- The effect of `hwr` (R454). -/
def hwrEff (d : BitVec 6) (a : BitVec 4) (b : BitVec 6) (c : Iss) (s : State) : Eff :=
  if c.act = 0 then .ok (s.setGroup c.gid c.g) []
  else s.onTarget c (c.g.areg a).toNat (bits (c.g.sreg b).toNat 31 28 == 4) fun g => g.hwrItem (c.g.sreg b) (c.g.sreg d) c.tick

/-! ### hstep and hres (R455, R456) -/

/-- The start of a single-lane step (R455); none when it is refused. -/
def Group.startStep (g : Group) (l : Fin 16) (tick : Nat) : Option Group :=
  if !(g.hlm.getLsbD l.val) then none
  else match g.isolate l tick with
    | none => none
    | some (g', k) =>
      let m : Mask := 1#16 <<< l.val
      let g' := if (g'.entryAt k).kind = .saved then g'.leaveHandler m else g'
      let g' := { g' with hlm := g'.hlm &&& ~~~m, hstep := g'.hstep ||| m }.remerge
      some (g'.fillTable tick)

/-- The effect of `hstep` (R455). -/
def hstepEff (d : BitVec 6) (a : BitVec 4) (c : Iss) (s : State) : Eff :=
  if c.act = 0 then .ok (s.setGroup c.gid c.g) []
  else s.onTarget c (c.g.areg a).toNat true fun g => g.startStep (Fin.ofNat 16 (c.g.sreg d).toNat) c.tick

/-- The halted paths that hold lanes of m and others that stay halted, of the trap frame too (R456): a lane that halted before a handler
has its path there, whatever the handler's path says. -/
def Group.mixedPaths (g : Group) (m : Mask) : List Nat :=
  let mixes (e : PathEntry) : Bool := g.liveOf e.mask == 0 && e.mask &&& m != 0 && e.mask &&& ~~~m != 0
  g.entriesWhere fun _ e => mixes e && (e.kind == .path || (e.kind == .saved && (laneList (e.mask &&& m)).all fun l => (g.holders .path true l).isNone))

/-- The lanes of m run again (R456): a path that mixes them with halted lanes is divided. None when no named lane was halted,
or when the divisions would leave too few overflow entries (06 R136). -/
def Group.resumeLanes (g : Group) (m : Mask) (tick : Nat) : Option Group :=
  let m := m &&& g.hlm
  let mixed := g.mixedPaths m
  if m = 0 ∨ (0 < mixed.length ∧ g.noRoom mixed.length) then none
  else
    let inFrame := maskOf fun l => lane m l && (g.holders .path true l).isNone && (g.holders .saved true l).isSome
    let g := { g.leaveHandler inFrame with hlm := g.hlm &&& ~~~m }
    let g := { g with halted := g.halted && g.hlm != 0 }
    let g := mixed.foldl (fun g q =>
      let e := g.entryAt q
      let h := g.setEntry q { e with mask := e.mask &&& ~~~m }
      if e.kind = .saved then (h.addSaved { e with mask := e.mask &&& m }).1 else (h.addPath { e with mask := e.mask &&& m } tick).1) g
    some (g.remerge.fillTable tick)

/-- The effect of `hres` (R456), with a resume record for each path that runs again (R459). -/
def hresEff (d : BitVec 6) (a : BitVec 4) (c : Iss) (s : State) : Eff :=
  if c.act = 0 then .ok (s.setGroup c.gid c.g) []
  else
    let m := (c.g.sreg d).setWidth 16
    let rib := (c.g.areg a).toNat
    match s.onTarget c rib true fun g => g.resumeLanes m c.tick with
    | .ok s' fl =>
    let woken : List (Group × PathEntry) := match s.target c.g.ctx rib, s'.target c.g.ctx rib with
      | some t, some _ => match s.groups.get? t, s'.groups.get? t with
        | some old, some new => (new.paths.toList.filter fun e => e.kind == .path && e.mask &&& (old.hlm &&& ~~~new.hlm) != 0).map fun e => (new, e)
        | _, _ => []
      | _, _ => []
    .ok (woken.foldl (fun s x => s.trace x.1 5 x.2.pc.toNat x.2.mask 0) s') fl
    | e => e

/-! ### wpw and wpr (R444, R452, R453) -/

/-- The parts of a predicate's window that translate now, whole lines (R444; log 162). -/
def State.mirrorParts (s : State) (k : Nat) (p : Pred) : List Mirror :=
  if !(p.en && p.mir) then []
  else
    let n := max (2 ^ p.sz) 128
    let base := p.base / 128 * 128
    (List.range (n / 65536 + 1)).filterMap fun i =>
      let va := base + 65536 * i
      let len := min (n - 65536 * i) 65536
      if n ≤ 65536 * i then none
      else match s.walk p.ctx va with
        | .ok l => if l.mt = 0 then some { cum := l.cum, pred := k, va := va, pa := l.phys va, len := len } else none
        | .error _ => none

/-- A predicate written: its counters are reset and its mirror is installed (R438, R444, R452). -/
def State.writePred (s : State) (k : Fin 16) (p : Pred) : State :=
  let s : State := { s with
    preds := s.preds.set k p
    mirrorCnt := s.mirrorCnt.keep fun i _ => i % 16 != k.val
    mirrors := (s.mirrors.filter fun (m : Mirror) => m.pred != k.val) ++ s.mirrorParts k.val p }
  s.updCores fun _ c => { c with matches_ := c.matches_.set k 0 }

/-- The four words of `wpw`. -/
def predOf (g : Group) (b : BitVec 4) : Pred := Vector.ofFn fun i => g.sAt (4 * b.toNat + i.val)

/-- The effect of `wpw` (R452). -/
def wpwEff (d : BitVec 3) (a : BitVec 6) (b : BitVec 4) (c : Iss) (s : State) : Eff :=
  if c.act = 0 then .ok (s.setGroup c.gid c.g) []
  else
    let k : Fin 16 := Fin.ofNat 16 (c.g.sreg a).toNat
    let p := predOf c.g b
    let old : Pred := s.preds[k]
    let refused := p.malformed || (old.en && old.ctx != c.g.ctx && !(s.ctx c.g.ctx).sys)
    .ok ((if refused then s else s.writePred k p).setGroup c.gid (c.g.setP d (if refused then 0 else 0xFFFF))) []

/-- The counter sum of a predicate (R438). -/
def State.counterSum (s : State) (k : Fin 16) : Nat :=
  s.cores.toList.foldl (fun n c => n + c.matches_[k]) 0 + s.mirrorCnt.foldl (fun n e => if e.1 % 16 = k.val then n + e.2 else n) 0

/-- The effect of `wpr` (R453); a predicate with en = 0 is no one's (R452; log 158). -/
def wprEff (d : BitVec 6) (a : BitVec 6) (c : Iss) (s : State) : Eff :=
  if c.act = 0 then .ok (s.setGroup c.gid c.g) []
  else
    let x := (c.g.sreg a).toNat
    let k : Fin 16 := Fin.ofNat 16 x
    let p : Pred := s.preds[k]
    let own := !p.en || p.ctx == c.g.ctx || (s.ctx c.g.ctx).sys
    let i := bits x 6 4
    let w : Word := if !own then 0
      else if h : i < 4 then p[i] else if i = 4 then BitVec.ofNat 32 (s.counterSum k) else 0
    .ok (s.setGroup c.gid (c.g.setS d w)) []

/-! ### Mirrors (R445) -/

/-- Whether a write of n bytes at va matches a predicate with an address source: some byte of it satisfies the window's
comparison. -/
def Pred.meetsWrite (p : Pred) (va n : Nat) : Bool :=
  let lo := p.base
  let hi := p.base + 2 ^ p.sz
  if p.cmp = 0 then decide (va < hi ∧ lo < va + n) else decide (va < lo ∨ hi < va + n)

/-- The lines of n bytes that meet an installed part, each as the bytes that it shares: physical address and count. -/
def Mirror.lines (m : Mirror) (pa n : Nat) : List (Nat × Nat) :=
  let lo := max pa m.pa
  let hi := min (pa + n) (m.pa + m.len)
  if hi ≤ lo then [] else (List.range ((hi - 1) / 128 - lo / 128 + 1)).map fun i =>
    let x := max lo (128 * (lo / 128 + i))
    (x, min hi (128 * (lo / 128 + i) + 128) - x)

/-- One write compared with one installed part by the mirror of one home slice (R445): src is the writer code, gid the issuing
group, arg the peer, `ls` the parts of the write that the slice applies. The trace records of a match and of its halt have PC and
lanes 0 (log 130). -/
def State.mirrorOne (s : State) (src gid ctx arg slice : Nat) (m : Mirror) (ls : List (Nat × Nat)) : State :=
  if h : m.pred < 16 then
    let p : Pred := s.preds[m.pred]
    if !p.en || ((src == 1 || src == 2) && p.ctx != ctx) then s
    else match ls.find? fun x => p.meetsWrite (m.va + (x.1 - m.pa)) x.2 with
    | none => s
    | some x =>
      let va := m.va + (x.1 - m.pa)
      let key := 16 * slice + m.pred
      let cnt := min (s.mirrorCnt.getD key 0 + 1) (2 ^ 32 - 1)
      let s := { s with mirrorCnt := s.mirrorCnt.set key cnt }
      let g : Group := (s.groups.get? gid).getD { ctx := p.ctx }
      let info := m.pred + 16 * p.act + 128 * p.src
      let s := if p.log then s.trace g 2 0 0 info else s
      if p.act = 0 ∨ cnt < p.thr then s
      else
        let rib := ((s.groups.get? gid).map (·.rib.toNat)).getD 0
        let (s, _) := s.postFault p.ctx { id := 0, va := va, kind := 6, src := src, detail := m.pred + 16 * p.act,
                                          arg := if src = 1 ∨ src = 2 then rib else arg }
        if p.act = 1 then s
        else
          let s := if src = 1 ∨ src = 2 ∨ 5 ≤ p.act then s.trace g 3 0 0 info else s
          { s with mirrorHalts := s.mirrorHalts ++ [(m.pred, p.act, src, gid, va, p.ctx)] }
  else s

/-- A write applied at its home slices compared with the mirrors of each of them (R445). -/
def State.mirrorWrite (s : State) (src gid ctx arg pa n : Nat) : State :=
  s.mirrors.foldl (fun s m =>
    let ls := m.lines pa n
    ((ls.map fun x => s.homeOf m.cum x.1).dedup).foldl (fun s k =>
      s.mirrorOne src gid ctx arg k m (ls.filter fun x => s.homeOf m.cum x.1 == k)) s) s

/-- The groups that a mirror halt reaches, and its act (R445). -/
def State.mirrorTargets (s : State) (act src gid ctx : Nat) : List Nat :=
  let own := src == 1 || src == 2
  if act = 6 ∨ (act = 5 ∧ !own) then (s.groups.filter fun e => e.2.ctx == ctx).map (·.1)
  else if act = 5 then
    match s.groups.get? gid with
    | some g => (s.groups.filter fun e => e.2.block == g.block).map (·.1)
    | none => []
  else if own then [gid] else []

/-- MIRROR_HALT (R445): the oldest firing match of a writer's group asks for its halts. -/
def State.mirrorHaltStep (s : State) (g : Nat) : State :=
  match s.mirrorHalts.find? fun h => h.2.2.2.1 == g with
  | none => s
  | some h =>
    let (_, act, src, gid, _, ctx) := h
    let s := { s with mirrorHalts := s.mirrorHalts.erase h }
    (s.mirrorTargets act src gid ctx).foldl (fun s t => s.updGroup t (·.askHalt (max act 4) false)) s

/-! ### Halts that travel (R442, R443) -/

/-- HALT_PROPAGATION (R443; R440): a resident native group first resolves its faults, a saved one is marked in its image. -/
def State.haltStep (s : State) (gid : Nat) : State :=
  match s.groups.get? gid with
  | none => s
  | some g =>
    match g.haltReq with
    | none => s
    | some act =>
      if g.mode = .ended then s.updGroup gid fun g => { g with haltReq := none, skid := none }
      else if g.home = .saved then
        let v := s.viewOf g
        let h : Group := { v.haltAll with haltReq := none, skid := none, halted := act == 6 || v.halted }
        (s.setHalted gid h).putView gid v (s.pathsKept h.dropSteps)
      else if g.mode = .run ∧ s.native g ∧ !s.settled gid then s
      else if g.mode = .run ∧ s.native g ∧ s.pending gid g then s.updGroup gid Group.stopForFault
      else if g.mode = .settle then s
      else s.setHalted gid
        (let h : Group := { g.haltAll with haltReq := none, skid := none, halted := act == 6 || g.halted }
         if s.native g ∧ g.mode = .run then h.newReplayPoint h.rpc s.nextOp else h)

/-! ### PC samples (R458) -/

/-- Ticks of a sample period of a context. -/
def Ctx.samplePeriod (c : Ctx) : Nat := 320 * (bits c.trace.ctl.toNat 15 0 + 1)

/-- The reason of R458 for a path that did not issue: its wait, or the condition that failed when it was last tried; a core
store bank is never in the way here (R29 has no time in this model). -/
def State.sampleReason (s : State) (gid : Nat) (g : Group) (e : PathEntry) : Nat :=
  if g.issued = s.issues ∧ 0 < s.issues ∧ s.cur.map (·.1) = some gid then 0
  else if g.home ≠ .resident ∨ g.mode ≠ .run then 12
  else if g.liveOf e.mask = 0 then 11
  else match e.hold with
    | .merge => 5
    | .bar _ | .barw .. | .gbar _ | .rend _ => 6
    | .mon _ => 7
    | .wret .. => 8
    | .grow _ => 9
    | .wtm _ => 10
    | .none => if e.why = 0 then 13 else e.why
    | _ => 2

/-- PC_SAMPLE (R458): at the end of a period a scheduler samples each context whose session asks for samples. -/
def State.pcSampleStep (s : State) (core sched : Nat) : State :=
  let here := s.groups.filter fun e => e.2.core == core && e.2.slot / 16 == sched && e.2.home != .saved && e.2.mode != .ended
  ((here.map fun e => e.2.ctx).dedup).foldl (fun s ctx =>
    let c := s.ctx ctx
    let key := 65536 * sched + ctx
    let n := s.gnomon / c.samplePeriod
    if !(c.trace.ctl.getLsbD 31 && c.trace.ctl.getLsbD 29) || decide (n ≤ ((s.core core).sampled.getD key 0)) then s
    else
      let s := s.updCore core fun k => { k with sampled := k.sampled.set key n }
      match (here.filter fun e => e.2.ctx == ctx).foldl (fun (r : Option (Nat × Group)) e => match r with
          | none => some e
          | some f => if decide (e.2.issued = s.issues ∧ 0 < s.issues) || (f.2.issued != s.issues && groupOlder e f) then some e else some f) none with
      | none => s
      | some (gid, g) =>
        let q := (([1, 2, 3, 4].map fun k => (g.lastPath + k) % 4).filter g.mayTurn).headD 0
        let e := g.entryAt q
        s.trace g 1 e.pc.toNat e.mask (s.sampleReason gid g e)) s
where
  /-- least recent issue, then the lower slot -/
  groupOlder (a b : Nat × Group) : Bool :=
    decide (a.2.issued < b.2.issued) || (a.2.issued == b.2.issued && decide (a.2.slot < b.2.slot))

/-! ### The trace writer (R460) -/

/-- A record's 32 bytes. -/
def traceImage (r : Nat × Nat × Nat × Nat) : Nat := packBits [(64, r.1), (64, r.2.1), (64, r.2.2.1), (64, r.2.2.2)]

/-- A word of a session, at supervisor level. -/
def State.traceWord (s : State) (ctx va : Nat) : Nat := (s.rdVa ctx true va 4).getD 0

/-- TRACE_RECORD_WRITE (R460): the end of a release moves TRWP; otherwise the next record is written or dropped, a loss
record first when records were lost and space is free. -/
def State.traceStep (s : State) (ctx : Nat) : State :=
  let t := (s.ctx ctx).trace
  let upd (f : Trace → Trace) (s : State) : State := s.updCtx ctx fun c => { c with trace := f c.trace }
  match t.wait with
  | some w =>
    if decide (w.1 < s.gnomon ∧ w.2.1 < s.gnomon) then
      upd (fun t => { t with wait := none }) ((s.wrVa ctx true t.wp.toNat 4 t.idx).getD s)
    else s
  | none =>
    let full := decide (2 ^ bits t.ctl.toNat 20 16 ≤ (t.idx + 2 ^ 32 - s.traceWord ctx t.rp.toNat) % 2 ^ 32) != s.tapsVa ctx true t.rp.toNat 4
    let put (s : State) (r : Nat × Nat × Nat × Nat) (f : Trace → Trace) : State :=
      let va := (t.base.toNat + 32 * (t.idx % 2 ^ bits t.ctl.toNat 20 16)) % 2 ^ 64
      match s.resolveCp ctx true .write va with
      | .error _ => upd f s
      | .ok l =>
        let w := s.writeTimes l (l.phys va) 32
        upd (fun t => { f t with idx := (t.idx + 1) % 2 ^ 32, wait := some w }) (s.wrLeaf l (l.phys va) 32 (traceImage r))
    match t.queue with
    | [] => s
    | r :: l =>
      if full then upd (fun t => { t with queue := l, lost := t.lost + 1 }) s
      else if t.lost ≠ 0 then put s (s.gnomon, t.lost, 0, packBits [(8, 6), (8, t.seq.toNat)]) fun t => { t with lost := 0 }
      else put s r fun t => { t with queue := l }

/-! ### The instructions -/

/-- wpw (19 R452): a sink -/
def execWpw (d : BitVec 3) (a : BitVec 6) (b : BitVec 4) (s : State) : Host.Outcome State Fault Refusal :=
  issue (W.wpw d a b) { sr := a.toNat :: (List.range 4).map (4 * b.toNat + ·), pw := [d.toNat], sup := true, uniform := true, sink := true } (wpwEff d a b) s

/-- wpr (19 R453) -/
def execWpr (d : BitVec 6) (a : BitVec 6) (s : State) : Host.Outcome State Fault Refusal :=
  issue (W.wpr d a) { sr := [a.toNat], sw := [d.toNat], sup := true, uniform := true } (wprEff d a) s

/-- hrd (19 R454) -/
def execHrd (d : BitVec 6) (a : BitVec 4) (b : BitVec 6) (s : State) : Host.Outcome State Fault Refusal :=
  issue (W.hrd d a b) { sr := [b.toNat], ar := [a.toNat], sw := [d.toNat], pw := [7], sup := true, uniform := true } (hrdEff d a b) s

/-- hwr (19 R454): a sink -/
def execHwr (d : BitVec 6) (a : BitVec 4) (b : BitVec 6) (s : State) : Host.Outcome State Fault Refusal :=
  issue (W.hwr d a b) { sr := [b.toNat, d.toNat], ar := [a.toNat], pw := [7], sup := true, uniform := true, sink := true } (hwrEff d a b) s

/-- hstep (19 R455): a sink -/
def execHstep (d : BitVec 6) (a : BitVec 4) (s : State) : Host.Outcome State Fault Refusal :=
  issue (W.hstep d a) { sr := [d.toNat], ar := [a.toNat], pw := [7], sup := true, uniform := true, sink := true } (hstepEff d a) s

/-- hres (19 R456): a sink -/
def execHres (d : BitVec 6) (a : BitVec 4) (s : State) : Host.Outcome State Fault Refusal :=
  issue (W.hres d a) { sr := [d.toNat], ar := [a.toNat], pw := [7], sup := true, uniform := true, sink := true } (hresEff d a) s

/-- HALT_PROPAGATION (19 R443) -/
def execHaltPropagation (g : Nat) (s : State) : Host.Outcome State Fault Refusal :=
  .next (s.haltStep g)

/-- MIRROR_HALT (19 R445) -/
def execMirrorHalt (g : Nat) (s : State) : Host.Outcome State Fault Refusal :=
  .next (s.mirrorHaltStep g)

/-- PC_SAMPLE (19 R458) -/
def execPcSample (core : Nat) (sched : Nat) (s : State) : Host.Outcome State Fault Refusal :=
  .next (s.pcSampleStep core sched)

/-- TRACE_RECORD_WRITE (19 R460) -/
def execTraceRecordWrite (ctx : Nat) (s : State) : Host.Outcome State Fault Refusal :=
  .next (s.traceStep ctx)

end Sys2Proof.Machine
end

