-- ==== Sys2Proof/Machine/Copies.lean ====
section
/-! DEFINITION. Copies (07 R190 to R195; 08 R218; 21 R468) and the release of a group's slot after its end (07 R179). -/

namespace Sys2Proof.Machine

/-! ### The bytes of a copy -/

/-- Destination bytes of one span: address, bytes, half of a byte, the source address of a plain span, and the index of a
converted element. -/
structure CSpan where
  dst : Nat
  len : Nat
  nib : Nat := 0
  src : Nat := 0
  idx : Nat := 0
  deriving DecidableEq, Repr

/-- A plain span, cut where the destination wraps. -/
def plainSpan (dst src n : Nat) : List CSpan :=
  let d := dst % 2 ^ 64
  let k := min n (2 ^ 64 - d)
  (if k = 0 then [] else [{ dst := d, len := k, src := src % 2 ^ 64 }]) ++
  (if k < n then [{ dst := 0, len := n - k, src := (src + k) % 2 ^ 64 }] else [])

/-- An address moved by a signed distance. -/
def addrPlus (a : Nat) (d : Int) : Nat := (((a : Int) + d) % 2 ^ 64).toNat

/-- Whether a copy converts elements. -/
def Copy.converts (x : Copy) : Bool := x.form == 1 || x.form == 4

/-- Its elements (R192). -/
def Copy.count (x : Copy) : Nat := if x.form = 4 then 1024 * x.n else x.n

/-- The destination spans of a copy (R192). -/
def Copy.spans (x : Copy) : List CSpan :=
  if x.converts then
    (List.range x.count).filterMap fun i =>
      let ea := (x.dst + i) % 2 ^ 64
      let (va, n, nib) := x.drec.loc ea 0
      if x.drec.touched ea 0 then some { dst := va, len := n, nib := nib, idx := i } else none
  else if x.form = 2 then
    if x.esz = 0 then
      (List.range x.h).flatMap fun r => plainSpan (addrPlus x.dst (x.dp * r)) (addrPlus x.src (x.sp * r)) x.n
    else
      (List.range x.h).flatMap fun r => (List.range (x.n / x.esz)).flatMap fun c =>
        plainSpan (addrPlus x.dst (x.dp * c + r * x.esz)) (addrPlus x.src (x.sp * r + c * x.esz)) x.esz
  else plainSpan x.dst x.src x.n

/-- The accesses that read the source of an element (R182, R192). -/
def Copy.elemAccs (x : Copy) (i : Nat) : List Access :=
  if x.form = 4 then spanAccs 0 (blockName 0) .read 0 ((x.src + 640 * (i / 1024)) % 2 ^ 64) 640
  else
    let ea := (x.src + i) % 2 ^ 64
    if !x.srec.touched ea 0 then []
    else
      let (va, n, nib) := x.srec.loc ea 0
      if x.srec.stype = .c15 then spanAccs 0 (blockName 0) .read 0 va n
      else spanAccs 0 0 .read nib va n ++ (if x.srec.stype.scaled then spanAccs 0 (scaleElem 0) .read 0 (x.srec.scaleVa ea 0) 1 else [])

/-- The accesses of n bytes, cut at lines. -/
def lineAccs (ask : Ask) (nib va n : Nat) : List Access :=
  (cutLines 40 va n 0).map fun (a, k, off) => { va := a, len := k, off := off, ask := ask, nib := nib }

/-- The accesses that read the source of n bytes of a span from byte off on. -/
def Copy.srcAccs (x : Copy) (i : CSpan) (off n : Nat) : List Access :=
  if x.converts then x.elemAccs i.idx else lineAccs .read 0 ((i.src + off) % 2 ^ 64) n

/-- The stored bits of element i from the accesses that read its source; q is the draw of a rounding by chance (R192). -/
def Copy.element (x : Copy) (i q : Nat) (accs : List Access) : Nat :=
  let t := mdType x.md
  if x.form = 4 then
    (fvIn x.drec.stype (-x.drec.sx) x.md q (nutmegVal (gather accs 0 (blockName 0)) (i % 1024))).1
  else (x.drec.elemOut t x.md 0 (x.srec.elemIn t x.md accs 0 ((x.src + i) % 2 ^ 64) 0 0).1).1

/-- The bytes that n bytes of a span from byte off on receive. -/
def Copy.value (x : Copy) (i : CSpan) (off n q : Nat) (accs : List Access) : Nat :=
  if x.converts then (x.element i.idx q accs <<< (if i.nib = 2 then 4 else 0)) >>> (8 * off) % 2 ^ (8 * n)
  else gather accs 0 0

/-- The malformed data that a copy meets in some source accesses: detail 13 for a tile (13 R323), 5 for a superblock (R88), with the
lowest address. -/
def Copy.malformed (x : Copy) (accs : List Access) : Option (Nat × Nat) :=
  let lowest (l : List Access) : Nat := l.foldl (fun m a => min m a.va) ((l.headD { va := 0, len := 0 }).va)
  match accs.filter (·.poison == some 0x10D) with
  | [] =>
    if (poisonFirst accs).isNone && x.converts && (x.form == 4 || x.srec.stype == .c15) && !accs.isEmpty &&
      nutmegBad (gather accs 0 (blockName 0)) then some (5, lowest accs) else none
  | l => some (13, lowest l)

/-- A destination access of a chunk, and the ranges of its bytes that are formed from poisoned bytes: first byte, bytes, code
(21 R468). -/
structure CWrite where
  acc : Access
  bad : List (Nat × Nat × Nat) := []

/-! ### Chunks (R194) -/

/-- The 4 KiB range of an address. -/
def chunkOf (va : Nat) : Nat := va / 4096

/-- Whether a plain copy takes its chunks from the last to the first: its destination begins within its source, counted modulo
2^64 (R192). -/
def Copy.down (x : Copy) : Bool := x.form == 0 && decide ((x.dst + 2 ^ 64 - x.src % 2 ^ 64) % 2 ^ 64 < x.n)

/-- The chunks of a plain copy in the order of its bytes. -/
def Copy.plainChunks (x : Copy) : Nat := if x.n = 0 then 0 else (x.dst % 4096 + x.n - 1) / 4096 + 1

/-- The next chunk when p says how far the copy is: of a plain copy how many chunks are done, else the lowest chunk to come. -/
def Copy.nextChunk (x : Copy) (p : Nat) : Option Nat :=
  if x.form = 0 then
    if x.plainChunks ≤ p then none
    else some ((chunkOf (x.dst % 2 ^ 64) + (if x.down then x.plainChunks - 1 - p else p)) % 2 ^ 52)
  else
    x.spans.foldl (fun r i =>
      if chunkOf (i.dst + i.len - 1) < p then r
      else some (min (r.getD (2 ^ 52)) (max (chunkOf i.dst) p))) none

/-- How far the copy is after chunk c. -/
def Copy.after (x : Copy) (p c : Nat) : Nat := if x.form = 0 then p + 1 else c + 1

/-- The parts of the spans in a chunk: span, first byte, bytes. -/
def Copy.parts (x : Copy) (p : Nat) : List (CSpan × Nat × Nat) :=
  x.spans.filterMap fun i =>
    let lo := max i.dst (4096 * p)
    let hi := min (i.dst + i.len) (4096 * p + 4096)
    if lo < hi then some (i, lo - i.dst, hi - lo) else none

/-- Accesses of a copy translated at the issuing group's level (16 R380): the first that does not translate or is not
permitted, or that the host answers with an error, with its detail. -/
def State.copyTrans (s : State) (o : Op) : List Access → Except (Nat × Nat) (List Access)
  | [] => .ok []
  | a :: l =>
    match s.resolve o.core o.ctx o.sup a.ask a.va with
    | .error d => .error (a.va, d)
    | .ok f => if a.ask == .read && f.mt == 1 && Sys2Proof.Config.hostError s.gnomon (f.phys a.va) then .error (a.va, 10) else match s.copyTrans o l with
      | .error e => .error e
      | .ok r => .ok (({ a with st := .ready, pa := f.phys a.va, mt := f.mt, cum := f.cum } : Access).home s.own :: r)

/-- The block of an operation's group, with the group's gang member. -/
def State.opBlock (s : State) (o : Op) : Option (Nat × Nat × Block) :=
  (s.groups.get? o.g).bind fun g => (s.blocks.get? g.block).map fun b => (g.block, s.memberOf g, b)

/-- The answer of a peer that an access of a copy waits for, when it is there. -/
def Op.peerData (o : Op) (a : Access) : Option Access := o.accs.find? fun b => b.ask == .read && b.va == a.va && b.len == a.len && b.st == .done

/-- Whether an access goes to a peer module (18 R430). -/
def Access.peer (a : Access) : Bool := a.mt == 0 && inAperture a.pa

/-- The tile that a copy has read, and of which an earlier chunk took some bytes: a read sees a tile at one state (08 R220), so the
later chunks take theirs from it (log 173). -/
def Op.tileData (o : Op) (a : Access) : Option Access :=
  match (if a.cum then cumBlock a.pa else none) with
  | none => none
  | some (b, _) => o.accs.find? fun x => x.ask == .read && x.cum && x.pa == b && x.len == 256

/-- A source access read at its home (R193), or a peer's answer. -/
def State.copyRead (s : State) (o : Op) (a : Access) : Access :=
  if a.mt = 1 then { a with data := memReadN s.hostMem a.pa a.len }
  else if a.mt = 2 then { a with data := (s.winRead a.pa a.len).1, poison := (s.winRead a.pa a.len).2 }
  else if a.peer then
    match o.peerData a with
    | some b => { a with data := b.data, poison := b.poison }
    | none => a
  else match o.tileData a with
    | some x =>
      let p := (List.range a.len).findSome? fun i => match x.linePoison.getD ((a.pa + i) % 256 / 4) 0 with | 0 => none | c => some c
      { a with data := x.data >>> (8 * (a.pa % 256)) % 2 ^ (8 * a.len), poison := p }
    | none => { a with data := (s.readAcc a).1, poison := (s.readAcc a).2 }

/-- The tiles that a chunk reads in part: kept whole for the chunks to come (08 R220). -/
def State.copyTiles (s : State) (o : Op) (srcs : List Access) : List Access :=
  let mine (b : Nat) (i : Nat) : Bool := srcs.any fun a => a.mt == 0 && decide (a.pa ≤ b + i ∧ b + i < a.pa + a.len)
  (srcs.filter fun a => a.mt == 0 && !a.peer && (o.tileData a).isNone).foldl (fun l a =>
    match (if a.cum then cumBlock a.pa else none) with
    | none => l
    | some (b, _) =>
      if l.any (·.pa == b) || (List.range 256).all (mine b) then l
      else
        let t : Access := { a with va := a.va + b - a.pa, pa := b, len := 256, st := .done }
        { t with data := (s.readAcc t).1
                 linePoison := (List.range 64).map fun i => ((s.readAcc { t with pa := b + 4 * i, len := 4 }).2).getD 0 } :: l) []

/-- A scratchpad source. -/
def State.scratchRead (s : State) (o : Op) (a : Access) : Access :=
  match s.opBlock o with
  | some (_, m, b) => { a with data := b.rdScratch m a.va a.len, poison := if b.scratchPoisoned m a.va a.len then some 2 else none }
  | none => a

/-- One write `w` of a chunk at its home (R193, R198; 13 R325; 21 R468), of the writes `ws` of the chunk: the half-lines, or the words of
a held line, that receive a byte formed from poisoned bytes become poisoned; to host memory the write carries the indication. The
issuing core's L1 copy ends, and a fill of it on its way is not installed, so that no later load of the group reads an older value (08
R204). -/
def State.copyWrite (s : State) (id : Nat) (o : Op) (ws : List CWrite) (w : CWrite) : State :=
  let a := w.acc
  if a.mt = 1 then
    let s : State := { s with hostMem := memWriteN s.hostMem a.pa a.len (if a.nib = 0 then a.data else mixBits (memReadN s.hostMem a.pa a.len) a.bitMask a.data) }
    if w.bad.isEmpty then s else { s with host := { s.host with poisoned := s.host.poisoned ++ [(a.pa, a.len)] } }
  else if a.mt = 2 then
    (w.bad.foldl (fun t x => t.winPoison (a.pa + x.1) x.2.1 x.2.2)
      (s.winWrite a.pa a.len (if a.nib = 0 then a.data else mixBits (s.winRead a.pa a.len).1 a.bitMask a.data))).updOp id fun o =>
      { o with ct := ctMax o.ct (s.gnomon, s.gnomon, s.gnomon) }
  else
    let o' := { o with accs := ws.map (·.acc) }
    if s.lost a.pa then s.defer o.g ⟨0x31, 4, 0, a.va⟩
    else if s.refused o' a then s.defer o.g ⟨0x31, 5, 0, a.va⟩
    else match (s.clearPoison ((halvesOf a.pa a.len).filter o'.covers)).writeDec a.cum a.pa a.len (s.writeBytes a) with
      | none => s.defer o.g ⟨0x21, 13, 0, a.va⟩
      | some t =>
        let t := (t.forgetFills o.core (linesOf a.cum a.pa)).mirrorWrite 1 o.g o.ctx 0 a.pa a.len
        let t := t.updOp id fun o => { o with ct := ctMax o.ct (s.timesOf (s.isHeld a) a) }
        (w.bad.foldl (fun t x => t.poisonHome (a.pa + x.1) x.2.1 x.2.2) t).updCore o.core (·.dropOlder (linesOf a.cum a.pa) s.gnomon)

/-- A source access of a part as it reads now. -/
def State.srcRead (s : State) (o : Op) (x : Copy) (a : Access) : Access :=
  if x.form = 3 ∧ x.toMem then s.scratchRead o a else s.copyRead o a

/-- The part of an access that lies in bytes [lo, lo + n) of its datum. -/
def Access.part (a : Access) (lo n : Nat) : Option Access :=
  let x := max lo a.off
  let y := min (lo + n) (a.off + a.len)
  if x < y then some { a with va := a.va + (x - a.off), pa := a.pa + (x - a.off), off := x, len := y - x } else none

/-- What poisons bytes [lo, lo + n) of a plain part (21 R468): a peer's answer counts whole. -/
def State.partPoison (s : State) (o : Op) (x : Copy) (srcs : List Access) (lo n : Nat) : Option Nat :=
  srcs.findSome? fun a => (a.part lo n).bind fun b => if a.peer then (s.srcRead o x a).poison else (s.srcRead o x b).poison

/-- The ranges of a destination access that are formed from poisoned bytes, by the words of the destination; of a converted element
all its bytes (21 R468). -/
def State.badWords (s : State) (o : Op) (x : Copy) (srcs : List Access) (a : Access) : List (Nat × Nat × Nat) :=
  match poisonFirst (srcs.map (s.srcRead o x)) with
  | none => []
  | some (d, _) =>
    if x.converts then [(0, a.len, d)]
    else (wordsOf a.va a.len).filterMap fun w =>
      let lo := max a.va (4 * w) - a.va
      let n := min (a.va + a.len) (4 * w + 4) - a.va - lo
      (s.partPoison o x srcs (a.off + lo) n).map fun d => (lo, n, d)

/-- A part of a chunk with its source read: its destination accesses with their bytes and what was wrong. A rounding by chance has a
free draw for each element (07 R183; log 76). -/
def State.partWrites (s : State) (o : Op) (x : Copy) (dsts : List Access) (p : CSpan × Nat × Nat) (srcs : List Access) :
    List CWrite :=
  let v := x.value p.1 p.2.1 p.2.2 (Config.freeWord (o.prio + p.1.idx)).toNat (srcs.map (s.srcRead o x))
  dsts.map fun a => { acc := { a with data := v >>> (8 * a.off) % 2 ^ (8 * a.len) }, bad := s.badWords o x srcs a }

/-- A copy parks behind a fault record of src 1; what the chunk has read from a peer is read again (R194). -/
def State.copyPark (s : State) (id : Nat) (o : Op) (kind : Nat) (e : Nat × Nat) : State :=
  let (s, r) := s.postFault o.ctx { id := 0, va := e.1, kind := kind, src := 1, detail := e.2 }
  s.updOp id fun o => { o with phase := 2, aged := r, vals := [(0, e.1), (1, e.2)], accs := o.accs.filter fun a => a.cum && a.len == 256 }

/-- The translated destinations and sources of a chunk's parts; the first fault with its kind. -/
def State.copyPieces (s : State) (o : Op) (x : Copy) :
    List (CSpan × Nat × Nat) → Except (Nat × Nat × Nat) (List ((CSpan × Nat × Nat) × List Access × List Access))
  | [] => .ok []
  | p :: l =>
    let src := x.srcAccs p.1 p.2.1 p.2.2
    let dst := lineAccs .write p.1.nib (p.1.dst + p.2.1) p.2.2
    let srcs := if x.form = 3 ∧ x.toMem then .ok src else s.copyTrans o src
    let dsts := if x.form = 3 ∧ !x.toMem then .ok dst else s.copyTrans o dst
    match srcs, dsts, s.copyPieces o x l with
    | .error e, _, _ => .error (0, e)
    | _, _, .error (0, e) => .error (0, e)
    | _, .error e, _ => .error (1, e)
    | _, _, .error e => .error e
    | .ok a, .ok b, .ok r => .ok ((p, a, b) :: r)

/-- The acquire of a copy is due no longer (R193 step 1; 08 R218). -/
def State.copyAcquired (s : State) (id : Nat) (o : Op) (x : Copy) : Bool :=
  match x.acq, s.groups.get? o.g with
  | some scope, some g => s.doneBefore o.g id [0, 1, 2, 3, 4] && s.passedAt g scope
  | _, _ => true

/-- The writes of a chunk: scratchpad bytes, or memory with a peer's part sent to it; the tiles that it read in part stay. -/
def State.copyApply (s : State) (id : Nat) (o : Op) (x : Copy) (ws : List CWrite) (tiles : List Access) : State :=
  let old := o.accs.filter fun a => a.ask == .read && a.cum && a.len == 256
  if x.form = 3 ∧ !x.toMem then
    let put (m : Nat) (b : Block) (w : CWrite) : Block :=
      w.bad.foldl (fun b y => b.spoilScratch m (w.acc.va + y.1) y.2.1) (b.wrScratch m w.acc.va w.acc.len w.acc.data false)
    let s : State := match s.opBlock o with
      | some (bid, m, _) => s.updBlock bid fun b => ws.foldl (put m) b
      | none => s
    s.updOp id fun o => { o with accs := tiles ++ old }
  else
    let peers := (ws.filter (·.acc.peer)).map fun w => { w.acc with poison := w.bad.head?.map (·.2.2) }
    let s := (ws.filter (!·.acc.peer)).foldl (fun s w => s.copyWrite id o ws w) s
    s.updOp id fun o => { o with accs := peers ++ tiles ++ old }

/-- COPY_CHUNK (R194): the engine takes the copy's next chunk; a malformed superblock or tile ends the copy with the data-format
fault as a deferred error (R88, R184; 13 R323; log 75). -/
def State.copyChunkStep (s : State) (id : Nat) : State :=
  match s.ops.get? id with
  | none => s
  | some o =>
    match o.kind with
    | .copy x =>
      if o.phase ≠ 1 ∨ o.accs.any (·.st == .ready) ∨ !s.copyAcquired id o x then s
      else match x.nextChunk o.result with
      | none => s.updOp id fun o => { o with phase := 3 }
      | some p =>
        match s.copyPieces o x (x.parts p) with
        | .error (kind, e) => s.copyPark id o kind e
        | .ok ps =>
          let srcs := ps.flatMap fun y => if x.form = 3 ∧ x.toMem then [] else y.2.1
          let dsts := ps.flatMap fun y => if x.form = 3 ∧ !x.toMem then [] else y.2.2
          let need := srcs.filter fun a => a.peer && (o.peerData a).isNone
          let asked := (srcs ++ dsts).filter fun a => a.mt == 0 && !a.peer && s.hostHolds a
          if !asked.isEmpty then s.backInval (asked.flatMap fun a => needHalves a.cum a.pa a.len)
          else if !need.isEmpty then s.updOp id fun o => { o with accs := o.accs.filter (·.ask == .read) ++ need.dedup }
          else
            let ws := ps.flatMap fun y => s.partWrites o x y.2.2 y.1 y.2.1
            let bad := ps.findSome? fun y => x.malformed (y.2.1.map (s.srcRead o x))
            let tiles := s.copyTiles o srcs
            let s := srcs.foldl (fun s a => if a.mt = 0 then s.wakeFor a.cum a.pa a.len else s) s
            match bad with
            | some (d, va) => (s.finishOp id).defer o.g ⟨0x21, d, if d = 5 then BitVec.ofNat 32 x.sidx else 0, va⟩
            | none => (s.copyApply id o x ws tiles).updOp id fun o => { o with result := x.after o.result p }
    | _ => s

/-! ### Engines -/

/-- Copy engines of a die in use (00 scope). -/
def State.enginesBusy (s : State) (die : Nat) : Nat :=
  (s.ops.filter fun e => (match e.2.kind with | .copy _ => true | _ => false) && coreDie e.2.core == die && e.2.phase != 0 && !e.2.finished).length

/-- COPY_ACCEPT (R190): an engine takes the copy, and the issuing path goes on. -/
def State.copyAcceptStep (s : State) (id : Nat) : State :=
  match s.ops.get? id with
  | none => s
  | some o =>
    match o.kind with
    | .copy _ =>
      if o.phase = 0 ∧ s.enginesBusy (coreDie o.core) < 32 then
        (s.updOp id fun o => { o with phase := 1 }).endWaits o.g fun e => if e.hold = .op id then e.go else e
      else s
    | _ => s

/-- Whether the release of a copy's writes is over (R193 step 4). -/
def State.copyReleased (s : State) (o : Op) (x : Copy) : Bool :=
  match x.rel, s.groups.get? o.g with
  | some scope, some g => s.passedBy g o.ct scope
  | _, _ => true

/-- COPY_END (R193 steps 4, 5): after the release of its writes the counter falls. -/
def State.copyEndStep (s : State) (id : Nat) : State :=
  match s.ops.get? id with
  | none => s
  | some o =>
    match o.kind with
    | .copy x =>
      if o.phase = 3 ∧ !o.finished ∧ !(o.accs.any (·.st == .ready)) ∧ s.copyReleased o x then s.finishOp id
      else s
    | _ => s

/-- A copy whose fault was answered with fail: it ends, and its group takes the access fault (R194; 16 R391). -/
def State.copyFail (s : State) (id : Nat) (o : Op) : State :=
  (s.finishOp id).defer o.g ⟨0x30, o.vals.getD 1 1, 0, o.vals.getD 0 0⟩

/-! ### Issue -/

/-- The bits of a control word that are reserved in a form (R191). -/
def ctlReserved (form : Nat) (w : Word) : Word :=
  w &&& (0xE000 ||| (if form = 3 then 0 else 0x1000) |||
    (if form = 2 then (if w.getLsbD 9 then 0 else 0xC00) else 0xE00) |||
    (if form ≤ 1 then 0 else 0x100) ||| (if form = 1 then 0 else 0xFF0000) |||
    (if form = 1 ∨ form = 4 then 0 else 0xFF000000))

/-- Whether a control word is refused (R191). -/
def ctlBad (form : Nat) (w : Word) : Bool :=
  ctlReserved form w != 0 || decide (6 ≤ bits w.toNat 6 4) || decide (6 ≤ bits w.toNat 2 0)

/-- The lowest and the highest byte of some byte ranges. -/
def rangeOf (l : List (Nat × Nat)) : Option (Nat × Nat) :=
  l.foldl (fun r x => if x.2 = 0 then r else match r with
    | none => some (x.1, x.1 + x.2 - 1)
    | some (lo, hi) => some (min lo x.1, max hi (x.1 + x.2 - 1))) none

/-- Whether the byte ranges of source and destination overlap (R195). -/
def Copy.overlaps (x : Copy) : Bool :=
  let dst := x.spans.map fun i => (i.dst, i.len)
  let src := if x.converts then
      (List.range x.count).flatMap fun i => (x.elemAccs i).map fun a => (a.va, a.len)
    else x.spans.map fun i => (i.src, i.len)
  match rangeOf dst, rangeOf src with
  | some (a, b), some (c, d) => decide (a ≤ d ∧ c ≤ b)
  | _, _ => false

/-- The stored types that `cpdec` writes (R184 detail 2). -/
def decTypes : List Ty := [.f32, .f16, .bf16, .e4m3, .e5m2]

/-- A copy starts: an operation, and its path waits for an engine (R190); the free draws of its elements are set aside. -/
def startCopy (c : Iss) (s : State) (x : Copy) : Eff :=
  let o := { c.op (.copy x) (some 2) with prio := s.free }
  let (s, id) := ({ s with free := s.free + if x.form = 4 then x.count else 0 }.setGroup c.gid c.g).addOp o
  .ok (s.setGroup c.gid (c.hold (.op id))) []

/-- The checks that follow a copy's records: overlap (R195). -/
def checkedCopy (c : Iss) (s : State) (x : Copy) : Eff :=
  if (x.form == 1 || x.form == 2 || x.form == 4) && x.overlaps then .trap (formatTrap c 7 c.word) else startCopy c s x

/-- Whether a record refuses a copy's writes (R183). -/
def BufRec.refusesCopy (r : BufRec) : Bool := r.ro || r.stype.scaled || r.stype == .c15

/-- A poisoned record of a copy: the trap of poisoned data at the record (16 R391; 21 R469). -/
def recPoisonTrap (c : Iss) (s : State) (k pd : Nat) : Trap :=
  { cause := 0x31, detail := pd, val := c.word, lanes := c.act, addr := some (BitVec.ofNat 64 ((s.descOf c.g).brtab + 64 * k)) }

/-- A record that a copy names (R192): its index; record 0 of a context without records is none (log 151). -/
def withRec (c : Iss) (s : State) (k : Nat) (f : BufRec → Eff) : Eff :=
  match s.bufRec c k (mdType c.md) with
  | .trap t => .trap t
  | .fault va e => s.recordFault c va e 0 true c.word c.act
  | .ok _ (some pd) => .trap (recPoisonTrap c s k pd)
  | .ok r none => f r

/-- A converting `cp` (R192); its elements have no alignment rule (log 153). -/
def convCopy (c : Iss) (s : State) (x : Copy) (w : Word) : Eff :=
  let t := mdType c.md
  let mode : Eff := .trap { cause := 0x05, val := c.md, lanes := c.act }
  if !memTypes.contains t || mdRnd c.md == 5 then mode
  else withRec c s (bits w.toNat 23 16) fun sr => withRec c s (bits w.toNat 31 24) fun dr =>
    if decide (6 ≤ mdRnd c.md) && (sr.rounds t || dr.rounds t) then mode
    else if dr.refusesCopy then .trap (formatTrap c 4 (BitVec.ofNat 32 (bits w.toNat 31 24)))
    else checkedCopy c s { x with srec := sr, drec := dr, sidx := bits w.toNat 23 16 }

/-- `cpdec` (R192): the source's alignment is tested first (log 150). -/
def decCopy (c : Iss) (s : State) (x : Copy) (w : Word) : Eff :=
  let k := bits w.toNat 31 24
  if x.src % 64 ≠ 0 then .trap (formatTrap c 3 c.word)
  else withRec c s k fun dr =>
    if !decTypes.contains dr.stype then .trap (formatTrap c 2 (BitVec.ofNat 32 k))
    else if 6 ≤ mdRnd c.md then .trap { cause := 0x05, val := c.md, lanes := c.act }
    else if dr.ro then .trap (formatTrap c 4 (BitVec.ofNat 32 k))
    else checkedCopy c s { x with drec := dr }

/-- The scopes that a control word asks for (R191, R218). -/
def Copy.scoped (x : Copy) (w : Word) : Copy :=
  { x with acq := if w.getLsbD 3 then some (bits w.toNat 2 0) else none
           rel := if w.getLsbD 7 then some (bits w.toNat 6 4) else none }

/-- The effect of a copy instruction, `x` its addresses (R190 to R195); the order of its checks is the model's (logs 150, 152). -/
def copyEff (c : Iss) (s : State) (form : Nat) (x : Copy) (n w : Word) : Eff :=
  let form := if form = 0 ∧ w.getLsbD 8 then 1 else form
  let x := { x with form := form, md := c.md, n := n.toNat }.scoped w
  if c.act = 0 then .ok (s.setGroup c.gid c.g) []
  else if ctlBad form w then .trap (formatTrap c 8 c.word)
  else match form with
    | 1 => convCopy c s x w
    | 2 =>
      let e := if w.getLsbD 9 then 2 ^ bits w.toNat 11 10 else 0
      let x := { x with n := bits n.toNat 15 0, h := bits n.toNat 31 16, esz := e }
      if e ≠ 0 ∧ x.n % e ≠ 0 then .trap (formatTrap c 8 c.word) else checkedCopy c s x
    | 3 =>
      let x : Copy := { x with toMem := w.getLsbD 12 }
      let off := if x.toMem then x.src else x.dst
      let size : Nat := ((s.blocks.get? c.g.block).map (·.ssize)).getD 0
      if x.n ≠ 0 ∧ size < off + x.n then .trap (formatTrap c 6 c.word) else startCopy c s x
    | 4 => decCopy c s x w
    | _ => startCopy c s x

/-- What a copy names (R190): the first scalar of its run of n. -/
def useCopy (ars srs : List Nat) (b n : Nat) (ext : Option Nat) : Use :=
  { ar := ars, sr := srs ++ (List.range n).map (· + b), cls := some 2, uniform := true, sink := true, ext := ext }

/-- cp, cp2d and cpdec: addresses a[D] and a[A] (R190). -/
def copyOp (form n : Nat) (ext : Option Nat) (i : IWord) (d a : BitVec 4) (b : Nat) (s : State) : Host.Outcome State Fault Refusal :=
  issue i (useCopy [d.toNat, a.toNat] [] b n ext) (fun c s =>
    copyEff c s form
      { form := form, n := 0, dst := (c.g.areg d).toNat, src := (c.g.areg a).toNat, sp := (c.g.sAt (b + 2)).toInt, dp := (c.g.sAt (b + 3)).toInt }
      (c.g.sAt b) (c.g.sAt (b + 1))) s

/-- cpr: memory at a[D], scratchpad at s[A] (R190). -/
def cprOp (i : IWord) (d : BitVec 4) (a : BitVec 6) (b : Nat) (s : State) : Host.Outcome State Fault Refusal :=
  issue i (useCopy [d.toNat] [a.toNat] b 2 none) (fun c s =>
    let w := c.g.sAt (b + 1)
    let m := (c.g.areg d).toNat
    let k := (c.g.sreg a).toNat
    copyEff c s 3 { form := 3, n := 0, dst := if w.getLsbD 12 then m else k, src := if w.getLsbD 12 then k else m } (c.g.sAt b) w) s

/-! ### The end of a group (R179) -/

/-- Whether a group that ended gives back its slot and its register lines: its LD, SM, RT and MX counters are 0. -/
def Group.releasable (g : Group) : Bool := g.mode == .ended && g.home != .saved &&
  [0, 3, 4, 5].all fun k => g.cnt.toList.getD k 0 == 0

/-- GROUP_END_RELEASE (R179) -/
def State.groupEndRelease (s : State) (gid : Nat) : State :=
  s.updGroup gid fun g => if g.releasable then { g with home := .saved, present := 0, former := [] } else g

/-! ### The instructions -/

/-- cp (07 R190 to R195): a sink -/
def execCp (d : BitVec 4) (a : BitVec 4) (b : BitVec 5) (s : State) : Host.Outcome State Fault Refusal :=
  copyOp 0 2 none (W.cp d a b) d a (2 * b.toNat) s

/-- cp2d (07 R190 to R195): a sink -/
def execCp2d (d : BitVec 4) (a : BitVec 4) (b : BitVec 4) (s : State) : Host.Outcome State Fault Refusal :=
  copyOp 2 4 none (W.cp2d d a b) d a (4 * b.toNat) s

/-- cpr (07 R190 to R194): a sink -/
def execCpr (d : BitVec 4) (a : BitVec 6) (b : BitVec 5) (s : State) : Host.Outcome State Fault Refusal :=
  cprOp (W.cpr d a b) d a (2 * b.toNat) s

/-- cpdec (07 R190 to R195): a sink, feature group 1 -/
def execCpdec (d : BitVec 4) (a : BitVec 4) (b : BitVec 5) (s : State) : Host.Outcome State Fault Refusal :=
  copyOp 4 2 (some 1) (W.cpdec d a b) d a (2 * b.toNat) s

/-- COPY_ACCEPT (07 R190, R193) -/
def execCopyAccept (op : Nat) (s : State) : Host.Outcome State Fault Refusal :=
  .next (s.copyAcceptStep op)

/-- COPY_CHUNK (07 R194) -/
def execCopyChunk (op : Nat) (s : State) : Host.Outcome State Fault Refusal :=
  .next (s.copyChunkStep op)

/-- COPY_END (07 R193) -/
def execCopyEnd (op : Nat) (s : State) : Host.Outcome State Fault Refusal :=
  .next (s.copyEndStep op)

/-- GROUP_END_RELEASE (07 R179) -/
def execGroupEndRelease (g : Nat) (s : State) : Host.Outcome State Fault Refusal :=
  .next (s.groupEndRelease g)

end Sys2Proof.Machine
end

