-- ==== Sys2Proof/Machine/Start.lean ====
section
/-! DEFINITION. Room on a core and in an image pool, and the start of a group (07 R165 to R169; 10 R252 to R255; 15 R361,
R362, R365; 16 R397; 04 R94; 06 R138). -/

namespace Sys2Proof.Machine

/-! ### The image pool (16 R397) -/

/-- Granules of an accumulator image of n tiles. -/
def accGranules (n : Nat) : Nat := (1024 * n + 4608 + 32767) / 32768
/-- Granules of a block frame. -/
def frameGranules (scratch : Nat) : Nat := (scratch + 4096 + 32767) / 32768

/-- Bytes of scratchpad of a kernel. -/
def KDesc.ssize (d : KDesc) : Nat := 65536 * d.scratch
/-- Threads of a block, groups of a block, gang members (15 R361, R365). -/
def KDesc.threads (d : KDesc) : Nat := d.bx * d.by_ * d.bz
/-- Groups of a block. -/
def KDesc.groups (d : KDesc) : Nat := d.threads / 16
/-- Gang members. -/
def KDesc.members (d : KDesc) : Nat := (d.groups + 255) / 256
/-- Groups of a block on gang member m. -/
def KDesc.groupsOn (d : KDesc) (m : Nat) : Nat := min 256 (d.groups - 256 * m)
/-- Granules of a block. -/
def KDesc.granules (d : KDesc) : Nat := d.groups + d.members * accGranules d.acc + frameGranules d.ssize

/-- The first run of n free granules of a pool. -/
def freeRun (used : List Nat) (psz n : Nat) : Option Nat :=
  (List.range (psz + 1 - n)).find? fun i => (List.range n).all fun k => !used.contains (i + k)

/-- Runs of granules of the given lengths, one after another: the first granules of each, and the granules in use then. -/
def takeRuns (used : List Nat) (psz : Nat) : List Nat → Option (List Nat × List Nat)
  | [] => some ([], used)
  | n :: l =>
    match freeRun used psz n with
    | none => none
    | some i => (takeRuns (used ++ (List.range n).map (· + i)) psz l).map fun r => (i :: r.1, r.2)

/-- The virtual address of a granule of a context's pool. -/
def Ctx.granuleVa (c : Ctx) (i : Nat) : Nat := c.pool + 32768 * i

/-- The image pages of some virtual addresses: the first that is refused, with its detail. -/
def State.imagePages (s : State) (ctx : Nat) : List Nat → Except (Nat × Nat) (List Nat)
  | [] => .ok []
  | va :: l =>
    match s.imagePa ctx va .write, s.imagePages ctx l with
    | .error d, _ => .error (va, d)
    | _, .error e => .error e
    | .ok pa, .ok r => .ok (pa :: r)

/-- A fault on an image line: a record of src 3, unless one waits (16 R384, R398). -/
def State.imageFault (s : State) (ctx va kind detail : Nat) : State :=
  if s.imageWaits ctx va kind then s else (s.postFault ctx { id := 0, va := va, kind := kind, src := 3, detail := detail }).1

/-! ### Room on a core (07 R166, R167; 10 R255; 15 R365) -/

/-- Whether a group is in a core. -/
def Group.inCore (g : Group) (core : Nat) : Bool := g.core == core && g.home != .saved

/-- The slots of a core that no group takes. -/
def State.freeSlots (s : State) (core : Nat) : List Nat :=
  (List.range 256).filter fun k => !(s.groups.any fun e => e.2.inCore core && e.2.slot == k)

/-- The blocks on a core, with the member that each has there. -/
def State.blocksOn (s : State) (core : Nat) : List (Nat × Nat × Block) :=
  s.blocks.filterMap fun e => (e.2.cores.findIdx? (· == core)).map fun m => (e.1, m, e.2)

/-- Whether a core holds no resident group or block. -/
def State.coreEmpty (s : State) (core : Nat) : Bool := (s.blocksOn core).isEmpty && !(s.groups.any fun e => e.2.inCore core)

/-- The partition of an empty core for a kernel (R166). -/
def KDesc.partition (d : KDesc) : Nat :=
  let n := if d.members = 1 then 256 / d.groups else 1
  if d.scratch = 0 then 0 else min 16 (n * d.scratch)

/-- A core with the partition under which a kernel's block would be placed. -/
def State.partitioned (s : State) (core : Nat) (d : KDesc) : Core :=
  if s.coreEmpty core then { s.core core with sp := d.partition } else s.core core

/-- The first place of n units among `size`, beside ranges (first, count) in use. -/
def firstFit (size n : Nat) (used : List (Nat × Nat)) : Option Nat :=
  (0 :: used.map fun u => u.1 + u.2).foldl (fun r i =>
    if i + n ≤ size ∧ used.all (fun u => decide (i + n ≤ u.1 ∨ u.1 + u.2 ≤ i)) then
      match r with
      | some j => some (min i j)
      | none => some i
    else r) none

/-- Scratchpad units of 64 KiB in use on a core. -/
def State.scratchUsed (s : State) (core : Nat) : List Nat := (s.blocksOn core).flatMap fun x => x.2.2.sbases.getD x.2.1 []
/-- A 64 KiB unit of a core's scratchpad partition that a block leaves keeps the bytes, and the poisoned words, that it held
(07 R176; log 50). -/
def Core.leaveUnit (c : Core) (u : Nat) (cells : List Host.Cell) (words : List Nat) : Core :=
  { c with
    loose := cells.foldl (fun m x => memWrite m (65536 * u + x.1) x.2) (c.loose.filter fun x => x.1 / 65536 != u)
    loosePoison := (c.loosePoison.filter fun w => w / 16384 != u) ++ words.map (· + 16384 * u) }

/-- A block leaves its scratchpads. -/
def State.leaveScratch (s : State) (bid : Nat) : State :=
  match s.blocks.get? bid with
  | none => s
  | some b => (b.cores.zipIdx).foldl (fun s x => ((b.sbases.getD x.2 []).zipIdx).foldl (fun s u =>
      let at_ := scratchKey x.2 (65536 * u.2)
      let cells := (b.scratch.filter fun c => c.1 / 65536 == at_ / 65536).map fun c => (c.1 % 65536, c.2)
      let words := (b.scratchPoison.filter fun w => w / 16384 == at_ / 65536).map (· % 16384)
      s.updCore x.1 fun c => c.leaveUnit u.1 cells words) s) s

/-- Tile slots in use on a core. -/
def State.slotsUsed (s : State) (core : Nat) : List (Nat × Nat) :=
  ((s.blocksOn core).filter fun x => (s.blockDesc x.2.2).acc ≠ 0).map fun x => (x.2.2.aslots.getD x.2.1 0, (s.blockDesc x.2.2).acc)

/-- Where a block's member with n groups goes on a core: scratchpad units and first tile slot; none when it does not fit
(R365). The scratchpad is admitted by its size alone (07 R166). The tile slots are the lowest run that fits (10 R255 names none; DESIGN
CHOICE, log 181). -/
def State.fits (s : State) (core n : Nat) (d : KDesc) : Option (List Nat × Nat) :=
  let c := s.partitioned core d
  if c.use ≠ .active ∨ (s.freeSlots core).length < n ∨ c.lineLimit < s.linesUsed core + n * 16 * d.vregs then none
  else
    let used := s.scratchUsed core
    let units := (List.range c.sp).filter fun k => !used.contains k
    if units.length < d.scratch then none
    else (firstFit 256 d.acc (s.slotsUsed core)).map fun t => (units.take d.scratch, if d.acc = 0 then 0 else t)

/-- Whether a block fits an empty core, or an empty gang, and its context's pool (15 R353 detail 4; 16 R397). -/
def KDesc.everFits (d : KDesc) (psz : Nat) : Bool :=
  let c : Core := { sp := d.partition }
  d.members ≤ 8 && decide (min 256 d.groups * 16 * d.vregs ≤ c.lineLimit) && decide (d.ssize ≤ 65536 * c.sp) &&
    decide (d.granules ≤ psz)

/-- The cores of a die from one on. -/
def dieCores (core : Nat) : List Nat :=
  let d := 52 * coreDie core
  ((List.range 52).map (· + d)).filter (· ≠ core)

/-- The first of some cores that fits each of a block's further members, given the groups of each. -/
def State.pickCores (s : State) (d : KDesc) (cores : List Nat) : List Nat → Option (List (Nat × List Nat × Nat))
  | [] => some []
  | n :: l =>
    match cores.findSome? fun k => (s.fits k n d).map fun q => (k, q) with
    | none => none
    | some x => (s.pickCores d (cores.filter (· ≠ x.1)) l).map (x :: ·)

/-- The cores that take a block's members, the first member on `core`, none of them among those reserved for another block
(R365, R366): its places on each. -/
def State.chooseCores (s : State) (core : Nat) (d : KDesc) (reserved : List Nat) : Option (List (Nat × List Nat × Nat)) :=
  if reserved.contains core then none
  else match s.fits core (d.groupsOn 0) d with
  | none => none
  | some p => (s.pickCores d ((dieCores core).filter fun k => !reserved.contains k)
      ((List.range (d.members - 1)).map fun m => d.groupsOn (m + 1))).map ((core, p) :: ·)

/-- A core taken for a block: it wakes (22 R485); an empty one takes its partition, writes back its register lines and drops every L1 line (R166); it
acquires at .dev and discards its instruction-cache lines (15 R356). -/
def State.takeCore (s : State) (core ctx : Nat) (d : KDesc) : State :=
  let fresh := s.coreEmpty core && (s.core core).sp != d.partition
  let s := if fresh then s.evictAll core else s
  let s := s.updCore core fun c => { c with
    gated := false
    sp := if s.coreEmpty core then d.partition else c.sp
    loose := if fresh then [] else c.loose
    loosePoison := if fresh then [] else c.loosePoison
    l1 := if fresh then [] else c.l1
    icache := [] }
  s.acquireNow core ctx

/-! ### The start of a group (07 R169; 06 R138; 15 R362; 04 R94) -/

/-- A group at its start: context, block, index, core, slot, image address, physical address, descriptor, seed, block
linear index, parameter address, matrix priority. Its rpc is the entry, the replay point of its start (16 R389; log 169). -/
def startGroup (ctx block idx core slot rib ribPa : Nat) (d : KDesc) (seed : DWord) (b params mprio tick : Nat) : Group :=
  { ctx := ctx, block := block, idx := idx, core := core, slot := slot
    rib := BitVec.ofNat 64 rib, ribPa := ribPa, valloc := d.vregs
    a := (Vector.replicate 16 0).set 15 (BitVec.ofNat 64 params)
    entry := BitVec.ofNat 64 d.entry, rpc := BitVec.ofNat 64 d.entry
    rng := Vector.ofFn fun l => { seed := seed, gidx := BitVec.ofNat 64 (b * d.threads + 16 * idx + l.val) }
    paths := (Vector.replicate 64 {}).set 0 { kind := .path, mask := 0xFFFF, pc := BitVec.ofNat 64 d.entry, md := d.initmd, since := tick }
    mprio := mprio }

/-- The state with a group added, which reads XMASK (03 R69). -/
def State.addGroup (s : State) (g : Group) : State × Nat :=
  let s := s.evictFor g.core (16 * g.valloc)
  ({ s with groups := s.groups.set s.nextGroup { g with xmask := (s.ctx g.ctx).xmask }, nextGroup := s.nextGroup + 1 }, s.nextGroup)

/-- A kernel descriptor from its 64 bytes (02 R53). -/
def KDesc.ofBytes (x : Nat) : KDesc :=
  { entry := bits x 63 0, initmd := BitVec.ofNat 32 (bits x 95 64), vregs := bits x 100 96, acc := bits x 112 104
    scratch := bits x 120 116, bx := bits x 143 128, by_ := bits x 159 144, bz := bits x 175 160
    psize := bits x 204 192, brtab := bits x 319 256, nbuf := bits x 328 320 }

/-- Whether a descriptor fails R54: a field outside its range, a reserved bit, or the block product (02 R53, R54). -/
def descBad (x : Nat) : Bool :=
  let d := KDesc.ofBytes x
  bits x 1 0 != 0 || bits x 103 101 != 0 || bits x 115 113 != 0 || bits x 127 121 != 0 || bits x 191 176 != 0 ||
  bits x 255 205 != 0 || bits x 261 256 != 0 || bits x 383 329 != 0 || bits x 511 384 != 0 ||
  decide (d.vregs < 1 ∨ 16 < d.vregs ∨ 256 < d.acc ∨ 16 < d.scratch ∨ 4096 < d.psize ∨ 256 < d.nbuf) ||
  [d.bx, d.by_, d.bz].any (fun n => decide (n < 1 ∨ 32768 < n)) || d.threads % 16 != 0 || decide (32768 < d.threads) ||
  d.initmd &&& 0xFF00C000 != 0

end Sys2Proof.Machine
end

