-- ==== Sys2Proof/Machine/Raster.lean ====
section
/-! DEFINITION. The raster unit: triangles, stamps, depth tests and pixel groups (13 R326 to R333), render-target writes,
`zts`, `rdcmp` and `rend` (R334 to R339). -/

namespace Sys2Proof.Machine

/-! ### The raster state record (R326) -/

/-- Base of the render target. -/
def rsBase (x : Nat) : Nat := bits x 63 0
/-- Width and height. -/
def rsW (x : Nat) : Nat := bits x 79 64 + 1
/-- Height. -/
def rsH (x : Nat) : Nat := bits x 95 80 + 1
/-- Raw only. -/
def rsRaw (x : Nat) : Bool := x.testBit 96
/-- Blend code. -/
def rsBlend (x : Nat) : Nat := bits x 98 97
/-- Channels written. -/
def rsMask (x : Nat) : Nat := bits x 102 99
/-- Whether a passing depth test writes z. -/
def rsZwr (x : Nat) : Bool := x.testBit 106
/-- Depth test at spawn. -/
def rsZen (x : Nat) : Bool := x.testBit 107
/-- Depth surface. -/
def rsZbase (x : Nat) : Nat := bits x 191 128
/-- Pixel kernel descriptor. -/
def rsPkd (x : Nat) : Nat := bits x 255 192

/-- The virtual address of the depth word of a pixel. -/
def rsDepthVa (rs x y : Nat) : Nat := (rsZbase rs + y * bits rs 351 320 + 4 * x) % 2 ^ 64
/-- The virtual address of a pixel in its tile block. -/
def rsPixelVa (rs x y : Nat) : Nat := (rsBase rs + cumOffset (rsW rs) x y) % 2 ^ 64
/-- Whether a pixel lies in the target. -/
def rsInTarget (rs : Nat) (x y : Int) : Bool := decide (0 ≤ x ∧ x < rsW rs ∧ 0 ≤ y ∧ y < rsH rs)
/-- Whether a pixel lies in the scissor. -/
def rsInScissor (rs : Nat) (x y : Int) : Bool :=
  decide ((bits rs 271 256 : Int) ≤ x ∧ x ≤ bits rs 303 288 ∧ (bits rs 287 272 : Int) ≤ y ∧ y ≤ bits rs 319 304)
/-- Tiles across, and of the surface. -/
def rsTw (rs : Nat) : Nat := (rsW rs + 7) / 8
/-- Tiles of the surface. -/
def rsTiles (rs : Nat) : Nat := rsTw rs * ((rsH rs + 7) / 8)
/-- The virtual address of tile block t (R320). -/
def rsTileVa (rs t : Nat) : Nat := (rsBase rs + 65536 * (t / 255) + 256 * (t % 255)) % 2 ^ 64

/-- Whether a record at an address is malformed, for `zts` with z (R326), the conditions of `rtri` apart. -/
def rsBad (va x : Nat) (z : Bool) : Bool :=
  va % 64 != 0 || rsBase x % 65536 != 0 || rsBlend x == 3 || bits x 109 108 == 3 || bits x 127 110 != 0 ||
  rsZbase x % 4 != 0 || bits x 351 320 % 64 != 0 || bits x 511 352 != 0 || (rsZbase x == 0 && (rsZen x || z))

/-- What the read of a raster state record comes to; a malformed one traps with FLM live(P) (06 R159). -/
def withRaster (c : Iss) (s : State) (a : BitVec 4) (z : Bool) (f : Nat → Eff) : Eff :=
  let va := (c.g.areg a).toNat
  if va % 64 ≠ 0 then .trap (formatTrap c 12 c.word c.live)
  else match s.readRec c va 64 with
    | .error d => s.recordFault c va d 0 true c.word c.act
    | .ok (_, some pd) => .trap { cause := 0x31, detail := pd, val := c.word, lanes := c.act, addr := some (BitVec.ofNat 64 va) }
    | .ok (x, none) => if rsBad va x z then .trap (formatTrap c 12 c.word c.live) else f x

/-! ### Colours (R327) -/

/-- A colour operand as a channel of 0 to 255. -/
def colour8 (x : Nat) : Nat :=
  match fval .f32 x with
  | .nan => 0
  | .inf neg => if neg then 0 else 255
  | v => if v.dy.m ≤ 0 then 0
    else if Dy.lt ⟨1, 0⟩ v.dy then 255 else (Dy.nearest ⟨255 * v.dy.m, v.dy.e⟩).toNat

/-- A pixel written over another: blend code, channels written, source, destination. -/
def blendPixel (blend mask s d : Nat) : Nat :=
  let sa := cumCh s 3
  packBits ((List.range 4).map fun k =>
    let x := cumCh s k
    let y := cumCh d k
    (8, if !mask.testBit k then y
      else match blend with
        | 0 => x
        | 1 => (x * sa + y * (255 - sa) + 127) / 255
        | _ => min 255 (x + y)))

/-- The bits of a pixel's channels that are written. -/
def channelBits (mask : Nat) : Nat := packBits ((List.range 4).map fun k => (8, if mask.testBit k then 255 else 0))

/-! ### Coverage (R328) -/

/-- Coordinate k of vertex i of a triangle. -/
def Tri.v (t : Tri) (i k : Nat) : FV := fval .f32 (t.verts.getD (3 * (i % 3) + k) 0)

/-- `A2` of a triangle. -/
def Tri.area (t : Tri) : Dy :=
  let d (i k : Nat) : Dy := (t.v i k).dy.sub (t.v 0 k).dy
  ((d 1 0).mul (d 2 1)).sub ((d 2 0).mul (d 1 1))

/-- Whether a triangle has pixels at all (R328). -/
def Tri.visible (t : Tri) : Bool :=
  !(t.verts.any fun x => (fval .f32 x).wild) && t.area.m != 0 &&
  (match bits t.rs 109 108 with | 0 => true | 1 => decide (t.area.m < 0) | _ => decide (0 < t.area.m))

/-- The centre of a pixel along one axis. -/
def centre (x : Nat) : Dy := ⟨2 * x + 1, -1⟩

/-- `Ek` at the centre of pixel (x, y). -/
def Tri.edge (t : Tri) (k x y : Nat) : Dy :=
  let a (j : Nat) : Dy := (t.v (k + 1) j).dy
  let b (j : Nat) : Dy := (t.v (k + 2) j).dy
  (((b 0).sub (a 0)).mul ((centre y).sub (a 1))).sub (((b 1).sub (a 1)).mul ((centre x).sub (a 0)))

/-- Whether an edge is included. -/
def Tri.included (t : Tri) (k : Nat) : Bool :=
  let neg := decide (t.area.m < 0)
  let d (j : Nat) : Int := let m := ((t.v (k + 2) j).dy.sub (t.v (k + 1) j).dy).m; if neg then -m else m
  decide (d 1 < 0 ∨ (d 1 = 0 ∧ 0 < d 0))

/-- Whether pixel (x, y) is covered. -/
def Tri.covers (t : Tri) (x y : Nat) : Bool :=
  rsInTarget t.rs x y && rsInScissor t.rs x y && (List.range 3).all fun k =>
    let e := (t.edge k x y).m
    let e := if t.area.m < 0 then -e else e
    decide (0 < e) || (e == 0 && t.included k)

/-- `e1` or `e2` of R329 rounded to f32, at a pixel's centre. -/
def Tri.bary (t : Tri) (k x y : Nat) : Nat := divF32 (t.edge k x y) t.area

/-- z of R329 at a pixel's centre. -/
def Tri.depth (t : Tri) (x y : Nat) : Nat :=
  let z (i : Nat) : Dy := (t.v i 2).dy
  divF32 ((((z 0).mul t.area).add ((t.edge 1 x y).mul ((z 1).sub (z 0)))).add ((t.edge 2 x y).mul ((z 2).sub (z 0)))) t.area

/-- The least and greatest pixel along an axis whose centre a vertex may reach, within the target. -/
def Tri.span (t : Tri) (k size : Nat) : Nat × Nat :=
  let fl := (List.range 3).map fun i => (t.v i k).dy.floor
  let lo := fl.foldl min (fl.headD 0)
  let hi := fl.foldl max (fl.headD 0)
  ((max 0 lo).toNat, (min (hi + 1) (size : Int)).toNat)

/-- The corners of the stamps of a triangle, in the order of R329. -/
def Tri.stamps (t : Tri) : List (Nat × Nat) :=
  if !t.visible then []
  else
    let (x0, x1) := t.span 0 (rsW t.rs)
    let (y0, y1) := t.span 1 (rsH t.rs)
    (List.range ((y1 + 3) / 4 - y0 / 4)).flatMap fun j => (List.range ((x1 + 3) / 4 - x0 / 4)).map fun i =>
      (4 * (x0 / 4 + i), 4 * (y0 / 4 + j))

/-- Pixel l of a stamp (R330). -/
def stampPixel (c : Nat × Nat) (l : Nat) : Nat × Nat :=
  let q := l / 4
  (c.1 + 2 * (q % 2) + l % 2, c.2 + 2 * (q / 2) + l / 2 % 2)

/-- The coverage of a stamp. -/
def Tri.coverage (t : Tri) (c : Nat × Nat) : Mask := maskOf fun l => t.covers (stampPixel c l.val).1 (stampPixel c l.val).2

/-! ### The raster queue (R328, R331) -/

/-- The head of a core's raster queue changed; a result of none removes it. -/
def State.updHead (s : State) (core : Nat) (f : Tri → Option Tri) : State :=
  s.updCore core fun c => { c with raster := match c.raster with
    | [] => []
    | t :: l => match f t with | some t => t :: l | none => l }

/-- The triangle with its next stamp, if it has one. -/
def Tri.nextStamp (t : Tri) : Option Tri :=
  if t.stamp + 1 < t.stamps.length then some { t with stamp := t.stamp + 1, begun := false, pix := 0, cover := 0, park := none, op := none } else none

/-- RASTER_STAMP (R329): the head's next stamp begins, or one with no covered pixel is over. -/
def State.rasterStep (s : State) (core : Nat) : State :=
  match (s.core core).raster with
  | [] => s
  | t :: _ =>
    if !t.begun then
      match t.stamps[t.stamp]? with
      | none => s.updHead core fun _ => none
      | some c => s.updHead core fun t => some { t with begun := true, cover := t.coverage c, pix := if rsZen t.rs then 0 else 16 }
    else if t.pix = 16 ∧ t.cover = 0 then s.updHead core Tri.nextStamp
    else s

/-- The group that submitted a triangle, as an operation of the raster unit. -/
def State.triOp (s : State) (core : Nat) (t : Tri) : Op :=
  { g := t.g, ctx := ((s.blocks.get? t.block).map (·.ctx)).getD 0, core := core, pc := 0, word := 0, path := 0, act := 0, live := 0,
    sup := t.sup, kind := .pref, tick := s.gnomon }

/-- What a depth word's access asks (R329). -/
def rsDepthAsk (rs : Nat) : Ask := if rsZwr rs then .atomic else .read

/-- Pixel p of the head's stamp is over; `drop` when it is not covered after all. -/
def Tri.tested (t : Tri) (drop : Bool) : Tri :=
  { t with pix := t.pix + 1, cover := if drop then t.cover &&& ~~~(1#16 <<< t.pix) else t.cover }

/-- The leaf of a depth word, or the detail of its access fault, an error of the host in the end (R329; 16 R380). -/
def State.depthLeaf (s : State) (core ctx : Nat) (t : Tri) (va : Nat) : Except Nat Leaf :=
  match s.resolve core ctx t.sup (rsDepthAsk t.rs) va with
  | .error d => .error d
  | .ok l => if l.mt = 1 ∧ Config.hostError s.gnomon (l.phys va) then .error 10 else .ok l

/-- The test of one depth word at its home (R329): whether it passes, with z written. -/
def State.depthAt (s : State) (t : Tri) (l : Leaf) (va z : Nat) : State × Bool :=
  let pa := l.phys va
  if l.mt = 1 then
    let ok := depthTest t.rs z (memReadN s.hostMem pa 4)
    (if ok && rsZwr t.rs then { s with hostMem := memWriteN s.hostMem pa 4 z } else s, ok)
  else if l.mt = 2 then
    let ok := depthTest t.rs z (s.winRead pa 4).1
    (if ok && rsZwr t.rs then s.winWrite pa 4 z else s, ok)
  else match s.readAcc { va := va, len := 4, pa := pa, cum := l.cum } with
    | (_, some code) => (s.defer t.g ⟨(dataCause code).1, (dataCause code).2, 0, va⟩, false)
    | (old, none) =>
      let ok := depthTest t.rs z old
      if ok && rsZwr t.rs then
        let ct := s.writeTimes l pa 4
        ((((s.wakeFor l.cum pa 4).writeDec l.cum pa 4 z).getD s).updBlock t.block fun b => { b with ct := ctMax b.ct ct }, ok)
      else (s.wakeFor l.cum pa 4, ok)

/-- The test of the head's pixel at a peer's home (R329; 18 R430): a request, then the answer's outcome; poison for an
unreachable peer. -/
def State.depthPeer (s : State) (core : Nat) (t : Tri) (o : Op) (a : Access) (z : Nat) : State :=
  match t.op.bind s.ops.get? with
  | none =>
    let (s, id) := s.addOp { o with kind := .depth, accs := [{ a with ask := rsDepthAsk t.rs, data := z }] }
    s.updHead core fun t => some { t with op := some id }
  | some p =>
    match p.accs.head? with
    | some b =>
      if b.st ≠ .done then s
      else
        let s := { s with ops := t.op.elim s.ops s.ops.erase }
        match b.poison with
        | some code => (s.defer t.g ⟨(dataCause code).1, (dataCause code).2, 0, a.va⟩).updHead core fun t => some { t.tested true with op := none }
        | none => (s.updBlock t.block fun x => { x with ct := ctMax x.ct p.ct }).updHead core fun u =>
            some { u.tested !(depthTest t.rs z b.data) with op := none }
    | none => s

/-- DEPTH_TEST (R329): the test of the head stamp's next pixel, in increasing lane (DESIGN CHOICE, log 198); a depth word that does not translate parks the stamp. -/
def State.depthStep (s : State) (core : Nat) : State :=
  match (s.core core).raster with
  | [] => s
  | t :: _ =>
    match t.stamps[t.stamp]? with
    | none => s
    | some c =>
      if !t.begun ∨ 16 ≤ t.pix ∨ t.park.isSome then s
      else if !t.cover.getLsbD t.pix then s.updHead core fun t => some (t.tested false)
      else
        let (x, y) := stampPixel c t.pix
        let va := rsDepthVa t.rs x y
        let o := s.triOp core t
        match s.depthLeaf core o.ctx t va with
        | .error d =>
          let (s, r) := s.postFault o.ctx { id := 0, va := va, kind := (rsDepthAsk t.rs).kind, src := 2, detail := d }
          s.updHead core fun t => some { t with park := some r }
        | .ok l =>
          let a : Access := ({ va := va, len := 4, st := .ready, pa := l.phys va, mt := l.mt, cum := l.cum } : Access).home s.own
          if a.peer then s.depthPeer core t o a (t.depth x y)
          else if l.mt = 0 ∧ s.hostHolds a then s.backInval (needHalves a.cum a.pa 4)
          else
            let (s, ok) := s.depthAt t { l with pa := a.pa - va % 2 ^ l.bits } va (t.depth x y)
            s.updHead core fun t => some (t.tested !ok)

/-- A triangle whose parked stamp gets its answer (R329), and the deferred error of its group: retry goes on; fail makes its
pixels without a translation uncovered, or else the pixel whose access the host ended with an error, and the group takes the access
fault. -/
def State.triReply (s : State) (core : Nat) (rec_ : Nat) (fail : Bool) (t : Tri) : Tri × Option Deferred :=
  match t.stamps[t.stamp]? with
  | none => (t, none)
  | some c =>
    if t.park ≠ some rec_ then (t, none)
    else if !fail then ({ t with park := none }, none)
    else
      let o := s.triOp core t
      let err (l : Fin 16) : Option (Nat × Nat) :=
        let va := rsDepthVa t.rs (stampPixel c l.val).1 (stampPixel c l.val).2
        match s.resolve core o.ctx t.sup (rsDepthAsk t.rs) va with
        | .error d => some (va, d)
        | .ok _ => none
      let bad := maskOf fun l => decide (t.pix ≤ l.val) && t.cover.getLsbD l.val && (err l).isSome
      let bad := if bad = 0 then 1#16 <<< t.pix else bad
      let es := (laneList bad).map fun l => (err l).getD (rsDepthVa t.rs (stampPixel c l.val).1 (stampPixel c l.val).2, 10)
      let e := es.foldl (fun a b => if b.1 < a.1 then b else a) (es.headD (0, 1))
      ({ t with park := none, cover := t.cover &&& ~~~bad }, some ⟨0x30, e.2, 0, e.1⟩)

/-- The deferred errors of some triangles' groups. -/
def State.deferAll (s : State) (l : List (Tri × Option Deferred)) : State :=
  l.foldl (fun s x => match x.2 with | some d => s.defer x.1.g d | none => s) s

/-- The answer to a record reaches the triangles parked behind it, in the queues and with saved blocks (R329, R333). -/
def State.stampReply (s : State) (rec_ : Nat) (fail : Bool) : State :=
  let parked (ts : List Tri) : Bool := ts.any (·.park == some rec_)
  let s := ((List.range 104).filter fun k => parked (s.core k).raster).foldl (fun s k =>
    let l := (s.core k).raster.map (s.triReply k rec_ fail)
    (s.updCore k fun c => { c with raster := l.map (·.1) }).deferAll l) s
  (s.blocks.filter fun b => parked b.2.tris).foldl (fun s b =>
    let l := b.2.tris.map (s.triReply 0 rec_ fail)
    (s.updBlock b.1 fun b => { b with tris := l.map (·.1) }).deferAll l) s

/-! ### Pixel groups (R330 to R332) -/

/-- A vector register with a value in each lane. -/
def Group.fill (g : Group) (n : Nat) (f : Fin 16 → Nat) : Group := g.setV (BitVec.ofNat 8 n) 0xFFFF fun l => BitVec.ofNat 32 (f l)

/-- The registers of a pixel group at its start (R330). -/
def Tri.start (t : Tri) (c : Nat × Nat) (seed : DWord) (g : Group) : Group :=
  let x (l : Fin 16) : Nat := (stampPixel c l.val).1
  let y (l : Fin 16) : Nat := (stampPixel c l.val).2
  let g := g.fill 0 x
  let g := g.fill 1 y
  let g := g.fill 2 fun l => t.bary 1 (x l) (y l)
  let g := g.fill 3 fun l => t.bary 2 (x l) (y l)
  let g := g.fill 4 fun l => t.depth (x l) (y l)
  let g := (g.setP 0 t.cover).setS 0 t.payload
  let g := (g.setS 1 (BitVec.ofNat 32 t.sub)).setS 2 (if 0 < t.area.m then 1 else 0)
  { g.setA 0 (BitVec.ofNat 64 t.rsVa) with
    rng := Vector.ofFn fun l => { seed := seed, gidx := BitVec.ofNat 64 (y l * 2 ^ 16 + x l) } }

/-- The granules of a pixel group (R332). -/
def KDesc.pixelRuns (d : KDesc) : List Nat := [1, frameGranules d.ssize]

/-- Whether the head stamp of some core waits for granules of a context (R332). -/
def State.stampWaits (s : State) (ctx : Nat) : Bool :=
  s.cores.toList.any fun c => match c.raster with
    | t :: _ => t.begun && t.pix == 16 && t.cover != 0 && ((s.blocks.get? t.block).map (·.ctx)) == some ctx &&
        (takeRuns (s.ctx ctx).granules (s.ctx ctx).psz t.desc.pixelRuns).isNone
    | [] => false

/-- PIXEL_GROUP_SPAWN (R329, R330, R332): the head stamp's group starts on a core of the submitting core's die. -/
def State.spawnStep (s : State) (core target : Nat) : State :=
  match (s.core core).raster with
  | [] => s
  | t :: _ =>
    match t.stamps[t.stamp]?, s.blocks.get? t.block with
    | some c, some b =>
      if !t.begun ∨ t.pix ≠ 16 ∨ t.cover = 0 ∨ coreDie core ≠ coreDie target ∨ (s.ctx b.ctx).hold ∨
        (s.reserve.any fun r => r.2.2.contains target) then s
      else
        let cx := s.ctx b.ctx
        match takeRuns cx.granules cx.psz t.desc.pixelRuns, s.fits target 1 t.desc with
        | some ([i, f], used), some (sb, _) =>
          (match s.imagePages b.ctx [cx.granuleVa i, cx.granuleVa f] with
          | .error (va, d) => s.imageFault b.ctx va 1 d
          | .ok pas =>
            let slot := (s.freeSlots target).headD 0
            let s := s.takeCore target b.ctx t.desc
            let bid := s.nextBlock
            let seed := ((s.entities.get? b.launch).map (·.grid.seed)).getD 0
            let g := startGroup b.ctx bid 0 target slot (cx.granuleVa i) (pas.headD 0) t.desc seed 0 0 0 s.gnomon
            let g := { t.start c seed g with pixel := some ⟨t.block, ((s.groups.get? t.g).map s.memberOf).getD 0, c.1, c.2, t.sub, t.pass⟩ }
            let (s, gid) := s.addGroup g
            let nb : Block := { launch := b.launch, ctx := b.ctx, cores := [target], groups := [gid], ssize := t.desc.ssize,
                                sbases := [sb], aibs := [0], aslots := [0], granules := (List.range t.desc.pixelRuns.sum).map fun k =>
                                  if k = 0 then i else f + (k - 1),
                                frame := cx.granuleVa f, placedAt := s.gnomon, pass := t.pass, pixelOf := some t.block, pkd := some t.desc }
            let s := { s with blocks := s.blocks.set bid nb, nextBlock := bid + 1 }
            (s.updCtx b.ctx fun x => { x with granules := used }).updHead core Tri.nextStamp)
        | _, _ => s
    | _, _ => s

/-- Pixel groups of a block's pass that have not ended, in the table. -/
def State.pixelBlocks (s : State) (bid : Nat) : List (Nat × Block) := s.blocks.filter fun b => b.2.pixelOf == some bid

/-- Whether every group of a block has ended. -/
def Block.allEnded (b : Block) : Bool := b.groups.all b.ended.contains

/-- Whether triangles of a block wait in a raster queue, or with the block for room there (R331, R333). -/
def State.hasTris (s : State) (bid : Nat) : Bool :=
  (s.blocks.get? bid).any (fun b => !b.tris.isEmpty) || s.cores.toList.any fun c => c.raster.any (·.block == bid)

/-- The triangles saved with a block come back to the queues of its cores, as these have room (R331, R333). -/
def State.settleTris (s : State) : State :=
  (s.blocks.filter fun b => !b.2.tris.isEmpty && !b.2.cores.isEmpty).foldl (fun s b => b.2.tris.foldl (fun s t =>
    match b.2.cores[((s.groups.get? t.g).map s.memberOf).getD 0]? with
    | some k =>
      if (s.core k).raster.length < 256 then
        (s.updCore k fun c => { c with raster := c.raster ++ [t] }).updBlock b.1 fun b => { b with tris := b.tris.erase t }
      else s
    | none => s) s) s

/-- Whether every pixel group of a block's pass has ended (R339). -/
def State.pixelsEnded (s : State) (bid : Nat) : Bool := !(s.hasTris bid) && (s.pixelBlocks bid).all fun b => b.2.allEnded

/-- Whether the release of a pass is over: the loads and writes of a block and of its pixel groups have returned, and both
dies have passed the completion times (08 R206, R208, R221; 15 R355). -/
def State.writesPassed (s : State) (bid : Nat) (b : Block) : Bool :=
  let ok (x : Nat × Nat × Nat) : Bool := s.passed x.1 && s.passed x.2.1
  ok b.ct && (s.pixelBlocks bid).all (fun p => ok p.2.ct) &&
  s.ops.all fun o => o.2.finished || !((s.groups.get? o.2.g).any fun g => g.block == bid || (g.pixel.any (·.block == bid))) ||
    !(o.2.cls.any [0, 1, 3, 4].contains)

/-- PASS_END (R339): every group has arrived or ended and every pixel group of the pass has ended; after the release of the
pass's writes the pass number rises and the waiting paths go on. -/
def State.passEnd (s : State) (bid : Nat) : State :=
  match s.blocks.get? bid with
  | none => s
  | some b =>
    if !b.rarrived.isEmpty && (b.groups.all fun g => b.rarrived.contains g || b.ended.contains g) && s.pixelsEnded bid &&
        s.writesPassed bid b then
      let s := s.updBlock bid fun b => { b with pass := b.pass + 1, subs := 0, rarrived := [] }
      (b.groups.filter fun g => ((s.groups.get? g).map (·.home != .saved)).getD false).foldl (fun s g =>
        s.endWaits g fun e => match e.hold with | .rend (some _) => e.go | _ => e) s
    else s

/-! ### rtri (R328, R331) -/

/-- Whether a descriptor makes a record malformed for `rtri` (R326). -/
def triDescBad (s : State) (g : Group) (x : Nat) : Bool :=
  let d := KDesc.ofBytes x
  let own := ((s.blocks.get? g.block).map (·.granules.length)).getD 0
  descBad x || d.acc != 0 || d.threads != 16 || decide ((s.ctx g.ctx).psz < d.pixelRuns.sum + own)

/-- The triangles of the active lanes. -/
def trisOf (c : Iss) (s : State) (d : BitVec 8) (a : BitVec 4) (b : BitVec 8) (rs : Nat) (k : KDesc) : List Tri :=
  let blk := (s.blocks.get? c.g.block).getD { launch := 0, ctx := 0 }
  (laneList c.act).mapIdx fun i l =>
    { block := c.g.block, g := c.gid, sup := c.g.sup, rsVa := (c.g.areg a).toNat, rs := rs, desc := k
      verts := (List.range 9).map fun j => (c.g.vget (b.toNat + j) l).toNat
      payload := c.g.vlane d l, sub := (blk.subs + i) % 2 ^ 32, pass := blk.pass }

/-- The effect of `rtri`. -/
def rtriEff (d : BitVec 8) (a : BitVec 4) (b : BitVec 8) (c : Iss) (s : State) : Eff :=
  if c.act = 0 then .ok (s.setGroup c.gid c.g) []
  else withRaster c s a false fun rs =>
    if rsPkd rs % 64 ≠ 0 then .trap (formatTrap c 12 c.word c.live)
    else match s.readRec c (rsPkd rs) 64 with
      | .error e => s.recordFault c (rsPkd rs) e 0 true c.word c.act
      | .ok (_, some pd) => .trap { cause := 0x31, detail := pd, val := c.word, lanes := c.act, addr := some (BitVec.ofNat 64 (rsPkd rs)) }
      | .ok (x, none) =>
        if triDescBad s c.g x then .trap (formatTrap c 12 c.word c.live)
        else
          let ts := trisOf c s d a b rs (KDesc.ofBytes x)
          if 256 < (s.core c.g.core).raster.length + ts.length ∨ (s.blocks.get? c.g.block).any (fun b => !b.tris.isEmpty) then .stay
          else
            let s := (s.setGroup c.gid c.g).updBlock c.g.block fun b => { b with subs := b.subs + ts.length }
            .ok (s.updCore c.g.core fun k => { k with raster := k.raster ++ ts }) []

/-- What `rtri` names. -/
def useRtri (d : BitVec 8) (a : BitVec 4) (b : BitVec 8) : Use :=
  { vr := d.toNat :: (List.range 9).map (· + b.toNat), ar := [a.toNat], sink := true }

/-! ### rtw, rclr, rdcmp (R335, R336, R338) -/

/-- Whether an earlier pixel group of the pass for the same stamp has not ended, or has a write that its tile has not taken
(R335; 14 R344). -/
def State.earlierPixel (s : State) (g : Group) : Bool :=
  match g.pixel with
  | none => false
  | some p => s.groups.any fun e =>
      (e.2.pixel.any fun q => q.block == p.block && q.member == p.member && q.pass == p.pass && q.x == p.x && q.y == p.y &&
        decide (q.sub < p.sub)) &&
      (e.2.mode != .ended || s.ops.any fun o => o.2.g == e.1 && o.2.accs.any fun a => a.ask == .target && a.open)

/-- Whether an earlier tile update of the block that submitted a pixel group's triangle still waits for the tile of an access
(14 R343; log 141). -/
def State.earlierClear (s : State) (id : Nat) (o : Op) (a : Access) : Bool :=
  match (s.groups.get? o.g).bind (·.pixel) with
  | none => false
  | some p => s.ops.any fun e => decide (e.1 < id) && (s.groups.get? e.2.g).any (·.block == p.block) &&
      e.2.accs.any fun b => b.ask == .target && b.open && b.va / 256 == a.va / 256

/-- The accesses of `rtw` (R335). -/
def rtwAccs (c : Iss) (rs : Nat) (d b : BitVec 8) (lanes : Mask) : List Access :=
  (laneList lanes).filterMap fun l =>
    let x := (c.g.vlane b l).toNat
    let y := (c.g.vlane (b + 1) l).toNat
    if rsInTarget rs x y && rsInScissor rs x y then
      some { lane := l.val, va := rsPixelVa rs x y, len := 4, ask := .target,
             data := packBits ((List.range 4).map fun k => (8, colour8 (c.g.vget (d.toNat + k) l).toNat))
             fwd := channelBits (rsMask rs) }
    else none

/-- A raster write added to the state; a native `rtw` enters the speculative store queue (16 R387). -/
def State.addTarget (s : State) (c : Iss) (k : OpKind) (queued : Bool) (accs : List Access) : State :=
  let (s, id) := s.addOp { c.op k (some 1) with accs := accs, queued := queued }
  if queued then s.updGroup c.gid fun g => { g with ssq := g.ssq ++ [id] } else s

/-- The effect of `rtw`. -/
def rtwEff (d : BitVec 8) (a : BitVec 4) (b : BitVec 8) (c : Iss) (s : State) : Eff :=
  if s.earlierPixel c.g then .stay
  else if c.native && decide (8 ≤ c.g.ssq.length) then s.fullQueue c
  else if c.act = 0 then .ok ((s.setGroup c.gid c.g).addTarget c (.rtw 0) c.native []) []
  else withRaster c s a false fun rs =>
    let lanes := c.act &&& ~~~(runPoison c.g [b.toNat, b.toNat + 1] a)
    match s.beginAccs c false (rtwAccs c rs d b lanes) with
    | .trap t => .trap t
    | .stay => .stay
    | .ended s => .ended s
    | .ok s accs => .ok ((s.setGroup c.gid (c.g.noteFaults c.native accs)).addTarget c (.rtw rs) c.native accs) []

/-- A uniform raster write that is a sink: its accesses are translated before it has any effect (16 R388). -/
def sinkTarget (c : Iss) (s : State) (k : OpKind) (accs : List Access) : Eff :=
  match s.beginAccs c true accs with
  | .trap t => .trap t
  | .stay => .stay
  | .ended s => .ended s
  | .ok s accs =>
    if c.native && faultLanes accs != 0 then .ended (s.sinkFault c accs)
    else .ok ((s.setGroup c.gid c.g).addTarget c k false accs) []

/-- One access for each tile of a list. -/
def tileAccs (rs : Nat) (ts : List Nat) : List Access :=
  ts.map fun t => { lane := uniLane, elem := t, va := rsTileVa rs t, len := 256, ask := .target }

/-- The tiles of a clear: those that the rectangle touches, in raster order. -/
def rclrTiles (rs x0 y0 x1 y1 : Nat) : List Nat :=
  if x1 < x0 ∨ y1 < y0 then [] else
    (List.range (y1 / 8 + 1 - y0 / 8)).flatMap fun j => (List.range (x1 / 8 + 1 - x0 / 8)).map fun i =>
      (y0 / 8 + j) * rsTw rs + (x0 / 8 + i)

/-- The effect of `rclr` (R336). -/
def rclrEff (a : BitVec 4) (b : BitVec 6) (c : Iss) (s : State) : Eff :=
  if c.act = 0 then .ok (s.setGroup c.gid c.g) []
  else withRaster c s a false fun rs =>
    let w (k : Nat) : Nat := (c.g.sAt (b.toNat + k)).toNat
    let x0 := w 0 % 65536
    let y0 := w 0 / 65536
    let x1 := min (w 1 % 65536) (rsW rs - 1)
    let y1 := min (w 1 / 65536) (rsH rs - 1)
    sinkTarget c s (.rclr rs x0 y0 x1 y1 (w 2)) (tileAccs rs (rclrTiles rs x0 y0 x1 y1))

/-- The virtual address of the mode byte of tile t (R320). -/
def rsModeVa (rs t : Nat) : Nat := (rsBase rs + 65536 * (t / 255) + 65280 + t % 255) % 2 ^ 64

/-- A mode byte that `rdcmp` cannot read: the stop of a sink for its own fault (R338; 16 R388, R392). -/
def modeFault (c : Iss) (s : State) (accs : List Access) : Eff :=
  if c.g.precise then .trap (accessTrap c.word c.act accs)
  else if c.native then .ended (s.sinkFault c accs)
  else .ended ((accs.filter (·.st == .fault)).foldl (fun s a =>
    s.postFor c.gid c.g.ctx { id := 0, va := a.va, kind := 0, src := 0, detail := a.detail }) s)

/-- The tiles that `rdcmp` names: those of the target from the first on. -/
def rdcmpTiles (c : Iss) (b : BitVec 6) (rs : Nat) : List Nat :=
  let lo := (c.g.sAt b.toNat).toNat
  (List.range (min (c.g.sAt (b.toNat + 1)).toNat (rsTiles rs - lo))).map (· + lo)

/-- The accesses to their mode bytes. -/
def rdcmpModes (c : Iss) (b : BitVec 6) (rs : Nat) : List Access :=
  (rdcmpTiles c b rs).map fun t => { lane := uniLane, elem := t, va := rsModeVa rs t, len := 1, ask := .read }

/-- The accesses of `rdcmp` to its tiles, from its mode bytes: a raw tile needs no leave to write (R338). -/
def State.rdcmpAccs (s : State) (c : Iss) (b : BitVec 6) (rs : Nat) (modes : List Access) : State × List Access :=
  let (s, tiles) := s.transAccs c.g.core c.g.ctx c.g.sup true (tileAccs rs (rdcmpTiles c b rs))
  let raw (t : Nat) : Bool := modes.any fun a => a.elem == t && a.mt == 0 && !a.peer && s.homeRead a.pa 1 == 0
  let kept := tiles.filter fun a => !(a.st == .fault && a.detail == 3 && raw a.elem)
  (s, tileAccs rs (kept.map (·.elem)))

/-- The effect of `rdcmp` (R338): the mode byte of each tile is read. -/
def rdcmpEff (a : BitVec 4) (b : BitVec 6) (c : Iss) (s : State) : Eff :=
  if c.act = 0 then .ok (s.setGroup c.gid c.g) []
  else withRaster c s a false fun rs =>
    let (s, modes) := s.transAccs c.g.core c.g.ctx c.g.sup true (rdcmpModes c b rs)
    if faultLanes modes ≠ 0 then modeFault c s modes
    else
      let (s, accs) := s.rdcmpAccs c b rs modes
      sinkTarget c s (.rdcmp rs) accs

/-- A decoded image with pixel i replaced. -/
def withPixel (P i x : Nat) : Nat := withBytes P (4 * i) 4 x

/-- The pixels of tile t that a clear covers, and whether they are all its pixels in the target (R336). -/
def clearPixels (rs x0 y0 x1 y1 t : Nat) : List Nat × Bool :=
  let px (i : Nat) : Nat × Nat := (8 * (t % rsTw rs) + i % 8, 8 * (t / rsTw rs) + i / 8)
  let within (i : Nat) : Bool := decide (x0 ≤ (px i).1 ∧ (px i).1 ≤ x1 ∧ y0 ≤ (px i).2 ∧ (px i).2 ≤ y1)
  let l := (List.range 64).filter within
  (l, (List.range 64).all fun i => within i || !(rsInTarget rs (px i).1 (px i).2))

/-- The image that a tile update leaves, from the image P before: whether it is stored raw, and the image; none when the
update writes nothing (R338). -/
def tileImage (k : OpKind) (accs : List Access) (t : Nat) (mode P : Nat) : Option (Bool × Nat) :=
  match k with
  | .rtw rs => some (rsRaw rs, accs.foldl (fun P a =>
      let i := a.pa % 256 / 4
      withPixel P i (blendPixel (rsBlend rs) (rsMask rs) a.data (P >>> (32 * i) % 2 ^ 32))) P)
  | .rclr rs x0 y0 x1 y1 colour =>
    let (l, all) := clearPixels rs x0 y0 x1 y1 t
    some (rsRaw rs, if all then packBits (List.replicate 64 (32, colour)) else l.foldl (fun P i => withPixel P i colour) P)
  | .rdcmp _ => if mode = 0 then none else some (true, P)
  | _ => none

/-- Whether a tile update gives every pixel of the tile a value of its own. -/
def tileWhole (k : OpKind) (t : Nat) : Bool :=
  match k with
  | .rclr rs x0 y0 x1 y1 _ => (clearPixels rs x0 y0 x1 y1 t).2
  | _ => false

/-- What a tile update comes to (R335, R336, R338; 21 R468, R473): nothing to write, the code of its refusal, or how it is
stored and the image. -/
inductive TileRes where
  | raw
  | refused (code : Nat)
  | image (raw : Bool) (P : Nat)

/-- A tile update of some accesses: of `rdcmp` the mode byte first, which leaves a raw tile alone (R338). -/
def State.tileRes (s : State) (k : OpKind) (accs : List Access) (tile b m : Nat) : TileRes :=
  let mode := s.rdMem m 1
  let whole := tileWhole k tile
  let cmp : Bool := match k with | .rdcmp _ => true | _ => false
  if s.lost b then .refused 4
  else if (s.homePoison m 1).isSome then .refused 5
  else if cmp && mode == 0 then .raw
  else if (s.cumPoison b 256).isSome && !whole then .refused 5
  else if cumBad mode && !whole then .refused 0x10D
  else match tileImage k accs tile mode (cumDecode mode (s.rdMem b 256)) with
    | none => .raw
    | some (r, P) => if !whole && s.partialPoison b (cumEncode r P).2.2 then .refused 5 else .image r P

/-- TILE_UPDATE (08 R220; 13 R335, R336, R338): the accesses of the operation to one tile are one tile update; an update waits
while one of them has no translation yet. -/
def State.tileStep (s : State) (id k : Nat) : State :=
  match s.acc? id k with
  | none => s
  | some (o, a) =>
    match cumBlock a.pa with
    | none => s
    | some (b, m) =>
      let same (c : Access) : Bool := c.ask == .target && c.va / 256 == a.va / 256
      let cmp : Bool := match o.kind with | .rdcmp _ => true | _ => false
      let asked := (m / 64 :: (if cmp ∧ s.rdMem m 1 = 0 then [] else halvesOf b 256)).filter s.hostHas
      if !(a.st == .ready && a.ask == .target && !o.queued && a.mt == 0 && s.inOrder id o a) || a.peer ||
        (o.accs.any fun c => same c && (c.st == .walk || c.st == .parked)) || s.earlierClear id o a then s
      else if !asked.isEmpty then s.backInval asked
      else
        let mine (c : Access) : Bool := same c && c.st == .ready
        let mark (code : Option Nat) (c : Access) : Access := if mine c then { c with st := .fill, tick := s.gnomon, poison := code } else c
        let served (s : State) (code : Option Nat) : State := (s.wakeSlice true b true).updOp id fun o => { o with accs := o.accs.map (mark code) }
        match s.tileRes o.kind (o.accs.filter mine) a.elem b m with
        | .raw => served s none
        | .refused code => served s (some code)
        | .image raw P =>
          let n := (cumEncode raw P).2.2
          let ct := s.completion true b
          let s := (s.clearPoison (if tileWhole o.kind a.elem then halvesOf b 256 else [])).putTile b m raw P
          let s := (s.mirrorWrite 2 o.g o.ctx 0 b n).mirrorWrite 2 o.g o.ctx 0 m 1
          (served s none).updOp id fun o => { o with ct := ctMax o.ct ct }

/-! ### zts (R337) -/

/-- The accesses of `zts`: the depth words of the lanes in the target. -/
def ztsAccs (c : Iss) (rs : Nat) (b : BitVec 8) : List Access :=
  (laneList c.act).filterMap fun l =>
    let x := (c.g.vlane b l).toNat
    let y := (c.g.vlane (b + 1) l).toNat
    if rsInTarget rs x y then
      some { lane := l.val, va := rsDepthVa rs x y, len := 4, ask := rsDepthAsk rs, data := (c.g.vlane (b + 2) l).toNat,
             fwdData := (c.g.vlane (b + 2) l).toNat }
    else none

/-- The effect of `zts`. -/
def ztsEff (d : BitVec 3) (a : BitVec 4) (b : BitVec 8) (c : Iss) (s : State) : Eff :=
  let start (rs : Nat) (s : State) (accs : List Access) : Eff :=
    .ok ((s.setGroup c.gid c.g).addOp { c.op (.zts d.toNat rs) (some 0) with accs := accs, writes := { p := [d.toNat] } }).1 []
  if c.act = 0 then start 0 s []
  else withRaster c s a true fun rs =>
    match s.beginAccs c true (ztsAccs c rs b) with
    | .trap t => .trap t
    | .stay => .stay
    | .ended s => .ended s
    | .ok s accs => if c.native && faultLanes accs != 0 then .ended (s.sinkFault c accs) else start rs s accs

/-- DATA_RETURN of `zts`: p[D] (R337); z stands in each access. -/
def State.ztsReturn (s : State) (id : Nat) (o : Op) (d rs : Nat) : State :=
  match s.groups.get? o.g with
  | none => { s with ops := s.ops.erase id }
  | some g =>
    (s.preciseStop id o (preciseTrap o.word o.act o.accs)).getD <|
    let p := if s.native g then o.act &&& poisonLanes o.accs else 0
    let pass := maskOf fun l => o.accs.any fun a => a.lane == l.val && a.poison.isNone && depthTest rs a.fwdData a.data
    let put (g : Group) : Group :=
      let g := g.setPLanes (BitVec.ofNat 3 d) (o.act &&& ~~~p) pass
      if h : d < 8 then { g with poison := { g.poison with p := g.poison.p.set d ((g.poison.p[d] &&& ~~~o.act) ||| p) } } else g
    let s := s.setGroup o.g (g.deliver id [262] put)
    let s := match poisonFirst o.accs with
      | some (code, va) => s.dataFault o (o.act &&& poisonLanes o.accs) code va o.word
      | none => s
    s.finishOp id

/-- The effect of `rend` (R339); in a pixel group `fence.rel.dev` (R331). -/
def rendEff (c : Iss) : Group := if c.g.pixel.isSome then c.release 3 .done else c.hold (.rend none)

/-! ### The instructions -/

/-- rtri (13 R328, R331): a sink -/
def execRtri (d : BitVec 8) (a : BitVec 4) (b : BitVec 8) (s : State) : Host.Outcome State Fault Refusal :=
  issue (W.rtri d a b) (useRtri d a b) (rtriEff d a b) s

/-- rtw (13 R335) -/
def execRtw (d : BitVec 8) (a : BitVec 4) (b : BitVec 8) (s : State) : Host.Outcome State Fault Refusal :=
  issue (W.rtw d a b) { vr := (List.range 4).map (· + d.toNat) ++ [b.toNat, b.toNat + 1], ar := [a.toNat], cls := some 1 } (rtwEff d a b) s

/-- rclr (13 R336): a sink -/
def execRclr (a : BitVec 4) (b : BitVec 6) (s : State) : Host.Outcome State Fault Refusal :=
  issue (W.rclr a b) { ar := [a.toNat], sr := (List.range 3).map (· + b.toNat), range := decide (61 < b.toNat), cls := some 1, uniform := true, sink := true } (rclrEff a b) s

/-- zts (13 R337): a sink -/
def execZts (d : BitVec 3) (a : BitVec 4) (b : BitVec 8) (s : State) : Host.Outcome State Fault Refusal :=
  issue (W.zts d a b) { vr := (List.range 3).map (· + b.toNat), ar := [a.toNat], later := { p := [d.toNat] }, cls := some 0, sink := true, ownPoison := true } (ztsEff d a b) s

/-- rdcmp (13 R338): a sink, feature group 3 -/
def execRdcmp (a : BitVec 4) (b : BitVec 6) (s : State) : Host.Outcome State Fault Refusal :=
  issue (W.rdcmp a b) { ar := [a.toNat], sr := [b.toNat, b.toNat + 1], range := decide (62 < b.toNat), cls := some 1, uniform := true, sink := true, ext := some 3 } (rdcmpEff a b) s

/-- rend (13 R339): a sink -/
def execRend (s : State) : Host.Outcome State Fault Refusal :=
  issue W.rend { guard := false, sink := true } (groupEff rendEff) s

/-- RASTER_STAMP (13 R329) -/
def execRasterStamp (core : Nat) (s : State) : Host.Outcome State Fault Refusal :=
  .next (s.rasterStep core)

/-- DEPTH_TEST (13 R329) -/
def execDepthTest (core : Nat) (s : State) : Host.Outcome State Fault Refusal :=
  .next (s.depthStep core)

/-- PIXEL_GROUP_SPAWN (13 R329, R330) -/
def execPixelGroupSpawn (core : Nat) (target : Nat) (s : State) : Host.Outcome State Fault Refusal :=
  .next (s.spawnStep core target)

/-- TILE_UPDATE (08 R220; 13 R335 to R338) -/
def execTileUpdate (op : Nat) (acc : Nat) (s : State) : Host.Outcome State Fault Refusal :=
  .next (s.tileStep op acc)

/-- PASS_END (13 R339) -/
def execPassEnd (blk : Nat) (s : State) : Host.Outcome State Fault Refusal :=
  .next (s.passEnd blk)

end Sys2Proof.Machine
end

