-- ==== Sys2Proof/Machine/Work.lean ====
section
/-! DEFINITION. The command processor: queues, jobs, phases, graphs, launches and children, the placing of blocks and their
end, and the instructions of 15 R369 (15 R346 to R375; 16 R376, R377). -/

namespace Sys2Proof.Machine

/-! ### Context descriptors and residency (16 R376, R377) -/

/-- Whether a context descriptor's 64 bytes are malformed (R376). -/
def ctxBad (x : Nat) : Bool :=
  bits x 16 0 != 0 || bits x 63 56 != 0 || bits x 78 64 != 0 || bits x 191 160 != 0 || bits x 196 192 != 0 || bits x 257 256 != 0 ||
  bits x 321 320 != 0 || decide (16 < bits x 388 384) || bits x 391 389 != 0 || bits x 447 395 != 0 || bits x 449 448 != 0

/-- A context with the fields of its descriptor. -/
def Ctx.load (c : Ctx) (x : Nat) : Ctx :=
  { c with
    root := bits x 63 0, pool := bits x 127 64, psz := bits x 159 128, fring := bits x 255 192, fwptr := bits x 319 256
    fdone := bits x 383 320, fqsz := bits x 388 384, en := x.testBit 392, compat := x.testBit 393, sys := x.testBit 394
    tvec := BitVec.ofNat 64 (bits x 511 450 * 4) }

/-- The descriptor of a context in the context table; one that the schedule's probe disturbs is in order (log 176). -/
def State.ctxDesc (s : State) (c : Nat) : Nat :=
  let pa := s.host.ctb.toNat + 64 * c
  if s.taps pa 64 then 2 ^ 392 else s.homeRead pa 64

/-- The command processor reads the descriptor of a context that is not resident, for its tables. -/
def State.loadCtx (s : State) (c : Nat) : State :=
  if (s.ctx c).resident then s else { s with ctxs := s.ctxs.set c ((s.ctx c).load (s.ctxDesc c)) }

/-- Whether a job of a context has started and not ended. -/
def State.ctxBusy (s : State) (c : Nat) : Bool := s.entities.any fun e => e.2.kind == .job && e.2.ctx == c && e.2.started && !e.2.ended

/-- A context leaves residency: its translations, weight-cache entries, Almanac entries and observed rounds are lost (R377;
17 R407; 18 R426). -/
def State.evictCtx (s : State) (c : Nat) : State :=
  let s := { s with tlb := s.tlb.filter fun e => e.ctx != c }
  let s := s.updCores fun _ k => { k with wcache := k.wcache.filter (fun w => w.ctx != c), obs := k.obs.keep fun r _ => r / 256 != c }
  let s := s.almClear (s.ctx c).cslot none
  s.updCtx c fun x => { x with resident := false, almap := 0 }

/-- The resident context used least recently among those without a job. -/
def State.idleCtx (s : State) : Option Nat :=
  ((s.ctxs.filter fun e => e.2.resident && !(s.ctxBusy e.1)).foldl (fun r e => match r with
    | none => some (e.1, e.2.used)
    | some (k, t) => if e.2.used < t then some (e.1, e.2.used) else some (k, t)) (none : Option (Nat × Nat))).map (·.1)

/-- A free resident slot, the lowest. -/
def State.freeCslot (s : State) : Option Nat :=
  (List.range 4096).find? fun k => !(s.ctxs.any fun e => e.2.resident && e.2.cslot == k)

/-- A context becomes resident, or stays so (R377; 06 R160): its descriptor is read at that moment. -/
def State.makeResident (s : State) (c : Nat) : State :=
  let s := if (s.ctx c).resident then s else
    let s := if s.freeCslot.isSome then s else match s.idleCtx with
      | some k => s.evictCtx k
      | none => s
    { s with ctxs := s.ctxs.set c { (s.ctx c).load (s.ctxDesc c) with resident := true, cslot := s.freeCslot.getD 0 } }
  s.updCtx c fun x => { x with used := s.gnomon }

/-! ### Queues (15 R346 to R348) -/

/-- Whether a queue descriptor's 64 bytes are malformed (R346). -/
def queueBad (x : Nat) : Bool :=
  bits x 5 0 != 0 || bits x 127 96 != 0 || bits x 79 73 != 0 || decide (16 < bits x 68 64) || bits x 129 128 != 0 ||
  bits x 193 192 != 0 || bits x 511 256 != 0

/-- A queue error (R346; 22 R484): a telemetry event, and the queue is not served until its next examination. -/
def State.queueError (s : State) (q : Nat) : State :=
  { s.telemetry 1 q with queues := s.queues.upd q fun x => { x with bad := true } }

/-- The examination of a queue (R346, R348): its descriptor is read afresh, and the registration moves to the word that wptr
then names; a queue that is served reaches its read pointer too (log 90). -/
def State.examine (s : State) (q : Nat) : State :=
  let x := s.homeRead (s.host.qtb.toNat + 64 * q) 64
  let old := s.queues.getD q {}
  let ctx := bits x 95 80
  let s := s.loadCtx ctx
  let va := bits x 191 128
  let word : Option Nat := match s.resolveCp ctx true .monitor va with
    | .ok w => if va % 4 = 0 then some (w.phys va) else none
    | .error _ => none
  let new := { old with en := x.testBit 72, wptrPa := word, woken := false, wptr := (word.map fun pa => s.homeRead pa 4).getD old.wptr }
  if queueBad x then ({ s with queues := s.queues.set q new } : State).queueError q
  else
    let new := { new with ring := bits x 63 0, ctx := ctx, prio := bits x 71 69, qsz := bits x 68 64, wptrVa := va
                          rptrVa := bits x 255 192, bad := false }
    let put (y : Queue) : State := { s with queues := s.queues.set q y }
    if word.isNone then (put new).queueError q
    else if !new.en ∨ old.job.isSome then put new
    else match s.resolveCp ctx true .write new.rptrVa with
      | .ok r => put { new with rptr := s.rdType r.mt (r.phys new.rptrVa) 4 }
      | .error _ => (put new).queueError q

/-- Every queue is examined once, after a write of QTB (R348). -/
def State.examineAll (s : State) : State := (List.range 4096).foldl State.examine s

/-- WPTR_WAKE (R348): the registration on a queue's write pointer wakes. -/
def State.wptrDue (s : State) (q : Nat) : Bool :=
  match s.queues.get? q with
  | some x => x.woken
  | none => false

/-- WPTR_WAKE -/
def State.wptrWake (s : State) (q : Nat) : State := if s.wptrDue q then s.examine q else s

/-! ### Records (15 R349 to R351) -/

/-- An entity from the 64 bytes of its record (R350, R351). -/
def Entity.ofRecord (e : Entity) (x : Nat) : Entity :=
  let tail := bits x 511 256 != 0
  let container (code count : Nat) (res : Bool) : Entity :=
    let bad := bits x 7 0 != code || res || count == 0 || tail || bits x 65 64 != 0 || bits x 133 128 != 0
    { e with status := bits x 127 64, list := bits x 191 128, nb := bits x 255 192, count := count
             bad := if bad then some (4, 1) else none, noStatus := bits x 65 64 != 0 }
  match e.kind with
  | .job => container 1 (bits x 31 16) (bits x 15 8 != 0 || bits x 63 32 != 0)
  | .phase => container 2 (bits x 31 16) (bits x 15 8 != 0 || bits x 63 32 != 0)
  | .graph => container 3 (bits x 28 16) (bits x 15 8 != 0 || bits x 63 29 != 0 || decide (4096 < bits x 28 16))
  | .launch | .child =>
    let child := e.kind == .child
    let deps := (List.range 4).map fun k => bits x (463 + 16 * k) (448 + 16 * k)
    let g : Grid := { gx := bits x 63 32, gy := bits x 207 192, gz := bits x 223 208, mprio := bits x 9 8, kdesc := bits x 127 64
                      params := if child then e.grid.params else bits x 191 128
                      seed := if child then BitVec.ofNat 64 (bits x 319 256) ^^^ BitVec.ofNat 64 e.grid.params else BitVec.ofNat 64 (bits x 319 256)
                      deps := if child then [] else deps.filter (· ≠ 0xFFFF) }
    let bad := bits x 7 0 != 4 || bits x 31 10 != 0 || g.gx == 0 || g.gy == 0 || g.gz == 0 || decide (2 ^ 32 ≤ g.blocks) ||
      bits x 69 64 != 0 || bits x 129 128 != 0 || bits x 255 224 != 0 || (!child && bits x 321 320 != 0) ||
      g.deps.any fun d => decide (e.index ≤ d)
    { e with status := if child then e.status else bits x 383 320, nb := bits x 447 384, grid := g
             bad := if bad then some (4, 1) else none, noStatus := !child && bits x 321 320 != 0 }

/-- An entity with its record read at user level, or at supervisor level for a ring entry (R346, R349). -/
def State.readEntity (s : State) (e : Entity) (sup : Bool) : Entity :=
  match s.rdVa e.ctx sup e.rcd 64 with
  | some x => e.ofRecord x
  | none => { e with bad := some (4, 2), noStatus := e.kind != .child }

/-- The state with an entity added. -/
def State.addEntity (s : State) (e : Entity) : State × Nat :=
  ({ s with entities := s.entities.set s.nextEntity e, nextEntity := s.nextEntity + 1 }, s.nextEntity)

/-- The kind of a container's members. -/
def EKind.member : EKind → EKind
  | .job => .phase
  | .phase => .graph
  | _ => .launch

/-- Member k of an entity with its record read, added to the list. -/
def State.addMember (s : State) (id : Nat) (e : Entity) (k : Nat) : State :=
  let m := s.readEntity { kind := e.kind.member, queue := e.queue, ctx := e.ctx, parent := some id, index := k, rcd := e.list + 64 * k } false
  let (s, i) := s.addEntity m
  s.updEntity id fun e => { e with members := e.members ++ [i] }

/-- A container's members are read (R352). -/
def State.expand (s : State) (id : Nat) : State :=
  match s.entities.get? id with
  | none => s
  | some e =>
    if e.expanded || e.kind == .launch || e.kind == .child then s
    else (List.range e.count).foldl (fun s k => s.addMember id e k) (s.updEntity id fun e => { e with expanded := true })

/-! ### Starts (R349, R354, R363) -/

/-- An entity starts: its status word is checked (R349), and a rejected one takes its state (R353). -/
def State.begin (s : State) (id : Nat) : State :=
  match s.entities.get? id with
  | none => s
  | some e =>
    let unwritable := e.noStatus || (match s.resolveCp e.ctx false .write e.status with | .ok _ => false | .error _ => true)
    s.updEntity id fun e => { e with
      started := true, noStatus := unwritable
      verdict := match e.bad with
        | some v => some v
        | none => if unwritable then some (4, 2) else none }

/-- The state and detail with which an entity has ended or is to end, 1 when complete. -/
def Entity.final (e : Entity) : Nat × Nat := e.verdict.getD (1, 0)
/-- Whether an entity has ended with state 1. -/
def Entity.good (e : Entity) : Bool := e.ended && e.final.1 == 1

/-- The members of an entity's container. -/
def State.siblings (s : State) (e : Entity) : List Entity :=
  match e.parent.bind s.entities.get? with
  | some p => p.members.filterMap s.entities.get?
  | none => []

/-- Whether every not-before tick of an entity and of its containers has passed (R350, R354). -/
def State.nbPassed (s : State) : Nat → Entity → Bool
  | 0, _ => true
  | n + 1, e => e.nb == 0 && match e.parent.bind s.entities.get? with
    | some p => s.nbPassed n p
    | none => true

/-- Whether an entity's container runs. -/
def State.parentRuns (s : State) (e : Entity) : Bool :=
  match e.parent.bind s.entities.get? with
  | some p => p.started && p.verdict.isNone && !p.ended
  | none => false

/-- Whether an entity may start, as far as its own state and its containers go. -/
def State.mayStart (s : State) (e : Entity) : Bool := !e.started && e.verdict.isNone && !e.ended && s.parentRuns e && s.nbPassed 5 e

/-- Completion counters in use (R363). -/
def State.counters (s : State) : Nat := (s.entities.filter fun e => !e.2.ended && (e.2.started || e.2.kind == .child)).length

/-- Launches of started graphs that have not started: each takes a counter as it does. -/
def State.counterDue (s : State) : Nat :=
  (s.entities.filter fun e => !e.2.ended && !e.2.started && e.2.verdict.isNone && e.2.kind == .launch).length

/-- Whether completion counters for n more entities are free, beside those that started graphs' launches take (R363). -/
def State.counterFree (s : State) (n : Nat) : Bool := decide (s.counters + s.counterDue + n ≤ 262144)

/-- JOB_START (R348, R352, R354, R363; 16 R376, R377). -/
def State.jobDue (s : State) (q : Nat) : Bool :=
  match s.queues.get? q with
  | some x => s.boot.stage == 4 && x.en && !x.bad && x.job.isNone && x.wptr != x.rptr && !(s.ctx x.ctx).hold && s.counterFree 1
  | none => false

/-- JOB_START -/
def State.jobStart (s : State) (q : Nat) : State :=
  match s.queues.get? q with
  | none => s
  | some x =>
    if !s.jobDue q then s
    else
      let va := x.ring + 64 * (x.rptr % 2 ^ x.qsz)
      match s.rdVa x.ctx true va 64 with
      | none => s.queueError q
      | some rec_ =>
        let d := s.ctxDesc x.ctx
        let refused := !(s.ctx x.ctx).resident && (ctxBad d || !d.testBit 392)
        let s := if refused then s else s.makeResident x.ctx
        let e := ({ kind := .job, queue := q, ctx := x.ctx, rcd := va } : Entity).ofRecord rec_
        let e := if refused ∨ !(s.ctx x.ctx).en then { e with bad := some (4, 1) } else e
        let (s, id) := s.addEntity e
        let s := { s with disc := { s.disc with firstJob := true }, queues := s.queues.upd q fun x => { x with job := some id } }
        let s := s.begin id
        if ((s.entities.get? id).bind (·.verdict)).isSome then s else s.expand id

/-- PHASE_START (R354): the phases of a job before it have ended with state 1. -/
def State.phaseDue (s : State) (id : Nat) : Bool :=
  match s.entities.get? id with
  | some e => e.kind == .phase && s.mayStart e && s.counterFree 1 && (s.siblings e).all fun m => decide (e.index ≤ m.index) || m.good
  | none => false

/-- An entity starts, and its members are read. -/
def State.beginExpand (s : State) (id : Nat) : State :=
  let s := s.begin id
  if ((s.entities.get? id).bind (·.verdict)).isSome then s else s.expand id

/-- PHASE_START -/
def State.phaseStart (s : State) (id : Nat) : State := if s.phaseDue id then s.beginExpand id else s

/-- GRAPH_START (R354, R363): counters for it and its launches are free, and no graph that may start, of this phase or another,
came before it: a graph's number rises with the start of its phase and with its index. -/
def State.graphDue (s : State) (id : Nat) : Bool :=
  match s.entities.get? id with
  | some e => e.kind == .graph && s.mayStart e && s.counterFree (1 + e.count) &&
      s.entities.all fun m => decide (id ≤ m.1) || m.2.kind != .graph || !s.mayStart m.2
  | none => false

/-- GRAPH_START -/
def State.graphStart (s : State) (id : Nat) : State := if s.graphDue id then s.beginExpand id else s

/-- NOT_BEFORE_PASS (R350): Gnomon passes an entity's not-before tick. -/
def State.nbStep (s : State) (id : Nat) : State :=
  s.updEntity id fun e => if s.passed e.nb then { e with nb := 0 } else e

/-- LAUNCH_READY (R354): the launches that it names below its own index have ended with state 1; a name at or above it makes
the record malformed (R353). -/
def State.launchDue (s : State) (id : Nat) : Bool :=
  match s.entities.get? id with
  | some e => (e.kind == .launch || e.kind == .child) && s.mayStart e &&
      e.grid.deps.all fun d => decide (e.index ≤ d) || ((s.siblings e)[d]?).any Entity.good
  | none => false

/-- The kernel descriptor of a launch that starts, with what rejects it (02 R54; 15 R353). -/
def State.withDesc (s : State) (e : Entity) : Entity :=
  match s.rdVa e.ctx false e.grid.kdesc 64 with
  | none => { e with bad := some (4, 2) }
  | some x =>
    if descBad x then { e with bad := some (4, 3) }
    else if !(KDesc.ofBytes x).everFits (s.ctx e.ctx).psz then { e with bad := some (4, 4) }
    else { e with desc := KDesc.ofBytes x }

/-- LAUNCH_READY; a child's template is read first (R370). -/
def State.launchReady (s : State) (id : Nat) : State :=
  match s.entities.get? id with
  | none => s
  | some e =>
    if !s.launchDue id then s
    else if e.kind == .child && !e.expanded then
      s.updEntity id fun e => { (s.readEntity e false) with expanded := true }
    else
      let s := s.updEntity id fun e => if e.bad.isSome then e else s.withDesc e
      (s.begin id).updEntity id fun e => { e with ready := some s.gnomon }

/-! ### Priority and placing (R364 to R366, R371) -/

/-- Effective priority (R364). -/
def State.effPriority (s : State) (e : Entity) : Nat := min 7 ((s.queues.getD e.queue {}).prio + e.aged)

/-- LAUNCH_AGING (R364): every 2^20 ticks the priority rises. -/
def State.agingDue (s : State) (e : Entity) : Bool :=
  !e.ended && e.verdict.isNone && decide (e.placed < e.grid.blocks) && decide (s.effPriority e < 7) &&
  e.ready.any fun t => decide ((e.aged + 1) * 2 ^ 20 ≤ s.gnomon - t)

/-- LAUNCH_AGING -/
def State.agingStep (s : State) (id : Nat) : State :=
  s.updEntity id fun e => if s.agingDue e then { e with aged := e.aged + 1 } else e

/-- Whether a child goes through the aggregator (R371). -/
def Entity.aggregates (e : Entity) : Bool := e.kind == .child && e.grid.blocks == 1

/-- AGGREGATOR_DISPATCH (R371): the ready children of one context that name the same template, up to 4,096 of them, go to
the distributor as one grid. -/
def State.aggregate (s : State) (id : Nat) : State :=
  match s.entities.get? id with
  | none => s
  | some e =>
    let same (x : Entity) : Bool := x.aggregates && x.ready.isSome && x.verdict.isNone && !x.merged && x.ctx == e.ctx && x.rcd == e.rcd
    let ids := ((s.entities.filter fun x => same x.2).map (·.1)).take 4096
    if same e then ids.foldl (fun s k => s.updEntity k fun x => { x with merged := true }) s else s

/-- The order of R364 as a list of numbers, the smaller first. -/
def State.placeKey (s : State) (id : Nat) (e : Entity) : List Nat :=
  let g := ((e.parent.bind s.entities.get?).map (·.index)).getD 0
  [7 - s.effPriority e, e.ready.getD 0, e.queue, g, if e.kind = .child then 1 else 0, if e.kind = .child then id else e.index]

/-- Lexicographic order. -/
def listLt : List Nat → List Nat → Bool
  | [], _ => false
  | _, [] => false
  | a :: l, b :: m => decide (a < b) || (a == b && listLt l m)

/-- Whether a launch has a block to place now: not while its context is being saved, is halted, or has a stamp that waits
for granules (22 R482; 19 R442; 13 R332). -/
def State.placeable (s : State) (e : Entity) : Bool :=
  (e.kind == .launch || e.kind == .child) && e.ready.isSome && e.verdict.isNone && decide (e.placed < e.grid.blocks) &&
  (!e.aggregates || e.merged) && !(s.ctx e.ctx).hold && !(s.groups.any fun g => g.2.ctx == e.ctx && g.2.halted && g.2.mode != .ended) &&
  !s.stampWaits e.ctx

/-- The lengths of a block's runs of granules: its groups, its members' accumulator images, its frame (16 R397). -/
def KDesc.runs (d : KDesc) : List Nat :=
  List.replicate d.groups 1 ++ List.replicate d.members (accGranules d.acc) ++ [frameGranules d.ssize]

/-- The launches with a block to place, in the order of R364. -/
def State.placeOrder (s : State) : List (Nat × Entity) :=
  let l := s.entities.filter fun e => s.placeable e.2
  l.foldl (fun r x =>
    let (a, b) := r.span fun y => listLt (s.placeKey y.1 y.2) (s.placeKey x.1 x.2)
    a ++ x :: b) []

/-- Whether a launch's next block fits with its first member on a core, given cores reserved for another. -/
def State.blockFits (s : State) (e : Entity) (core : Nat) (reserved : List Nat) : Bool :=
  (s.chooseCores core e.desc reserved).isSome

/-- Whether the granules of a launch's next block are free. -/
def State.granulesFree (s : State) (e : Entity) : Bool := (takeRuns (s.ctx e.ctx).granules (s.ctx e.ctx).psz e.desc.runs).isSome

/-- Whether a launch's next block fits some core, or some gang (R365). -/
def State.coresFor (s : State) (e : Entity) (reserved : List Nat) : Bool := (List.range 104).any fun k => s.blockFits e k reserved

/-- Whether a launch's next block may be placed somewhere: its granules are free too (16 R397). -/
def State.fitsSomewhere (s : State) (e : Entity) (reserved : List Nat) : Bool := s.granulesFree e && s.coresFor e reserved

/-- The cores to reserve for a launch's gang (R366): the first active ones of die 0 that can hold it, else of die 1 (DESIGN CHOICE, log
184). -/
def State.gangCores (s : State) (e : Entity) : List Nat :=
  let l (d : Nat) : List Nat := ((List.range 52).map (· + 52 * d)).filter fun k => (s.core k).use == .active
  ((if e.desc.members ≤ (l 0).length then l 0 else l 1)).take e.desc.members

/-- Cores stay reserved for a launch's gang until its block is placed, its launch is decided, or one of them is no longer active; with
none reserved, the first launch in order reserves some when it needs a gang that fits nowhere (R366; log 184). -/
def State.settleReserve (s : State) : State :=
  let keep : Bool := s.reserve.any fun r => (s.entities.get? r.1).any (fun e => e.verdict.isNone && e.placed == r.2.1) &&
    r.2.2.all fun k => (s.core k).use == .active
  if keep then s
  else match s.placeOrder with
    | [] => { s with reserve := none }
    | (id, e) :: _ =>
      { s with reserve := if e.desc.members ≤ 1 ∨ s.coresFor e [] then none else some (id, e.placed, s.gangCores e) }

/-- The cores reserved for a gang. -/
def State.reserved (s : State) : List Nat := (s.reserve.map (·.2.2)).getD []

/-- The cores that a launch's block may not take: those reserved for another launch's gang. -/
def State.reservedFor (s : State) (id : Nat) : List Nat := if s.reserve.any (·.1 == id) then [] else s.reserved

/-- The launch whose block is placed next: the first in order that fits somewhere; the reserved cores are for their gang. -/
def State.placeNext (s : State) : Option (Nat × Entity) := s.placeOrder.find? fun x => s.fitsSomewhere x.2 (s.reservedFor x.1)

/-- The control area of a new accumulator image (10 R253, R254): tokens at the engine, the launch's priority in the group
table. -/
def controlArea (mprio : Nat) : Nat := packBits (List.replicate 256 (16, 0) ++ List.replicate 2048 (16, mprio))

/-- The tiles and control area of an accumulator image are written at block start (10 R254). -/
def State.zeroTiles (s : State) (ctx aib n mprio : Nat) : State :=
  match s.imageSpans ctx aib (1024 * n + 4608) .write with
  | .ok l => s.wrSpans l (controlArea mprio <<< (8 * (1024 * n)))
  | .error _ => s

/-- The addresses of a block's images that translate before it is placed: its groups', each page of its accumulator images,
its frame's first. -/
def KDesc.placePages (d : KDesc) (vas : List Nat) : List Nat :=
  vas.take d.groups ++ ((vas.drop d.groups).take d.members).flatMap (fun a => (pageSpans a (1024 * d.acc + 4608)).map (·.1)) ++
    vas.drop (d.groups + d.members)

/-- The groups of a block's member m start on their core, each in its lowest free slot (DESIGN CHOICE, log 187). -/
def State.startMember (s : State) (e : Entity) (bid b core m : Nat) (ribs : List (Nat × Nat)) : State × List Nat :=
  (List.range (e.desc.groupsOn m)).foldl (fun (s, l) k =>
    let i := 256 * m + k
    let (rib, pa) := ribs.getD i (0, 0)
    let slot := (s.freeSlots core).headD 0
    let (s, g) := s.addGroup (startGroup e.ctx bid i core slot rib pa e.desc e.grid.seed b e.grid.params e.grid.mprio s.gnomon)
    (s, l ++ [g])) (s, [])

/-- BLOCK_PLACE (R361, R362, R365; 16 R397): the launch's next block goes to a core, or its gang to cores of the die. -/
def State.placeBlock (s : State) (id core : Nat) : State :=
  match s.entities.get? id with
  | none => s
  | some e =>
    if (s.placeNext.map (·.1)) ≠ some id then s
    else
      let cx := s.ctx e.ctx
      match s.chooseCores core e.desc (s.reservedFor id), takeRuns cx.granules cx.psz e.desc.runs with
      | some cs, some (runs, used) =>
        let vas := runs.map cx.granuleVa
        match s.imagePages e.ctx (e.desc.placePages vas) with
        | .error (va, d) => s.imageFault e.ctx va 1 d
        | .ok pas =>
          let d := e.desc
          let aibs := (vas.drop d.groups).take d.members
          let s := cs.foldl (fun s c => s.takeCore c.1 e.ctx d) s
          let s := aibs.foldl (fun s a => s.zeroTiles e.ctx a d.acc e.grid.mprio) s
          let bid := s.nextBlock
          let own := used.filter fun g => !cx.granules.contains g
          let nb : Block := { launch := id, ctx := e.ctx, idx := e.placed, cores := cs.map (·.1), ngroups := d.groups, ssize := d.ssize,
                              sbases := cs.map (·.2.1), aibs := aibs, aslots := cs.map (·.2.2), granules := own,
                              frame := vas.getLastD 0, placedAt := s.gnomon,
                              tilePas := s.tileSpans e.ctx aibs d.acc }
          let s := { s with blocks := s.blocks.set bid nb, nextBlock := bid + 1 }
          let s := (s.updCtx e.ctx fun x => { x with granules := used }).updEntity id fun e => { e with placed := e.placed + 1 }
          let ribs := vas.zip pas
          let (s, gs) := (cs.zipIdx).foldl (fun (s, l) c =>
            let (s, g) := s.startMember e bid e.placed c.1.1 c.2 ribs
            (s, l ++ g)) (s, [])
          s.updBlock bid fun b => { b with groups := gs }
      | _, _ => s

/-! ### Pre-emption of blocks (R366) -/

/-- Whether path q of a group waits in an `rtri` for room in the raster queue (13 R331). -/
def State.waitsRtri (s : State) (g : Group) (q : Nat) : Bool :=
  let e := g.entryAt q
  match s.fetch g e.pc.toNat with
  | .words w _ => w >>> 24 == 0xD1 && decide (256 < (s.core g.core).raster.length + (laneList (g.activeOf e.mask e.md)).length)
  | _ => false

/-- The wait of a resumed path whose generation completed while it was saved (09 R244, R245; 13 R339). -/
def State.resumeWait (s : State) (g : Group) (e : PathEntry) : PathEntry :=
  match s.blocks.get? g.block with
  | none => e
  | some b =>
    match e.hold with
    | .bar (some n) => if (b.bar 0).gen ≠ n then e.owe 1 else e
    | .barw k n => if (b.bar k).gen ≠ n then e.owe 1 else e
    | .gbar (some n) => if ((s.entities.get? b.launch).bind (·.gcount)) ≠ some n then e.owe 3 else e
    | .rend (some p) => if b.pass ≠ p then e.go else e
    | _ => e

/-- Whether a group waits at `gbar`, for a grid counter among them (once its launch has one it comes back to arrive), at `mwait`, `cwait` or `wtm`, in `grow`, in an `rtri` for
room, or asleep, or has no live lane (R247, R366; 07 R175; 09 R246; 16 R403; 18 R422; 19 R448): some path does, and every other path with a live lane waits
there too or at a merge. -/
def State.groupWaits (s : State) (g : Group) : Bool :=
  let waits (e : PathEntry) (q : Nat) : Bool := match (s.resumeWait g e).hold with
    | .gbar none => !((s.entities.get? (s.launchOf g)).any (·.gcount.isSome))
    | .gbar _ | .mon _ | .grow _ => true
    | .wtm t => decide (s.gnomon < t)
    | .none => s.waitsRtri g q
    | _ => false
  let ps := g.paths.toList.zipIdx.filter fun p => p.1.kind == .path && g.liveOf p.1.mask != 0
  (g.home == .saved && g.wake != 0) || (g.mode == .run && g.order.isNone && !g.anyLive) || (g.mode == .run && g.order.isNone && ps.any (fun p => waits p.1 p.2) &&
    ps.all fun p => p.1.hold == .merge || waits p.1 p.2)

/-- Whether every group of a block that has not ended waits, so that the block may leave its cores (R247, R366). -/
def State.blockWaits (s : State) (b : Block) : Bool :=
  let gs := (b.groups.filter fun g => !b.ended.contains g).filterMap s.groups.get?
  !gs.isEmpty && gs.all s.groupWaits

/-- The resident block to pre-empt for the first launch in order, when that fits nowhere (R366). -/
def State.victim (s : State) : Option Nat :=
  match s.placeOrder with
  | [] => none
  | (_, e) :: _ =>
    if s.coresFor e [] ∨ s.blocks.any (fun b => b.2.preempt && !b.2.cores.isEmpty) then none
    else
      let low (b : Block) : Bool := !b.cores.isEmpty && !b.preempt && b.pixelOf.isNone && decide (b.placedAt + 65536 ≤ s.gnomon) &&
        ((s.entities.get? b.launch).any fun x => decide (s.effPriority x + 2 ≤ s.effPriority e))
      (((s.blocks.filter fun b => low b.2).foldl (fun r b => match r with
        | none => some (b.1, b.2.placedAt)
        | some (k, t) => if b.2.placedAt < t then some (b.1, b.2.placedAt) else some (k, t)) (none : Option (Nat × Nat)))).map (·.1)

/-- Every resident group of a block is to be saved (16 R393). -/
def State.saveBlock (s : State) (bid : Nat) : State :=
  match s.blocks.get? bid with
  | none => s
  | some b =>
    let s := s.updBlock bid fun b => { b with preempt := true }
    b.groups.foldl (fun s g => s.updGroup g fun g =>
      if g.home = .resident ∧ g.mode ≠ .ended then { g with home := .saving } else g) s

/-- PREEMPT_BLOCK (R366) -/
def State.preemptBlock (s : State) (bid : Nat) : State :=
  match s.blocks.get? bid with
  | none => s
  | some b =>
    if b.cores.isEmpty ∨ b.preempt then s
    else if s.victim = some bid ∨ s.blockWaits b then s.saveBlock bid else s

/-! ### Ends (R355, R357, R358) -/

/-- Whether a block is complete (R355; 07 R179): every group has ended and given back its slot, its operations have ended,
its pixel groups have gone, and Gnomon has passed Cd0 and Cd1 of its writes. -/
def State.blockDone (s : State) (bid : Nat) (b : Block) : Bool :=
  b.allEnded && !(s.hasTris bid) && (s.pixelBlocks bid).isEmpty && s.passed b.ct.1 && s.passed b.ct.2.1 &&
  b.groups.all fun g => (s.groups.get? g).all fun x => x.home == .saved && !(s.ops.any fun o => o.2.g == g) && s.passed x.wmax.1 && s.passed x.wmax.2.1

/-- BLOCK_COMPLETE (R355; 13 R332; 16 R397): the block and its granules are gone. -/
def State.blockComplete (s : State) (bid : Nat) : State :=
  match s.blocks.get? bid with
  | none => s
  | some b =>
    if !s.blockDone bid b then s
    else
      let s := s.leaveScratch bid
      let s := { s with groups := s.groups.keep fun g _ => !b.groups.contains g, blocks := s.blocks.erase bid }
      let s := s.updCtx b.ctx fun c => { c with granules := c.granules.filter fun x => !b.granules.contains x }
      match b.pixelOf with
      | some p => s.updBlock p fun x => { x with ct := ctMax x.ct b.ct }
      | none => s.updEntity b.launch fun e => { e with done := e.done + 1, ct := ctMax e.ct b.ct }

/-- Whether an entity never starts because of what it depends on (R354, R357). -/
def State.doomed (s : State) (e : Entity) : Bool :=
  !e.started && e.verdict.isNone && !e.ended &&
  ((match e.parent.bind s.entities.get? with
    | some p => p.verdict.any fun v => v.1 == 2 || v.1 == 3
    | none => false) ||
   (e.kind == .phase && (s.siblings e).any fun m => decide (m.index < e.index) && m.ended && !m.good) ||
   (e.kind == .launch && e.grid.deps.any fun d => decide (d < e.index) && ((s.siblings e)[d]?).any fun m => m.ended && !m.good))

/-- Whether a container that never ran still has members to report (R357). -/
def Entity.unread (e : Entity) : Bool :=
  !e.expanded && (e.kind == .job || e.kind == .phase || e.kind == .graph) && e.bad.isNone && e.verdict.any fun v => v.1 == 2 || v.1 == 3

/-- Whether an entity's work is over, so that its state may be reported (R355, R357). -/
def State.over (s : State) (id : Nat) (e : Entity) : Bool :=
  match e.kind with
  | .launch | .child =>
    !(s.blocks.any fun b => b.2.launch == id) && s.passed e.ct.1 && s.passed e.ct.2.1 &&
      (e.verdict.isSome || (e.started && e.placed == e.grid.blocks && e.done == e.grid.blocks))
  | _ =>
    if e.verdict.any (·.1 == 4) ∨ (e.verdict.isSome && e.bad.isSome && !e.expanded) then true
    else e.expanded && (e.members.all fun m => (s.entities.get? m).all (·.ended)) &&
      !(s.entities.any fun x => x.2.kind == .child && x.2.parent == some id && !x.2.ended)

/-- The state and detail that an entity reports (R353, R357). -/
def State.report (s : State) (e : Entity) : Nat × Nat :=
  match e.verdict with
  | some v => v
  | none => ((e.members.filterMap s.entities.get?).find? fun m => m.final.1 != 1).elim (1, 0) Entity.final

/-- The status word of an entity is written, or a telemetry event says that it cannot be (R349). -/
def State.writeStatus (s : State) (e : Entity) (v : Nat × Nat) : State :=
  if e.noStatus then (if e.kind = .job then s.telemetry 1 e.queue else s)
  else match s.wrVa e.ctx false e.status 4 (v.1 + 256 * v.2) with
    | some s => s
    | none => s.telemetry 1 e.queue

/-- ENTITY_END (R354, R357, R360): an entity that never starts takes its state and its members' records are read; one whose
work is over ends, and its status word is written. -/
def State.entityEnd (s : State) (id : Nat) : State :=
  match s.entities.get? id with
  | none => s
  | some e =>
    if e.ended then s
    else if s.doomed e then s.updEntity id fun e => { e with verdict := some (2, 1) }
    else if e.unread then s.expand id
    else if s.over id e then
      let v := s.report e
      (s.writeStatus e v).updEntity id fun e => { e with ended := true, verdict := some v, gcount := none, gwait := false }
    else s

/-- JOB_END (R348, R358): the job has ended; rptr rises, and the queue is examined. -/
def State.jobEndDue (s : State) (q : Nat) : Bool := ((s.queues.get? q).bind (·.job)).any fun j => (s.entities.get? j).all (·.ended)

/-- JOB_END -/
def State.jobEnd (s : State) (q : Nat) : State :=
  match s.queues.get? q with
  | none => s
  | some x =>
    match x.job with
    | none => s
    | some j =>
      if !s.jobEndDue q then s
      else
        let gone := s.under j
        let s := { s with entities := s.entities.keep fun k _ => !gone.contains k }
        let rp := (x.rptr + 1) % 2 ^ 32
        let s := { s with queues := s.queues.set q { x with job := none, rptr := rp } }
        let s := s.updCtx x.ctx fun c => { c with used := s.gnomon }
        match s.wrVa x.ctx true x.rptrVa 4 rp with
        | some s => s.examine q
        | none =>
          let s := s.examine q
          if (s.queues.get? q).any (·.bad) then s else s.queueError q

/-! ### The instructions of R369 -/

/-- The effect of `launch` (R370). -/
def launchEff (d : BitVec 3) (a : BitVec 4) (b : BitVec 8) (c : Iss) (s : State) : Eff :=
  let va := (c.g.areg a).toNat
  if c.act = 0 then .ok (s.setGroup c.gid c.g) []
  else if va % 64 ≠ 0 then .trap (formatTrap c 3 c.word)
  else
    let (s, id) := s.addOp { c.op (.launch d.toNat va) none with
      vals := (laneList c.act).map fun l => (l.val, (c.g.vpair b l).toNat), writes := { p := [d.toNat] } }
    .ok (s.setGroup c.gid (c.release 3 (.launch id))) []

/-- A child launch of lane l is created, or not (R370): whether it was. -/
def State.createChild (s : State) (launch : Nat) (tmpl paddr : Nat) : State × Bool :=
  match s.entities.get? launch with
  | none => (s, false)
  | some e =>
    let mine := (s.entities.filter fun x => x.2.kind == .child && x.2.ctx == e.ctx && !x.2.ended).length
    if paddr % 4 ≠ 0 ∨ !s.counterFree 1 ∨ 65536 ≤ mine then (s, false)
    else
      ((s.addEntity { kind := .child, queue := e.queue, ctx := e.ctx, parent := e.parent, creator := some launch, rcd := tmpl
                      status := paddr, grid := { params := paddr } }).1, true)

/-- After the release of a `launch`: the children of its lanes, and p[D] (R370). -/
def State.createChildren (s : State) (id : Nat) : State :=
  match s.ops.get? id with
  | none => s
  | some o =>
    match o.kind with
    | .launch d tmpl =>
      let launch := ((s.groups.get? o.g).map s.launchOf).getD 0
      let (s, m) := (laneList o.act).foldl (fun (s, m) l =>
        let (s, ok) := s.createChild launch tmpl (o.vals.getD l.val 0)
        (s, if ok then m ||| (1#16 <<< l.val) else m)) (s, (0 : Mask))
      (s.updGroup o.g fun g => g.deliver id [262] fun g => g.setPLanes (BitVec.ofNat 3 d) o.act m).finishOp id
    | _ => s

/-- The value that `rdparam` reads (R372). -/
def State.param (s : State) (g : Group) (code : Nat) : Nat :=
  match s.blocks.get? g.block with
  | none => 0
  | some b =>
    let e := (s.entities.get? b.launch).getD { kind := .launch, queue := 0, ctx := 0, rcd := 0 }
    let graph := e.parent.bind s.entities.get?
    let pixel := g.pixel.isSome
    match code with
    | 0 => if pixel then 0 else b.idx % e.grid.gx
    | 1 => if pixel then 0 else b.idx / e.grid.gx % e.grid.gy
    | 2 => if pixel then 0 else b.idx / (e.grid.gx * e.grid.gy)
    | 3 => if pixel then 1 else e.grid.gx
    | 4 => if pixel then 1 else e.grid.gy
    | 5 => if pixel then 1 else e.grid.gz
    | 6 => g.idx
    | 7 => b.ngroups
    | 8 => s.memberOf g
    | 9 => if pixel then 1 else e.desc.members
    | 10 => e.grid.seed.toNat % 2 ^ 32
    | 11 => e.grid.seed.toNat / 2 ^ 32
    | 12 => ((graph.bind fun x => x.parent.bind s.entities.get?).map (·.index)).getD 0
    | 13 => (graph.map (·.index)).getD 0
    | 14 => if e.kind = .child then 0xFFFFFFFF else e.index
    | 15 => e.status % 2 ^ 32
    | 16 => e.status / 2 ^ 32
    | _ => 0

/-- The effect of `rdparam` (R372). -/
def rdparamEff (d a : BitVec 6) (c : Iss) (s : State) : Eff :=
  .ok (s.setGroup c.gid (if c.act = 0 then c.g else c.g.setS d (BitVec.ofNat 32 (s.param c.g (c.g.sreg a).toNat)))) []

/-- The entities that `cncl` finds (R374). -/
def State.named (s : State) (ctx status : Nat) : List Nat :=
  (s.entities.filter fun e => e.2.ctx == ctx && e.2.started && !e.2.ended && !e.2.noStatus && e.2.status == status).map (·.1)

/-- The effect of `cncl` (R374, R360). -/
def cnclEff (d : BitVec 6) (a : BitVec 4) (c : Iss) (s : State) : Eff :=
  if c.act = 0 then .ok (s.setGroup c.gid c.g) []
  else
    let l := s.named c.g.ctx (c.g.areg a).toNat
    let s := s.setGroup c.gid (c.g.setS d (if l.isEmpty then 0 else 1))
    .ok (l.foldl (fun s e => s.cancel e [e] 2 0) s) []

/-! ### The instructions -/

/-- launch (15 R369, R370): a sink -/
def execLaunch (d : BitVec 3) (a : BitVec 4) (b : BitVec 8) (s : State) : Host.Outcome State Fault Refusal :=
  issue (W.launch d a b) { vr := [b.toNat, b.toNat + 1], ar := [a.toNat], later := { p := [d.toNat] }, pairs := [b.toNat], sink := true, ownPoison := true } (launchEff d a b) s

/-- rdparam (15 R372) -/
def execRdparam (d : BitVec 6) (a : BitVec 6) (s : State) : Host.Outcome State Fault Refusal :=
  issue (W.rdparam d a) { sr := [a.toNat], sw := [d.toNat], uniform := true } (rdparamEff d a) s

/-- cncl (15 R374, R360): a sink -/
def execCncl (d : BitVec 6) (a : BitVec 4) (s : State) : Host.Outcome State Fault Refusal :=
  issue (W.cncl d a) { ar := [a.toNat], sw := [d.toNat], uniform := true, sink := true } (cnclEff d a) s

/-- WPTR_WAKE (15 R348) -/
def execWptrWake (queue : Nat) (s : State) : Host.Outcome State Fault Refusal :=
  .next (s.wptrWake queue)

/-- JOB_START (15 R354; 16 R377) -/
def execJobStart (queue : Nat) (s : State) : Host.Outcome State Fault Refusal :=
  .next (s.jobStart queue)

/-- PHASE_START (15 R354) -/
def execPhaseStart (entity : Nat) (s : State) : Host.Outcome State Fault Refusal :=
  .next (s.phaseStart entity)

/-- GRAPH_START (15 R354, R363) -/
def execGraphStart (entity : Nat) (s : State) : Host.Outcome State Fault Refusal :=
  .next (s.graphStart entity)

/-- NOT_BEFORE_PASS (15 R350) -/
def execNotBeforePass (entity : Nat) (s : State) : Host.Outcome State Fault Refusal :=
  .next (s.nbStep entity)

/-- LAUNCH_READY (15 R354) -/
def execLaunchReady (entity : Nat) (s : State) : Host.Outcome State Fault Refusal :=
  .next (s.launchReady entity)

/-- LAUNCH_AGING (15 R364) -/
def execLaunchAging (entity : Nat) (s : State) : Host.Outcome State Fault Refusal :=
  .next (s.agingStep entity)

/-- AGGREGATOR_DISPATCH (15 R371) -/
def execAggregatorDispatch (entity : Nat) (s : State) : Host.Outcome State Fault Refusal :=
  .next (s.aggregate entity)

/-- BLOCK_PLACE (15 R365) -/
def execBlockPlace (entity : Nat) (core : Nat) (s : State) : Host.Outcome State Fault Refusal :=
  .next (s.placeBlock entity core)

/-- PREEMPT_BLOCK (15 R366) -/
def execPreemptBlock (blk : Nat) (s : State) : Host.Outcome State Fault Refusal :=
  .next (s.preemptBlock blk)

/-- BLOCK_COMPLETE (15 R355) -/
def execBlockComplete (blk : Nat) (s : State) : Host.Outcome State Fault Refusal :=
  .next (s.blockComplete blk)

/-- ENTITY_END (15 R357) -/
def execEntityEnd (entity : Nat) (s : State) : Host.Outcome State Fault Refusal :=
  .next (s.entityEnd entity)

/-- JOB_END (15 R358) -/
def execJobEnd (queue : Nat) (s : State) : Host.Outcome State Fault Refusal :=
  .next (s.jobEnd queue)

end Sys2Proof.Machine
end

