-- ==== Sys2Proof/Machine/Contexts.lean ====
section
/-! DEFINITION. Replies to fault records, roll-back and replay, saving and resuming groups and blocks, lines fetched on
demand, and the return of instruction fetches (16 R385, R390 to R396, R398, R402, R403; 01 R30; 02 R45). -/

namespace Sys2Proof.Machine

/-! ### Replies (16 R385, R391, R392) -/

/-- The oldest record of a context that fdone has passed and the command processor has not acted on: its index. -/
def State.replyDue (s : State) (ctx : Nat) : Option Nat :=
  let c := s.ctx ctx
  if (s.ctxs.get? ctx).isSome && ((s.homeRead c.fdone 4 != c.fseen) != s.taps c.fdone 4) && c.fseen != c.fnext then some c.fseen else none

/-- A context fault of a launch with no group concerned (16 R398): a fault on an image line or a block frame. -/
def State.faultLaunch (s : State) (launch cause va : Nat) : State :=
  match s.entities.get? launch with
  | none => s
  | some e =>
    let (s, _) := s.postFault e.ctx { id := 0, va := va, kind := 4, src := 3, detail := cause }
    let j := s.jobOf 5 launch
    s.cancel j [j, launch] 3 cause

/-- The launch that an image page belongs to: of a block with an image there, or the one being placed. -/
def State.imageOwner (s : State) (ctx va : Nat) : Option Nat :=
  let c := s.ctx ctx
  match s.blocks.find? fun b => b.2.ctx == ctx && b.2.granules.any fun g => c.granuleVa g / 65536 == va / 65536 with
  | some b => some b.2.launch
  | none => (s.placeOrder.find? fun x => x.2.ctx == ctx).map (·.1)

/-- The copies of a context that are parked behind a record. -/
def State.parkedCopies (s : State) (id : Nat) : List (Nat × Op) :=
  s.ops.filter fun o => o.2.phase == 2 && o.2.aged == id && !o.2.finished && (match o.2.kind with | .copy _ => true | _ => false)

/-- The groups that wait for a record. -/
def State.waitersOf (s : State) (id : Nat) : List (Nat × Group) := s.groups.filter fun g => g.2.posted.contains id

/-- The PC of the instruction whose fault a group of a compatibility context waits for (16 R384): of its oldest sampler or ray
operation in flight, else of the path that issued last. -/
def State.parkedPc (s : State) (gid : Nat) (g : Group) : Nat :=
  match s.ops.find? fun o => o.2.g == gid && !o.2.finished && (o.2.cls == some 3 || o.2.cls == some 4) with
  | some o => o.2.pc.toNat
  | none => (g.entryAt g.lastPath).pc.toNat

/-- A group's answer: the record is answered, well or not; a service call goes on, or gives a double trap (R402). -/
def State.answerGroup (s : State) (r : FaultRec) (fail : Bool) (gid : Nat) (g : Group) : State :=
  let s := s.setGroup gid { g with posted := g.posted.erase r.id, failed := g.failed || fail }
  match g.mode with
  | .service _ => if fail then s.contextFault gid 0x13 0 r.va else s.updGroup gid fun g => { g with mode := .run, failed := false }
  | .run => if fail && !s.native g then s.contextFault gid 0x30 0 (s.parkedPc gid g) else s
  | _ => s

/-- Accesses parked on a record's page in compatibility mode (R392). -/
def Access.parkedAt (a : Access) (r : FaultRec) : Bool := a.st == .parked && a.va / 65536 == r.va / 65536

/-- A parked access that goes on: it translates again, but for one that an instruction parked before it issues (State.parkFirst). -/
def Op.unpark (o : Op) (a : Access) : Access := { a with st := if o.kind == .pref then .skip else .walk }

/-- Parked accesses translate again, to be performed in issue order; those that fault again park behind a new record. -/
def State.retryParked (s : State) (ctx : Nat) (r : FaultRec) : State :=
  let again (o : Op) (a : Access) : Access := if a.parkedAt r then o.unpark { a with retried := true } else a
  { s with ops := s.ops.mapVals fun _ o => if o.ctx = ctx then { o with accs := o.accs.map (again o) } else o }

/-- Parked accesses of a failed record: the context fault of their groups, one for each group, at its oldest instruction that
waits on the record (R392); the other accesses of the context that are parked behind, of other groups or kinds, translate
again. -/
def State.failParked (s : State) (ctx : Nat) (r : FaultRec) : State :=
  let hit (o : Op) : Bool := o.ctx == ctx && o.accs.any fun a => a.parkedAt r && a.ask.kind == r.kind
  let gs := (s.ops.filter fun o => hit o.2).foldl (fun (l : List (Nat × Nat)) o =>
    if l.any (·.1 == o.2.g) then l else l ++ [(o.2.g, o.2.pc.toNat)]) []
  let drop (o : Op) (a : Access) : Access := if !a.parkedAt r then a
    else if gs.any (·.1 == o.g) then { a with st := .skip } else o.unpark a
  let s := { s with ops := s.ops.mapVals fun _ o => if o.ctx = ctx then { o with accs := o.accs.map (drop o) } else o }
  gs.foldl (fun s g => s.contextFault g.1 0x30 0 g.2) s

/-- The command processor acts on the reply to a record. -/
def State.actReply (s : State) (ctx : Nat) (r : FaultRec) (fail : Bool) : State :=
  let copies := s.parkedCopies r.id
  let groups := s.waitersOf r.id
  let s := if fail then s else s.dropTlb 0 ctx r.va
  let s := copies.foldl (fun s o => if fail then s.copyFail o.1 o.2 else s.updOp o.1 fun o => { o with phase := 1 }) s
  let s := s.stampReply r.id fail
  let s := groups.foldl (fun s g => s.answerGroup r fail g.1 g.2) s
  let s := if fail then s.failParked ctx r else s.retryParked ctx r
  if fail && r.src == 3 then
    match s.imageOwner ctx r.va with
    | some l => s.faultLaunch l 0x30 0
    | none => s
  else s

/-- FAULT_REPLY (R385): one record in ring order; a reply field still 0 is taken as retry (log 14). -/
def State.faultReply (s : State) (ctx : Nat) : State :=
  match s.replyDue ctx with
  | none => s
  | some i =>
    let at_ := (s.ctx ctx).ringAt i + 16
    let fails := decide (2 ≤ s.homeRead at_ 1 % 4) != s.taps at_ 1
    let r := (s.ctx ctx).recs.find? fun r => r.idx == some i
    let s := s.updCtx ctx fun c => { c with
      fseen := (c.fseen + 1) % 2 ^ 32
      recs := c.recs.filter fun r => r.idx != some i }
    let s := match r with
      | some r => if r.kind = 4 ∨ r.kind = 6 then s else s.actReply ctx r fails
      | none => s
    s.placeWaiting ctx (s.ctx ctx).recs.length

/-! ### Roll-back and replay (R390) -/

/-- Whether every load, sampler, ray and atomic operation that a group issued after its replay point has returned (R390
step 1). -/
def State.returned (s : State) (gid : Nat) (g : Group) : Bool :=
  s.ops.all fun o => o.2.g != gid || decide (o.1 < g.replayMark) || o.2.finished ||
    !((o.2.cls == some 0 || o.2.cls == some 3 || o.2.cls == some 4))

/-- The group with no evaluation of a watch predicate done: a replayed instruction is evaluated again (19 R437). -/
def Group.unseen (g : Group) : Group := { g with paths := Vector.ofFn fun i => { g.paths[i] with seen := false } }

/-- The group rolled back to its replay point (R390 step 2): journaled lines restored, the stores queued since then
discarded and withdrawn from ST, and what an `accld` issued since then reads discarded (10 R277). -/
def State.rollBack (s : State) (gid : Nat) (g : Group) : State :=
  let gone := g.ssq.filter fun id => decide (g.replayMark ≤ id)
  let h := (g.journal.foldl (fun g j => g.restoreLine j) g).unseen
  let h := gone.foldl (fun h _ => h.lowerCnt 1) h
  let undone (id : Nat) (o : Op) : Bool := decide (g.replayMark ≤ id) && o.g == gid && !o.finished &&
    (match o.kind with | .accld .. => true | _ => false)
  let discard (id : Nat) (o : Op) : Op := if undone id o then { o with writes := {}, phase := 9 } else o
  let s := { s with ops := (s.ops.keep fun id _ => !gone.contains id).mapVals discard }
  s.setGroup gid { h with journal := [], ssq := g.ssq.filter fun id => !gone.contains id, replayMark := s.nextOp,
                          keptB := none, trap := { h.trap with flm := g.trap.flm }, stepBack := false
                          step := if g.stepBack then g.step.map fun x => (x.1, none) else g.step }

/-- The group replays (R390 steps 4, 5). -/
def Group.replay (g : Group) : Group :=
  { g with mode := .run, pend := [], posted := [], precise := g.failed, failed := false, lastPath := 0 }

/-- The stop of a group with a pending fault (R390 steps 2 and 3): rolled back, its records posted. -/
def State.stopForFaults (s : State) (gid : Nat) (g : Group) : State :=
  let s := s.rollBack gid g
  let (s, rs) := s.postPend g.ctx (g.pend.filter (!·.data))
  s.updGroup gid fun h => { h with mode := .faulted, posted := rs, failed := g.pend.any (·.data) }

/-- A trap that no instruction's checks raise: a deferred error that waits comes first, and what raised the trap is met again after the
handler (16 R487). -/
def State.trapOrDeferred (s : State) (gid : Nat) (pc : DWord) (live : Mask) (t : Trap) : State :=
  match (s.groups.get? gid).bind (·.deferred) with
  | some d => s.takeDeferred gid pc live d
  | none => s.takeTrap gid pc live t

/-- The trap of a fetch or record read whose record was answered with fail (R391). -/
def fetchTrap (addr detail : Nat) (isRec : Bool) (word : Word) (lanes : Mask) : Trap :=
  { cause := 0x30, detail := if isRec then detail else 4, val := word, lanes := lanes, addr := some (BitVec.ofNat 64 addr) }

/-- The entries of a queue that are older than the replay point translate again as the group replays, since no instruction does it for
them (R396; log 178). -/
def State.rewalk (s : State) (g : Group) : State :=
  g.ssq.foldl (fun s id => s.updOp id fun o => { o with
    accs := o.accs.map fun a => if a.st = .fault then { a with st := .walk } else a }) s

/-- GROUP_REPLAY (R390, R391): a settling group is rolled back and stops for fault; one whose records are all answered
replays. -/
def State.groupReplay (s : State) (gid : Nat) : State :=
  match s.groups.get? gid with
  | none => s
  | some g =>
    match g.mode with
    | .settle => if s.settled gid && s.returned gid g then s.stopForFaults gid g else s
    | .faulted => if g.posted.isEmpty ∧ g.home = .resident then (s.rewalk g).setGroup gid g.replay else s
    | .fetch q addr detail isRec word lanes =>
      if g.posted.isEmpty ∧ g.home = .resident then
        let h := { g with mode := .run, failed := false }
        if g.failed then
          let e := g.entryAt q
          (s.setGroup gid h).trapOrDeferred gid e.pc (g.liveOf e.mask) (fetchTrap addr detail isRec word lanes)
        else s.setGroup gid h
      else s
    | _ => s

/-! ### Saving (R393 to R395) -/

/-- Whether what a group issued is over for its save (R393 step 2): a copy has been accepted (01 R15); a token request is
withdrawn. -/
def State.saveQuiet (s : State) (gid : Nat) (g : Group) : Bool :=
  g.order.isNone && (s.tlbis.get? gid).isNone &&
  s.ops.all fun o => o.2.g != gid || o.2.finished || (match o.2.cls, o.2.kind with
    | some 0, _ | some 3, _ | some 4, _ => false
    | some 5, .accq _ => true
    | some 5, _ => false
    | _, .launch .. | _, .mwait .. => decide (o.2.phase == 1)
    | _, .copy _ => o.2.phase != 0
    | _, _ => true)

/-- A lane of an operation's accesses: the first of that lane. -/
def Op.laneAcc (o : Op) (l : Nat) : Option Access := o.accs.find? (·.lane == l)

/-- The 256 bytes of an entry of the speculative store queue: of each lane of an `st`, its ea and the words of its source registers;
of an `sts` or `rtw`, the address and the data of the lane's access (07 R168; the layout of an entry is the model's, log 31). -/
def Op.queueEntry (o : Op) : Nat :=
  packBits ((List.range 16).flatMap fun l => match o.form, o.laneAcc l with
    | some _, _ => [(64, o.vals.getD l 0), (64, o.src.getD l 0)]
    | none, some a => [(64, a.va), (64, a.data)]
    | none, none => [(64, 0), (64, 0)])

/-- An access that is translated again. -/
def Access.again (a : Access) : Access := if a.st == .ready ∨ a.st == .fault then { a with st := .walk } else a

/-- An operation with its entry read back: the accesses are translated again (R396); those of a lane whose bytes were rewritten are
formed anew from what the entry now says. -/
def Op.setEntry (o : Op) (x core : Nat) : Op :=
  let old := o.queueEntry
  let ea (l : Nat) : Nat := bits x (128 * l + 63) (128 * l)
  let word (l : Nat) : Nat := bits x (128 * l + 127) (128 * l + 64)
  let same (l : Nat) : Bool := bits x (128 * l + 127) (128 * l) == bits old (128 * l + 127) (128 * l)
  let put (a : Access) : Access :=
    if same a.lane then a.again
    else { a.again with va := ea a.lane, data := word a.lane % 2 ^ (8 * a.len) }
  let lane (l : Nat) : List Access := match o.form with
    | some (r, md) => if same l then (o.accs.filter (·.lane == l)).map Access.again
        else if (o.vals.get? l).isSome then r.storeLane md l (ea l) (o.draws.getD l []) (word l) else []
    | none => (o.accs.filter (·.lane == l)).map put
  { o with
    core := core
    accs := (List.range 16).flatMap lane
    vals := if o.form.isSome then o.vals.mapVals (fun l _ => ea l) else o.vals
    src := o.src.mapVals fun l _ => word l }

/-- Line k of a group's image, the queue's lines among them (07 R168). -/
def State.imageLine (s : State) (g : Group) (k : Nat) : Line :=
  if 384 ≤ k ∧ k < 416 then
    match (g.ssq[(k - 384) / 4]?).bind s.ops.get? with
    | some o => lineOf o.queueEntry ((k - 384) % 4)
    | none => 0
  else g.line k

/-- Lines written to an image in memory. -/
def State.writeLines (s : State) (g : Group) (pa : Nat) : List Nat → State
  | [] => s
  | k :: l => (s.wrImage (pa + 64 * k) 64 (s.imageLine g k).toNat).writeLines g pa l

/-- The save of a group whose operations are over (R393 steps 4, 5): lines 256 to 415 of its image are written, and its vector
lines stay held by the core until they are evicted or taken; the pins, the kept-B record and the
pending token requests go (10 R266, R276; 11 R300; log 146). -/
def State.saveGroup (s : State) (gid : Nat) (g : Group) : State :=
  let rib := g.rib.toNat
  match s.imagePa g.ctx rib .write with
  | .error d => s.imageFault g.ctx rib 1 d
  | .ok pa =>
    let s := { s with groups := s.groups.set gid { g with home := .saved } }
    let s := s.writeLines g pa ((List.range 160).map (· + 256))
    let s := s.updCore g.core fun c => { c with wcache := c.wcache.map fun w => { w with pins := w.pins.filter (· != gid) } }
    let left := (List.range (16 * g.valloc)).filter fun n => g.present.getLsbD n
    (s.setGroup gid { g with home := .saved, ribPa := pa, present := 0, keptB := none
                             former := left.foldl (fun m n => m.set n g.core) g.former }).withdraw gid

/-- Whether a group leaves its core so that a `grow` there is met in finite time (07 R175; log 148): the oldest `grow`, another
group's, finds no room, and either no group of the core can run, or it has waited for 65,536 issues and no group there is being
saved yet. -/
def State.givesWay (s : State) (gid : Nat) (g : Group) : Bool :=
  g.home == .resident && g.mode == .run && g.order.isNone &&
  match s.oldestGrow g.core with
  | none => false
  | some (at_, owner, _, _) =>
    let idle := s.groups.all fun e => !e.2.inCore g.core ||
      e.2.home != .resident || e.2.mode != .run || e.2.paths.toList.all fun p => p.kind != .path || p.hold != .none || e.2.liveOf p.mask == 0
    let late := decide (at_ + 65536 ≤ s.issues) && s.groups.all fun e => !e.2.inCore g.core || e.2.home != .saving
    owner != gid && !s.growFits g.core && (idle || late)

/-- GROUP_SAVE (R393): the next step of a group's save. -/
def State.groupSave (s : State) (gid : Nat) : State :=
  match s.groups.get? gid with
  | none => s
  | some g =>
    if s.givesWay gid g then s.setGroup gid { g with home := .saving }
    else if g.home ≠ .saving ∨ g.mode = .settle ∨ g.mode = .ended then s
    else if g.mode = .run ∧ s.native g ∧ !s.settled gid then s
    else if g.mode = .run ∧ s.native g ∧ s.pending gid g then s.setGroup gid g.stopForFault
    else if s.saveQuiet gid g then s.saveGroup gid g
    else s

/-- Whether every group of a block that has not ended is saved. -/
def State.allSaved (s : State) (b : Block) : Bool :=
  b.groups.any (fun g => !b.ended.contains g) && b.groups.all fun g => b.ended.contains g || ((s.groups.get? g).any fun x => x.home == .saved)

/-- A token-table entry (10 R253). -/
def tokenEntry (holder : Option Nat) : Nat := match holder with | some g => 0x8000 + g % 2048 | none => 0
/-- A group-table entry. -/
def groupEntry (g : Group) : Nat := match g.qtile with | some t => 256 * t + 0x80 + g.mprio | none => g.mprio

/-- The control area of a member as its block is saved (10 R253, R255); an entry of no group keeps the launch's priority. -/
def State.controlOf (s : State) (b : Block) (m : Nat) : Nat :=
  let prio := if b.pixelOf.isSome then 0 else ((s.entities.get? b.launch).map (·.grid.mprio)).getD 0
  packBits (((List.range 256).map fun t => (16, tokenEntry (b.tokens.get? (256 * m + t)))) ++
    ((List.range 2048).map fun i => (16, ((b.groups[i]?).bind s.groups.get?).elim prio groupEntry)))

/-- Whether a block has accumulator images: a pixel group's has none (13 R332). -/
def Block.hasImage (b : Block) : Bool := b.pixelOf.isNone

/-- The tile lines present and the control area of a member written to its accumulator image. -/
def State.saveTiles (s : State) (b : Block) (m : Nat) : State :=
  let n := (s.blockDesc b).acc
  if !b.hasImage then s
  else match s.imageSpans b.ctx (b.aibs.getD m 0 + 1024 * n) 4608 .write with
    | .error _ => s
    | .ok l =>
      let s := (b.tiles.filter fun t => t.1 / 4096 == m).foldl (fun s t =>
        let s := s.wrMem (64 * t.2.half) 64 t.2.data.toNat
        (if t.2.poison = 0 then s.clearPoison [t.2.half] else s.addPoison [t.2.half] 2).wakeMonitors [(64 * t.2.half, 64)]) s
      s.wrSpans l (s.controlOf b m)

/-- The 112 bytes of a triangle of the raster queue in a block frame (13 R333; the layout is the model's, log 96): submission index,
payload, next stamp, pass, the nine coordinates, the raster state record and its address, the pixel and the coverage of the stamp so
far, whether its tests are done, the level. -/
def Tri.image (t : Tri) : Nat :=
  packBits ([(32, t.sub), (32, t.payload.toNat), (32, t.stamp), (32, t.pass)] ++ ((List.range 9).map fun k => (32, t.verts.getD k 0)) ++
    [(352, t.rs), (64, t.rsVa), (8, t.pix), (16, t.cover.toNat), (1, if t.begun then 1 else 0), (1, if t.sup then 1 else 0)])

/-- A triangle with what its bytes in a block frame say. -/
def Tri.ofImage (t : Tri) (x : Nat) : Tri :=
  { t with
    sub := bits x 31 0
    payload := BitVec.ofNat 32 (x >>> 32)
    stamp := bits x 95 64
    pass := bits x 127 96
    verts := (List.range 9).map fun k => bits x (128 + 32 * k + 31) (128 + 32 * k)
    rs := bits x 767 416
    rsVa := bits x 831 768
    pix := bits x 839 832
    cover := BitVec.ofNat 16 (x >>> 840)
    begun := x.testBit 856
    sup := x.testBit 857 }

/-- The bytes of a block frame that its granules leave beyond the scratchpad of one member: 256 triangles (16 R397; 13 R331). -/
def frameTris : Nat := 256

/-- The bytes of a block frame after its tag that are not 0, by offset (R395; the layout is the model's, log 96): the barriers
from byte 64, the scratchpad of member 0 from byte 4,096, the triangles of the raster queue after it. -/
def Block.frameCells (b : Block) (tris : List Tri) : List Host.Cell :=
  let bars := packBits (b.bars.toList.flatMap fun x => [(32, x.gen), (16, x.count), (16, x.expected)])
  memWriteN [] 64 128 bars ++ ((b.scratch.filter fun c => decide (c.1 < 2 ^ 20)).map fun c => (c.1 + 4096, c.2)) ++
    ((tris.take frameTris).zipIdx).flatMap fun t => memWriteN [] (4096 + b.ssize + 112 * t.2) 112 t.1.image

/-- The bytes of a block frame. -/
def Block.frameSize (b : Block) : Nat := 4096 + b.ssize + 112 * frameTris

/-- What the model keeps of a triangle beside the frame, as bytes of 64 bits each: the groups and records of the device that it refers
to. -/
def Tri.bytes (t : Tri) : List Byte := [t.block, t.g, (t.park.map (· + 1)).getD 0].flatMap (bytesOf 8)

/-- The integrity tag over a block's frame and over what the model keeps beside it, the scratchpads of a gang's other members, for
which R397 gives the frame no room, and what the triangles refer to (R395): a free function of them. -/
def Block.tag (b : Block) (cells : List Host.Cell) (tris : List Tri) : Nat :=
  let bytes (l : List Host.Cell) : List Byte := l.flatMap fun c => bytesOf 4 c.1 ++ [c.2]
  Config.frameTag (bytes cells ++ bytes (b.scratch.filter fun c => decide (2 ^ 20 ≤ c.1)) ++ tris.flatMap Tri.bytes) % 2 ^ 64

/-- The listed bytes of a frame's parts, by offset. -/
def State.spanCells (s : State) (l : List (Nat × Nat × Nat)) : List Host.Cell :=
  l.flatMap fun x => (s.mem.filter fun c => decide (x.1 ≤ c.1 ∧ c.1 < x.1 + x.2.2)).map fun c => (c.1 - x.1 + x.2.1, c.2)

/-- A frame's parts written with some bytes, the others 0. -/
def State.wrCells (s : State) (l : List (Nat × Nat × Nat)) (cells : List Host.Cell) : State :=
  l.foldl (fun s x =>
    let mem := s.mem.filter fun c => decide (c.1 < x.1 ∨ x.1 + x.2.2 ≤ c.1)
    let mine := cells.filter fun c => decide (x.2.1 ≤ c.1 ∧ c.1 < x.2.1 + x.2.2)
    (({ s with mem := mine.foldl (fun m c => memWrite m (c.1 - x.2.1 + x.1) c.2) mem } : State).clearPoison
      (wholeHalves x.1 x.2.2)).wakeMonitors [(x.1, x.2.2)]) s

/-- The parts of a block's images that its save writes and its return reads: its frame, and its members' accumulator images
(10 R255, R276). -/
def State.blockImages (s : State) (b : Block) : List (Nat × Nat) :=
  (b.frame, b.frameSize) :: if b.hasImage then b.aibs.map fun a => (a, 1024 * (s.blockDesc b).acc + 4608) else []

/-- The first page of a block's images that is refused, with the detail. -/
def State.blockRefused (s : State) (b : Block) (ask : Ask) : Option (Nat × Nat) :=
  (s.blockImages b).findSome? fun x => match s.imageSpans b.ctx x.1 x.2 ask with
    | .error e => some e
    | .ok _ => none

/-- Whether a copy of a block still reads or writes its scratchpad (`cpr`). -/
def State.scratchCopies (s : State) (b : Block) : Bool :=
  s.ops.any fun o => !o.2.finished && b.groups.contains o.2.g && (match o.2.kind with | .copy x => x.form == 3 | _ => false)

/-- The block frame is written and the block leaves its cores (R393, R395; 13 R333; 10 R276); where an image is refused, the
block waits for the answer. -/
def State.leaveCores (s : State) (bid : Nat) (b : Block) : State :=
  match s.blockRefused b .write, s.imageSpans b.ctx b.frame b.frameSize .write with
  | some (va, d), _ => s.imageFault b.ctx va 1 d
  | none, .error (va, d) => s.imageFault b.ctx va 1 d
  | none, .ok l =>
    let s := (List.range b.cores.length).foldl (fun s m => s.saveTiles b m) s
    let tris := (s.cores.toList.flatMap fun c => c.raster.filter (·.block == bid)) ++ b.tris
    let s := s.updCores fun _ c => { c with raster := c.raster.filter (·.block != bid) }
    let cells := b.frameCells tris
    let s := s.wrCells l (memWriteN cells 0 8 (b.tag cells tris))
    (s.leaveScratch bid).updBlock bid fun b => { b with cores := [], tiles := [], tilePas := [], tokens := [], tris := tris, preempt := false }

/-- Whether a saved block may be reported saved (R394). -/
def State.reportable (s : State) (b : Block) : Bool :=
  s.passed b.ct.1 && s.passed b.ct.2.1 && b.groups.all fun g =>
    ((s.groups.get? g).all fun x => s.passed x.wmax.1 && s.passed x.wmax.2.1) &&
    s.ops.all fun o => o.2.g != g || o.2.finished || o.2.queued || (match o.2.kind with | .mwait .. => true | _ => false)

/-- BLOCK_SAVED (R393, R394): the frame is written, then the block is reported saved. -/
def State.blockSaved (s : State) (bid : Nat) : State :=
  match s.blocks.get? bid with
  | none => s
  | some b =>
    if !s.allSaved b ∨ b.reported then s
    else if !b.cores.isEmpty then (if s.scratchCopies b then s else s.leaveCores bid b)
    else if s.reportable b then s.updBlock bid fun b => { b with reported := true }
    else s

/-! ### Resuming (R396; 03 R69; 10 R276) -/

/-- Whether a group may be resumed: saved, awake, its records answered, its context not held (R396, R403; 22 R482). -/
def State.resumable (s : State) (g : Group) : Bool :=
  g.home == .saved && g.mode != .ended && g.mode != .dead && g.posted.isEmpty && g.wake == 0 && !(s.ctx g.ctx).hold &&
  !s.stampWaits g.ctx

/-- The groups that a block's image lists as waiting for tokens are read back, with the tokens (10 R255, R276). -/
def State.readControl (s : State) (bid : Nat) (b : Block) (m x : Nat) : State :=
  let at_ (k : Nat) : Nat := x >>> (16 * k) % 2 ^ 16
  let s := s.updBlock bid fun b => { b with tokens := (List.range 256).foldl (fun t k =>
    if 0x8000 ≤ at_ k then t.set (256 * m + k) (at_ k % 2048) else t) b.tokens }
  (List.range b.groups.length).foldl (fun s i =>
    if i / 256 ≠ m then s
    else match b.groups[i]? with
      | some g => s.updGroup g fun g => { g with
          mprio := at_ (256 + i) % 4
          qtile := if (at_ (256 + i)).testBit 7 then some (at_ (256 + i) / 256) else none }
      | none => s) s

/-- A block with what its frame holds: scratchpad of member 0, barriers and raster queue (R395; 13 R333). -/
def Block.ofFrame (b : Block) (cells : List Host.Cell) : Block :=
  let x := memReadN cells 64 128
  { b with
    tris := b.tris.mapIdx fun i t => if i < frameTris then t.ofImage (memReadN cells (4096 + b.ssize + 112 * i) 112) else t
    scratch := ((cells.filter fun c => decide (4096 ≤ c.1 ∧ c.1 < 4096 + b.ssize)).map fun c => (c.1 - 4096, c.2)) ++
      b.scratch.filter fun c => decide (2 ^ 20 ≤ c.1)
    bars := Vector.ofFn fun i =>
      let k := 64 * i.val
      { b.bars[i] with gen := bits x (k + 31) k, count := bits x (k + 47) (k + 32), expected := bits x (k + 63) (k + 48) } }

/-- A saved block takes its cores again: the frame's tag is checked, its scratchpads, barriers, tiles and triangles are placed
(R395, R396; 13 R333); where an image is refused, the block waits for the answer (10 R276). -/
def State.returnBlock (s : State) (bid core : Nat) : State :=
  match s.blocks.get? bid with
  | none => s
  | some b =>
    let d := s.blockDesc b
    match s.chooseCores core d s.reserved, s.blockRefused b .read, s.imageSpans b.ctx b.frame b.frameSize .read with
    | none, _, _ => s
    | some _, some (va, e), _ | some _, none, .error (va, e) => s.imageFault b.ctx va 0 e
    | some cs, none, .ok l =>
      let cells := (s.spanCells l).filter fun c => decide (8 ≤ c.1)
      if ((s.rdMem (l.headD (0, 0, 0)).1 8 != b.tag cells b.tris) != l.any fun x => s.taps x.1 x.2.2) ∨ l.any (fun x => (s.poisonAt x.1 x.2.2).isSome) then
        s.faultLaunch b.launch 0x31 0
      else
        let s := cs.foldl (fun s c => s.takeCore c.1 b.ctx d) s
        let s := s.updBlock bid fun b => { b.ofFrame cells with
          tilePas := if b.hasImage then s.tileSpans b.ctx b.aibs d.acc else []
          cores := cs.map (·.1), sbases := cs.map (·.2.1), aslots := cs.map (·.2.2), reported := false, placedAt := s.gnomon }
        if !b.hasImage then s
        else (List.range cs.length).foldl (fun s m => match s.imageSpans b.ctx (b.aibs.getD m 0 + 1024 * d.acc) 4608 .read with
          | .ok l => s.readControl bid b m (s.rdSpans l)
          | .error _ => s) s

/-- A group read back from its image (R396; 07 R173): the registers, the status with its counters, the journal and as many
entries of the queue as ssqn says. -/
def State.readImage (s : State) (g : Group) (pa : Nat) : Group :=
  let rd (k : Nat) : Line := BitVec.ofNat 512 (s.rdMem (pa + 64 * k) 64)
  let h := ((List.range 48).map (· + 256)).foldl (fun g k => g.setLine k (rd k)) g
  let x := (rd 263).toNat
  let tags := s.rdMem (pa + 64 * 304) 128
  let entry (k : Nat) : JEntry :=
    let new : JEntry := { line := bits tags (16 * k + 15) (16 * k), data := rd (320 + k) }
    match g.journal[k]? with
    | some j => if j.line = new.line ∧ j.data = new.data then j else new
    | none => new
  { h.setStatus x with
    ssq := g.ssq.take (bits x 375 368)
    journal := (List.range (min 64 (bits x 383 376))).map entry }

/-- The queue of a resumed group, whose entries are translated and drain first (R396); the entries that its image no longer
counts are gone (07 R173). -/
def State.readQueue (s : State) (old new : Group) (pa core : Nat) : State :=
  let gone := old.ssq.drop new.ssq.length
  let s := { s with ops := s.ops.keep fun k _ => !gone.contains k }
  (new.ssq.zipIdx).foldl (fun s x => s.updOp x.1 fun o => o.setEntry (s.rdMem (pa + 64 * 384 + 256 * x.2) 256) core) s

/-- A saved group becomes resident in a slot of a core (R396). -/
def State.enterCore (s : State) (gid : Nat) (g : Group) (core : Nat) : State :=
  let rib := g.rib.toNat
  match s.imagePa g.ctx rib .read with
  | .error d => s.imageFault g.ctx rib 0 d
  | .ok pa =>
    let slot := (s.freeSlots core).headD 0
    let h := s.readImage g pa
    let ribPa := match s.imagePa g.ctx h.rib.toNat .read with | .ok p => p | .error _ => pa
    let h := { h with home := .resident, core := core, slot := slot, ribPa := ribPa, present := 0, issued := 0
                      xmask := (s.ctx g.ctx).xmask }
    ((((s.readQueue g h pa core).setGroup gid h).endWaits gid (s.resumeWait g)).acquireNow core g.ctx).requeue gid h

/-- Whether a core has room for a saved group of an allocation: beside what its oldest waiting `grow` lacks, which comes first (07
R175; log 148). -/
def State.roomFor (s : State) (core gid valloc : Nat) : Bool :=
  let owed := if (s.oldestGrow core).any (·.2.1 == gid) then 0 else s.owedLines core
  !(s.freeSlots core).isEmpty && decide (s.linesUsed core + 16 * valloc + owed ≤ (s.core core).lineLimit)

/-- The allocation of a saved group, in units of 16 lines, as its image gives it: of its status line or, after a roll-back, of the
journal's copy (07 R167, R169, R175). -/
def State.savedAlloc (s : State) (g : Group) : Nat :=
  match s.imagePa g.ctx g.rib.toNat .read with
  | .ok pa => (s.readImage g pa).claim
  | .error _ => g.claim

/-- Whether a core that a block comes back to has room for the allocation with which its first group returns (07 R167). -/
def State.roomOn (s : State) (core : Nat) (d : KDesc) (g : Group) : Bool :=
  decide (s.linesUsed core + 16 * s.savedAlloc g ≤ (s.partitioned core d).lineLimit)

/-- The core on which a resumed group would run: its block's, or `core` for a block that is in none (R396). -/
def State.resumeCore (s : State) (gid : Nat) (g : Group) (core : Nat) : Option Nat :=
  match s.blocks.get? g.block with
  | none => none
  | some b =>
    if b.cores.isEmpty then (s.chooseCores core (s.blockDesc b) s.reserved).bind fun cs =>
        (cs[s.memberOf g]?).bind fun k => if s.roomOn k.1 (s.blockDesc b) g then some core else none
    else match b.cores[s.memberOf g]? with
      | some k => if k = core ∧ !b.preempt ∧ s.roomFor k gid (s.savedAlloc g) then some k else none
      | none => none

/-- GROUP_RESUME (R396): a saved group resumes; the first of its block brings the block back. -/
def State.groupResume (s : State) (gid core : Nat) : State :=
  match s.groups.get? gid with
  | none => s
  | some g =>
    if !s.resumable g then s
    else match s.resumeCore gid g core with
      | none => s
      | some k =>
        if ((s.blocks.get? g.block).map (·.cores)) = some [] then
          let s := s.returnBlock g.block k
          match s.groups.get? gid, (s.blocks.get? g.block).bind (·.cores[s.memberOf g]?) with
          | some g, some k => s.enterCore gid g k
          | _, _ => s
        else s.enterCore gid g k

/-- SLEEP_EXPIRE (R403): Gnomon has passed the end of a sleep. -/
def State.sleepExpire (s : State) (gid : Nat) : State :=
  s.updGroup gid fun g => if g.wake ≠ 0 ∧ g.wake ≤ s.gnomon then { g with wake := 0 } else g

/-! ### Lines on demand (01 R30; 02 R45) -/

/-- The first line of a resident group that is not present. -/
def Group.missingLine (g : Group) : Option Nat :=
  if g.home = .resident then (List.range (16 * g.valloc)).find? fun n => !g.present.getLsbD n else none

/-- REGISTER_LINE_FILL (01 R30; 16 R396): a vector line comes from its image, or from the core that still holds it. -/
def State.lineFill (s : State) (gid n : Nat) : State :=
  match s.groups.get? gid with
  | none => s
  | some g =>
    if g.home ≠ .resident ∨ 16 * g.valloc ≤ n ∨ g.present.getLsbD n then s
    else match s.imagePa g.ctx (g.rib.toNat + 64 * n) .read with
      | .error d => s.imageFault g.ctx (g.rib.toNat + 64 * n) 0 d
      | .ok pa =>
        let s := s.evictFor g.core 1
        let g := (s.groups.get? gid).getD g
        let mine := (g.former.get? n).isSome
        let h := if mine then g else (g.setLine n (BitVec.ofNat 512 (s.rdMem pa 64))).markV n 0xFFFF 0
        let s := s.setGroup gid { h with present := h.present ||| (1#256 <<< n), former := h.former.erase n }
        match s.imagePoison (pa / 64) with
        | some code => if mine then s else s.regPoison gid n 0xFFFF code 0
        | none => s

/-- A fetch that faults, or meets a poisoned word, stops the group precisely, after any pending fault (16 R391). -/
def State.preciseFetch (s : State) (gid : Nat) (g : Group) (f : State → State) : State :=
  if s.native g && !s.settled gid then { s with stalled := true }
  else if s.native g && s.pending gid g then s.updGroup gid Group.stopForFault
  else f s

/-- A fetch fault: its record is posted, and the group waits for the answer (16 R391). -/
def State.fetchFault (s : State) (gid : Nat) (g : Group) (q va d : Nat) : State :=
  let (s, r) := s.postFault g.ctx { id := 0, va := va, kind := 3, src := 0, detail := d }
  s.updGroup gid fun g => { g with mode := .fetch q va d false 0 (g.liveOf (g.entryAt q).mask), posted := [r] }

/-- INSTR_FETCH_RETURN (02 R45; 16 R391): the line that a path's fetch lacks arrives, its 64 bytes as they stand at one
tick (log 139), or the fetch stops the group. -/
def State.fetchReturn (s : State) (gid q : Nat) : State :=
  match s.groups.get? gid with
  | none => s
  | some g =>
    if !g.mayTurn q then s
    else match s.fetch g (g.entryAt q).pc.toNat with
      | .words .. => s
      | .poisoned va code =>
        s.preciseFetch gid g fun s =>
          let live := g.liveOf (g.entryAt q).mask
          s.trapOrDeferred gid (g.entryAt q).pc live
            { cause := 0x31, detail := code, val := 0, lanes := live, addr := some (BitVec.ofNat 64 va) }
      | .denied va d =>
        s.preciseFetch gid g fun s => s.fetchFault gid g q va d
      | .missing va =>
        let held := s.walkHeld g.ctx va
        if !held.isEmpty && (s.tlbFind g.core g.ctx va).isNone then { s.backInval held with stalled := true }
        else match s.resolve g.core g.ctx g.sup .fetch va with
        | .error _ => s
        | .ok l =>
          let s := s.tlbFill g.core g.ctx va l
          let b := va / 64 * 64
          let pa := l.phys b
          if l.mt = 0 ∧ s.hostHas (pa / 64) then
            (if s.halves.get? (pa / 64) = some .p then { s with stalled := true } else s.backInval [pa / 64])
          else
            let (x, p) := if l.mt = 1 then (memReadN s.hostMem pa 64, none)
              else if l.mt = 2 then s.winRead pa 64 else (s.homeRead pa 64, s.homePoison pa 64)
            if l.mt = 1 ∧ Sys2Proof.Config.hostError s.gnomon pa then s.preciseFetch gid g fun s => s.fetchFault gid g q va 10
            else s.updCore g.core fun c => { c with icache := ⟨g.ctx, b, x, p⟩ :: c.icache }

/-! ### The instructions -/

/-- FAULT_REPLY (16 R385) -/
def execFaultReply (ctx : Nat) (s : State) : Host.Outcome State Fault Refusal :=
  .next (s.faultReply ctx)

/-- GROUP_REPLAY (16 R390, R391) -/
def execGroupReplay (g : Nat) (s : State) : Host.Outcome State Fault Refusal :=
  .next (s.groupReplay g)

/-- GROUP_SAVE (16 R393) -/
def execGroupSave (g : Nat) (s : State) : Host.Outcome State Fault Refusal :=
  .next (s.groupSave g)

/-- BLOCK_SAVED (16 R394, R395) -/
def execBlockSaved (blk : Nat) (s : State) : Host.Outcome State Fault Refusal :=
  .next (s.blockSaved blk)

/-- GROUP_RESUME (16 R396) -/
def execGroupResume (g : Nat) (core : Nat) (s : State) : Host.Outcome State Fault Refusal :=
  .next (s.groupResume g core)

/-- SLEEP_EXPIRE (16 R403) -/
def execSleepExpire (g : Nat) (s : State) : Host.Outcome State Fault Refusal :=
  .next (s.sleepExpire g)

/-- REGISTER_LINE_FILL (01 R30) -/
def execRegisterLineFill (g : Nat) (line : Nat) (s : State) : Host.Outcome State Fault Refusal :=
  .next (s.lineFill g line)

/-- INSTR_FETCH_RETURN (02 R45; 16 R391) -/
def execInstrFetchReturn (g : Nat) (path : Nat) (s : State) : Host.Outcome State Fault Refusal :=
  .next (s.fetchReturn g path)

end Sys2Proof.Machine
end

