-- ==== Sys2Proof/Machine/Links.lean ====
section
/-! DEFINITION. Gnomon's discipline, round regions and the Orrery, device links and peers (18 R418 to R427, R430 to
R433). -/

namespace Sys2Proof.Machine

/-! ### Flits (R431) -/

/-- The header of a flit (R431). -/
def flitHead (vc seq ack kind : Nat) : Nat := packBits [(6, kind), (12, ack), (12, seq), (2, vc)]

/-- A flit is sent: it stays in the replay buffer until it is acknowledged (R431). -/
def Link.send (l : Link) (vc kind : Nat) (payload : List Byte := []) (dest : Option (Nat × Nat) := none) : Link :=
  let f : Flit := { seq := l.txSeq, head := flitHead vc l.txSeq ((l.rxSeq + 4095) % 4096) kind, payload := payload, dest := dest }
  { l with replay := l.replay ++ [f], wire := l.wire ++ [f], txSeq := (l.txSeq + 1) % 4096 }

/-- A message is sent in as many data flits as its bytes fill (R431). -/
def Link.sendMsg (l : Link) (vc : Nat) (msg : List Byte) (dest : Nat × Nat) : Link :=
  (List.range (max 1 ((msg.length + 239) / 240))).foldl (fun l i => l.send vc 0 ((msg.drop (240 * i)).take 240) (some dest)) l

/-! ### Discipline (R418, R420) -/

/-- The module skew bound that firmware sets for a source (R418). -/
def sigmaOf (source : Nat) : Nat := match source with | 1 => 512 | 2 => 64 | _ => 0

/-- Leases on lines homed on peers end (R420). -/
def State.endPeerLeases (s : State) : State :=
  s.updCores fun _ c => { c with l1 := c.l1.mapVals fun _ x => if x.peer then { x with expiry := 0 } else x }

/-- Lock is set or cleared (R418), with a telemetry event (22 R484). -/
def State.setLock (s : State) (b : Bool) : State :=
  if s.disc.lock = b then s
  else
    let s := ({ s with disc := { s.disc with lock := b } } : State).telemetry 3 (if b then 1 else 0)
    if b then s else s.endPeerLeases

/-- An exchange with the reference that measured an offset (R418): lock after 16 consecutive ones at or below Σ/4, no lock
above 3Σ/8. -/
def State.exchange (s : State) (offset : Nat) : State :=
  let good := if 4 * offset ≤ s.disc.sigma then min 16 (s.disc.good + 1) else 0
  let s : State := { s with disc := { s.disc with good := good, last := s.gnomon } }
  if 3 * s.disc.sigma < 8 * offset then s.setLock false
  else if good = 16 then s.setLock true else s

/-- PTP_EXCHANGE (R418): an exchange at the management port, under source 1. -/
def State.ptpStep (s : State) (offset : Nat) : State :=
  if s.boot.stage = 4 ∧ s.disc.src = 1 then s.exchange offset else s

/-- The state with a link changed. -/
def State.updLink (s : State) (k : Nat) (f : Link → Link) : State :=
  if h : k < 18 then { s with links := s.links.set k (f s.links[k]) } else s

/-- LINK_TIMING_EXCHANGE (R418): an exchange of timing flits over a link that is up, under source 2, at most one
per 4,096 ticks (R432). -/
def State.timingStep (s : State) (k offset : Nat) : State :=
  if s.boot.stage = 4 ∧ s.disc.src = 2 ∧ (s.link k).lanes ≠ 0 ∧ ((s.link k).timed.all fun t => decide (t + 4096 ≤ s.gnomon)) then
    (s.updLink k fun l => { l.send 3 3 with timed := some s.gnomon }).exchange offset
  else s

/-- LOCK_TIMEOUT (R418): no exchange has succeeded for 2^24 ticks. -/
def State.lockTimeout (s : State) : State :=
  if s.disc.lock ∧ s.disc.last + 2 ^ 24 ≤ s.gnomon then
    ({ s with disc := { s.disc with good := 0 } } : State).setLock false
  else s

/-! ### The Orrery (R424 to R427) -/

/-- The region-table entry of a slot: base and pages, when it is readable and well formed (R425). -/
def regionEntry (x : Nat) : Option (Nat × Nat) :=
  let base := bits x 63 0
  let npg := bits x 95 64
  if bits x 15 0 ≠ 0 ∨ npg < 1 ∨ 1048576 < npg ∨ bits x 127 104 ≠ 0 ∨ 2 ^ 64 < base + 65536 * npg then none else some (base, npg)

/-- Translations of a context with a page in a range of addresses are dropped (R426). -/
def State.dropRange (s : State) (ctx base n : Nat) : State :=
  { s with tlb := s.tlb.filter fun e =>
      !(e.ctx == ctx && decide (e.page * 2 ^ e.leaf.bits < base + n ∧ base < (e.page + 1) * 2 ^ e.leaf.bits)) }

/-- The bytes of region-table entry n, as `ldc` reads them; none when they do not translate or are poisoned (R425; log 174). -/
def State.regionBytes (s : State) (ctx n : Nat) : Option Nat :=
  let va := (s.ctx ctx).ortb.toNat + 16 * n
  match s.resolveCp ctx true .read va with
  | .error _ => none
  | .ok l =>
    let a : Access := { va := va, len := 16, pa := l.phys va, mt := l.mt, cum := l.cum }
    if l.mt = 0 then if s.taps a.pa 16 then some (2 ^ 64) else (match s.readAcc a with | (x, none) => some x | _ => none) else s.rdVa ctx true va 16

/-- What `register` finds of slot n: the code of st, and the region when it is registered (R426). -/
def State.registers (s : State) (ctx n : Nat) : Nat × Option Region :=
  if (s.regions.get? (regionKey ctx n)).isSome then (6, none)
  else match (s.regionBytes ctx n).bind regionEntry with
    | none => (3, none)
    | some (base, npg) =>
      if s.regions.any fun e => e.1 / 256 == ctx && decide (e.2.base < base + 65536 * npg ∧ base < e.2.base + 65536 * e.2.npg) then (4, none)
      else if 4096 ≤ s.regions.length then (5, none)
      else (1, some { base := base, npg := npg })

/-- The write of st, a write of the issuing group (R426): its completion time counts for the group's releases. To a peer it goes
as a store of the group does (R430), and a refused one is the group's deferred error (16 R487). -/
def State.writeSt (s : State) (gid ctx n st : Nat) : State :=
  let va := (s.ctx ctx).ortb.toNat + 16 * n + 12
  match s.resolveCp ctx true .write va with
  | .error _ => s
  | .ok l =>
    if l.mt = 0 ∧ s.foreign (l.phys va) then s.sendOut ((s.groups.get? gid).map fun g => (gid, g)) va (l.phys va) 1 st
    else if s.leafRefuses l (l.phys va) 1 ∨ (l.mt = 0 ∧ s.lost (l.phys va)) then
      s.defer gid ⟨0x31, if s.lost (l.phys va) then 4 else 5, 0, va⟩
    else
      let ct := s.writeTimes l (l.phys va) 1
      (s.wrLeaf l (l.phys va) 1 st).updGroup gid fun g => { g with wmax := if l.mt = 0 then ctMax g.wmax ct else g.wmax }

/-- A command that has no translations to drop writes st(n) and ends (R426). -/
def State.orEnd (s : State) (gid ctx n st : Nat) : State := (s.updGroup gid fun g => { g with order := none }).writeSt gid ctx n st

/-- The translations of a region's pages are dropped as `tlbi.va` drops them (R426): the command waits for the accesses that were
translated under them (16 R383), then writes st(n). -/
def State.orWait (s : State) (gid ctx n st : Nat) (r : Region) : State :=
  let users := (s.ops.filter fun e => e.2.ctx == ctx && e.2.accs.any fun a =>
    (a.st == .ready || a.st == .fill) && decide (a.va < r.base + 65536 * r.npg ∧ r.base < a.va + a.len)).map (·.1)
  let s := s.dropRange ctx r.base (65536 * r.npg)
  { s.updGroup gid (fun g => { g with order := g.order.map fun o => { o with then_ := .orst n st } }) with tlbis := s.tlbis.set gid users }

/-- The command `register` for slot n (R426). -/
def State.orRegister (s : State) (gid ctx n : Nat) : State :=
  match s.registers ctx n with
  | (st, some r) => ({ s with regions := s.regions.set (regionKey ctx n) r } : State).orWait gid ctx n st r
  | (st, none) => s.orEnd gid ctx n st

/-- The command `drop` for slot n (R426). -/
def State.orDrop (s : State) (gid ctx n : Nat) : State :=
  match s.regions.get? (regionKey ctx n) with
  | none => s.orEnd gid ctx n 6
  | some r =>
    (({ s with regions := s.regions.erase (regionKey ctx n) } : State).updCores fun _ c =>
      { c with obs := c.obs.erase (regionKey ctx n) }).orWait gid ctx n 2 r

/-- A command of the Orrery for a group, once the release of its `csrw` is over (R426): `takes` says which commands this step
begins; a command that waits for accesses in flight ends when they are over. -/
def State.orcmdStep (s : State) (gid : Nat) (takes : Nat → Bool) (f : State → Nat → Nat → State) : State :=
  match s.groups.get? gid with
  | none => s
  | some g =>
    match g.order with
    | none => s
    | some o =>
      match o.then_ with
      | .orcmd op slot => if takes op && s.releaseOver gid g o then f s g.ctx slot else s
      | .orst slot st =>
        if (s.tlbis.getD gid []).any s.stillUses then s
        else ({ s with tlbis := s.tlbis.erase gid } : State).orEnd gid g.ctx slot st
      | _ => s

/-! ### Links (R430 to R433) -/

/-- The replay buffer after an acknowledgement: every flit up to it leaves (R431). -/
def Link.ack (l : Link) (a : Nat) : Link :=
  { l with acked := a, replay := l.replay.filter fun (f : Flit) => !(decide ((a + 4096 - f.seq) % 4096 < 2048)) }

/-- The flits of the replay buffer are sent again, in order: the other side's acknowledgement has not moved on, so that one of them
failed its check there (R431; log 142). -/
def Link.resend (l : Link) : Link := { l with wire := l.wire ++ l.replay }

/-- Bytes of a channel's receive buffer (R432). -/
def bufSize (vc : Nat) : Nat := if vc = 3 then 16384 else 262144

/-- A link's bit of a channel. -/
def withBit (x : BitVec 4) (k : Nat) (b : Bool) : BitVec 4 := if b then x ||| (1#4 <<< k) else x &&& ~~~(1#4 <<< k)

/-- FLIT_RECEIVE (R431, R432): a flit that passes its check and is the next in order is delivered; any other is discarded, to
be sent again, and so is one that finds its buffer full. Management messages of VC3 are taken at once; on a link that is limited to
VC3 no other channel's data are taken. -/
def State.flitReceive (s : State) (k : Nat) (head : Word) (payload : List Byte) (ok : Bool) : State :=
  let x := head.toNat
  let vc := bits x 31 30
  let data := payload.take 240
  if !ok || (s.link k).lanes == 0 || bits x 29 18 != (s.link k).rxSeq ||
    (bits x 5 0 == 0 && decide (bufSize vc < (s.link k).buf.toList.getD vc 0 + data.length)) then s
  else s.updLink k fun l =>
    let l := if bits x 17 6 = l.acked ∧ l.replay ≠ [] then l.resend else l
    let l := { l.ack (bits x 17 6) with rxSeq := (l.rxSeq + 1) % 4096 }
    match bits x 5 0 with
    | 0 => if vc = 3 ∨ !l.carries then l else { l with
        inbox := l.inbox ++ [(vc, data)]
        buf := Vector.ofFn fun i => if i.val = vc then l.buf[i] + data.length else l.buf[i] }
    | 1 => if vc = 0 ∨ vc = 2 then { l with paused := withBit l.paused vc true } else l
    | 2 => if vc = 0 ∨ vc = 2 then { l with paused := withBit l.paused vc false } else l
    | _ => l

/-- Bytes in a channel's receive buffer. -/
def Link.used (l : Link) (vc : Nat) : Nat := l.buf.toList.getD vc 0

/-- FLIT_PAUSE (R432): more than 34,048 bytes of the buffer are in use. -/
def State.flitPause (s : State) (k vc : Nat) : State :=
  let l := s.link k
  if l.lanes ≠ 0 ∧ (vc = 0 ∨ vc = 2) ∧ 34048 < l.used vc ∧ !l.pausing.getLsbD vc then
    s.updLink k fun l => { l.send vc 1 with pausing := withBit l.pausing vc true }
  else s

/-- FLIT_RESUME (R432): no more than 16,384 bytes are in use. -/
def State.flitResume (s : State) (k vc : Nat) : State :=
  let l := s.link k
  if l.lanes ≠ 0 ∧ l.used vc ≤ 16384 ∧ l.pausing.getLsbD vc then
    s.updLink k fun l => { l.send vc 2 with pausing := withBit l.pausing vc false }
  else s

/-- The use of a core as UNITS0 counts it: a failing core counts until a spare takes its place (21 R471, R474). -/
def CoreUse.counted : CoreUse → CoreUse
  | .draining => .active
  | u => u

/-- UNITS0 (21 R471). -/
def State.units0 (s : State) : Nat :=
  let count (d : Nat) (u : CoreUse) : Nat := ((List.range 52).filter fun k => (s.core (52 * d + k)).use.counted == u).length
  let live (d : Nat) : Nat := if s.deadDies.contains d then 0 else 1
  let n (d : Nat) (u : CoreUse) : Nat := live d * count d u
  packBits [(8, n 0 .active + n 1 .active), (6, n 0 .active), (6, n 1 .active), (4, n 0 .spare), (4, n 1 .spare), (1, live 0), (1, live 1)]

/-- The live slices of a die (21 R471, R472). -/
def State.liveSlices (s : State) (die : Nat) : Nat :=
  if s.deadDies.contains die then 0 else ((List.range 128).filter fun k => !s.retired.contains (128 * die + k)).length

/-- The HBM4E stacks and the GDDR 7 channels in service (21 R471, R473, R476). -/
def State.liveStacks (s : State) : Nat := ((List.range 8).filter fun k => !s.deadDies.contains (k / 4) && !s.units.contains k).length
/-- The GDDR 7 channels in service. -/
def State.liveChannels (s : State) : Nat := ((List.range 16).filter fun k => !s.units.contains (8 + k)).length

/-- UNITS1 (21 R471). -/
def State.units1 (s : State) : Nat := packBits [(8, s.liveSlices 0), (9, s.liveSlices 1), (4, s.liveStacks), (5, s.liveChannels)]

/-- LINKS (21 R471). -/
def State.linksReg (s : State) : Nat := packBits (s.links.toList.map fun l => (3, l.lanes))

/-- A change of the counts of units is reported (21 R471; 22 R484). -/
def State.unitEvent (s : State) : State := s.telemetry 2 s.units0

/-- Whether a channel of a link may carry more than VC3 now (R420, R432): this module and the peer locked under one Σ, the
channel not paused. -/
def State.linkOpen (s : State) (vc k : Nat) : Bool :=
  let l := s.link k
  s.disc.lock && l.carries && l.peerLocked && l.peerSigma == s.disc.sigma && !l.paused.getLsbD vc

/-- Whether a peer's request may arrive (R420): by some link of the peer. -/
def State.hearsPeer (s : State) (peer : Nat) : Bool := (s.linksTo peer).any (s.linkOpen 3)

/-- The link that an access to a peer's line travels on: a hash of the peer number and the line picks one of the links that
reach the peer (R433; log 157). -/
def State.linkFor (s : State) (peer pa : Nat) : Option Nat :=
  let l := (s.linksTo peer).filter fun k => (s.link k).carries
  l[Sys2Proof.Config.linkHash peer (pa / 128) % l.length]?

/-- Whether a request for an address of a peer may travel now (R420, R432, R433). -/
def State.mayRequest (s : State) (peer vc pa : Nat) : Bool := (s.linkFor peer pa).any (s.linkOpen vc)

/-- The peers that can be reached and may not be asked now (R420, R432). -/
def State.closedPeers (s : State) : List Nat :=
  (s.peers.filter fun e => s.reachable e.1 && !(e.2.any (s.linkOpen 0))).map (·.1)

/-- LINK_FAILURE (R433; 21 R476): the link is down. Its flits in flight that carry messages are sent again, in order, each on the link
that the hash now chooses for its line; the accesses whose requests went on it are answered on the new link. The messages that it
has received in order stay in its buffers, since their sender sends them no more (R431). -/
def State.linkFailure (s : State) (k : Nat) : State :=
  if (s.link k).lanes = 0 then s
  else
    let fs := (s.link k).replay
    let s := s.updLink k fun l => { l with lanes := 0, replay := [], paused := 0, pausing := 0 }
    let s := fs.foldl (fun s (f : Flit) => match f.dest.bind fun d => s.linkFor d.1 d.2 with
      | some j => s.updLink j fun l => l.send (f.head / 2 ^ 30) (f.head % 64) f.payload f.dest
      | none => s) s
    let moved (a : Access) : Access := if a.via = some k then { a with via := s.linkFor (bits a.pa 47 40) a.pa } else a
    ({ s with ops := s.ops.mapVals fun _ o => { o with accs := o.accs.map moved } } : State).unitEvent

/-- LINK_TRAINING (R420, R431; 21 R476): the link is up with some lanes; the peers' Σ and lock have been exchanged. A link that
cannot train is taken down. -/
def State.linkTraining (s : State) (k lanes roundTrip sigma : Nat) (peerLocked : Bool) : State :=
  if 18 ≤ k ∨ 3 < lanes then s
  else if lanes = 0 then s.linkFailure k
  else
    let changed := (s.link k).lanes != lanes
    let s := s.updLink k fun l => { l with lanes := lanes, roundTrip := roundTrip, peerSigma := sigma, peerLocked := peerLocked }
    if changed then s.unitEvent else s

/-! ### Requests of peers (R420, R430; 08 R225) -/

/-- The oldest message of a channel leaves the receive buffer of a link (R432). -/
def Link.takeMsg (l : Link) (vc : Nat) : Link :=
  match l.inbox.find? (·.1 == vc) with
  | none => l
  | some m => { l with
      inbox := l.inbox.erase m
      buf := Vector.ofFn fun i => if i.val = vc then l.buf[i] - m.2.length else l.buf[i] }

/-- A message to a peer on a channel, by a link of the hash (R432, R433). -/
def State.tellPeer (s : State) (peer vc what pa n data : Nat) : State :=
  match s.linkFor peer pa with
  | none => s
  | some k => s.updLink k fun l => l.sendMsg vc (Sys2Proof.Config.messageBytes what pa n data) (peer, pa)

/-- Writes of agents outside the module's cores: refused on part of a poisoned half-line or at a lost home; applied
otherwise (21 R468, R473; 08 R198). -/
def State.outsideWrite (s : State) (pa n x : Nat) : Option State :=
  if s.lost pa ∨ s.partialPoison pa n then none else some (s.applyWrite pa n x)

/-- Whether the 64 KiB page of an address is known to be a Cumin page: by a record of one of its lines, or a cached leaf. -/
def State.cumPage (s : State) (pa : Nat) : Bool :=
  (s.lines.any fun e => e.2.cum && e.1 / 512 == pa / 65536) || s.tlb.any fun e => e.leaf.cum && e.leaf.mt == 0 && e.leaf.pa == pa / 65536 * 65536

/-- A lease of a peer raises Ef of its line (08 R201). The peer names no page, and a line without a record may be one of a Cumin page,
served by other slices: it starts from the floors of every slice that may serve it. -/
def State.raisePeerExpiry (s : State) (pa e : Nat) : State :=
  let line := lineAt pa
  let x := if (s.lines.get? line).isSome then s.expiryOf false line
    else { ((s.expiryOf false line).join (s.expiryOf true line)) with cum := s.cumPage pa }
  { s with lines := s.lines.set line { x with f := max x.f e } }

/-- A completion time in a message. -/
def ctBits (c : Nat × Nat × Nat) : Nat := packBits [(64, c.1), (64, c.2.1), (64, c.2.2)]

/-- The completion time of a peer's write (08 R203, R219, R225), whose line's page its record tells. -/
def State.peerWriteTimes (s : State) (pa n : Nat) : Nat :=
  ctBits (s.homeTimes (s.cumPage pa) pa n)

/-- An atomic operation of a peer at its home (R430; 09 R230): operation `op`, 9 for `cas`, on the operand bytes, for `cas` the
value expected before the new one. Poison and a lost home refuse it (21 R468, R473); the value before travels back, and behind it
the completion time of the write, when there is one (08 R203). -/
def State.peerAtomic (s : State) (peer pa op : Nat) (t : Ty) (x : Nat) : State :=
  let n := 4 * runLen t
  let b := x % 2 ^ (8 * n)
  let old := s.homeRead pa n
  if !inModuleN pa n || s.lost pa || (s.homePoison pa n).isSome then s.tellPeer peer 1 20 pa n 0
  else
    if 9 ≤ op ∧ old ≠ b then s.tellPeer peer 1 16 pa n old
    else ((s.applyWrite pa n (if 9 ≤ op then x / 2 ^ (8 * n) % 2 ^ (8 * n) else atomNew op t old b)).mirrorWrite 5 0 0 peer pa n).tellPeer
      peer 1 16 pa n (old + 2 ^ 64 * s.peerWriteTimes pa n)

/-- A peer's `mwait` at its home (R430; 09 R237): with the condition false it is registered, for no group of this module; the
write that wakes it removes the registration, and the wake travels back as a message (log 142). -/
def State.peerMonitor (s : State) (peer pa cond : Nat) (b : Word) : State :=
  let w := s.homeRead pa 4
  if pa % 4 ≠ 0 || s.lost pa || (s.homePoison pa 4).isSome then s.tellPeer peer 1 20 pa 4 0
  else if monCond cond (BitVec.ofNat 32 w) b then s.tellPeer peer 1 18 pa 4 w
  else if (s.monitors.filter fun m => s.homeOf m.cum m.pa == s.homeOf false pa).length < monitorRoom then
    ({ s with monitors := s.monitors ++ [{ op := 2 ^ 64, g := 2 ^ 64 + peer, path := 0, pa := pa, cond := cond, b := b }] } : State).tellPeer
      peer 1 18 pa 4 (w + 2 ^ 32)
  else s.tellPeer peer 1 18 pa 4 (w + 2 ^ 33)

/-- The oldest request of a peer leaves the receive buffer of its link: of VC0, else a bulk write of VC2 (R432). -/
def State.takeRequest (s : State) (peer : Nat) : State :=
  match [0, 2].findSome? fun vc => ((s.linksTo peer).find? fun k => (s.link k).inbox.any (·.1 == vc)).map fun k => (k, vc) with
  | some (k, vc) => s.updLink k fun l => l.takeMsg vc
  | none => s

/-- PEER_REQUEST: a peer's read, write, atomic operation or, from code 16 on, `mwait` on n bytes of this module's memory is served
at the home (R225, R430), and the response travels back on VC1 (R432); a line that a core holds gives no lease (08 R219); while
lock is 0 a request is answered with a retry and no lease is granted (R420). -/
def State.peerRequest (s : State) (peer pa n : Nat) (write : List Byte × Option (Nat × Nat)) (lease : Bool) : State :=
  let (write, rmw) := write
  let n := match rmw with | some (op, t) => if 16 ≤ op then 4 else 4 * runLen (Ty.ofCode t) | none => if write.isEmpty then n else write.length
  if s.boot.stage ≠ 4 ∨ !s.reachable peer ∨ n = 0 then s
  else if !s.hearsPeer peer then (if s.disc.lock then s else (s.takeRequest peer).tellPeer peer 1 19 pa n 0)
  else
    let asked := (halvesOf pa n).filter s.hostHas
    if !asked.isEmpty then s.backInval asked
    else
      let s := (s.takeRequest peer).wakeFor (s.cumPage pa) pa n
      if !inModuleN pa n then s.tellPeer peer 1 20 pa n 0
      else match rmw with
      | some (op, t) =>
        if 16 ≤ op then s.peerMonitor peer pa (op - 16) (BitVec.ofNat 32 (bytesVal write)) else s.peerAtomic peer pa op (Ty.ofCode t) (bytesVal write)
      | none =>
      if write.isEmpty then
        (if lease && (halvesOf pa n).all fun h => (s.held h).isNone then s.raisePeerExpiry pa (s.gnomon + leaseLen s.lease) else s).tellPeer
          peer 1 (if (s.homePoison pa n).isSome then 20 else 16) pa n (s.homeRead pa n)
      else match s.outsideWrite pa n (bytesVal write) with
        | some t => (t.mirrorWrite 5 0 0 peer pa n).tellPeer peer 1 17 pa n (s.peerWriteTimes pa n)
        | none => s.tellPeer peer 1 20 pa n 0

/-! ### Requests to peers (R420, R430 to R433) -/

/-- The channel of an operation's requests to peers (R432, R433). -/
def OpKind.vc (k : OpKind) : Nat := match k with | .copy _ => 2 | _ => 0

/-- What an access asks of a peer, as its message says it (log 142). -/
def Ask.code : Ask → Nat
  | .read | .fetch => 0
  | .write | .target => 1
  | .atomic => 2
  | .red => 3
  | .monitor => 4

/-- The requests outstanding on a link (R432). -/
def State.outstanding (s : State) (j : Nat) : Nat :=
  s.ops.foldl (fun n e => n + (e.2.accs.filter fun a => a.via == some j && a.st == .ready).length) 0

/-- The request of an access to a peer goes out on the link of the hash, when it may travel and the VC1 buffer can still hold its
reply, at 256 bytes a reply (R420, R432, R433; log 142); a read that a copy serves by then does not. -/
def State.sendRequest (s : State) (id k : Nat) : State :=
  match s.acc? id k with
  | none => s
  | some (o, a) =>
    if !(a.st == .ready && a.peer && a.via.isNone && !o.queued && s.inOrder id o a) then s
    else match s.linkFor (bits a.pa 47 40) a.pa with
      | none => s
      | some j =>
        if !s.linkOpen o.kind.vc j || 1024 ≤ s.outstanding j then s
        else s.unlessCopy id k o a ((s.updLink j fun l =>
          l.sendMsg o.kind.vc (Sys2Proof.Config.messageBytes a.ask.code a.pa a.len a.data) (bits a.pa 47 40, a.pa)).updAcc id k fun a =>
            { a with via := some j })

/-- The requests of accesses that are ready, and the wakes of peers' registrations, go out on the links (R430 to R433). -/
def State.settleLinks (s : State) : State :=
  if s.peers.isEmpty && s.peerWakes.isEmpty then s
  else
    let s := s.ops.foldl (fun s e => (List.range e.2.accs.length).foldl (fun s k => s.sendRequest e.1 k) s) s
    let goes (w : Nat × Nat × Nat) : Bool := (s.linkFor w.1 w.2.1).any (s.linkOpen 1)
    (s.peerWakes.filter goes).foldl (fun s w => s.tellPeer w.1 1 21 w.2.1 4 w.2.2) { s with peerWakes := s.peerWakes.filter fun w => !goes w }

/-! ### Responses of peers (R430; 08 R203, R206) -/

/-- A completion time of a peer, in this module's time (R206): .die to .sys wait for Cf + Σ, .fab for each component + Σ. -/
def State.peerTime (s : State) (cd0 cd1 cf : Nat) : Nat × Nat × Nat :=
  let g := s.disc.sigma
  (cf + g, cf + g, max (max cd0 cd1) cf + g)

/-- The answer to one access in a peer's memory: its data, or poison; for a write its completion time, or the deferred error
of a refused or unreachable write. A read under a lease may bring its line, `line`, read at the tick ct.1 of the peer's time with
a lease to ct.2.2: a copy that the core then holds, unless a drop tick of its own, less the skew, is later (08 R200, R207, R225; log
142). The data of a write are the tick at which the home applied it, in the peer's time as the copy's reading tick (08 R202); what
an atomic operation or a copy writes ends the copy (08 R204). Bit 32 of a monitor's answer says that it is armed (09 R237). -/
def State.answerPeer (s : State) (id k : Nat) (o : Op) (a : Access) (data : Nat) (bad : Option Nat) (ct : Nat × Nat × Nat)
    (line : Option Nat) : State :=
  let join (s : State) : State := s.updOp id fun o => { o with ct := ctMax o.ct (s.peerTime ct.1 ct.2.1 ct.2.2) }
  match a.ask with
  | .read | .fetch =>
    let b := a.served .done data s.gnomon (bad.map fun _ => 3)
    let s := match line with
      | some x => if o.leasesFor a && bad.isNone && decide ((s.core o.core).drop + s.disc.sigma ≤ ct.1) then
          s.updCore o.core (·.reply o { b with tick := ct.1, expiry := ct.2.2, lineData := x, linePoison := [0, 0], lineValid := 3 }) else s
      | none => s
    s.updAcc id k fun _ => b
  | .atomic =>
    let s := (s.updCore o.core (·.dropOlder [lineAt a.pa] (2 ^ 64))).updAcc id k fun a =>
      { a with st := .done, data := data % 2 ^ (8 * a.len), tick := s.gnomon, poison := bad.map fun _ => 3 }
    if bad.isSome then s else join s
  | .monitor =>
    let s := s.updAcc id k fun a => { a with st := .done, tick := s.gnomon, poison := bad.map fun _ => 3 }
    s.updOp id fun o => match o.kind with
      | .mwait _ cond b => { o with
          phase := if bad.isSome then 4 else if data.testBit 32 then 1 else if monCond cond (BitVec.ofNat 32 data) b then 2 else 3
          result := data % 2 ^ 32 }
      | _ => o
  | .write | .red | .target =>
    match bad with
    | some d => (s.updAcc id k fun a => { a with st := .done, tick := s.gnomon }).defer o.g ⟨0x31, d, 0, a.va⟩
    | none =>
      if a.ask == .write && !(match o.kind with | .copy _ => true | _ => false) then
        join (s.updAcc id k fun a => { a with st := .fill, tick := if data = 0 then min ct.1 ct.2.1 else data })
      else join ((s.updCore o.core (·.dropOlder a.fillLines (2 ^ 64))).updAcc id k fun a => { a with st := .done, tick := s.gnomon })

/-- The oldest response leaves the receive buffer of the link that an access's request went by, or of another link of its peer that it
came by before a failure (R432, R433). -/
def State.takeResponse (s : State) (a : Access) : State :=
  match (a.via.toList ++ s.linksTo (bits a.pa 47 40)).find? fun j => (s.link j).inbox.any (·.1 == 1) with
  | some j => s.updLink j fun l => l.takeMsg 1
  | none => s

/-- PEER_RESPONSE (R430): a peer that is not mapped or not reachable gives poison; otherwise the peer's answer to a request that has
gone out arrives, or the wake of an armed registration (R430); a retry, whose completion time is no tick of Gnomon, has the request
sent again (R420; log 142). -/
def State.peerResponse (s : State) (id k : Nat) (data : List Byte) (poison : Bool) (ct : Nat × Nat × Nat) : State :=
  match s.acc? id k with
  | none => s
  | some (o, a) =>
    let wakes : Bool := a.peer && a.ask == .monitor && a.st == .done && o.phase == 1
    let bad : Option Nat := if poison then some 5 else none
    if wakes then
      (match o.kind with
        | .mwait _ cond b => if !poison && !monCond cond (BitVec.ofNat 32 (bytesVal data)) b then s
            else (s.takeResponse a).answerPeer id k o a (bytesVal (data.take 4)) bad ct none
        | _ => s)
    else if !(a.st == .ready && a.peer && !o.queued && s.inOrder id o a) then s
    else if !s.reachable (bits a.pa 47 40) then s.answerPeer id k o a 0 (some 3) (0, 0, 0) none
    else if a.via.isNone then s
    else
      let s := s.takeResponse a
      if 2 ^ 64 ≤ ct.2.2 then s.updAcc id k fun a => { a with via := none }
      else if a.ask == .read && data.length == 128 then
        let x := bytesVal data
        s.answerPeer id k o a (x >>> (8 * (a.pa % 128))) bad ct (some x)
      else s.answerPeer id k o a (bytesVal (data.take (match a.ask with | .read | .fetch | .atomic => a.len | _ => 8))) bad ct none

/-! ### The instructions -/

/-- ORCMD_REGISTER (18 R426) -/
def execOrcmdRegister (g : Nat) (s : State) : Host.Outcome State Fault Refusal :=
  .next (s.orcmdStep g (· == 1) fun s c n => s.orRegister g c n)

/-- ORCMD_DROP (18 R426) -/
def execOrcmdDrop (g : Nat) (s : State) : Host.Outcome State Fault Refusal :=
  .next (s.orcmdStep g (· == 2) fun s c n => s.orDrop g c n)

/-- ORCMD_NO_OP (18 R426) -/
def execOrcmdNoOp (g : Nat) (s : State) : Host.Outcome State Fault Refusal :=
  .next (s.orcmdStep g (fun op => op != 1 && op != 2) fun s _ _ => s.updGroup g fun g => { g with order := none })

/-- PTP_EXCHANGE (18 R418) -/
def execPtpExchange (offset : Nat) (s : State) : Host.Outcome State Fault Refusal :=
  .next (s.ptpStep offset)

/-- LINK_TIMING_EXCHANGE (18 R418) -/
def execLinkTimingExchange (link : Nat) (offset : Nat) (s : State) : Host.Outcome State Fault Refusal :=
  .next (s.timingStep link offset)

/-- LOCK_TIMEOUT (18 R418, R420) -/
def execLockTimeout (s : State) : Host.Outcome State Fault Refusal :=
  .next s.lockTimeout

/-- LINK_TRAINING (18 R420, R431) -/
def execLinkTraining (link : Nat) (lanes : Nat) (roundTrip : Nat) (sigma : Nat) (peerLocked : Bool) (s : State) : Host.Outcome State Fault Refusal :=
  .next (s.linkTraining link lanes roundTrip sigma peerLocked)

/-- LINK_FAILURE (18 R433) -/
def execLinkFailure (link : Nat) (s : State) : Host.Outcome State Fault Refusal :=
  .next (s.linkFailure link)

/-- FLIT_RECEIVE (18 R431) -/
def execFlitReceive (link : Nat) (head : BitVec 32) (payload : List Byte) (checkOk : Bool) (s : State) : Host.Outcome State Fault Refusal :=
  .next (s.flitReceive link head payload checkOk)

/-- FLIT_PAUSE (18 R432) -/
def execFlitPause (link : Nat) (vc : Nat) (s : State) : Host.Outcome State Fault Refusal :=
  .next (s.flitPause link vc)

/-- FLIT_RESUME (18 R432) -/
def execFlitResume (link : Nat) (vc : Nat) (s : State) : Host.Outcome State Fault Refusal :=
  .next (s.flitResume link vc)

/-- PEER_REQUEST (18 R420, R430; 08 R225) -/
def execPeerRequest (peer : Nat) (pa : Nat) (n : Nat) (write : List Byte × Option (Nat × Nat)) (lease : Bool) (s : State) : Host.Outcome State Fault Refusal :=
  .next (s.peerRequest peer pa n write lease)

/-- PEER_RESPONSE (18 R430) -/
def execPeerResponse (op : Nat) (acc : Nat) (data : List Byte) (poison : Bool) (cd0 : Nat) (cd1 : Nat) (cf : Nat) (s : State) : Host.Outcome State Fault Refusal :=
  .next (s.peerResponse op acc data poison (cd0, cd1, cf))

end Sys2Proof.Machine
end

