-- ==== Sys2Proof/Machine/Host.lean ====
section
/-! DEFINITION. The host's accesses to module memory, slices in retention, the migration of pages and the host commands (08
R222, R223, R226; 16 R399; 18 R428, R429; 22 R481, R482). -/

namespace Sys2Proof.Machine

/-! ### Host accesses (R222, R429; 21 R468) -/

/-- Halves that the bridge tracks in states H and P. -/
def bridgeHalves : Nat := 1048576

/-- The half in state H that was granted least recently. -/
def State.oldestHalf (s : State) : Option Nat :=
  (s.halves.foldl (fun r e => match e.2, r with
    | .h t, none => some (e.1, t)
    | .h t, some (k, u) => if t < u then some (e.1, t) else some (k, u)
    | _, r => r) (none : Option (Nat × Nat))).map (·.1)

/-- Whether a host request for a half waits: a back-invalidation is in flight, or a device access that waited for it is still to be
applied (R429). -/
def HostHalf.busy : HostHalf → Bool
  | .h _ => false
  | _ => true

/-- A host request for some halves (R429): none while one of them is in state P, nor before the accesses that waited for it are
applied; a grant that would exceed the bridge's number first asks the oldest half back; otherwise each half that is not held
becomes H. -/
def State.hostGrant (s : State) (hs : List Nat) : Except State State :=
  let new := hs.filter fun h => (s.halves.get? h).isNone
  if hs.any fun h => (s.halves.get? h).any HostHalf.busy then .error s
  else if bridgeHalves < (s.halves.filter fun e => e.2.host).length + new.length then .error (s.backInval s.oldestHalf.toList)
  else .ok { s with halves := new.foldl (fun m h => m.set h (.h s.gnomon)) s.halves }

/-- A host write applied at its home, none where the home refuses it (R222; 19 R445). -/
def State.hostPut (s : State) (pa n x : Nat) : Option State :=
  (s.outsideWrite pa n x).map fun t => t.mirrorWrite 6 0 0 0 pa n

/-- The bytes of a host write that its poisoned halves let through: a half that it covers in part, at an end of it, takes none
of them (21 R468; log 161). -/
def State.hostTaken (s : State) (pa n : Nat) : Nat × Nat :=
  let bad (h : Nat) : Bool := (s.halfPoison h).isSome && !(wholeHalves pa n).contains h
  let lo := if bad (pa / 64) then 64 * (pa / 64 + 1) else pa
  let hi := if bad ((pa + n - 1) / 64) then 64 * ((pa + n - 1) / 64) else pa + n
  (lo, hi)

/-- A host write (R222; 21 R468): what is refused of it is a telemetry event. -/
def State.hostApply (s : State) (pa n x : Nat) : State :=
  let (lo, hi) := s.hostTaken pa n
  let s' := if lo < hi then s.hostPut lo (hi - lo) ((x >>> (8 * (lo - pa))) % 2 ^ (8 * (hi - lo))) else some s
  match s' with
  | none => s.telemetry 6 0
  | some t => if lo = pa ∧ hi = pa + n then t else t.telemetry 6 0

/-- A CXL.mem request outside stage 4 completes as an unsupported request (22 R478). -/
def State.unsupported (s : State) : State :=
  { s with host := { s.host with readData := 0, readPoison := false, unsupported := true } }

/-- HOST_READ (R222, R429): the bytes, and the poison indication. -/
def State.hostRead (s : State) (pa n : Nat) : State :=
  if s.boot.stage ≠ 4 then s.unsupported
  else if n = 0 ∨ !inModuleN pa n then s
  else match s.hostGrant (halvesOf pa n) with
    | .error t => t
    | .ok t =>
      let t := t.wakeFor false pa n
      { t with host := { t.host with readData := t.homeRead pa n, readPoison := (t.homePoison pa n).isSome, unsupported := false } }

/-- HOST_WRITE (R222, R429). -/
def State.hostWrite (s : State) (pa : Nat) (bytes : List Byte) : State :=
  if s.boot.stage ≠ 4 then s.unsupported
  else if bytes.isEmpty ∨ !inModuleN pa bytes.length then s
  else match s.hostGrant (halvesOf pa bytes.length) with
    | .error t => t
    | .ok t => ({ t with host := { t.host with unsupported := false } } : State).hostApply pa bytes.length (bytesVal bytes)

/-- Whether an access waits for halves that the host holds (R223). -/
def Op.asksHalf (o : Op) (a : Access) : Bool :=
  a.st == .ready && a.mt == 0 && !a.peer && !o.queued && a.ask != .target

/-- The accesses that wait for a half, by operation and index (R429). -/
def State.halfWaiters (s : State) (half : Nat) : List (Nat × Nat) :=
  s.ops.flatMap fun e => (e.2.accs.zipIdx.filter fun a => e.2.asksHalf a.1 && (needHalves a.1.cum a.1.pa a.1.len).contains half).map
    fun a => (e.1, a.2)

/-- Whether another move than an access waits for a half. -/
def Waiter.moves (half : Nat) : Waiter → Bool
  | .move h _ => h == half
  | .acc .. => false

/-- The host gives a half back, with its modified bytes when there are any (R429): they are applied as a host write, and the
half becomes N; the accesses and the other moves that waited for it come before a host request for it (log 159). -/
def State.surrender (s : State) (half : Nat) (bytes : List Byte) : State :=
  let s := if bytes.isEmpty then s else s.hostApply (64 * half) (min 64 bytes.length) (bytesVal (bytes.take 64))
  let l := (s.halfWaiters half).map (fun i => .acc i.1 i.2) ++ s.waiting.filter (·.moves half)
  { s with halves := if s.halves.get? half = some .p ∧ !l.isEmpty then s.halves.set half (.w l) else s.halves.erase half }

/-- BACK_INVALIDATE_ANSWER (R429): of a half in state P. -/
def State.backAnswer (s : State) (half : Nat) (modified : List Byte) : State :=
  if s.halves.get? half = some .p then s.surrender half modified else s

/-- HOST_WRITE_BACK (R429): of a half that the host holds. -/
def State.hostWriteBack (s : State) (half : Nat) (bytes : List Byte) : State :=
  if s.hostHas half then s.surrender half bytes else s

/-- A half without what has been applied; it is no longer listed when nothing waits (R429). -/
def State.halfState (s : State) (x : HostHalf) : Option HostHalf :=
  let waits (w : Waiter) : Bool := match w with
    | .acc i k => (s.acc? i k).any fun y => y.1.asksHalf y.2
    | .move .. => s.waiting.contains w
  match x with
  | .w l => match l.filter waits with
    | [] => none
    | l => some (.w l)
  | x => some x

/-- What waits for halves, in the order of arrival (R429). -/
def State.arrivals (s : State) : List Waiter :=
  let waits (o : Op) (a : Access) : Bool := o.asksHalf a && (needHalves a.cum a.pa a.len).any fun h => (s.halves.get? h).isSome
  let stays (w : Waiter) : Bool := match w with
    | .acc i k => (s.acc? i k).any fun y => waits y.1 y.2
    | .move h _ => (s.halves.get? h).isSome
  let old := s.waiting.filter stays
  old ++ s.ops.flatMap fun e => (e.2.accs.zipIdx.filter fun a => waits e.2 a.1 && s.inOrder e.1 e.2 a.1 && !old.contains (.acc e.1 a.2)).map
    fun a => .acc e.1 a.2

/-- Halves that waiting accesses touch are asked back (R223). -/
def State.settleHalves (s : State) : State :=
  if s.halves.isEmpty then s
  else
    let s : State := { s with
      halves := s.halves.filterMap fun e => (s.halfState e.2).map fun x => (e.1, x)
      waiting := s.arrivals }
    s.ops.foldl (fun s e => e.2.accs.foldl (fun s a =>
    if a.st = .walk then s.backInval (s.walkHeld e.2.ctx a.va)
    else if e.2.asksHalf a then s.backInval (needHalves a.cum a.pa a.len) else s) s) s

/-- RETENTION_ENTER (08 R226): a live slice's data arrays sleep. -/
def State.retentionEnter (s : State) (slice : Nat) : State :=
  if slice < 256 ∧ !s.asleep.contains slice ∧ !s.retired.contains slice then { s with asleep := slice :: s.asleep } else s

/-- RETENTION_WAKE (08 R226) -/
def State.retentionWake (s : State) (slice : Nat) : State := { s with asleep := s.asleep.erase slice }

/-! ### Migration (16 R399) -/

/-- The address of the leaf entry that translates va, from the table of a level. -/
def leafAt (s : State) (va : Nat) : Nat → Nat → Nat
  | 0, table => table + 8 * bits va 20 16
  | k + 1, table =>
    let idx := match k with
      | 0 => bits va 29 21
      | 1 => bits va 42 30
      | _ => bits va 56 43
    let e := s.rdMem (table + 8 * idx) 8
    if e.testBit 1 then table + 8 * idx else leafAt s va k (bits e 55 8 * 256)

/-- A physical address after the move of n bytes from old to new. -/
def movedPa (old new n pa : Nat) : Nat := if old ≤ pa ∧ pa < old + n then pa - old + new else pa

/-- The entries of a table by line or half, of `unit` bytes, moved with their page; what stood at the new place goes. -/
def AMap.move {α : Type} (m : AMap α) (unit old new n : Nat) : AMap α :=
  let inOld (k : Nat) : Bool := decide (old ≤ unit * k ∧ unit * k < old + n)
  let inNew (k : Nat) : Bool := decide (new ≤ unit * k ∧ unit * k < new + n)
  (m.filter fun e => inOld e.1).foldl (fun r e => r.set (movedPa old new n (unit * e.1) / unit) e.2)
    (m.filter fun e => !(inOld e.1) && !(inNew e.1))

/-- The bytes of a page moved. -/
def memMove (m : List Host.Cell) (old new n : Nat) : List Host.Cell :=
  let inOld (k : Nat) : Bool := decide (old ≤ k ∧ k < old + n)
  let inNew (k : Nat) : Bool := decide (new ≤ k ∧ k < new + n)
  (m.filter fun e => inOld e.1).foldl (fun r e => memWrite r (movedPa old new n e.1) e.2)
    (m.filter fun e => !(inOld e.1) && !(inNew e.1))

/-- The floors of a page's old homes travel to its new ones (R399 step 3): its lines without a record take them. Homes are
linear in the address, so 16 KiB of each 64 KiB half meet every pair. -/
def State.moveFloors (s : State) (old new n : Nat) : State :=
  ((List.range 128).flatMap fun x => (if n ≤ 65536 then [0] else [0, 65536]).map (128 * x + ·)).foldl (fun t o =>
    t.raiseFloor (s.homeSlice (new + o)) (s.floors.getD (s.homeSlice (old + o)) {})) s

/-- A page's lines move to their new homes (R399 steps 3 and 4): data, poison, expiry records, monitor registrations, mirror
lines, held lines, the accesses in flight. Records of the lines that stood at the new address leave for the floors (08 R201). Copies
of its lines in L1s are evicted. -/
def State.movePage (s : State) (old new n : Nat) : State :=
  let mv := movedPa old new n
  let gone (l : Nat) : Bool := mv (128 * l) != 128 * l || decide (new ≤ 128 * l ∧ 128 * l < new + n)
  let there := (s.lines.map (·.1)).filter fun l => decide (new ≤ 128 * l ∧ 128 * l < new + n)
  let s := there.foldl State.dropLine (s.moveFloors old new n)
  let s : State := { s with
    mem := memMove s.mem old new n
    memPoison := AMap.move s.memPoison 64 old new n
    lines := AMap.move s.lines 128 old new n
    monitors := s.monitors.map fun m => { m with pa := mv m.pa }
    mirrors := s.mirrors.map fun m => { m with pa := mv m.pa }
    groups := s.groups.mapVals fun _ g => { g with ribPa := mv g.ribPa }
    blocks := s.blocks.mapVals fun _ b => { b with
      tilePas := b.tilePas.map fun x => (mv x.1, x.2)
      tiles := b.tiles.mapVals fun _ t => { t with half := mv (64 * t.half) / 64 } }
    queues := s.queues.mapVals fun _ q => { q with wptrPa := q.wptrPa.map mv }
    ops := s.ops.mapVals fun _ o => { o with accs := o.accs.map fun a => if a.mt = 0 then { a with pa := mv a.pa } else a } }
  s.updCores fun _ c => { c with l1 := c.l1.keep fun l _ => !gone l }

/-- The translation of a page that may be moved, with its leaf entry: a page of this module's memory (R399). -/
def State.pageOf (s : State) (ctx va : Nat) : Option (Leaf × Nat) :=
  match s.walk ctx va with
  | .ok l => if canonical va ∧ l.mt = 0 ∧ !inAperture l.pa then some (l, leafAt s va 3 (s.ctx ctx).root) else none
  | .error _ => none

/-- The halves of a page that the host holds. -/
def State.pageHalves (s : State) (pa n : Nat) : List Nat :=
  (s.halves.filter fun h => h.2.host && decide (pa ≤ 64 * h.1 ∧ 64 * h.1 < pa + n)).map (·.1)

/-- The stack, or the channels, that hold n bytes of memory (21 R472, R476): 0 to 7, 8 to 23. -/
def unitsOf (pa n : Nat) : List Nat :=
  if pa < 0x8000000000 then [pa / 0x1000000000]
  else ((List.range (n / 65536)).map fun k => 8 + Sys2Proof.Config.channelOf (pa / 65536 + k) % 16).dedup

/-- Whether a page may be migrated to an address: aligned module memory in service, none of it excluded from use (16 R399; 21 R473,
R475, R476). -/
def State.mayHold (s : State) (new n : Nat) : Bool :=
  new % n == 0 && inModuleN new n && !s.lost new && !(unitsOf new n).any s.units.contains &&
    !s.excluded.any fun f => decide (new ≤ 65536 * f ∧ 65536 * f < new + n)

/-- A page migrated (R399): its lines move, its translations are dropped, and the tables name the new address. -/
def State.migrate (s : State) (ctx va new : Nat) (l : Leaf) (entry : Nat) : State :=
  let e := s.rdMem entry 8
  let s := s.movePage l.pa new (2 ^ l.bits)
  let entry := movedPa l.pa new (2 ^ l.bits) entry
  (s.applyWrite entry 8 (e % 256 + new + 2 ^ 56 * (e / 2 ^ 56))).dropTlb 0 ctx va

/-! ### Host registers (R478, R481) -/

/-- STATUS (R481). -/
def State.status (s : State) : Nat :=
  let b (x : Bool) : Nat := if x then 1 else 0
  packBits [(3, s.boot.stage), (1, 0), (1, b s.disc.lock), (1, b s.host.hbusy), (1, b s.host.ovr), (1, b s.boot.rlog), (8, s.boot.err)]

/-- What a host read of a register gives (R478, R481; 21 R471): ID and STATUS in any stage, the others in stage 4. -/
def State.hostReg (s : State) (off : Nat) : Nat :=
  match off with
  | 0x00 => 0x0901 + 2 ^ 32 * Config.serial.toNat
  | 0x08 => s.status
  | _ =>
    if s.boot.stage ≠ 4 then 0
    else match off with
      | 0x10 => s.host.qtb.toNat
      | 0x18 => s.host.ctb.toNat
      | 0x20 => s.host.harg0.toNat
      | 0x28 => s.host.harg1.toNat
      | 0x30 => s.host.harg2.toNat
      | 0x38 => s.host.hcmd.toNat
      | 0x40 => s.host.hdone.toNat
      | 0x48 => s.host.tlmb.toNat
      | 0x50 => s.host.pcap.toNat
      | 0x400 => s.units0
      | 0x404 => s.units1
      | 0x408 => s.linksReg
      | _ => 0

/-- QTB_WRITE (R481; 15 R348): every queue is examined. -/
def State.qtbWrite (s : State) (v : DWord) : State :=
  if s.boot.stage ≠ 4 then s
  else ({ s with host := { s.host with qtb := (v >>> 6) <<< 6 } } : State).examineAll

/-- PCAP as a write leaves it (R481). -/
def pcapOf (v : Word) : Word := if v = 0 then 0 else if v < 300 then 300 else if 2200 < v then 2200 else v

/-- PCAP_WRITE (R481) -/
def State.pcapWrite (s : State) (v : Word) : State :=
  if s.boot.stage ≠ 4 then s else { s with host := { s.host with pcap := pcapOf v } }

/-- A write of HCMD (R482): it starts the command, or is dropped while one runs. -/
def State.hcmdWrite (s : State) (v : Word) : State :=
  if s.host.hbusy then { s with host := { s.host with ovr := true } }
  else { s with host := { s.host with hcmd := v, hbusy := true, hdone := 0, users := none } }

/-- HOST_REG_WRITE (R478, R481): a register that the host may write, in stage 4. -/
def State.hostRegWrite (s : State) (off : Nat) (v : DWord) : State :=
  let H := s.host
  if s.boot.stage ≠ 4 then s
  else match off with
    | 0x10 => s.qtbWrite v
    | 0x18 => { s with host := { H with ctb := (v >>> 6) <<< 6 } }
    | 0x20 => { s with host := { H with harg0 := v } }
    | 0x28 => { s with host := { H with harg1 := v } }
    | 0x30 => { s with host := { H with harg2 := v } }
    | 0x38 => s.hcmdWrite (v.setWidth 32)
    | 0x48 => { s with host := { H with tlmb := (v >>> 12) <<< 12 } }
    | 0x50 => s.pcapWrite (v.setWidth 32)
    | _ => s

/-! ### Host commands (R482) -/

/-- A command ends: HDONE is set, hbusy cleared, vector 1 signalled (R482, R484). -/
def State.hcmdDone (s : State) (result : Nat) : State :=
  ({ s with host := { s.host with hdone := BitVec.ofNat 32 (2 ^ 31 + result), hbusy := false, users := none } } : State).signal 1

/-- A running command of a code. -/
def State.runs (s : State) (code : Nat) : Bool := s.host.hbusy && s.host.hcmd.toNat == code

/-- The context that a command names, when it is resident. -/
def State.hcmdCtx (s : State) : Option Nat :=
  if s.host.harg0.toNat < 65536 ∧ (s.ctx s.host.harg0.toNat).resident then some s.host.harg0.toNat else none

/-- Commands 1 and 2, with the effect of `tlbi.va` and `tlbi.ctx` (R482; 16 R383): the translations are dropped, then the
accesses that used them end. -/
def State.hcmdInval (s : State) (code kind : Nat) : State :=
  if !s.runs code then s
  else match s.hcmdCtx with
    | none => s.hcmdDone 1
    | some c =>
      let va := s.host.harg1.toNat
      match s.host.users with
      | none =>
        let l := s.tlbiUsers kind c va
        let t := s.dropTlb kind c va
        { t with host := { t.host with users := some l } }
      | some l => if l.any s.stillUses then s else s.hcmdDone 0

/-- Command 3 (R482; 16 R399): halves that the host holds are asked back first. A page or a new address that no migration can
have gives result 1. -/
def State.hcmdMigrate (s : State) : State :=
  if !s.runs 3 then s
  else match s.hcmdCtx with
    | none => s.hcmdDone 1
    | some c =>
      let va := s.host.harg1.toNat
      let new := s.host.harg2.toNat
      match s.pageOf c va with
      | none => s.hcmdDone 1
      | some (l, entry) =>
        let n := 2 ^ l.bits
        let hs := s.pageHalves l.pa n ++ s.pageHalves new n
        if !s.mayHold new n then s.hcmdDone 1
        else if !hs.isEmpty then s.backInval hs
        else (s.migrate c va new l entry).hcmdDone 0

/-- The blocks of a context. -/
def State.ctxBlocks (s : State) (c : Nat) : List (Nat × Block) := s.blocks.filter fun b => b.2.ctx == c

/-- Command 4 (R482; 16 R393, R394): every block of the context is saved; done when each is reported saved. -/
def State.hcmdSave (s : State) : State :=
  if !s.runs 4 then s
  else match s.hcmdCtx with
    | none => s.hcmdDone 1
    | some c =>
      let todo := (s.ctxBlocks c).filter fun b => !b.2.cores.isEmpty && !b.2.preempt
      if !(s.ctx c).hold || !todo.isEmpty then
        todo.foldl (fun s b => s.saveBlock b.1) (s.updCtx c fun x => { x with hold := true })
      else if (s.ctxBlocks c).all fun b => b.2.reported || b.2.allEnded then s.hcmdDone 0
      else s

/-- Command 5 (R482): the context's blocks may be placed again. -/
def State.hcmdRelease (s : State) : State :=
  if !s.runs 5 then s
  else match s.hcmdCtx with
    | none => s.hcmdDone 1
    | some c => (s.updCtx c fun x => { x with hold := false }).hcmdDone 0

/-- A code that the table does not list (R482). -/
def State.hcmdOther (s : State) (code : Word) : State :=
  if s.runs code.toNat ∧ (code = 0 ∨ 6 < code) then s.hcmdDone 1 else s

/-! ### The instructions -/

/-- HOST_READ (08 R222; 18 R429) -/
def execHostRead (pa : Nat) (n : Nat) (s : State) : Host.Outcome State Fault Refusal :=
  .next (s.hostRead pa n)

/-- HOST_WRITE (08 R222; 18 R429) -/
def execHostWrite (pa : Nat) (bytes : List Byte) (s : State) : Host.Outcome State Fault Refusal :=
  .next (s.hostWrite pa bytes)

/-- BACK_INVALIDATE_ANSWER (08 R223; 18 R429) -/
def execBackInvalidateAnswer (half : Nat) (modified : List Byte) (s : State) : Host.Outcome State Fault Refusal :=
  .next (s.backAnswer half modified)

/-- HOST_WRITE_BACK (18 R429) -/
def execHostWriteBack (half : Nat) (bytes : List Byte) (s : State) : Host.Outcome State Fault Refusal :=
  .next (s.hostWriteBack half bytes)

/-- RETENTION_ENTER (08 R226) -/
def execRetentionEnter (slice : Nat) (s : State) : Host.Outcome State Fault Refusal :=
  .next (s.retentionEnter slice)

/-- RETENTION_WAKE (08 R226) -/
def execRetentionWake (slice : Nat) (s : State) : Host.Outcome State Fault Refusal :=
  .next (s.retentionWake slice)

/-- HOST_LINK_TRAIN_DOWN (18 R428): the port's behaviour is the same apart from timing -/
def execHostLinkTrainDown (lanes : Nat) (s : State) : Host.Outcome State Fault Refusal :=
  .next s

/-- QTB_WRITE (22 R481; 15 R348) -/
def execQtbWrite (v : BitVec 64) (s : State) : Host.Outcome State Fault Refusal :=
  .next (s.qtbWrite v)

/-- PCAP_WRITE (22 R481) -/
def execPcapWrite (v : BitVec 32) (s : State) : Host.Outcome State Fault Refusal :=
  .next (s.pcapWrite v)

/-- HOST_REG_WRITE (22 R478, R481) -/
def execHostRegWrite (offset : Nat) (v : BitVec 64) (s : State) : Host.Outcome State Fault Refusal :=
  .next (s.hostRegWrite offset v)

/-- HCMD_INVALIDATE (22 R482) -/
def execHcmdInvalidate (s : State) : Host.Outcome State Fault Refusal :=
  .next (s.hcmdInval 1 0)

/-- HCMD_INVALIDATE_CTX (22 R482) -/
def execHcmdInvalidateCtx (s : State) : Host.Outcome State Fault Refusal :=
  .next (s.hcmdInval 2 1)

/-- HCMD_MIGRATE (22 R482; 16 R399) -/
def execHcmdMigrate (s : State) : Host.Outcome State Fault Refusal :=
  .next s.hcmdMigrate

/-- HCMD_SAVE_CTX (22 R482) -/
def execHcmdSaveCtx (s : State) : Host.Outcome State Fault Refusal :=
  .next s.hcmdSave

/-- HCMD_RELEASE_CTX (22 R482) -/
def execHcmdReleaseCtx (s : State) : Host.Outcome State Fault Refusal :=
  .next s.hcmdRelease

/-- HCMD_UNASSIGNED (22 R482) -/
def execHcmdUnassigned (code : BitVec 32) (s : State) : Host.Outcome State Fault Refusal :=
  .next (s.hcmdOther code)

end Sys2Proof.Machine
end

