-- ==== Sys2Proof/Machine/Shake.lean ====
section
/-! DEFINITION. SHAKE256, the hash of the reports (22 R479, R483): the Keccak permutation on 25 words of 64 bits and its sponge with
a rate of 136 bytes, as FIPS 202 gives them (PRESUMED, log 185: the spec names the function and does not define it). -/

namespace Sys2Proof.Machine

/-- A word of 64 bits rotated left. -/
def rol64 (x k : Nat) : Nat := ((x <<< k) ||| (x >>> (64 - k))) % 2 ^ 64

/-- The rotation of each word, word x + 5y. -/
def keccakRot : List Nat :=
  [0, 1, 62, 28, 27, 36, 44, 6, 55, 20, 3, 10, 43, 25, 39, 41, 45, 15, 21, 8, 18, 2, 61, 56, 14]

/-- The constants of the 24 rounds. -/
def keccakRounds : List Nat :=
  [0x0000000000000001, 0x0000000000008082, 0x800000000000808A, 0x8000000080008000, 0x000000000000808B, 0x0000000080000001,
   0x8000000080008081, 0x8000000000008009, 0x000000000000008A, 0x0000000000000088, 0x0000000080008009, 0x000000008000000A] ++
  [0x000000008000808B, 0x800000000000008B, 0x8000000000008089, 0x8000000000008003, 0x8000000000008002, 0x8000000000000080,
   0x000000000000800A, 0x800000008000000A, 0x8000000080008081, 0x8000000000008080, 0x0000000080000001, 0x8000000080008008]

/-- One round: theta, rho and pi, chi, iota. -/
def keccakRound (a : List Nat) (rc : Nat) : List Nat :=
  let w (l : List Nat) (k : Nat) : Nat := l.getD k 0
  let c := (List.range 5).map fun x => w a x ^^^ w a (x + 5) ^^^ w a (x + 10) ^^^ w a (x + 15) ^^^ w a (x + 20)
  let d := (List.range 5).map fun x => w c ((x + 4) % 5) ^^^ rol64 (w c ((x + 1) % 5)) 1
  let b := (List.range 25).map fun k =>
    let j := (k % 5 + 3 * (k / 5)) % 5 + 5 * (k % 5)
    rol64 (w a j ^^^ w d (j % 5)) (w keccakRot j)
  (List.range 25).map fun k =>
    let v := w b k ^^^ ((2 ^ 64 - 1 - w b ((k + 1) % 5 + 5 * (k / 5))) &&& w b ((k + 2) % 5 + 5 * (k / 5)))
    if k = 0 then v ^^^ rc else v

/-- The permutation. -/
def keccakF (a : List Nat) : List Nat := keccakRounds.foldl keccakRound a

/-- A block of 136 bytes joins the state. -/
def absorbBlock (a : List Nat) (x : List Byte) : List Nat :=
  keccakF (a.zipIdx.map fun e => if e.2 < 17 then e.1 ^^^ bytesVal ((x.drop (8 * e.2)).take 8) else e.1)

/-- The message with its padding, taken block by block. -/
def absorb : Nat → List Nat → List Byte → List Nat
  | 0, a, _ => a
  | k + 1, a, m => absorb k (absorbBlock a m) (m.drop 136)

/-- The first 32 bytes of SHAKE256 of a message: SHAKE256-256. -/
def shake256 (m : List Byte) : List Byte :=
  let blocks := m.length / 136 + 1
  let pad := 136 * blocks - m.length
  let tail : List Byte := (List.range pad).map fun k => BitVec.ofNat 8 ((if k = 0 then 0x1F else 0) + (if k + 1 = pad then 0x80 else 0))
  ((absorb blocks (List.replicate 25 0) (m ++ tail)).take 4).flatMap fun w => bytesOf 8 w

end Sys2Proof.Machine
end

