-- ==== Sys2Proof/Machine/Xmss.lean ====
section
/-! DEFINITION. The verifier of firmware and of the configuration image (22 R479): XMSS-SHAKE256_20_256, as RFC 8391 and SP 800-208 give
it (PRESUMED, log 179: the spec names the scheme and does not define it). Nodes, keys and messages are lists of bytes. -/

namespace Sys2Proof.Machine

/-- A number as n bytes, the most significant first. -/
def bytesBE (n x : Nat) : List Byte := (bytesOf n x).reverse

/-- The exclusive or of two nodes. -/
def nodeXor (a b : List Byte) : List Byte := List.zipWith (· ^^^ ·) a b

/-- The keyed hashes: function 0 of a chain, 1 of two nodes, 2 of the message, 3 for the keys and masks. -/
def keyedHash (which : Nat) (key m : List Byte) : List Byte := shake256 (bytesBE 32 which ++ key ++ m)

/-- The pseudorandom node of an address: its type, four words, and whether it is the key or a mask. -/
def addressNode (seed : List Byte) (kind a b c which : Nat) : List Byte :=
  keyedHash 3 seed (bytesBE 12 0 ++ bytesBE 4 kind ++ bytesBE 4 a ++ bytesBE 4 b ++ bytesBE 4 c ++ bytesBE 4 which)

/-- Steps of chain i of one-time key `leaf`, from a place on. -/
def chainSteps (seed : List Byte) (leaf i : Nat) : Nat → Nat → List Byte → List Byte
  | 0, _, x => x
  | n + 1, start, x =>
    let node (which : Nat) : List Byte := addressNode seed 0 leaf i start which
    chainSteps seed leaf i n (start + 1) (keyedHash 0 (node 0) (nodeXor x (node 1)))

/-- The node above two nodes of a tree: of kind 1 a one-time key's, of kind 2 the hash tree. -/
def nodeAbove (seed : List Byte) (kind a height index : Nat) (l r : List Byte) : List Byte :=
  let node (which : Nat) : List Byte := addressNode seed kind a height index which
  keyedHash 1 (node 0) (nodeXor l (node 1) ++ nodeXor r (node 2))

/-- One level of a one-time key's tree; the last node of an odd number goes up as it is. -/
def keyLevel (seed : List Byte) (leaf height : Nat) : Nat → List (List Byte) → List (List Byte)
  | k, l :: r :: rest => nodeAbove seed 1 leaf height k l r :: keyLevel seed leaf height (k + 1) rest
  | _, rest => rest

/-- The root of a one-time key's tree, after n levels from a height. -/
def keyRoot (seed : List Byte) (leaf : Nat) : Nat → Nat → List (List Byte) → List Byte
  | 0, _, l => l.headD []
  | n + 1, height, l => keyRoot seed leaf n (height + 1) (keyLevel seed leaf height 0 l)

/-- The 67 digits of a digest: 64 of four bits, the high half of a byte first, and three of their checksum. -/
def digits (m : List Byte) : List Nat :=
  let d := m.flatMap fun b => [b.toNat / 16, b.toNat % 16]
  let sum := (d.map (15 - ·)).sum
  d ++ [sum / 256 % 16, sum / 16 % 16, sum % 16]

/-- Node k of a list of bytes. -/
def nodeOf (x : List Byte) (k : Nat) : List Byte := (x.drop (32 * k)).take 32

/-- The root that a leaf and the nodes beside its way up come to. -/
def treeRoot (seed : List Byte) (leaf : Nat) (beside : List Byte) (n : Nat) (node : List Byte) : List Byte :=
  (List.range n).foldl (fun x k =>
    let y := nodeOf beside k
    if leaf / 2 ^ k % 2 = 0 then nodeAbove seed 2 0 k (leaf / 2 ^ (k + 1)) x y else nodeAbove seed 2 0 k (leaf / 2 ^ (k + 1)) y x) node

/-- Whether a signature of 2,820 bytes of a message verifies under a public key of 68 bytes: the scheme's number, the root and the
seed. -/
def xmssVerify (key m sig : List Byte) : Bool :=
  let root := nodeOf (key.drop 4) 0
  let seed := nodeOf (key.drop 4) 1
  let leaf := bytesVal (sig.take 4).reverse
  let r := nodeOf (sig.drop 4) 0
  let ds := digits (keyedHash 2 (r ++ root ++ bytesBE 32 leaf) m)
  let ends := ds.zipIdx.map fun d => chainSteps seed leaf d.2 (15 - d.1) d.1 (nodeOf (sig.drop 36) d.2)
  key.length == 68 && sig.length == 2820 && bytesVal (key.take 4).reverse == 0x12 && decide (leaf < 2 ^ 20) &&
    treeRoot seed leaf (sig.drop 2180) 20 (keyRoot seed leaf 7 0 ends) == root

end Sys2Proof.Machine
end

