-- ==== Sys2Proof/Machine/Boot.lean ====
section
/-! DEFINITION. Scrubbing, failures and repair (21 R470 to R477), signing, attestation and bring-up (22 R478 to R480, R483), power (22
R485, R486). -/

namespace Sys2Proof.Machine

/-! ### Repair in service (21 R470 to R477) -/

/-- SCRUB of memory (R470): an uncorrectable error poisons the half-line of DRAM, whoever holds its line; a correctable one is corrected, which no rule sees. What a
scrub finds in a word of a core is a turn of its own (State.softError). -/
def State.scrub (s : State) (pa : Nat) (uncorrectable : Bool) : State :=
  if uncorrectable && inModule pa then s.addPoison [pa / 64] 1 else s

/-- Whether a core is built, on a live die, and in a use. -/
def State.hasUse (s : State) (core : Nat) (u : CoreUse) : Bool :=
  decide (core < 104) && !s.deadDies.contains (coreDie core) && (s.core core).use == u

/-- The swap of a spare core for a failing one (R474). -/
def State.swapCore (s : State) (failing spare : Nat) : State :=
  (s.updCore failing fun c => { c with use := .failed }).updCore spare fun c => { c with use := .active }

/-- The first live slice after slice p of a die (R472). -/
def State.nextSlice (s : State) (die p : Nat) : Option Nat :=
  ((List.range 127).map fun k => (p + 1 + k) % 128).find? fun k => !s.retired.contains (128 * die + k)

/-- The remap table of a die with every entry that names p set to q. -/
def State.remapTo (s : State) (die p q : Nat) : State :=
  let f (t : Vector Nat 128) : Vector Nat 128 := Vector.ofFn fun i => if t[i] = p then q else t[i]
  { s with remap := if die = 0 then s.remap.set 0 (f s.remap[0]) else s.remap.set 1 (f s.remap[1]) }

/-- A slice retired (R472): its lines, with their floors, move to the next live slice, and the table changes. -/
def State.retireSlice (s : State) (die p q : Nat) : State :=
  (({ s with
    retired := (128 * die + p) :: s.retired
    asleep := s.asleep.erase (128 * die + p) } : State).raiseFloor (128 * die + q) (s.floors.getD (128 * die + p) {})).remapTo die p q

/-- The halves homed at a slice that the host holds. -/
def State.sliceHalves (s : State) (slice : Nat) : List Nat :=
  (s.halves.filter fun h => h.2.host && s.homeSlice (64 * h.1) == slice).map (·.1)

/-! ### Rows, stacks and channels (21 R475, R476) -/

/-- The 64 KiB frames of memory from one address to another, excluded from use. -/
def State.exclude (s : State) (lo hi : Nat) : State :=
  { s with excluded := (s.excluded ++ (List.range (hi / 65536 + 1)).drop (lo / 65536)).dedup }

/-- A row repaired (R475): the lines keep their contents. Where its bank has no spare row left, its pages are excluded from use; firmware
migrates each as a turn of CHANNEL_RETIREMENT (log 120). -/
def State.repairRow (s : State) (lo hi : Nat) : State :=
  let t : State := { s with rows := s.rows ++ [(lo, hi)] }
  if Sys2Proof.Config.spareRow s.rows.length lo then t else t.exclude lo hi

/-- A stack or channel leaves service, and the counts change (R471, R476; log 120). -/
def State.retireUnit (s : State) (u : Nat) : State :=
  if s.units.contains u then s else ({ s with units := u :: s.units } : State).unitEvent

/-- Whether a page lies in frames that a row repair has excluded. -/
def State.isExcluded (s : State) (pa n : Nat) : Bool := s.excluded.any fun f => decide (pa ≤ 65536 * f ∧ 65536 * f < pa + n)

/-- Whether a page's new address is of its own tier, or that tier is full (R476). -/
def State.tierOk (s : State) (old new : Nat) : Bool :=
  decide (0x8000000000 ≤ old) == decide (0x8000000000 ≤ new) || Sys2Proof.Config.tierFull s.gnomon (decide (0x8000000000 ≤ old))

/-- The failing stack or channel that a retirement names by an address in it; a page may lie in several channels (R476). -/
def failingUnit (l : Leaf) (va : Nat) : Nat := (unitsOf (l.phys va) 65536).headD 0

/-- A page of a failing stack or channel, or of a row without a spare, moved or else poisoned with detail 4 (R475, R476); its old place is
excluded from use. -/
def State.leavePage (s : State) (ctx va new : Nat) (movable : Bool) (l : Leaf) (entry : Nat) : State :=
  let n := 2 ^ l.bits
  let t := if s.isExcluded l.pa n then s else s.retireUnit (failingUnit l va)
  (if movable then t.migrate ctx va new l entry else t.addPoison (halvesOf l.pa n) 4).exclude l.pa (l.pa + n - 1)

/-! ### Repairs and their records (21 R472 to R477; 22 R480) -/

/-- Whether a repair, or a report, that has been asked for can be done now: not any more, not yet, or yes. -/
inductive AskTurn where
  | gone
  | later (s : State)
  | now

/-- Whether halves that the host holds must come back first (16 R399). -/
def State.readyAfter (s : State) (hs : List Nat) : AskTurn := if hs.isEmpty then .now else .later (s.backInval hs)

/-- Whether a repair can be done (R472, R474 to R476). -/
def State.repairReady (s : State) : Repair → AskTurn
  | .core f sp => if s.hasUse sp .spare && s.hasUse f .draining && s.coreEmpty f then .now else .gone
  | .slice die p =>
    if 2 ≤ die ∨ 128 ≤ p ∨ s.deadDies.contains die ∨ s.retired.contains (128 * die + p) ∨ (s.nextSlice die p).isNone then .gone
    else s.readyAfter (s.sliceHalves (128 * die + p))
  | .row lo hi => if lo ≤ hi ∧ hi < 0x8000000000 ∧ inModuleN lo (hi - lo + 1) then .now else .gone
  | .page ctx va new movable =>
    match s.pageOf ctx va with
    | none => .gone
    | some (l, _) =>
      let n := 2 ^ l.bits
      if !movable then .now
      else if !s.mayHold new n || !s.tierOk l.pa new then .gone
      else s.readyAfter (s.pageHalves l.pa n ++ s.pageHalves new n)

/-- What a repair's record says of it: its kind and its argument (R477; log 119). -/
def State.recordOf (s : State) : Repair → Nat × Nat
  | .core f sp => (1, 128 * f + sp)
  | .slice die p => (2, 128 * die + p)
  | .row lo hi => (3, lo / 128 + 2 ^ 32 * (hi / 128))
  | .page ctx va _ _ => match s.pageOf ctx va with
    | some (l, _) => (4, l.pa / 65536 + 2 ^ 32 * (2 ^ l.bits / 65536) + if s.isExcluded l.pa (2 ^ l.bits) then 2 ^ 63 else 2 ^ 48 * failingUnit l va)
    | none => (4, 0)

/-- A repair takes effect (R472 to R476). -/
def State.doRepair (s : State) : Repair → State
  | .core f sp => (s.swapCore f sp).unitEvent
  | .slice die p => match s.nextSlice die p with
    | some q => (s.retireSlice die p q).unitEvent
    | none => s
  | .row lo hi => s.repairRow lo hi
  | .page ctx va new movable => match s.pageOf ctx va with
    | some (l, entry) => s.leavePage ctx va new movable l entry
    | none => s

/-! ### Signing and attestation (22 R480, R483) -/

/-- The firmware in use. -/
def Boot.firmwareInUse (b : Boot) : List Byte := b.firmware.toList.getD b.fwBank []
/-- The configuration image in use. -/
def Boot.imageInUse (b : Boot) : List Byte := b.image.toList.getD b.imgBank []

/-- A repair record as its bytes: what it says, and the device key's signature over that (R477, R480). -/
def recordBytes (r : Nat × Nat × Nat) : List Byte :=
  let x := bytesOf 24 (r.1 + 2 ^ 64 * r.2.1 + 2 ^ 128 * r.2.2)
  x ++ bytesOf 5605 (bytesVal (Sys2Proof.Config.signature r.1 x))

/-- Bytes 0 to 111 of the report (R483): nonce, the digests of the firmware and of the image with the log in use, Gnomon, UNITS0 ::
UNITS1. -/
def State.report112 (s : State) : List Byte :=
  bytesOf 32 (s.homeRead s.host.harg0.toNat 32) ++ shake256 s.boot.firmwareInUse ++
    shake256 (s.boot.imageInUse ++ s.boot.live.flatMap recordBytes) ++ bytesOf 8 s.gnomon ++ bytesOf 8 (s.units1 + 2 ^ 32 * s.units0)

/-- The report is written with its signature, then HDONE is set (R482, R483). -/
def State.writeReport (s : State) (i : Nat) : State :=
  let r := s.report112
  let x := bytesVal r + 2 ^ (8 * 112) * (bytesVal (Sys2Proof.Config.signature i r) % 2 ^ (8 * 5605))
  (s.applyWrites ((List.range 90).map fun k =>
    (s.host.harg1.toNat + 64 * k, min 64 (5717 - 64 * k), (x >>> (512 * k)) % 2 ^ 512))).hcmdDone 0

/-- Whether a request can be served now. -/
def State.askReady (s : State) : SignAsk → AskTurn
  | .repair r => s.repairReady r
  | .report => if s.runs 6 then .now else .gone

/-- A request served under an index (R477, R480, R483): the record is in the log before the repair takes effect. -/
def State.serveAsk (s : State) (i : Nat) : SignAsk → State
  | .repair r =>
    let (what, arg) := s.recordOf r
    let s : State := { s with boot := { s.boot with log := s.boot.log ++ [(i, what, arg)], live := s.boot.live ++ [(i, what, arg)] } }
    (s.doRepair r).telemetry 5 what
  | .report => s.writeReport i

/-- A request whose signature is refused (R480): a repair takes effect without a record. -/
def State.refuseAsk (s : State) : SignAsk → State
  | .repair r => (s.doRepair r).telemetry 5 (s.recordOf r).1
  | .report => s.hcmdDone 1

/-- The oldest request for a signature (R480): served under the next reserved index, or first the reservation of 1,024 more; none above
2^40. -/
def State.settleSigns (s : State) : State :=
  match s.boot.asks with
  | [] => s
  | r :: l =>
    let t : State := { s with boot := { s.boot with asks := l } }
    match s.askReady r with
    | .gone => t
    | .later u => u
    | .now =>
      if s.boot.nextIndex < s.boot.nres then
        ({ t with boot := { t.boot with nextIndex := s.boot.nextIndex + 1 } } : State).serveAsk s.boot.nextIndex r
      else if 2 ^ 40 < s.boot.nres + 1024 then t.refuseAsk r
      else if s.boot.reserving.isSome then s
      else { s with boot := { s.boot with reserving := some (s.boot.nres + 1024) } }

/-- A request for a signature arrives, in stage 4: behind those that wait (R480). -/
def State.ask (s : State) (r : SignAsk) : State :=
  if s.boot.stage ≠ 4 then s
  else if s.boot.asks.contains r then s
  else ({ s with boot := { s.boot with asks := s.boot.asks ++ [r] } } : State).settleSigns

/-- FLASH_WRITE_COMPLETE (R480): the reservation stands in flash. -/
def State.flashDone (s : State) : State :=
  match s.boot.reserving with
  | some n => ({ s with boot := { s.boot with nres := n, reserving := none } } : State).settleSigns
  | none => s

/-- Command 6 (R482, R483); refused when an address is not one of module memory (log 114). -/
def State.hcmdAttest (s : State) : State :=
  if !s.runs 6 then s
  else if !inModuleN s.host.harg0.toNat 32 || !inModuleN s.host.harg1.toNat 5717 then s.hcmdDone 1
  else s.ask .report

/-! ### Repair in service -/

/-- SPARE_ACTIVATION (R474): no further block goes to the failing core and every group there is saved; then the core is inactive
and the spare activated. -/
def State.spareStep (s : State) (failing spare : Nat) : State :=
  if coreDie failing ≠ coreDie spare ∨ !s.hasUse spare .spare then s
  else if s.hasUse failing .active then
    (s.blocksOn failing).foldl (fun s b => s.saveBlock b.1) (s.updCore failing fun c => { c with use := .draining })
  else s.ask (.repair (.core failing spare))

/-- SLICE_RETIREMENT (R472, R477) -/
def State.sliceStep (s : State) (die p : Nat) : State := s.ask (.repair (.slice die p))

/-- ROW_REPAIR (R475, R477) -/
def State.rowRepair (s : State) (lo hi : Nat) : State := s.ask (.repair (.row lo hi))

/-- CHANNEL_RETIREMENT (R476): one page of the failing channel or stack. -/
def State.retirePage (s : State) (ctx va new : Nat) (movable : Bool) : State := s.ask (.repair (.page ctx va new movable))

/-! ### Loss of a die (21 R473) -/

/-- Whether a byte of an image, n bytes at va, is homed at a lost home. -/
def State.imageLost (s : State) (ctx va n : Nat) : Bool :=
  (pageSpans va n).any fun x => match s.resolveCp ctx true .read x.1 with
    | .ok l => l.mt == 0 && s.lost (l.phys x.1)
    | .error _ => false

/-- Whether a block ends by the loss of a die: a member ran there, or an image or its frame is homed there. -/
def State.blockLost (s : State) (die : Nat) (b : Block) : Bool :=
  b.cores.any (fun c => coreDie c == die) || (s.blockImages b).any (fun x => x.1 != 0 && s.imageLost b.ctx x.1 x.2) ||
  b.groups.any fun g => (s.groups.get? g).any fun x => s.lost x.ribPa || x.former.any fun e => coreDie e.2 == die

/-- An access outstanding at a lost home: a read returns poison, a write its completion time and the error; a fill on its way brings
no lease any more. -/
def State.loseAccess (s : State) (id k : Nat) : State :=
  match s.acc? id k with
  | none => s
  | some (o, a) =>
    if a.st == .fill && a.mt == 0 && !a.peer && (s.lost a.pa || a.fillLines.any fun l => s.lost (128 * l)) then
      s.updAcc id k fun a => { a with expiry := 0 }
    else if !(a.st == .ready && a.mt == 0 && !a.peer && !o.queued && s.lost a.pa) then s
    else if a.ask.reads ∨ a.ask = .fetch then
      (s.updAcc id k fun a => { a with st := .done, tick := s.gnomon, poison := some 4 }).updOp id fun o =>
        match o.kind with
        | .mwait .. => { o with phase := 4 }
        | _ => o
    else
      (s.refuseAcc id k 4).updOp id fun o => { o with ct := ctMax o.ct (s.gnomon, s.gnomon, s.gnomon) }

/-- Registrations at a lost home: their waiters receive poison. -/
def State.loseMonitors (s : State) : State :=
  let s := (s.monitors.filter fun m => s.lost m.pa).foldl (fun s m =>
    if 2 ^ 64 ≤ m.g then s.tellPeer (m.g - 2 ^ 64) 1 20 m.pa 4 0
    else (s.updOp m.op fun o => { o with phase := 4 }).updAcc m.op 0 fun a => { a with poison := some 4 }) s
  { s with monitors := s.monitors.filter fun m => !s.lost m.pa }

/-- DIE_LOSS (R473) -/
def State.dieLoss (s : State) (die : Nat) : State :=
  if 2 ≤ die ∨ s.deadDies.contains die then s
  else
    let s := { s with deadDies := die :: s.deadDies }
    let s := s.updCores fun k c =>
      if coreDie k = die then { c with use := .failed, l1 := [] }
      else { c with l1 := c.l1.mapVals fun l x => if s.lost (128 * l) then { x with expiry := 0 } else x }
    let ids := s.ops.flatMap fun e => (List.range e.2.accs.length).map fun k => (e.1, k)
    let s := (ids.foldl (fun s x => s.loseAccess x.1 x.2) s).loseMonitors
    let ls := ((s.blocks.filter fun b => s.blockLost die b.2).map (·.2.launch)).dedup
    let s := ls.foldl (fun s l => if (s.entities.get? l).any (·.verdict.isNone) then s.faultLaunch l 0x31 0 else s) s
    s.unitEvent

/-! ### Uncorrectable errors (21 R467, R469, R470) -/

/-- A word of a group's own is poisoned (21 R469): a pending fault of data (16 R386); in compatibility mode the instruction that reads
the word takes the trap (poisonTrap). -/
def State.wordError (s : State) (gid : Nat) (f : Group → Group) : State :=
  match s.groups.get? gid with
  | none => s
  | some g =>
    if g.home ≠ .resident then s
    else s.setGroup gid { f g with pend := if s.native g then g.pend ++ [⟨0, 0, 0, 2, true⟩] else g.pend }

/-- A word of a register is poisoned. -/
def State.regError (s : State) (gid : Nat) (f : Poison → Poison) : State :=
  s.wordError gid fun g => { g with poison := { f g.poison with code := 2 } }

/-- A bit of a register's poison. -/
def setMask {n : Nat} (v : Vector Mask n) (k : Nat) (l : Fin 16) : Vector Mask n :=
  if h : k < n then v.set k (v[k] ||| (1#16 <<< l.val)) else v

/-- A word of an L1 copy is poisoned. -/
def L1Line.spoil (x : L1Line) (word : Fin 32) : L1Line := { x with poison := x.poison.set word.val 2 }

/-- The contexts with a line in the slice set of a line: a cached translation of theirs leads to it, or to a line of the same set
that has a record there (21 R469; log 125). -/
def State.inSet (s : State) (line : Nat) : List Nat :=
  let ls := line :: (s.lines.map (·.1)).filter fun l =>
    s.homeSlice (128 * l) == s.homeSlice (128 * line) && Sys2Proof.Config.sliceSet l == Sys2Proof.Config.sliceSet line
  ((s.tlb.filter fun t => t.leaf.mt == 0 && ls.any fun l => t.leaf.pa ≤ 128 * l && 128 * l < t.leaf.pa + 2 ^ t.leaf.bits).map (·.ctx)).dedup

/-- An uncorrectable error in a store of the module other than DRAM (21 R469): a poisoned word, the end of the contexts with a line in
the slice set, or a dropped entry (log 125). -/
def State.softError (s : State) : SoftError → State
  | .vector g n l => s.regError g fun p => { p with v := setMask p.v n l }
  | .scalar g n => s.regError g fun p => { p with s := p.s ||| (1#64 <<< n) }
  | .address g n => s.regError g fun p => { p with a := p.a ||| (1#16 <<< n) }
  | .predicate g n l => s.regError g fun p => { p with p := setMask p.p n l }
  | .path g q => s.wordError g fun g => g.updEntry q fun e => { e with bad := e.kind != .free }
  | .l1 c l h => s.updCore c fun c => { c with l1 := c.l1.upd l fun x => x.spoil h }
  | .tile b k l => s.updBlock b fun y => { y with tiles := y.tiles.upd k fun t => { t with poison := t.poison ||| (1#16 <<< l.val) } }
  | .scratch b w => s.updBlock b fun y => { y with scratchPoison := if y.scratchPoison.contains w then y.scratchPoison else y.scratchPoison ++ [w] }
  | .slice line =>
    let cs := s.inSet line
    let ls := (s.entities.filter fun e => cs.contains e.2.ctx && (e.2.kind == .launch || e.2.kind == .child) && e.2.verdict.isNone && !e.2.ended).map (·.1)
    ls.foldl (fun s l => if (s.entities.get? l).any (·.verdict.isNone) then s.faultLaunch l 0x31 0 else s) s
  | .prediction c k => s.updCore c fun c => { c with almanac := c.almanac.upd k fun e => e % 2 ^ 191 }
  | .weights c x w => s.updCore c fun c => { c with wcache := c.wcache.filter fun e => !(e.ctx == x && e.wbase == w) }

/-! ### Bring-up (22 R478 to R480) -/

/-- An update of a flash bank from outside (00 R3; 22 R479): the next bring-up verifies what it left. -/
def Boot.update (b : Boot) (image : Bool) (bank : Nat) (x : List Byte) : Boot :=
  if h : bank < 2 then
    (if image then { b with image := b.image.set bank x } else { b with firmware := b.firmware.set bank x })
  else b

/-- Every state outside the flash and the host is lost; a reservation in progress leaves no trace, and the next index is the first not
reserved (R480, 21 R477). The model's own counters and agenda stay. -/
def State.powerless (s : State) : State :=
  { State.reset with
    boot := { key := s.boot.key, nres := s.boot.nres, nextIndex := s.boot.nres, log := s.boot.log, firmware := s.boot.firmware,
              image := s.boot.image }
    hostMem := s.hostMem
    free := s.free
    lease := s.lease
    agenda := s.agenda }

/-- HOST_LINK_UP (R478) -/
def State.linkUp (s : State) : State := if s.boot.stage = 0 then { s with boot := { s.boot with stage := 1 } } else s

/-- Whether the signature of a bank verifies (R479): the root key is the one whose hash boot ROM holds, and it signed the firmware, or the
key that signed the configuration image (log 179). -/
def bankSigned (image : Bool) (bank : List Byte) : Bool :=
  let p := Sys2Proof.Config.bankParts image bank
  shake256 p.key == Sys2Proof.Config.rootHash &&
    if image then xmssVerify p.key p.imageKey p.cert && xmssVerify p.imageKey p.body p.sig else xmssVerify p.key p.body p.sig

/-- A verification (R479): bank 0, else bank 1, else stage 7 with an error (R478). A bank passes when the flash could correct its
pages (`read0`, `read1`) and its signature verifies. -/
def Boot.verified (b : Boot) (image : Bool) (next err : Nat) (read0 read1 : Bool) (f : Boot → Nat → Boot) : Boot :=
  let banks := (if image then b.image else b.firmware).toList
  if read0 && bankSigned image (banks.getD 0 []) then { f b 0 with stage := next }
  else if read1 && bankSigned image (banks.getD 1 []) then { f b 1 with stage := next }
  else { b with stage := 7, err := err }

/-- FIRMWARE_VERIFIED (R478, R479) -/
def State.firmwareStep (s : State) (bank0 bank1 : Bool) : State :=
  if s.boot.stage = 1 then { s with boot := s.boot.verified false 2 1 bank0 bank1 fun b k => { b with fwBank := k } } else s

/-- IMAGE_VERIFIED (R478, R479) -/
def State.imageStep (s : State) (bank0 bank1 : Bool) : State :=
  if s.boot.stage = 2 then { s with boot := s.boot.verified true 3 2 bank0 bank1 fun b k => { b with imgBank := k } } else s

/-- The initial spare map, remap tables and retired rows of the image (21 R477; log 10): uses of built cores are exchanged, slices are
retired, and rows repaired. -/
def State.applyImage (s : State) : State :=
  let s := (Sys2Proof.Config.imageSpares s.boot.imageInUse).foldl (fun s x =>
    if s.hasUse x.1 .active && s.hasUse x.2 .spare && coreDie x.1 == coreDie x.2 then
      (s.updCore x.1 fun c => { c with use := .spare }).updCore x.2 fun c => { c with use := .active }
    else s) s
  let s := (Sys2Proof.Config.imageRows s.boot.imageInUse).foldl (fun s x => s.repairRow x.1 x.2) s
  (Sys2Proof.Config.imageRetired s.boot.imageInUse).foldl (fun s x =>
    if 256 ≤ x ∨ s.retired.contains x then s
    else match s.nextSlice (x / 128) (x % 128) with
      | some q => s.retireSlice (x / 128) (x % 128) q
      | none => s) s

/-- A repair record applied at bring-up (21 R477): the repair is carried out again; of a page of memory that was retired, its exclusion
and, where it was one of a stack's or a channel's, that unit's. -/
def State.applyRecord (s : State) (r : Nat × Nat × Nat) : State :=
  match r.2.1 with
  | 1 => s.swapCore (r.2.2 / 128) (r.2.2 % 128)
  | 2 => match s.nextSlice (r.2.2 / 128) (r.2.2 % 128) with
    | some q => s.retireSlice (r.2.2 / 128) (r.2.2 % 128) q
    | none => s
  | 3 => s.repairRow (128 * (r.2.2 % 2 ^ 32)) (128 * (r.2.2 / 2 ^ 32))
  | 4 =>
    let pa := 65536 * (r.2.2 % 2 ^ 32)
    let n := 65536 * (r.2.2 / 2 ^ 32 % 2 ^ 16)
    let s : State := if r.2.2.testBit 63 then s else { s with units := (r.2.2 / 2 ^ 48 % 256 :: s.units).dedup }
    s.exclude pa (pa + n - 1)
  | _ => s

/-- The records in force: those before the first whose signature fails (21 R477). -/
def Boot.inForce (b : Boot) (records badRecord : Nat) : List (Nat × Nat × Nat) := (b.log.take records).take badRecord

/-- APPLY_COMPLETE (R478 stage 3; R480; 21 R477; 18 R418): image and log, memory training, all DRAM zeroed, Gnomon stepped from
the source that the image names; the device key is generated at first bring-up, and unused reserved indices are discarded. -/
def State.applyStep (s : State) (trained : Bool) (time records badRecord : Nat) : State :=
  if s.boot.stage ≠ 3 then s
  else
    let rs := s.boot.inForce records badRecord
    let s := rs.foldl State.applyRecord s.applyImage
    let s : State := { s with
      boot := { s.boot with live := rs, rlog := decide (badRecord < min records s.boot.log.length), key := true, nextIndex := s.boot.nres }
      own := (Config.imageOwn s.boot.imageInUse).toNat
      peers := Config.imagePeers s.boot.imageInUse }
    if !trained then { s with boot := { s.boot with stage := 7, err := 3 } }
    else
      let src := Sys2Proof.Config.imageSource s.boot.imageInUse % 3
      { s with
        boot := { s.boot with stage := 4 }
        mem := [], memPoison := []
        gnomon := if src = 0 then s.gnomon else time
        disc := { src := src, sigma := sigmaOf src } }

/-! ### Power (R485, R486) -/

/-- The cap in force (R481). -/
def State.cap (s : State) : Nat := if s.host.pcap = 0 then 2200 else s.host.pcap.toNat

/-- POWER_CAP_CHECK (R486): the event is raised once in each excursion; issue is slowed, which only timing shows. -/
def State.capCheck (s : State) (watts : Nat) : State :=
  if s.cap < watts then (if s.capped then s else ({ s with capped := true } : State).telemetry 4 s.cap)
  else { s with capped := false }

/-- CORE_POWER_GATE (R485): a core that holds no group or tile line; the image lines left in it go back first. -/
def State.powerGate (s : State) (core : Nat) : State :=
  if s.coreEmpty core then (s.evictAll core).updCore core fun c => { c with gated := true } else s

/-! ### The instructions -/

/-- SCRUB (21 R470) -/
def execScrub (pa : Nat) (uncorrectable : Bool) (s : State) : Host.Outcome State Fault Refusal :=
  .next (s.scrub pa uncorrectable)

/-- DIE_LOSS (21 R473) -/
def execDieLoss (die : Nat) (s : State) : Host.Outcome State Fault Refusal :=
  .next (s.dieLoss die)

/-- SPARE_ACTIVATION (21 R474) -/
def execSpareActivation (failing : Nat) (spare : Nat) (s : State) : Host.Outcome State Fault Refusal :=
  .next (s.spareStep failing spare)

/-- SLICE_RETIREMENT (21 R472) -/
def execSliceRetirement (die : Nat) (slice : Nat) (s : State) : Host.Outcome State Fault Refusal :=
  .next (s.sliceStep die slice)

/-- ROW_REPAIR (21 R475): the rows from lo to hi -/
def execRowRepair (lo : Nat) (hi : Nat) (s : State) : Host.Outcome State Fault Refusal :=
  .next (s.rowRepair lo hi)

/-- CHANNEL_RETIREMENT (21 R476) -/
def execChannelRetirement (ctx : Nat) (va : BitVec 64) (newPa : BitVec 64) (movable : Bool) (s : State) : Host.Outcome State Fault Refusal :=
  .next (s.retirePage ctx va.toNat newPa.toNat movable)

/-- POWER_ON_RESET (22 R478): stage 0 -/
def execPowerOnReset (s : State) : Host.Outcome State Fault Refusal :=
  .next s.powerless

/-- POWER_LOSS (21 R477; 22 R480) -/
def execPowerLoss (s : State) : Host.Outcome State Fault Refusal :=
  .next s.powerless

/-- HOST_LINK_UP (22 R478) -/
def execHostLinkUp (s : State) : Host.Outcome State Fault Refusal :=
  .next s.linkUp

/-- FIRMWARE_VERIFIED (22 R478, R479) -/
def execFirmwareVerified (bank0 : Bool) (bank1 : Bool) (s : State) : Host.Outcome State Fault Refusal :=
  .next (s.firmwareStep bank0 bank1)

/-- IMAGE_VERIFIED (22 R478, R479) -/
def execImageVerified (bank0 : Bool) (bank1 : Bool) (s : State) : Host.Outcome State Fault Refusal :=
  .next (s.imageStep bank0 bank1)

/-- APPLY_COMPLETE (22 R478, R480; 21 R477): the image names the source and Σ of Gnomon -/
def execApplyComplete (trained : Bool) (_source : Nat) (_sigma : Nat) (time : Nat) (records : Nat) (badRecord : Nat) (s : State) : Host.Outcome State Fault Refusal :=
  .next (s.applyStep trained time records badRecord)

/-- POWER_CAP_CHECK (22 R486) -/
def execPowerCapCheck (watts : Nat) (s : State) : Host.Outcome State Fault Refusal :=
  .next (s.capCheck watts)

/-- CORE_POWER_GATE (22 R485) -/
def execCorePowerGate (core : Nat) (s : State) : Host.Outcome State Fault Refusal :=
  .next (s.powerGate core)

/-- HCMD_ATTEST (22 R483) -/
def execHcmdAttest (s : State) : Host.Outcome State Fault Refusal :=
  .next s.hcmdAttest

/-- FLASH_WRITE_COMPLETE (22 R480) -/
def execFlashWriteComplete (s : State) : Host.Outcome State Fault Refusal :=
  .next s.flashDone

end Sys2Proof.Machine
end

