-- ==== Sys2Proof/Machine/Control.lean ====
section
/-! DEFINITION. Control instructions, the join and the step trap (06 R140, R146 to R157, R162, R164). -/

namespace Sys2Proof.Machine

/-- The target of a jump word (02 R38). -/
def jumpTarget (pc : DWord) (o : BitVec 24) : DWord := pc + 4 * o.signExtend 64

/-- A trap of an instruction whose TVAL is its word. -/
def wordTrap (c : Iss) (cause : Nat) (detail : Nat := 0) (lanes : Mask := c.live) : Trap :=
  { cause := cause, detail := detail, val := c.word, lanes := lanes }

/-- The issuing path at another PC. -/
def Iss.goto (c : Iss) (pc : DWord) : Group := c.g.updEntry c.path fun e => { e with pc := pc }

/-- The effect of br (R147). -/
def brEff (o : BitVec 24) (c : Iss) : Except Trap Group :=
  if c.act = c.live then .ok (c.goto (jumpTarget c.pc o))
  else if c.act = 0 then .ok (c.goto (c.pc + 4))
  else .error (wordTrap c 0x06)

/-- `DividePath` (R139): the target's path for the active lanes, the next PC for the others. -/
def divideEff (target : DWord) (c : Iss) : Except Trap Group :=
  let deep := maskOf fun l => lane c.live l && decide (255 ≤ c.g.nc[l])
  if deep ≠ 0 then .error (wordTrap c 0x08 0 deep)
  else if c.g.noRoom 2 then .error (wordTrap c 0x08 1)
  else .ok (c.g.divide c.path c.act target (c.pc + 4) c.tick)

/-- The link of a call, a word offset from the entry address (R137, R149). -/
def linkOf (g : Group) (pc : DWord) : Word := BitVec.ofNat 32 ((pc + 4 - g.entry).toNat / 4)

/-- The lanes of a mask push a link (R149). -/
def Group.push (g : Group) (m : Mask) (x : Word) : Group :=
  { g with
    stack := Vector.ofFn fun l => if lane m l then g.stack[l].setIfInBounds g.rd[l] x else g.stack[l]
    rd := Vector.ofFn fun l => if lane m l then g.rd[l] + 1 else g.rd[l] }

/-- The effect of call (R149). -/
def callEff (o : BitVec 24) (c : Iss) : Except Trap Group :=
  let full := maskOf fun l => lane c.act l && decide (8 ≤ c.g.rd[l])
  if full ≠ 0 then .error (wordTrap c 0x0A 0 full)
  else divideEff (jumpTarget c.pc o) { c with g := c.g.push c.act (linkOf c.g c.pc) }

/-- The return address of a lane (R137, R150). -/
def Group.retAddr (g : Group) (l : Fin 16) : DWord :=
  g.entry + 4 * sx64 (g.stack[l].toList.getD (g.rd[l] - 1) 0)

/-- The lanes of a mask pop (R150). -/
def Group.pop (g : Group) (m : Mask) : Group :=
  { g with rd := Vector.ofFn fun l => if lane m l then g.rd[l] - 1 else g.rd[l] }

/-- The return addresses of the live lanes, each once. -/
def retPcs (c : Iss) : List DWord := ((laneList c.live).map c.g.retAddr).dedup

/-- The effect of ret (R150): one path for each return address; it needs room for those that would be spilled (R136). The new paths
count as ones that have issued now (DESIGN CHOICE, log 132). -/
def retEff (c : Iss) : Except Trap Group :=
  let empty := maskOf fun l => lane c.live l && decide (c.g.rd[l] = 0)
  if empty ≠ 0 then .error (wordTrap c 0x0B 0 empty)
  else
    let pcs := retPcs c
    let e := c.g.entryAt c.path
    if c.g.noRoom (pcs.length - 1 - c.g.freeTable.length) && decide (c.g.freeTable.length < pcs.length - 1) then
      .error (wordTrap c 0x08 1)
    else
      let new (pc : DWord) : PathEntry :=
        { e with pc := pc, mask := maskOf fun l => lane c.live l && c.g.retAddr l == pc, issued := c.g.issued + 1, yielded := false }
      .ok (pcs.foldl (fun g pc => (g.addPath (new pc) c.tick).1) ((c.g.pop c.live).leaveHalted c.path))

/-- The group after some lanes of path q left for good (R151): a path with an empty mask ends; the group ends with its
last lane. -/
def Group.exitLanes (g : Group) (q : Nat) (m : Mask) : Group :=
  let g' := if (g.entryAt q).mask &&& ~~~m = 0 then g.endPath q else g.updEntry q fun e => { e with mask := e.mask &&& ~~~m }
  if g'.paths.toList.any fun e => e.kind == .path then g' else g'.endAll

/-- The effect of exit: inside a handler the group ends at once (R151). -/
def exitEff (c : Iss) : Group :=
  if c.g.trap.tstat.getLsbD 0 then c.g.endAll else if c.act = 0 then c.g else c.g.exitLanes c.path c.act

/-- The effect of loop lcN (R155): check 7, then the loop registers and the PC. -/
def loopEff (n : Bool) (o : BitVec 24) (c : Iss) : Except Trap Group :=
  if c.g.manyPaths then .error (wordTrap c 0x06)
  else if o.slt 2 then .error (wordTrap c 0x02)
  else
    let le := jumpTarget c.pc o
    let r := c.g.loops
    let r := if n then { r with ls1 := c.pc + 4, le1 := le } else { r with ls0 := c.pc + 4, le0 := le }
    let lc := if n then r.lc1 else r.lc0
    .ok ({ c.g with loops := r }.updEntry c.path fun e => { e with pc := if lc = 0 then le else c.pc + 4 })

/-- The effect of lbrk lcN (R157). -/
def lbrkEff (n : Bool) (c : Iss) : Except Trap Group :=
  let r := c.g.loops
  if c.g.manyPaths then .error (wordTrap c 0x06)
  else if c.act = 0 ∨ (if n then r.lc1 else r.lc0) = 0 then .ok (c.goto (c.pc + 4))
  else
    .ok ({ c.g with loops := if n then { r with lc1 := 0 } else { r with lc0 := 0 } }.updEntry c.path fun e =>
      { e with pc := if n then r.le1 else r.le0 })

/-- The effect of merge (R140, R141): the path waits with its PC held; below a record that has already joined it goes on
at once (19 R447). -/
def mergeEff (c : Iss) : Except Trap Group :=
  let e := c.g.entryAt c.path
  if e.level = 0 then .error (wordTrap c 0x09)
  else
    let Q := c.g.entryAt e.rcd
    if Q.kind == .record && Q.hold != .none then
      let g := (c.g.setNc c.live Q.level).updEntry c.path fun x =>
        { x with pc := c.pc + 4, level := Q.level, md := Q.md, rcd := Q.rcd }
      .ok (g.releaseRec e.rcd 60)
    else .ok (c.g.updEntry c.path fun x => { x with pc := c.pc, hold := .merge })

/-- The effect of trap #k (R153). -/
def trapEff (k : Word) (c : Iss) : Except Trap Group :=
  if c.act = 0 then .ok c.g else .error { cause := 0x10, val := k, lanes := c.act }

/-- The effect of tret (R162). -/
def tretEff (c : Iss) : Except Trap Group :=
  if !c.g.trap.tstat.getLsbD 0 then .error (wordTrap c 0x03 1)
  else if c.g.manyPaths then .error (wordTrap c 0x06)
  else .ok (c.g.returnTrap c.tick)

/-- A control instruction (R146) with an effect that may trap at check 7. -/
def control (i : IWord) (u : Use) (f : Iss → Except Trap Group) (s : State) : Host.Outcome State Fault Refusal :=
  issue i { u with ctl := true } (groupTrapEff f) s

/-! ### The join and the step trap -/

/-- The join of record r of group gid, when its wait has ended (R140). -/
def State.joinStep (s : State) (gid r : Nat) : State :=
  match s.groups.get? gid with
  | none => s
  | some g =>
    if g.home == .resident && g.mode == .run && g.joinReady r then
      s.pathEvent gid g (g.join r s.gnomon)
    else s

/-- The path of a group that holds the lowest lane of m, among live ones (R164). -/
def Group.steppedPath (g : Group) (m : Mask) : Option Nat :=
  ((laneList (g.liveOf m)).head?.bind g.pathOfLane)

/-- Whether the step trap is due (R164): the stepped path has issued and none of its lanes waits. -/
def Group.stepDue (g : Group) : Bool :=
  match g.step with
  | some (m, some _) =>
    g.home == .resident && g.mode == .run && g.order.isNone &&
      !(g.paths.toList.any fun x => x.kind == .path && x.mask &&& m != 0 && x.hold != .none)
  | _ => false

/-- The step trap of group gid, when it is due and its earlier accesses are settled (R164; 16 R388). -/
def State.stepTrapStep (s : State) (gid : Nat) : State :=
  match s.groups.get? gid with
  | none => s
  | some g =>
    match g.step with
    | some (m, some fall) =>
      if !g.stepDue then s
      else
        let (pc, live) := match g.steppedPath m with
          | some q => ((g.entryAt q).pc, g.liveOf (g.entryAt q).mask)
          | none => (fall, 0)
        (s.raiseTrapAt gid pc live { cause := 0x12, val := 0, lanes := live }).getD s
    | _ => s

/-- br (R147) -/
def execBr (o : BitVec 24) (s : State) : Host.Outcome State Fault Refusal :=
  control (W.br o) {} (brEff o) s
/-- jmp (R147) -/
def execJmp (o : BitVec 24) (s : State) : Host.Outcome State Fault Refusal :=
  control (W.jmp o) { guard := false } (fun c => .ok (c.goto (jumpTarget c.pc o))) s
/-- call (R149) -/
def execCall (o : BitVec 24) (s : State) : Host.Outcome State Fault Refusal :=
  control (W.call o) { ends := true } (callEff o) s
/-- split (R148) -/
def execSplit (o : BitVec 24) (s : State) : Host.Outcome State Fault Refusal :=
  control (W.split o) { ends := true } (fun c => divideEff (jumpTarget c.pc o) c) s
/-- loop lc0 (R155) -/
def execLoopLc0 (o : BitVec 24) (s : State) : Host.Outcome State Fault Refusal :=
  control (W.loopLc0 o) { guard := false } (loopEff false o) s
/-- loop lc1 (R155) -/
def execLoopLc1 (o : BitVec 24) (s : State) : Host.Outcome State Fault Refusal :=
  control (W.loopLc1 o) { guard := false } (loopEff true o) s
/-- trap (R153) -/
def execTrap (k : BitVec 32) (s : State) : Host.Outcome State Fault Refusal :=
  control (W.trap k) {} (trapEff k) s
/-- nop (R152) -/
def execNop (s : State) : Host.Outcome State Fault Refusal :=
  issue W.nop { guard := false } (groupEff fun c => c.g) s
/-- exit (R151) -/
def execExit (s : State) : Host.Outcome State Fault Refusal :=
  control W.exit { sink := true } (fun c => .ok (exitEff c)) s
/-- yield (R152) -/
def execYield (s : State) : Host.Outcome State Fault Refusal :=
  issue W.yield { guard := false, yields := true } (groupEff fun c => c.g) s
/-- brk (R153) -/
def execBrk (s : State) : Host.Outcome State Fault Refusal :=
  control W.brk { guard := false } (fun c => .error { cause := 0x11, val := 0, lanes := c.live }) s
/-- merge (R140, R141) -/
def execMerge (s : State) : Host.Outcome State Fault Refusal :=
  control W.merge { guard := false, stop := true } mergeEff s
/-- ret (R150) -/
def execRet (s : State) : Host.Outcome State Fault Refusal :=
  control W.ret { guard := false, ends := true } retEff s
/-- lbrk lc0 (R157) -/
def execLbrkLc0 (s : State) : Host.Outcome State Fault Refusal :=
  control W.lbrkLc0 {} (lbrkEff false) s
/-- lbrk lc1 (R157) -/
def execLbrkLc1 (s : State) : Host.Outcome State Fault Refusal :=
  control W.lbrkLc1 {} (lbrkEff true) s
/-- tret (R162; 16 R404) -/
def execTret (s : State) : Host.Outcome State Fault Refusal :=
  control W.tret { guard := false, sup := true, sink := true } tretEff s
/-- MERGE_JOIN (R140) -/
def execMergeJoin (g : Nat) (q : Nat) (s : State) : Host.Outcome State Fault Refusal :=
  .next (s.joinStep g q)
/-- STEP_TRAP (R164) -/
def execStepTrap (g : Nat) (s : State) : Host.Outcome State Fault Refusal :=
  .next (s.stepTrapStep g)

end Sys2Proof.Machine
end

