-- ==== Sys2Proof/Machine/Events.lean ====
section
/-! DEFINITION. What follows a release (08 R206, R208), and the steps of an access in flight (08 R199 to R204; 07 R177; 16
R381, R387). -/

namespace Sys2Proof.Machine

/-- What follows the release of a group that is over (R208; 09 R234, R242 to R249; 15 R370; 16 R383). -/
def State.afterRelease (s : State) (gid : Nat) (o : Order) : State :=
  match o.then_ with
  | .done | .drops | .orcmd .. | .orst .. => s
  | .acquire scope => s.startAcquire gid scope o.path
  | .store op => s.updOp op fun x => { x with queued := false }
  | .bar => s.barArrive gid
  | .barv d k expected => s.barvArrive gid d k expected
  | .gbar => s.gbarArrive gid
  | .radv va => match (s.groups.get? gid).bind fun g => s.regionAt g.ctx va with
    | some r => s.raiseRound r.1
    | none => s
  | .launch op => s.createChildren op
  | .tlbi kind va => s.tlbiDrop gid o.path kind va

/-- RELEASE_END (R206); the Orrery's commands follow their release by steps of their own (18 R426). -/
def State.releaseStep (s : State) (gid : Nat) : State :=
  match s.groups.get? gid with
  | none => s
  | some g =>
    match g.order with
    | none => s
    | some o =>
      if (match o.then_ with | .orcmd .. | .orst .. => true | _ => false) || !s.releaseOver gid g o then s
      else (s.updGroup gid fun g => { g with order := none }).afterRelease gid o

/-- DATA_RETURN (07 R177): every access of a load, an atomic operation, `lds`, `rrd`, `zts` or `pref` is complete; what returns for an ended group is
discarded (R179). -/
def State.returnStep (s : State) (id : Nat) : State :=
  match s.ops.get? id with
  | none => s
  | some o =>
    if o.finished || o.queued || !o.complete then s
    else if s.overFor o then (if o.cls = some 0 ∨ o.kind = .pref then s.finishOp id else s)
    else match o.kind with
      | .load d r md how => s.loadReturn id o d r md how
      | .lds d => s.ldsReturn id o d
      | .atom (some d) _ _ t => s.atomReturn id o d t
      | .rrd d va obs => s.rrdReturn id o d va obs
      | .zts d rs => s.ztsReturn id o d rs
      | .pref => s.finishOp id
      | _ => s

/-! ### The instructions -/

/-- HOME_READ (08 R199 to R201) -/
def execHomeRead (op : Nat) (acc : Nat) (lease : Nat) (s : State) : Host.Outcome State Fault Refusal :=
  .next (s.homeReadStep op acc lease)

/-- FILL_ARRIVAL (08 R202) -/
def execFillArrival (op : Nat) (acc : Nat) (s : State) : Host.Outcome State Fault Refusal :=
  .next (s.fillStep op acc)

/-- DATA_RETURN (07 R177; 16 R386) -/
def execDataReturn (op : Nat) (s : State) : Host.Outcome State Fault Refusal :=
  .next (s.returnStep op)

/-- HOME_WRITE (08 R198, R203) -/
def execHomeWrite (op : Nat) (acc : Nat) (s : State) : Host.Outcome State Fault Refusal :=
  .next (s.homeWriteStep op acc)

/-- COMPLETION_TIME_RETURN (08 R202, R203) -/
def execCompletionTimeReturn (op : Nat) (s : State) : Host.Outcome State Fault Refusal :=
  .next (s.completionReturn op)

/-- LEASE_EXPIRY (08 R200) -/
def execLeaseExpiry (core : Nat) (line : Nat) (s : State) : Host.Outcome State Fault Refusal :=
  .next (s.leaseEnd core line)

/-- RELEASE_END (08 R206) -/
def execReleaseEnd (g : Nat) (s : State) : Host.Outcome State Fault Refusal :=
  .next (s.releaseStep g)

/-- HOST_MEMORY_COMPLETION (08 R224; 16 R380) -/
def execHostMemoryCompletion (op : Nat) (acc : Nat) (ok : Bool) (s : State) : Host.Outcome State Fault Refusal :=
  .next (s.hostMemStep op acc ok)

/-- WALK_COMPLETE (16 R381, R386, R392) -/
def execWalkComplete (op : Nat) (acc : Nat) (s : State) : Host.Outcome State Fault Refusal :=
  .next (s.walkStep op acc)

/-- SSQ_DRAIN (16 R387) -/
def execSsqDrain (g : Nat) (s : State) : Host.Outcome State Fault Refusal :=
  .next (s.ssqDrain g)

end Sys2Proof.Machine
end

