-- ==== Sys2Proof/Machine/Lane.lean ====
section
/-! DEFINITION. Moves, lane exchange, lane queries, reductions and the random state (05 R123 to R127, R132). -/

namespace Sys2Proof.Machine

/-- mov (R124): the B operand moved. -/
def movOp (i : IWord) (d : BitVec 8) (b : BOp) (s : State) : Host.Outcome State Fault Refusal :=
  issue i (useV .n32 d [] b) (groupEff fun c => c.g.setV d c.act (b.lane32 c.g)) s

/-- The source lanes of the exchanges (R124). -/
inductive Exch where
  | bcast (k : Word)
  | idxReg (b : BitVec 8)
  | idx (k : Word)
  | up (k : Word)
  | dn (k : Word)
  | xor (k : Word)
  deriving DecidableEq, Repr

/-- The lane whose value lane l receives (R124). -/
def Exch.src (e : Exch) (g : Group) (l : Fin 16) : Fin 16 :=
  match e with
  | .bcast k | .idx k => Fin.ofNat 16 k.toNat
  | .idxReg b => Fin.ofNat 16 (g.vlane b l).toNat
  | .up k => if k.toNat ≤ l.val then Fin.ofNat 16 (l.val - k.toNat) else l
  | .dn k => if l.val + k.toNat ≤ 15 then Fin.ofNat 16 (l.val + k.toNat) else l
  | .xor k => Fin.ofNat 16 (l.val ^^^ (k.toNat % 16))

/-- Poison of an exchange's result: of the source lane, and of the lane's own index (16 R386). -/
def Exch.poison (e : Exch) (a : BitVec 8) (c : Iss) (l : Fin 16) : Bool :=
  lane (c.g.poison.v.toList.getD a.toNat 0) (e.src c.g l) ||
  match e with
  | .idxReg b => lane (c.g.poison.v.toList.getD b.toNat 0) l
  | _ => false

/-- Poison of some lanes of a vector register set and cleared. -/
def Group.setVPoison (g : Group) (d : BitVec 8) (m : Mask) (f : Fin 16 → Bool) : Group :=
  if g.poison.any then
    { g with poison := { g.poison with
        v := g.poison.v.set d.toNat ((g.poison.v[d.toNat]'(by have := d.isLt; omega) &&& ~~~m) ||| (maskOf f &&& m))
          (by have := d.isLt; omega) } }
  else g

/-- The effect of an exchange (R123, R124). -/
def exchEff (e : Exch) (d a : BitVec 8) (c : Iss) : Group :=
  (c.g.setV d c.act fun l => c.g.vlane a (e.src c.g l)).setVPoison d c.act (e.poison a c)

/-- bcast and shfl (R124) -/
def exchOp (e : Exch) (i : IWord) (d a : BitVec 8) (s : State) : Host.Outcome State Fault Refusal :=
  issue i { useV .n32 d [a] (match e with | .idxReg b => .vec b | _ => .lit 0) with ownPoison := true }
    (groupEff (exchEff e d a)) s

/-- The bit that vote gives (R125). -/
def voteBit (all : Bool) (p act : Mask) : Bool := if all then act &&& ~~~p == 0 else p &&& act != 0

/-- vote (R125) -/
def voteOp (all : Bool) (i : IWord) (d a : BitVec 3) (s : State) : Host.Outcome State Fault Refusal :=
  issue i { pr := [a.toNat, d.toNat], pw := [d.toNat], cross := true }
    (groupEff fun c => c.g.setPLanes d c.act (maskOf fun _ => voteBit all (c.g.pred a) c.act)) s

/-- A uniform effect: nothing without an active lane (R98). -/
def uniformEff (f : Iss → Group) (c : Iss) : Group := if c.act = 0 then c.g else f c

/-- ballot (R125) -/
def ballotOp (i : IWord) (d : BitVec 6) (a : BitVec 3) (s : State) : Host.Outcome State Fault Refusal :=
  issue i { pr := [a.toNat], sw := [d.toNat], uniform := true, cross := true }
    (groupEff (uniformEff fun c => c.g.setS d ((c.g.pred a &&& c.act).setWidth 32))) s

/-- lid (R125) -/
def lidOp (i : IWord) (d : BitVec 8) (s : State) : Host.Outcome State Fault Refusal :=
  issue i { vw := [d.toNat] } (groupEff fun c => c.g.setV d c.act fun l => BitVec.ofNat 32 l.val) s

/-! ### Reductions (R126) -/

/-- The reductions. -/
inductive Red where
  | add | min | max
  deriving DecidableEq, Repr

/-- An integer reduction of the active lanes. -/
def redInt (op : Red) (t : Ty) (sat : Bool) (xs : List Nat) : Nat :=
  let vs := xs.map (intVal t)
  match op with
  | .add => fitInt sat t (vs.foldl (· + ·) 0)
  | .min => wrapInt t (vs.foldl min (vs.headD 0))
  | .max => wrapInt t (vs.foldl max (vs.headD 0))

/-- The exact sum of f32 inputs (R126): NaN for a NaN or both infinities; an exact zero is −0 only if every input is. -/
def redSum (vs : List FV) : FRes :=
  if vs.contains .nan then .nan 0
  else if vs.contains (.inf false) && vs.contains (.inf true) then .nan fInvalid
  else if vs.contains (.inf false) then .inf false 0
  else if vs.contains (.inf true) then .inf true 0
  else
    let d := vs.foldl (fun r v => match v with | .fin s n e => r.add (dyOf s n e) | _ => r) (⟨0, 0⟩ : Dy)
    .num (d.exact (vs.all FV.sign))

/-- An f32 reduction: the values of the active lanes after R77, the draw of the lowest of them. -/
def redF32 (op : Red) (rnd : Nat) (ftz : Bool) (q : Nat) (vs : List FV) : Nat × Flags :=
  match op with
  | .add => foutput rnd ftz .f32 q (redSum vs)
  | .min => foutput rnd ftz .f32 0 ((vs.foldl (minMaxRes true) .nan).res)
  | .max => foutput rnd ftz .f32 0 ((vs.foldl (minMaxRes false) .nan).res)

/-- The flags of an f32 reduction: a flushed input in its own lane, those of the result in the lowest active lane
(log 23). -/
def redFlags (ls : List (Fin 16)) (ins : List (FV × Flags)) (r : Flags) : List (Fin 16 × Flags) :=
  ls.zip (ins.mapIdx fun k x => if k = 0 then x.2 ||| r else x.2)

/-- The effect of lred: under rs every active lane draws once, whatever the operation and the type (R126; 04 R95; log 145). -/
def lredEff (op : Red) (d : BitVec 6) (a : BitVec 8) (c : Iss) : Group × List (Fin 16 × Flags) :=
  let ls := laneList c.act
  let xs := ls.map fun l => (c.g.vlane a l).toNat
  let t := mdType c.md
  let (qs, g) := c.g.drawIf c.md c.act 1
  if t = .f32 then
    let ins := xs.map (finput (mdFtz c.md) .f32)
    let r := redF32 op (mdRnd c.md) (mdFtz c.md) ((ls.head?.map fun l => (qs l).headD 0).getD 0) (ins.map (·.1))
    (uniformEff (fun _ => g.setS d (BitVec.ofNat 32 r.1)) c, redFlags ls ins r.2)
  else (uniformEff (fun _ => g.setS d (BitVec.ofNat 32 (redInt op t (mdSat c.md) xs))) c, [])

/-- lred (R126) -/
def lredOp (op : Red) (i : IWord) (d : BitVec 6) (a : BitVec 8) (s : State) : Host.Outcome State Fault Refusal :=
  issue i { vr := [a.toNat], sw := [d.toNat], uniform := true, cross := true, rng := true, types := some [.s32, .n32, .f32],
            rounds := op == .add && s.curTy == .f32 }
    (groupEffF (lredEff op d a)) s

/-! ### Lanes and scalars (R127) -/

/-- An index operand: a scalar register or the trailing word. -/
inductive SOp where
  | sreg (r : BitVec 6)
  | lit (w : Word)
  deriving DecidableEq, Repr

/-- The word of an index operand. -/
def SOp.val (o : SOp) (g : Group) : Word :=
  match o with
  | .sreg r => g.sreg r
  | .lit w => w

/-- The scalar numbers it names. -/
def SOp.srs : SOp → List Nat
  | .sreg r => [r.toNat]
  | .lit _ => []

/-- Whether it is poisoned. -/
def SOp.poison (o : SOp) (g : Group) : Bool := o.srs.any fun n => g.poison.s.getLsbD n

/-- Poison of a scalar register set or cleared. -/
def Group.setSPoison (g : Group) (d : BitVec 6) (p : Bool) : Group :=
  if g.poison.any then
    { g with poison := { g.poison with
        s := if p then g.poison.s ||| (1#64 <<< d.toNat) else g.poison.s &&& ~~~(1#64 <<< d.toNat) } }
  else g

/-- The effect of rdln. -/
def rdlnEff (d : BitVec 6) (a : BitVec 8) (o : SOp) (c : Iss) : Group :=
  let j := Fin.ofNat 16 (o.val c.g).toNat
  (c.g.setS d (c.g.vlane a j)).setSPoison d (o.poison c.g || lane (c.g.poison.v.toList.getD a.toNat 0) j)

/-- rdln (R127) -/
def rdlnOp (i : IWord) (d : BitVec 6) (a : BitVec 8) (o : SOp) (s : State) : Host.Outcome State Fault Refusal :=
  issue i { vr := [a.toNat], sr := o.srs, sw := [d.toNat], uniform := true, ownPoison := true }
    (groupEff (uniformEff (rdlnEff d a o))) s

/-- The effect of wrln. -/
def wrlnEff (d : BitVec 8) (a : BitVec 6) (o : SOp) (c : Iss) : Group :=
  let j : Fin 16 := Fin.ofNat 16 (o.val c.g).toNat
  let m := c.act &&& (1#16 <<< j.val)
  (c.g.setV d m fun _ => c.g.sreg a).setVPoison d m fun _ => o.poison c.g || c.g.poison.s.getLsbD a.toNat

/-- wrln (R127) -/
def wrlnOp (i : IWord) (d : BitVec 8) (a : BitVec 6) (o : SOp) (s : State) : Host.Outcome State Fault Refusal :=
  issue i { sr := a.toNat :: o.srs, vw := [d.toNat], ownPoison := true } (groupEff (wrlnEff d a o)) s

/-! ### The random state (R132; 04 R93) -/

/-- Part n of a lane's random state (R132). -/
def Rand.part (r : Rand) (n : Nat) : Word :=
  match n with
  | 0 => r.c.setWidth 32
  | 1 => r.c.extractLsb' 32 32
  | 2 => r.w.setWidth 32
  | 3 => r.seed.setWidth 32
  | 4 => r.seed.extractLsb' 32 32
  | 5 => r.gidx.setWidth 32
  | _ => r.gidx.extractLsb' 32 32

/-- Part n set (R132). -/
def Rand.setPart (r : Rand) (n : Nat) (x : Word) : Rand :=
  match n with
  | 0 => { r with c := r.c.extractLsb' 32 32 ++ x }
  | 1 => { r with c := x ++ r.c.extractLsb' 0 32 }
  | 2 => { r with w := x.setWidth 2 }
  | 3 => { r with seed := r.seed.extractLsb' 32 32 ++ x }
  | 4 => { r with seed := x ++ r.seed.extractLsb' 0 32 }
  | 5 => { r with gidx := r.gidx.extractLsb' 32 32 ++ x }
  | _ => { r with gidx := x ++ r.gidx.extractLsb' 0 32 }

/-- rng (R132) -/
def rngOp (i : IWord) (d : BitVec 8) (n : Nat) (s : State) : Host.Outcome State Fault Refusal :=
  issue i { vw := [d.toNat], rng := true } (groupEff fun c => c.g.setV d c.act fun l => c.g.rng[l].part n) s

/-- The effect of rngs. -/
def rngsEff (n : Nat) (a : BitVec 8) (c : Iss) : Group :=
  { c.g with rng := Vector.ofFn fun l => if lane c.act l then c.g.rng[l].setPart n (c.g.vlane a l) else c.g.rng[l] }

/-- rngs (R132) -/
def rngsOp (i : IWord) (n : Nat) (a : BitVec 8) (s : State) : Host.Outcome State Fault Refusal :=
  issue i { vr := [a.toNat], rng := true } (groupEff (rngsEff n a)) s

/-- mov (R124) -/
def execMovReg (d : BitVec 8) (b : BitVec 8) (s : State) : Host.Outcome State Fault Refusal :=
  movOp (W.movReg d b) d (.vec b) s
/-- mov (R124) -/
def execMovScb (d : BitVec 8) (b : BitVec 6) (s : State) : Host.Outcome State Fault Refusal :=
  movOp (W.movScb d b) d (.sreg b) s
/-- mov (R124) -/
def execMovLit (d : BitVec 8) (k : BitVec 32) (s : State) : Host.Outcome State Fault Refusal :=
  movOp (W.movLit d k) d (.lit k) s
/-- bcast (R124) -/
def execBcast (d : BitVec 8) (a : BitVec 8) (k : BitVec 32) (s : State) : Host.Outcome State Fault Refusal :=
  exchOp (.bcast k) (W.bcast d a k) d a s
/-- shfl.idx (R124) -/
def execShflIdxReg (d : BitVec 8) (a : BitVec 8) (b : BitVec 8) (s : State) : Host.Outcome State Fault Refusal :=
  exchOp (.idxReg b) (W.shflIdxReg d a b) d a s
/-- shfl.idx (R124) -/
def execShflIdxLit (d : BitVec 8) (a : BitVec 8) (k : BitVec 32) (s : State) : Host.Outcome State Fault Refusal :=
  exchOp (.idx k) (W.shflIdxLit d a k) d a s
/-- shfl.up (R124) -/
def execShflUp (d : BitVec 8) (a : BitVec 8) (k : BitVec 32) (s : State) : Host.Outcome State Fault Refusal :=
  exchOp (.up k) (W.shflUp d a k) d a s
/-- shfl.dn (R124) -/
def execShflDn (d : BitVec 8) (a : BitVec 8) (k : BitVec 32) (s : State) : Host.Outcome State Fault Refusal :=
  exchOp (.dn k) (W.shflDn d a k) d a s
/-- shfl.xor (R124) -/
def execShflXor (d : BitVec 8) (a : BitVec 8) (k : BitVec 32) (s : State) : Host.Outcome State Fault Refusal :=
  exchOp (.xor k) (W.shflXor d a k) d a s
/-- vote.any (R125) -/
def execVoteAny (d : BitVec 3) (a : BitVec 3) (s : State) : Host.Outcome State Fault Refusal :=
  voteOp false (W.voteAny d a) d a s
/-- vote.all (R125) -/
def execVoteAll (d : BitVec 3) (a : BitVec 3) (s : State) : Host.Outcome State Fault Refusal :=
  voteOp true (W.voteAll d a) d a s
/-- ballot (R125) -/
def execBallot (d : BitVec 6) (a : BitVec 3) (s : State) : Host.Outcome State Fault Refusal :=
  ballotOp (W.ballot d a) d a s
/-- lid (R125) -/
def execLid (d : BitVec 8) (s : State) : Host.Outcome State Fault Refusal :=
  lidOp (W.lid d) d s
/-- lred.add (R126) -/
def execLredAdd (d : BitVec 6) (a : BitVec 8) (s : State) : Host.Outcome State Fault Refusal :=
  lredOp .add (W.lredAdd d a) d a s
/-- lred.min (R126) -/
def execLredMin (d : BitVec 6) (a : BitVec 8) (s : State) : Host.Outcome State Fault Refusal :=
  lredOp .min (W.lredMin d a) d a s
/-- lred.max (R126) -/
def execLredMax (d : BitVec 6) (a : BitVec 8) (s : State) : Host.Outcome State Fault Refusal :=
  lredOp .max (W.lredMax d a) d a s
/-- rdln (R127) -/
def execRdlnScb (d : BitVec 6) (a : BitVec 8) (b : BitVec 6) (s : State) : Host.Outcome State Fault Refusal :=
  rdlnOp (W.rdlnScb d a b) d a (.sreg b) s
/-- rdln (R127) -/
def execRdlnLit (d : BitVec 6) (a : BitVec 8) (k : BitVec 32) (s : State) : Host.Outcome State Fault Refusal :=
  rdlnOp (W.rdlnLit d a k) d a (.lit k) s
/-- wrln (R127) -/
def execWrlnScb (d : BitVec 8) (a : BitVec 6) (b : BitVec 6) (s : State) : Host.Outcome State Fault Refusal :=
  wrlnOp (W.wrlnScb d a b) d a (.sreg b) s
/-- wrln (R127) -/
def execWrlnLit (d : BitVec 8) (a : BitVec 6) (k : BitVec 32) (s : State) : Host.Outcome State Fault Refusal :=
  wrlnOp (W.wrlnLit d a k) d a (.lit k) s
/-- rng (R132) -/
def execRng (d : BitVec 8) (c : BitVec 8) (s : State) : Host.Outcome State Fault Refusal :=
  rngOp (W.rng d c) d c.toNat s
/-- rngs (R132) -/
def execRngs (c : BitVec 8) (a : BitVec 8) (s : State) : Host.Outcome State Fault Refusal :=
  rngsOp (W.rngs c a) c.toNat a s

end Sys2Proof.Machine
end

