-- ==== Sys2Proof/Machine/Scalar.lean ====
section
/-! DEFINITION. Scalar, address and predicate instructions, and the mode (05 R128 to R131; 02 R39, R40). -/

namespace Sys2Proof.Machine

/-- The scalar operations (R128). -/
inductive ScOp where
  | add | sub | mul | and | or | xor | shl | shr | sra | min | max
  deriving DecidableEq, Repr

/-- The result of R128. -/
def scalarOp (op : ScOp) (a b : Word) : Word :=
  match op with
  | .add => a + b
  | .sub => a - b
  | .mul => a * b
  | .and => a &&& b
  | .or => a ||| b
  | .xor => a ^^^ b
  | .shl => a <<< (b.toNat % 32)
  | .shr => a >>> (b.toNat % 32)
  | .sra => a.sshiftRight (b.toNat % 32)
  | .min => if a.slt b then a else b
  | .max => if a.slt b then b else a

/-- A scalar operation (R128). -/
def scOp (op : ScOp) (i : IWord) (d a : BitVec 6) (o : SOp) (s : State) : Host.Outcome State Fault Refusal :=
  issue i { sr := a.toNat :: o.srs, sw := [d.toNat], uniform := true }
    (groupEff (uniformEff fun c => c.g.setS d (scalarOp op (c.g.sreg a) (o.val c.g)))) s

/-- scmp.eq and scmp.lt (R129): a whole predicate. -/
def scmpOp (lt : Bool) (i : IWord) (d : BitVec 3) (a : BitVec 6) (o : SOp) (s : State) : Host.Outcome State Fault Refusal :=
  issue i { sr := a.toNat :: o.srs, pw := [d.toNat], uniform := true }
    (groupEff (uniformEff fun c => c.g.setP d
      (if (if lt then (c.g.sreg a).slt (o.val c.g) else c.g.sreg a == o.val c.g) then 0xFFFF else 0))) s

/-- A write of s[D] from other uniform state (R129). -/
def setSOp (i : IWord) (u : Use) (d : BitVec 6) (f : Group → Word) (s : State) : Host.Outcome State Fault Refusal :=
  issue i { u with sw := [d.toNat], uniform := true } (groupEff (uniformEff fun c => c.g.setS d (f c.g))) s

/-- aadd (R129) -/
def aaddOp (i : IWord) (d a : BitVec 4) (o : SOp) (s : State) : Host.Outcome State Fault Refusal :=
  issue i { ar := [a.toNat], sr := o.srs, aw := [d.toNat], uniform := true }
    (groupEff (uniformEff fun c => c.g.setA d (c.g.areg a + sx64 (o.val c.g)))) s

/-- amov (R129) -/
def amovOp (i : IWord) (d : BitVec 4) (a b : BitVec 6) (s : State) : Host.Outcome State Fault Refusal :=
  issue i { sr := [a.toNat, b.toNat], aw := [d.toNat], uniform := true }
    (groupEff (uniformEff fun c => c.g.setA d (c.g.sreg b ++ c.g.sreg a))) s

/-- pand, por, pxor, pnot (R130): bits of active lanes. -/
def pOp (i : IWord) (d : BitVec 3) (ps : List (BitVec 3)) (f : Group → Mask) (s : State) : Host.Outcome State Fault Refusal :=
  issue i { pr := ps.map (·.toNat), pw := [d.toNat] } (groupEff fun c => c.g.setPLanes d c.act (f c.g)) s

/-- pmov (R130): a uniform write of all 16 bits. -/
def pmovOp (i : IWord) (d : BitVec 3) (a : BitVec 6) (s : State) : Host.Outcome State Fault Refusal :=
  issue i { sr := [a.toNat], pw := [d.toNat], uniform := true }
    (groupEff (uniformEff fun c => c.g.setP d ((c.g.sreg a).setWidth 16))) s

/-! ### The mode (02 R40; 05 R131) -/

/-- MD after an arithmetic mode body: each group of fields is written when its mask bit is 1. -/
def modeArithMd (g t r sm f : BitVec 1) (p : BitVec 3) (e v : BitVec 1) (y : BitVec 4) (n : BitVec 3) (u z : BitVec 1)
    (md : Word) : Word :=
  let keep (m : BitVec 1) (mask x : Word) (md : Word) : Word := if m = 1 then (md &&& ~~~mask) ||| x else md
  let md := keep g 0x1F ((v ++ e ++ p).setWidth 32) md
  let md := keep t 0x1E0 (y.setWidth 32 <<< 5) md
  let md := keep r 0xE00 (n.setWidth 32 <<< 9) md
  let md := keep sm 0x1000 (u.setWidth 32 <<< 12) md
  keep f 0x2000 (z.setWidth 32 <<< 13) md

/-- MD after a buffer mode body. -/
def modeBufMd (b : BitVec 8) (md : Word) : Word := (md &&& 0xFF00FFFF) ||| (b.setWidth 32 <<< 16)

/-- MD of the issuing path written, whatever its lanes (R40, R22). -/
def setMdEff (f : Iss → Word) (c : Iss) : Group := c.g.updEntry c.path fun e => { e with md := f c }

/-- mode (R40) -/
def modeOp (i : IWord) (f : Word → Word) (s : State) : Host.Outcome State Fault Refusal :=
  issue i { guard := false } (groupEff (setMdEff fun c => f c.md)) s

/-- rdmd (R131): on the path as a whole. -/
def rdmdOp (i : IWord) (d : BitVec 6) (s : State) : Host.Outcome State Fault Refusal :=
  issue i { sw := [d.toNat], guard := false } (groupEff fun c => c.g.setS d c.md) s

/-- The effect of wrmd: a reserved bit of the source raises the illegal-mode trap (01 R23). -/
def wrmdEff (a : BitVec 6) (c : Iss) : Except Trap Group :=
  if mdLegal (c.g.sreg a) then .ok (setMdEff (fun c => c.g.sreg a) c)
  else .error { cause := 0x05, val := c.g.sreg a, lanes := c.live }

/-- wrmd (R131) -/
def wrmdOp (i : IWord) (a : BitVec 6) (s : State) : Host.Outcome State Fault Refusal :=
  issue i { sr := [a.toNat], guard := false } (groupTrapEff (wrmdEff a)) s

/-- sadd (R128) -/
def execSaddScb (d : BitVec 6) (a : BitVec 6) (b : BitVec 6) (s : State) : Host.Outcome State Fault Refusal :=
  scOp .add (W.saddScb d a b) d a (.sreg b) s
/-- sadd (R128) -/
def execSaddLit (d : BitVec 6) (a : BitVec 6) (k : BitVec 32) (s : State) : Host.Outcome State Fault Refusal :=
  scOp .add (W.saddLit d a k) d a (.lit k) s
/-- ssub (R128) -/
def execSsubScb (d : BitVec 6) (a : BitVec 6) (b : BitVec 6) (s : State) : Host.Outcome State Fault Refusal :=
  scOp .sub (W.ssubScb d a b) d a (.sreg b) s
/-- ssub (R128) -/
def execSsubLit (d : BitVec 6) (a : BitVec 6) (k : BitVec 32) (s : State) : Host.Outcome State Fault Refusal :=
  scOp .sub (W.ssubLit d a k) d a (.lit k) s
/-- smul (R128) -/
def execSmulScb (d : BitVec 6) (a : BitVec 6) (b : BitVec 6) (s : State) : Host.Outcome State Fault Refusal :=
  scOp .mul (W.smulScb d a b) d a (.sreg b) s
/-- smul (R128) -/
def execSmulLit (d : BitVec 6) (a : BitVec 6) (k : BitVec 32) (s : State) : Host.Outcome State Fault Refusal :=
  scOp .mul (W.smulLit d a k) d a (.lit k) s
/-- sand (R128) -/
def execSandScb (d : BitVec 6) (a : BitVec 6) (b : BitVec 6) (s : State) : Host.Outcome State Fault Refusal :=
  scOp .and (W.sandScb d a b) d a (.sreg b) s
/-- sand (R128) -/
def execSandLit (d : BitVec 6) (a : BitVec 6) (k : BitVec 32) (s : State) : Host.Outcome State Fault Refusal :=
  scOp .and (W.sandLit d a k) d a (.lit k) s
/-- sor (R128) -/
def execSorScb (d : BitVec 6) (a : BitVec 6) (b : BitVec 6) (s : State) : Host.Outcome State Fault Refusal :=
  scOp .or (W.sorScb d a b) d a (.sreg b) s
/-- sor (R128) -/
def execSorLit (d : BitVec 6) (a : BitVec 6) (k : BitVec 32) (s : State) : Host.Outcome State Fault Refusal :=
  scOp .or (W.sorLit d a k) d a (.lit k) s
/-- sxor (R128) -/
def execSxorScb (d : BitVec 6) (a : BitVec 6) (b : BitVec 6) (s : State) : Host.Outcome State Fault Refusal :=
  scOp .xor (W.sxorScb d a b) d a (.sreg b) s
/-- sxor (R128) -/
def execSxorLit (d : BitVec 6) (a : BitVec 6) (k : BitVec 32) (s : State) : Host.Outcome State Fault Refusal :=
  scOp .xor (W.sxorLit d a k) d a (.lit k) s
/-- sshl (R128) -/
def execSshlScb (d : BitVec 6) (a : BitVec 6) (b : BitVec 6) (s : State) : Host.Outcome State Fault Refusal :=
  scOp .shl (W.sshlScb d a b) d a (.sreg b) s
/-- sshl (R128) -/
def execSshlLit (d : BitVec 6) (a : BitVec 6) (k : BitVec 32) (s : State) : Host.Outcome State Fault Refusal :=
  scOp .shl (W.sshlLit d a k) d a (.lit k) s
/-- sshr (R128) -/
def execSshrScb (d : BitVec 6) (a : BitVec 6) (b : BitVec 6) (s : State) : Host.Outcome State Fault Refusal :=
  scOp .shr (W.sshrScb d a b) d a (.sreg b) s
/-- sshr (R128) -/
def execSshrLit (d : BitVec 6) (a : BitVec 6) (k : BitVec 32) (s : State) : Host.Outcome State Fault Refusal :=
  scOp .shr (W.sshrLit d a k) d a (.lit k) s
/-- ssra (R128) -/
def execSsraScb (d : BitVec 6) (a : BitVec 6) (b : BitVec 6) (s : State) : Host.Outcome State Fault Refusal :=
  scOp .sra (W.ssraScb d a b) d a (.sreg b) s
/-- ssra (R128) -/
def execSsraLit (d : BitVec 6) (a : BitVec 6) (k : BitVec 32) (s : State) : Host.Outcome State Fault Refusal :=
  scOp .sra (W.ssraLit d a k) d a (.lit k) s
/-- smin (R128) -/
def execSminScb (d : BitVec 6) (a : BitVec 6) (b : BitVec 6) (s : State) : Host.Outcome State Fault Refusal :=
  scOp .min (W.sminScb d a b) d a (.sreg b) s
/-- smin (R128) -/
def execSminLit (d : BitVec 6) (a : BitVec 6) (k : BitVec 32) (s : State) : Host.Outcome State Fault Refusal :=
  scOp .min (W.sminLit d a k) d a (.lit k) s
/-- smax (R128) -/
def execSmaxScb (d : BitVec 6) (a : BitVec 6) (b : BitVec 6) (s : State) : Host.Outcome State Fault Refusal :=
  scOp .max (W.smaxScb d a b) d a (.sreg b) s
/-- smax (R128) -/
def execSmaxLit (d : BitVec 6) (a : BitVec 6) (k : BitVec 32) (s : State) : Host.Outcome State Fault Refusal :=
  scOp .max (W.smaxLit d a k) d a (.lit k) s
/-- scmp.eq (R129) -/
def execScmpEqScb (d : BitVec 3) (a : BitVec 6) (b : BitVec 6) (s : State) : Host.Outcome State Fault Refusal :=
  scmpOp false (W.scmpEqScb d a b) d a (.sreg b) s
/-- scmp.eq (R129) -/
def execScmpEqLit (d : BitVec 3) (a : BitVec 6) (k : BitVec 32) (s : State) : Host.Outcome State Fault Refusal :=
  scmpOp false (W.scmpEqLit d a k) d a (.lit k) s
/-- scmp.lt (R129) -/
def execScmpLtScb (d : BitVec 3) (a : BitVec 6) (b : BitVec 6) (s : State) : Host.Outcome State Fault Refusal :=
  scmpOp true (W.scmpLtScb d a b) d a (.sreg b) s
/-- scmp.lt (R129) -/
def execScmpLtLit (d : BitVec 3) (a : BitVec 6) (k : BitVec 32) (s : State) : Host.Outcome State Fault Refusal :=
  scmpOp true (W.scmpLtLit d a k) d a (.lit k) s
/-- smov (R129) -/
def execSmov (d : BitVec 6) (b : BitVec 6) (s : State) : Host.Outcome State Fault Refusal :=
  setSOp (W.smov d b) { sr := [b.toNat] } d (fun g => g.sreg b) s
/-- smov aB.lo (R129) -/
def execSmovAlo (d : BitVec 6) (b : BitVec 4) (s : State) : Host.Outcome State Fault Refusal :=
  setSOp (W.smovAlo d b) { ar := [b.toNat] } d (fun g => (g.areg b).setWidth 32) s
/-- smov aB.hi (R129) -/
def execSmovAhi (d : BitVec 6) (b : BitVec 4) (s : State) : Host.Outcome State Fault Refusal :=
  setSOp (W.smovAhi d b) { ar := [b.toNat] } d (fun g => (g.areg b).extractLsb' 32 32) s
/-- sli (R129) -/
def execSli (d : BitVec 6) (k : BitVec 32) (s : State) : Host.Outcome State Fault Refusal :=
  setSOp (W.sli d k) {} d (fun _ => k) s
/-- aadd (R129) -/
def execAaddScb (d : BitVec 4) (a : BitVec 4) (b : BitVec 6) (s : State) : Host.Outcome State Fault Refusal :=
  aaddOp (W.aaddScb d a b) d a (.sreg b) s
/-- aadd (R129) -/
def execAaddLit (d : BitVec 4) (a : BitVec 4) (k : BitVec 32) (s : State) : Host.Outcome State Fault Refusal :=
  aaddOp (W.aaddLit d a k) d a (.lit k) s
/-- amov (R129) -/
def execAmov (d : BitVec 4) (a : BitVec 6) (b : BitVec 6) (s : State) : Host.Outcome State Fault Refusal :=
  amovOp (W.amov d a b) d a b s
/-- pand (R130) -/
def execPand (d : BitVec 3) (a : BitVec 3) (b : BitVec 3) (s : State) : Host.Outcome State Fault Refusal :=
  pOp (W.pand d a b) d [a, b] (fun g => g.pred a &&& g.pred b) s
/-- por (R130) -/
def execPor (d : BitVec 3) (a : BitVec 3) (b : BitVec 3) (s : State) : Host.Outcome State Fault Refusal :=
  pOp (W.por d a b) d [a, b] (fun g => g.pred a ||| g.pred b) s
/-- pxor (R130) -/
def execPxor (d : BitVec 3) (a : BitVec 3) (b : BitVec 3) (s : State) : Host.Outcome State Fault Refusal :=
  pOp (W.pxor d a b) d [a, b] (fun g => g.pred a ^^^ g.pred b) s
/-- pnot (R130) -/
def execPnot (d : BitVec 3) (a : BitVec 3) (s : State) : Host.Outcome State Fault Refusal :=
  pOp (W.pnot d a) d [a] (fun g => ~~~(g.pred a)) s
/-- pmov (R130) -/
def execPmov (d : BitVec 3) (a : BitVec 6) (s : State) : Host.Outcome State Fault Refusal :=
  pmovOp (W.pmov d a) d a s
/-- mode (02 R39, R40) -/
def execModeArith (g : BitVec 1) (t : BitVec 1) (r : BitVec 1) (s1 : BitVec 1) (f : BitVec 1) (p : BitVec 3) (e : BitVec 1) (v : BitVec 1) (y : BitVec 4) (n : BitVec 3) (u : BitVec 1) (z : BitVec 1) (s : State) : Host.Outcome State Fault Refusal :=
  modeOp (W.modeArith g t r s1 f p e v y n u z) (modeArithMd g t r s1 f p e v y n u z) s
/-- mode (02 R39, R40) -/
def execModeBuf (b : BitVec 8) (s : State) : Host.Outcome State Fault Refusal :=
  modeOp (W.modeBuf b) (modeBufMd b) s
/-- rdmd (R131) -/
def execRdmd (d : BitVec 6) (s : State) : Host.Outcome State Fault Refusal :=
  rdmdOp (W.rdmd d) d s
/-- wrmd (R131) -/
def execWrmd (a : BitVec 6) (s : State) : Host.Outcome State Fault Refusal :=
  wrmdOp (W.wrmd a) a s

end Sys2Proof.Machine
end

