-- ==== Sys2Proof/Machine/Dispatch.lean ====
section
/-! DEFINITION. The dispatch: one arm for each constructor of Instr. -/

namespace Sys2Proof.Machine

/-- The meaning of an instruction or event (opcode_table.json). -/
def exec (i : Instr) (s : State) : Host.Outcome State Fault Refusal :=
  match i with
  | .abs d a => Sys2Proof.Machine.execAbs d a s
  | .neg d a => Sys2Proof.Machine.execNeg d a s
  | .notB d a => Sys2Proof.Machine.execNotB d a s
  | .clz d a => Sys2Proof.Machine.execClz d a s
  | .popc d a => Sys2Proof.Machine.execPopc d a s
  | .brev d a => Sys2Proof.Machine.execBrev d a s
  | .voteAny d a => Sys2Proof.Machine.execVoteAny d a s
  | .voteAll d a => Sys2Proof.Machine.execVoteAll d a s
  | .ballot d a => Sys2Proof.Machine.execBallot d a s
  | .lredAdd d a => Sys2Proof.Machine.execLredAdd d a s
  | .lredMin d a => Sys2Proof.Machine.execLredMin d a s
  | .lredMax d a => Sys2Proof.Machine.execLredMax d a s
  | .lid d => Sys2Proof.Machine.execLid d s
  | .rng d c => Sys2Proof.Machine.execRng d c s
  | .rngs c a => Sys2Proof.Machine.execRngs c a s
  | .fabs d a => Sys2Proof.Machine.execFabs d a s
  | .fneg d a => Sys2Proof.Machine.execFneg d a s
  | .frcp d a => Sys2Proof.Machine.execFrcp d a s
  | .frsq d a => Sys2Proof.Machine.execFrsq d a s
  | .fsqrt d a => Sys2Proof.Machine.execFsqrt d a s
  | .fex2 d a => Sys2Proof.Machine.execFex2 d a s
  | .flg2 d a => Sys2Proof.Machine.execFlg2 d a s
  | .fsin d a => Sys2Proof.Machine.execFsin d a s
  | .fcos d a => Sys2Proof.Machine.execFcos d a s
  | .frnd d a => Sys2Proof.Machine.execFrnd d a s
  | .nop => Sys2Proof.Machine.execNop s
  | .exit => Sys2Proof.Machine.execExit s
  | .yield => Sys2Proof.Machine.execYield s
  | .brk => Sys2Proof.Machine.execBrk s
  | .merge => Sys2Proof.Machine.execMerge s
  | .ret => Sys2Proof.Machine.execRet s
  | .lbrkLc0 => Sys2Proof.Machine.execLbrkLc0 s
  | .lbrkLc1 => Sys2Proof.Machine.execLbrkLc1 s
  | .rdmd d => Sys2Proof.Machine.execRdmd d s
  | .wrmd a => Sys2Proof.Machine.execWrmd a s
  | .tret => Sys2Proof.Machine.execTret s
  | .ecall a => Sys2Proof.Machine.execEcall a s
  | .sleep a => Sys2Proof.Machine.execSleep a s
  | .tlbiVa a => Sys2Proof.Machine.execTlbiVa a s
  | .tlbiCtx => Sys2Proof.Machine.execTlbiCtx s
  | .tlbiAll => Sys2Proof.Machine.execTlbiAll s
  | .hstep d a => Sys2Proof.Machine.execHstep d a s
  | .hres d a => Sys2Proof.Machine.execHres d a s
  | .wcpin d a => Sys2Proof.Machine.execWcpin d a s
  | .wcunp a => Sys2Proof.Machine.execWcunp a s
  | .wcinv a => Sys2Proof.Machine.execWcinv a s
  | .wcinvAll => Sys2Proof.Machine.execWcinvAll s
  | .rtgen a => Sys2Proof.Machine.execRtgen a s
  | .rtinv a => Sys2Proof.Machine.execRtinv a s
  | .rtinvAll => Sys2Proof.Machine.execRtinvAll s
  | .cwait d a => Sys2Proof.Machine.execCwait d a s
  | .cncl d a => Sys2Proof.Machine.execCncl d a s
  | .rdtm d => Sys2Proof.Machine.execRdtm d s
  | .wtm a => Sys2Proof.Machine.execWtm a s
  | .wret a c => Sys2Proof.Machine.execWret a c s
  | .bar => Sys2Proof.Machine.execBar s
  | .barw a => Sys2Proof.Machine.execBarw a s
  | .gbar => Sys2Proof.Machine.execGbar s
  | .rend => Sys2Proof.Machine.execRend s
  | .fenceAcq s1 => Sys2Proof.Machine.execFenceAcq s1 s
  | .fenceRel s1 => Sys2Proof.Machine.execFenceRel s1 s
  | .fenceAr s1 => Sys2Proof.Machine.execFenceAr s1 s
  | .atom d a o => Sys2Proof.Machine.execAtom d a o s
  | .red d a o => Sys2Proof.Machine.execRed d a o s
  | .cas d a b => Sys2Proof.Machine.execCas d a b s
  | .trap k => Sys2Proof.Machine.execTrap k s
  | .cvt d a s1 => Sys2Proof.Machine.execCvt d a s1 s
  | .pack2 d a b => Sys2Proof.Machine.execPack2 d a b s
  | .unpk d a k s1 => Sys2Proof.Machine.execUnpk d a k s1 s
  | .pand d a b => Sys2Proof.Machine.execPand d a b s
  | .por d a b => Sys2Proof.Machine.execPor d a b s
  | .pxor d a b => Sys2Proof.Machine.execPxor d a b s
  | .pnot d a => Sys2Proof.Machine.execPnot d a s
  | .addReg d a b => Sys2Proof.Machine.execAddReg d a b s
  | .addScb d a b => Sys2Proof.Machine.execAddScb d a b s
  | .addLit d a k => Sys2Proof.Machine.execAddLit d a k s
  | .subReg d a b => Sys2Proof.Machine.execSubReg d a b s
  | .subScb d a b => Sys2Proof.Machine.execSubScb d a b s
  | .subLit d a k => Sys2Proof.Machine.execSubLit d a k s
  | .addcReg d a b => Sys2Proof.Machine.execAddcReg d a b s
  | .addcScb d a b => Sys2Proof.Machine.execAddcScb d a b s
  | .addcLit d a k => Sys2Proof.Machine.execAddcLit d a k s
  | .subbReg d a b => Sys2Proof.Machine.execSubbReg d a b s
  | .subbScb d a b => Sys2Proof.Machine.execSubbScb d a b s
  | .subbLit d a k => Sys2Proof.Machine.execSubbLit d a k s
  | .mulReg d a b => Sys2Proof.Machine.execMulReg d a b s
  | .mulScb d a b => Sys2Proof.Machine.execMulScb d a b s
  | .mulLit d a k => Sys2Proof.Machine.execMulLit d a k s
  | .mulhReg d a b => Sys2Proof.Machine.execMulhReg d a b s
  | .mulhScb d a b => Sys2Proof.Machine.execMulhScb d a b s
  | .mulhLit d a k => Sys2Proof.Machine.execMulhLit d a k s
  | .madReg d a b => Sys2Proof.Machine.execMadReg d a b s
  | .madScb d a b => Sys2Proof.Machine.execMadScb d a b s
  | .madLit d a k => Sys2Proof.Machine.execMadLit d a k s
  | .minReg d a b => Sys2Proof.Machine.execMinReg d a b s
  | .minScb d a b => Sys2Proof.Machine.execMinScb d a b s
  | .minLit d a k => Sys2Proof.Machine.execMinLit d a k s
  | .maxReg d a b => Sys2Proof.Machine.execMaxReg d a b s
  | .maxScb d a b => Sys2Proof.Machine.execMaxScb d a b s
  | .maxLit d a k => Sys2Proof.Machine.execMaxLit d a k s
  | .andReg d a b => Sys2Proof.Machine.execAndReg d a b s
  | .andScb d a b => Sys2Proof.Machine.execAndScb d a b s
  | .andLit d a k => Sys2Proof.Machine.execAndLit d a k s
  | .orReg d a b => Sys2Proof.Machine.execOrReg d a b s
  | .orScb d a b => Sys2Proof.Machine.execOrScb d a b s
  | .orLit d a k => Sys2Proof.Machine.execOrLit d a k s
  | .xorReg d a b => Sys2Proof.Machine.execXorReg d a b s
  | .xorScb d a b => Sys2Proof.Machine.execXorScb d a b s
  | .xorLit d a k => Sys2Proof.Machine.execXorLit d a k s
  | .andnReg d a b => Sys2Proof.Machine.execAndnReg d a b s
  | .andnScb d a b => Sys2Proof.Machine.execAndnScb d a b s
  | .andnLit d a k => Sys2Proof.Machine.execAndnLit d a k s
  | .shlReg d a b => Sys2Proof.Machine.execShlReg d a b s
  | .shlScb d a b => Sys2Proof.Machine.execShlScb d a b s
  | .shlLit d a k => Sys2Proof.Machine.execShlLit d a k s
  | .shrReg d a b => Sys2Proof.Machine.execShrReg d a b s
  | .shrScb d a b => Sys2Proof.Machine.execShrScb d a b s
  | .shrLit d a k => Sys2Proof.Machine.execShrLit d a k s
  | .sraReg d a b => Sys2Proof.Machine.execSraReg d a b s
  | .sraScb d a b => Sys2Proof.Machine.execSraScb d a b s
  | .sraLit d a k => Sys2Proof.Machine.execSraLit d a k s
  | .rotlReg d a b => Sys2Proof.Machine.execRotlReg d a b s
  | .rotlScb d a b => Sys2Proof.Machine.execRotlScb d a b s
  | .rotlLit d a k => Sys2Proof.Machine.execRotlLit d a k s
  | .bfxReg d a b => Sys2Proof.Machine.execBfxReg d a b s
  | .bfxScb d a b => Sys2Proof.Machine.execBfxScb d a b s
  | .bfxLit d a k => Sys2Proof.Machine.execBfxLit d a k s
  | .bfiReg d a b => Sys2Proof.Machine.execBfiReg d a b s
  | .bfiScb d a b => Sys2Proof.Machine.execBfiScb d a b s
  | .bfiLit d a k => Sys2Proof.Machine.execBfiLit d a k s
  | .selReg d a b => Sys2Proof.Machine.execSelReg d a b s
  | .selScb d a b => Sys2Proof.Machine.execSelScb d a b s
  | .selLit d a k => Sys2Proof.Machine.execSelLit d a k s
  | .cmpEqReg d a b => Sys2Proof.Machine.execCmpEqReg d a b s
  | .cmpEqScb d a b => Sys2Proof.Machine.execCmpEqScb d a b s
  | .cmpEqLit d a k => Sys2Proof.Machine.execCmpEqLit d a k s
  | .cmpLtReg d a b => Sys2Proof.Machine.execCmpLtReg d a b s
  | .cmpLtScb d a b => Sys2Proof.Machine.execCmpLtScb d a b s
  | .cmpLtLit d a k => Sys2Proof.Machine.execCmpLtLit d a k s
  | .faddReg d a b => Sys2Proof.Machine.execFaddReg d a b s
  | .faddScb d a b => Sys2Proof.Machine.execFaddScb d a b s
  | .faddLit d a k => Sys2Proof.Machine.execFaddLit d a k s
  | .fsubReg d a b => Sys2Proof.Machine.execFsubReg d a b s
  | .fsubScb d a b => Sys2Proof.Machine.execFsubScb d a b s
  | .fsubLit d a k => Sys2Proof.Machine.execFsubLit d a k s
  | .fmulReg d a b => Sys2Proof.Machine.execFmulReg d a b s
  | .fmulScb d a b => Sys2Proof.Machine.execFmulScb d a b s
  | .fmulLit d a k => Sys2Proof.Machine.execFmulLit d a k s
  | .fmaReg d a b => Sys2Proof.Machine.execFmaReg d a b s
  | .fmaScb d a b => Sys2Proof.Machine.execFmaScb d a b s
  | .fmaLit d a k => Sys2Proof.Machine.execFmaLit d a k s
  | .fminReg d a b => Sys2Proof.Machine.execFminReg d a b s
  | .fminScb d a b => Sys2Proof.Machine.execFminScb d a b s
  | .fminLit d a k => Sys2Proof.Machine.execFminLit d a k s
  | .fmaxReg d a b => Sys2Proof.Machine.execFmaxReg d a b s
  | .fmaxScb d a b => Sys2Proof.Machine.execFmaxScb d a b s
  | .fmaxLit d a k => Sys2Proof.Machine.execFmaxLit d a k s
  | .fclsReg d a b => Sys2Proof.Machine.execFclsReg d a b s
  | .fclsScb d a b => Sys2Proof.Machine.execFclsScb d a b s
  | .fclsLit d a k => Sys2Proof.Machine.execFclsLit d a k s
  | .fcmpEqReg d a b => Sys2Proof.Machine.execFcmpEqReg d a b s
  | .fcmpEqScb d a b => Sys2Proof.Machine.execFcmpEqScb d a b s
  | .fcmpEqLit d a k => Sys2Proof.Machine.execFcmpEqLit d a k s
  | .fcmpLtReg d a b => Sys2Proof.Machine.execFcmpLtReg d a b s
  | .fcmpLtScb d a b => Sys2Proof.Machine.execFcmpLtScb d a b s
  | .fcmpLtLit d a k => Sys2Proof.Machine.execFcmpLtLit d a k s
  | .fcmpLeReg d a b => Sys2Proof.Machine.execFcmpLeReg d a b s
  | .fcmpLeScb d a b => Sys2Proof.Machine.execFcmpLeScb d a b s
  | .fcmpLeLit d a k => Sys2Proof.Machine.execFcmpLeLit d a k s
  | .dot4Reg d a b => Sys2Proof.Machine.execDot4Reg d a b s
  | .dot4Scb d a b => Sys2Proof.Machine.execDot4Scb d a b s
  | .dot4Lit d a k => Sys2Proof.Machine.execDot4Lit d a k s
  | .fdot2Reg d a b => Sys2Proof.Machine.execFdot2Reg d a b s
  | .fdot2Scb d a b => Sys2Proof.Machine.execFdot2Scb d a b s
  | .fdot2Lit d a k => Sys2Proof.Machine.execFdot2Lit d a k s
  | .pmov d a => Sys2Proof.Machine.execPmov d a s
  | .movReg d b => Sys2Proof.Machine.execMovReg d b s
  | .movScb d b => Sys2Proof.Machine.execMovScb d b s
  | .movLit d k => Sys2Proof.Machine.execMovLit d k s
  | .bcast d a k => Sys2Proof.Machine.execBcast d a k s
  | .shflIdxReg d a b => Sys2Proof.Machine.execShflIdxReg d a b s
  | .shflIdxLit d a k => Sys2Proof.Machine.execShflIdxLit d a k s
  | .shflUp d a k => Sys2Proof.Machine.execShflUp d a k s
  | .shflDn d a k => Sys2Proof.Machine.execShflDn d a k s
  | .shflXor d a k => Sys2Proof.Machine.execShflXor d a k s
  | .br o => Sys2Proof.Machine.execBr o s
  | .jmp o => Sys2Proof.Machine.execJmp o s
  | .call o => Sys2Proof.Machine.execCall o s
  | .split o => Sys2Proof.Machine.execSplit o s
  | .loopLc0 o => Sys2Proof.Machine.execLoopLc0 o s
  | .loopLc1 o => Sys2Proof.Machine.execLoopLc1 o s
  | .rdlnScb d a b => Sys2Proof.Machine.execRdlnScb d a b s
  | .rdlnLit d a k => Sys2Proof.Machine.execRdlnLit d a k s
  | .wrlnScb d a b => Sys2Proof.Machine.execWrlnScb d a b s
  | .wrlnLit d a k => Sys2Proof.Machine.execWrlnLit d a k s
  | .saddScb d a b => Sys2Proof.Machine.execSaddScb d a b s
  | .saddLit d a k => Sys2Proof.Machine.execSaddLit d a k s
  | .ssubScb d a b => Sys2Proof.Machine.execSsubScb d a b s
  | .ssubLit d a k => Sys2Proof.Machine.execSsubLit d a k s
  | .smulScb d a b => Sys2Proof.Machine.execSmulScb d a b s
  | .smulLit d a k => Sys2Proof.Machine.execSmulLit d a k s
  | .sandScb d a b => Sys2Proof.Machine.execSandScb d a b s
  | .sandLit d a k => Sys2Proof.Machine.execSandLit d a k s
  | .sorScb d a b => Sys2Proof.Machine.execSorScb d a b s
  | .sorLit d a k => Sys2Proof.Machine.execSorLit d a k s
  | .sxorScb d a b => Sys2Proof.Machine.execSxorScb d a b s
  | .sxorLit d a k => Sys2Proof.Machine.execSxorLit d a k s
  | .sshlScb d a b => Sys2Proof.Machine.execSshlScb d a b s
  | .sshlLit d a k => Sys2Proof.Machine.execSshlLit d a k s
  | .sshrScb d a b => Sys2Proof.Machine.execSshrScb d a b s
  | .sshrLit d a k => Sys2Proof.Machine.execSshrLit d a k s
  | .ssraScb d a b => Sys2Proof.Machine.execSsraScb d a b s
  | .ssraLit d a k => Sys2Proof.Machine.execSsraLit d a k s
  | .sminScb d a b => Sys2Proof.Machine.execSminScb d a b s
  | .sminLit d a k => Sys2Proof.Machine.execSminLit d a k s
  | .smaxScb d a b => Sys2Proof.Machine.execSmaxScb d a b s
  | .smaxLit d a k => Sys2Proof.Machine.execSmaxLit d a k s
  | .modeArith g t r s1 f p e v y n u z => Sys2Proof.Machine.execModeArith g t r s1 f p e v y n u z s
  | .modeBuf b => Sys2Proof.Machine.execModeBuf b s
  | .scmpEqScb d a b => Sys2Proof.Machine.execScmpEqScb d a b s
  | .scmpEqLit d a k => Sys2Proof.Machine.execScmpEqLit d a k s
  | .scmpLtScb d a b => Sys2Proof.Machine.execScmpLtScb d a b s
  | .scmpLtLit d a k => Sys2Proof.Machine.execScmpLtLit d a k s
  | .smov d b => Sys2Proof.Machine.execSmov d b s
  | .smovAlo d b => Sys2Proof.Machine.execSmovAlo d b s
  | .smovAhi d b => Sys2Proof.Machine.execSmovAhi d b s
  | .sli d k => Sys2Proof.Machine.execSli d k s
  | .aaddScb d a b => Sys2Proof.Machine.execAaddScb d a b s
  | .aaddLit d a k => Sys2Proof.Machine.execAaddLit d a k s
  | .amov d a b => Sys2Proof.Machine.execAmov d a b s
  | .ldReg d a b => Sys2Proof.Machine.execLdReg d a b s
  | .ldScb d a b => Sys2Proof.Machine.execLdScb d a b s
  | .ldLit d a k => Sys2Proof.Machine.execLdLit d a k s
  | .stReg d a b => Sys2Proof.Machine.execStReg d a b s
  | .stScb d a b => Sys2Proof.Machine.execStScb d a b s
  | .stLit d a k => Sys2Proof.Machine.execStLit d a k s
  | .ldsReg d a b => Sys2Proof.Machine.execLdsReg d a b s
  | .ldsLit d a k => Sys2Proof.Machine.execLdsLit d a k s
  | .stsReg d a b => Sys2Proof.Machine.execStsReg d a b s
  | .stsLit d a k => Sys2Proof.Machine.execStsLit d a k s
  | .ldcReg d a b => Sys2Proof.Machine.execLdcReg d a b s
  | .ldcLit d a k => Sys2Proof.Machine.execLdcLit d a k s
  | .ldaReg d a b => Sys2Proof.Machine.execLdaReg d a b s
  | .ldaLit d a k => Sys2Proof.Machine.execLdaLit d a k s
  | .strReg d a b => Sys2Proof.Machine.execStrReg d a b s
  | .strLit d a k => Sys2Proof.Machine.execStrLit d a k s
  | .prefReg a b => Sys2Proof.Machine.execPrefReg a b s
  | .prefLit a k => Sys2Proof.Machine.execPrefLit a k s
  | .cp d a b => Sys2Proof.Machine.execCp d a b s
  | .cp2d d a b => Sys2Proof.Machine.execCp2d d a b s
  | .cpr d a b => Sys2Proof.Machine.execCpr d a b s
  | .barv d a b => Sys2Proof.Machine.execBarv d a b s
  | .mwait c a b => Sys2Proof.Machine.execMwait c a b s
  | .mma d a b => Sys2Proof.Machine.execMma d a b s
  | .mmakb d a b => Sys2Proof.Machine.execMmakb d a b s
  | .accq d => Sys2Proof.Machine.execAccq d s
  | .accr d => Sys2Proof.Machine.execAccr d s
  | .accld d a => Sys2Proof.Machine.execAccld d a s
  | .accst d a => Sys2Proof.Machine.execAccst d a s
  | .acczr d => Sys2Proof.Machine.execAcczr d s
  | .mprio a => Sys2Proof.Machine.execMprio a s
  | .smp d a b => Sys2Proof.Machine.execSmp d a b s
  | .smpg d a b => Sys2Proof.Machine.execSmpg d a b s
  | .smpl d a b => Sys2Proof.Machine.execSmpl d a b s
  | .txf d a b => Sys2Proof.Machine.execTxf d a b s
  | .rtrc d a b => Sys2Proof.Machine.execRtrc d a b s
  | .rtnx d a b => Sys2Proof.Machine.execRtnx d a b s
  | .rtrs d => Sys2Proof.Machine.execRtrs d s
  | .rthit d a b => Sys2Proof.Machine.execRthit d a b s
  | .rtri d a b => Sys2Proof.Machine.execRtri d a b s
  | .rtw d a b => Sys2Proof.Machine.execRtw d a b s
  | .rclr a b => Sys2Proof.Machine.execRclr a b s
  | .zts d a b => Sys2Proof.Machine.execZts d a b s
  | .launch d a b => Sys2Proof.Machine.execLaunch d a b s
  | .rdparam d a => Sys2Proof.Machine.execRdparam d a s
  | .wpw d a b => Sys2Proof.Machine.execWpw d a b s
  | .wpr d a => Sys2Proof.Machine.execWpr d a s
  | .hrd d a b => Sys2Proof.Machine.execHrd d a b s
  | .hwr d a b => Sys2Proof.Machine.execHwr d a b s
  | .csrr d k => Sys2Proof.Machine.execCsrr d k s
  | .csrw a k => Sys2Proof.Machine.execCsrw a k s
  | .grow k => Sys2Proof.Machine.execGrow k s
  | .growTry d k => Sys2Proof.Machine.execGrowTry d k s
  | .shrink k => Sys2Proof.Machine.execShrink k s
  | .mxscl d a => Sys2Proof.Machine.execMxscl d a s
  | .mxq d a b => Sys2Proof.Machine.execMxq d a b s
  | .cpdec d a b => Sys2Proof.Machine.execCpdec d a b s
  | .ldbReg d a b => Sys2Proof.Machine.execLdbReg d a b s
  | .ldbLit d a k => Sys2Proof.Machine.execLdbLit d a k s
  | .radv s1 a => Sys2Proof.Machine.execRadv s1 a s
  | .rrd d a => Sys2Proof.Machine.execRrd d a s
  | .rrdObs d a => Sys2Proof.Machine.execRrdObs d a s
  | .rdcmp a b => Sys2Proof.Machine.execRdcmp a b s
  | .smpn d a b => Sys2Proof.Machine.execSmpn d a b s
  | .xmma d a b => Sys2Proof.Machine.execXmma d a b s
  | .xmaskWrite a => Sys2Proof.Machine.execXmaskWrite a s
  | .almapWrite hi a => Sys2Proof.Machine.execAlmapWrite hi a s
  | .orcmdRegister g => Sys2Proof.Machine.execOrcmdRegister g s
  | .orcmdDrop g => Sys2Proof.Machine.execOrcmdDrop g s
  | .orcmdNoOp g => Sys2Proof.Machine.execOrcmdNoOp g s
  | .trctlReset a => Sys2Proof.Machine.execTrctlReset a s
  | .instrFetchReturn g path => Sys2Proof.Machine.execInstrFetchReturn g path s
  | .mergeJoin g q => Sys2Proof.Machine.execMergeJoin g q s
  | .stepTrap g => Sys2Proof.Machine.execStepTrap g s
  | .registerLineFill g line => Sys2Proof.Machine.execRegisterLineFill g line s
  | .growGrant g path => Sys2Proof.Machine.execGrowGrant g path s
  | .homeRead op acc lease => Sys2Proof.Machine.execHomeRead op acc lease s
  | .fillArrival op acc => Sys2Proof.Machine.execFillArrival op acc s
  | .dataReturn op => Sys2Proof.Machine.execDataReturn op s
  | .homeWrite op acc => Sys2Proof.Machine.execHomeWrite op acc s
  | .completionTimeReturn op => Sys2Proof.Machine.execCompletionTimeReturn op s
  | .homeAtomic op acc => Sys2Proof.Machine.execHomeAtomic op acc s
  | .monitorCheck op => Sys2Proof.Machine.execMonitorCheck op s
  | .mwaitReply op => Sys2Proof.Machine.execMwaitReply op s
  | .holderAccess op acc => Sys2Proof.Machine.execHolderAccess op acc s
  | .windowAccess op acc => Sys2Proof.Machine.execWindowAccess op acc s
  | .leaseExpiry core line => Sys2Proof.Machine.execLeaseExpiry core line s
  | .releaseEnd g => Sys2Proof.Machine.execReleaseEnd g s
  | .acquireEnd g => Sys2Proof.Machine.execAcquireEnd g s
  | .beacon core region => Sys2Proof.Machine.execBeacon core region s
  | .hostRead pa n => Sys2Proof.Machine.execHostRead pa n s
  | .hostWrite pa bytes => Sys2Proof.Machine.execHostWrite pa bytes s
  | .backInvalidateAnswer half modified => Sys2Proof.Machine.execBackInvalidateAnswer half modified s
  | .hostWriteBack half bytes => Sys2Proof.Machine.execHostWriteBack half bytes s
  | .hostMemoryCompletion op acc ok => Sys2Proof.Machine.execHostMemoryCompletion op acc ok s
  | .retentionEnter slice => Sys2Proof.Machine.execRetentionEnter slice s
  | .retentionWake slice => Sys2Proof.Machine.execRetentionWake slice s
  | .barGenerationComplete blk barrier => Sys2Proof.Machine.execBarGenerationComplete blk barrier s
  | .gridCounterAssign launch => Sys2Proof.Machine.execGridCounterAssign launch s
  | .gbarGenerationComplete launch => Sys2Proof.Machine.execGbarGenerationComplete launch s
  | .copyAccept op => Sys2Proof.Machine.execCopyAccept op s
  | .copyChunk op => Sys2Proof.Machine.execCopyChunk op s
  | .copyEnd op => Sys2Proof.Machine.execCopyEnd op s
  | .groupEndRelease g => Sys2Proof.Machine.execGroupEndRelease g s
  | .tileEntryBegin core engine entry => Sys2Proof.Machine.execTileEntryBegin core engine entry s
  | .kstepBoundary core engine => Sys2Proof.Machine.execKstepBoundary core engine s
  | .tileEntryEnd core engine => Sys2Proof.Machine.execTileEntryEnd core engine s
  | .tokenGrant op => Sys2Proof.Machine.execTokenGrant op s
  | .accMoveDone op => Sys2Proof.Machine.execAccMoveDone op s
  | .entryAging op => Sys2Proof.Machine.execEntryAging op s
  | .sampleReturn op => Sys2Proof.Machine.execSampleReturn op s
  | .weightFill op => Sys2Proof.Machine.execWeightFill op s
  | .wcinvDone op => Sys2Proof.Machine.execWcinvDone op s
  | .lendingStepBegin core array entry => Sys2Proof.Machine.execLendingStepBegin core array entry s
  | .lendingStepEnd core array => Sys2Proof.Machine.execLendingStepEnd core array s
  | .lendingTimer core array => Sys2Proof.Machine.execLendingTimer core array s
  | .rayResult op => Sys2Proof.Machine.execRayResult op s
  | .rasterStamp core => Sys2Proof.Machine.execRasterStamp core s
  | .depthTest core => Sys2Proof.Machine.execDepthTest core s
  | .pixelGroupSpawn core target => Sys2Proof.Machine.execPixelGroupSpawn core target s
  | .tileUpdate op acc => Sys2Proof.Machine.execTileUpdate op acc s
  | .passEnd blk => Sys2Proof.Machine.execPassEnd blk s
  | .wptrWake queue => Sys2Proof.Machine.execWptrWake queue s
  | .jobStart queue => Sys2Proof.Machine.execJobStart queue s
  | .phaseStart entity => Sys2Proof.Machine.execPhaseStart entity s
  | .graphStart entity => Sys2Proof.Machine.execGraphStart entity s
  | .notBeforePass entity => Sys2Proof.Machine.execNotBeforePass entity s
  | .launchReady entity => Sys2Proof.Machine.execLaunchReady entity s
  | .launchAging entity => Sys2Proof.Machine.execLaunchAging entity s
  | .aggregatorDispatch entity => Sys2Proof.Machine.execAggregatorDispatch entity s
  | .blockPlace entity core => Sys2Proof.Machine.execBlockPlace entity core s
  | .preemptBlock blk => Sys2Proof.Machine.execPreemptBlock blk s
  | .blockComplete blk => Sys2Proof.Machine.execBlockComplete blk s
  | .entityEnd entity => Sys2Proof.Machine.execEntityEnd entity s
  | .jobEnd queue => Sys2Proof.Machine.execJobEnd queue s
  | .walkComplete op acc => Sys2Proof.Machine.execWalkComplete op acc s
  | .faultReply ctx => Sys2Proof.Machine.execFaultReply ctx s
  | .groupReplay g => Sys2Proof.Machine.execGroupReplay g s
  | .ssqDrain g => Sys2Proof.Machine.execSsqDrain g s
  | .tlbiEnd g => Sys2Proof.Machine.execTlbiEnd g s
  | .groupSave g => Sys2Proof.Machine.execGroupSave g s
  | .blockSaved blk => Sys2Proof.Machine.execBlockSaved blk s
  | .groupResume g core => Sys2Proof.Machine.execGroupResume g core s
  | .sleepExpire g => Sys2Proof.Machine.execSleepExpire g s
  | .wtmExpire g path => Sys2Proof.Machine.execWtmExpire g path s
  | .ptpExchange offset => Sys2Proof.Machine.execPtpExchange offset s
  | .linkTimingExchange link offset => Sys2Proof.Machine.execLinkTimingExchange link offset s
  | .lockTimeout => Sys2Proof.Machine.execLockTimeout s
  | .linkTraining link lanes roundTrip sigma peerLocked => Sys2Proof.Machine.execLinkTraining link lanes roundTrip sigma peerLocked s
  | .linkFailure link => Sys2Proof.Machine.execLinkFailure link s
  | .flitReceive link head payload checkOk => Sys2Proof.Machine.execFlitReceive link head payload checkOk s
  | .flitPause link vc => Sys2Proof.Machine.execFlitPause link vc s
  | .flitResume link vc => Sys2Proof.Machine.execFlitResume link vc s
  | .peerRequest peer pa n write lease => Sys2Proof.Machine.execPeerRequest peer pa n write lease s
  | .peerResponse op acc data poison cd0 cd1 cf => Sys2Proof.Machine.execPeerResponse op acc data poison cd0 cd1 cf s
  | .hostLinkTrainDown lanes => Sys2Proof.Machine.execHostLinkTrainDown lanes s
  | .haltPropagation g => Sys2Proof.Machine.execHaltPropagation g s
  | .mirrorHalt g => Sys2Proof.Machine.execMirrorHalt g s
  | .pcSample core sched => Sys2Proof.Machine.execPcSample core sched s
  | .traceRecordWrite ctx => Sys2Proof.Machine.execTraceRecordWrite ctx s
  | .scrub pa uncorrectable => Sys2Proof.Machine.execScrub pa uncorrectable s
  | .dieLoss die => Sys2Proof.Machine.execDieLoss die s
  | .spareActivation failing spare => Sys2Proof.Machine.execSpareActivation failing spare s
  | .sliceRetirement die slice => Sys2Proof.Machine.execSliceRetirement die slice s
  | .rowRepair lo hi => Sys2Proof.Machine.execRowRepair lo hi s
  | .channelRetirement ctx va newPa movable => Sys2Proof.Machine.execChannelRetirement ctx va newPa movable s
  | .powerOnReset => Sys2Proof.Machine.execPowerOnReset s
  | .hostLinkUp => Sys2Proof.Machine.execHostLinkUp s
  | .firmwareVerified bank0 bank1 => Sys2Proof.Machine.execFirmwareVerified bank0 bank1 s
  | .imageVerified bank0 bank1 => Sys2Proof.Machine.execImageVerified bank0 bank1 s
  | .applyComplete trained source sigma time records badRecord => Sys2Proof.Machine.execApplyComplete trained source sigma time records badRecord s
  | .qtbWrite v => Sys2Proof.Machine.execQtbWrite v s
  | .pcapWrite v => Sys2Proof.Machine.execPcapWrite v s
  | .hostRegWrite offset v => Sys2Proof.Machine.execHostRegWrite offset v s
  | .hcmdInvalidate => Sys2Proof.Machine.execHcmdInvalidate s
  | .hcmdInvalidateCtx => Sys2Proof.Machine.execHcmdInvalidateCtx s
  | .hcmdMigrate => Sys2Proof.Machine.execHcmdMigrate s
  | .hcmdSaveCtx => Sys2Proof.Machine.execHcmdSaveCtx s
  | .hcmdReleaseCtx => Sys2Proof.Machine.execHcmdReleaseCtx s
  | .hcmdAttest => Sys2Proof.Machine.execHcmdAttest s
  | .hcmdUnassigned code => Sys2Proof.Machine.execHcmdUnassigned code s
  | .powerCapCheck watts => Sys2Proof.Machine.execPowerCapCheck watts s
  | .corePowerGate core => Sys2Proof.Machine.execCorePowerGate core s
  | .illegalInstruction w => Sys2Proof.Machine.execIllegalInstruction w s
  | .illegalEncoding w k => Sys2Proof.Machine.execIllegalEncoding w k s
  | .noGroupExtension w k => Sys2Proof.Machine.execNoGroupExtension w k s
  | .tileLineFill blk member line => Sys2Proof.Machine.execTileLineFill blk member line s
  | .flashWriteComplete => Sys2Proof.Machine.execFlashWriteComplete s
  | .powerLoss => Sys2Proof.Machine.execPowerLoss s

end Sys2Proof.Machine
end

