-- ==== Sys2Proof/Machine/Sched.lean ====
section
/-! DEFINITION. Which step the module takes next when the agenda leaves it open (log 1). -/

namespace Sys2Proof.Machine

noncomputable section Scheduler

/-- The instruction that the words of a fetch decode to, or the decode failure as a step (02 R41, 03 R66). -/
def instrOf (w k : Word) : Instr :=
  match decode w k with
  | .ok i => i
  | .error .noGroup => .noGroupExtension w k
  | .error .illegalInstruction => .illegalInstruction w
  | .error _ => .illegalEncoding w k

/-- The turn of path q of group g: its instruction is fetched and executed. -/
def State.issueTurn (s : State) (g q : Nat) : Host.Outcome State Fault Refusal :=
  match s.groups.get? g with
  | none => .fault .noIssuer
  | some gr =>
    match s.fetch gr (gr.entryAt q).pc.toNat with
    | .words w k => exec (instrOf w k) { s with cur := some (g, q), stalled := false }
    | _ => exec (.instrFetchReturn g q) s

/-! ### Moves that must wait (08 R223; 18 R420, R429; log 176) -/

/-- The 64 bytes of a half-line of memory, complemented. -/
def State.flipHalf (s : State) (h : Nat) : State := s.wrMem (64 * h) 64 (2 ^ 512 - 1 - s.rdMem (64 * h) 64)

/-- The listed bytes of memory that a slice holds, or decodes for a Cumin page, complemented (08 R226). -/
def State.flipSlice (s : State) (k : Nat) : State :=
  let there (pa : Nat) : Bool := s.homeSlice pa == k && (Sys2Proof.Config.sliceHolds s.gnomon (pa / 128) || s.cumPage pa)
  s.mem.foldl (fun s c => if there c.1 then s.wrMem c.1 1 (255 - c.2.toNat) else s) s

/-- Whether what a move does depends on a part of the state, or changes it: a flip of that part before the move comes to something
else than the flip after it. -/
def State.meets (s : State) (flip : State → State) (f : State → Host.Outcome State Fault Refusal) : Bool :=
  match f s, f (flip s) with
  | .next t, .next u => decide (u ≠ flip t)
  | _, _ => false

/-- Whether a move comes to something else under a probe: it reads what the probe disturbs. -/
def State.probes (s : State) (f : State → Host.Outcome State Fault Refusal) (p : Bool → Probe) : Bool :=
  [true, false].any fun good => s.meets (fun s => { s with probe := some (p good) }) f

/-- Whether a move reads or writes a half-line. -/
def State.touches (s : State) (f : State → Host.Outcome State Fault Refusal) (h : Nat) : Bool :=
  s.meets (·.flipHalf h) f || s.probes f (.half h)

/-- Whether a move that touches a half comes behind what waited for it when the host gave it back (18 R429). -/
def State.comesBehind (s : State) (m : Mover) (h : Nat) : Bool :=
  match s.halves.get? h with
  | some (.w l) => (s.waiting.takeWhile (· != .move h m)).any l.contains
  | _ => false

/-- A move waits for halves (18 R429). -/
def State.awaits (s : State) (m : Mover) (hs : List Nat) : State :=
  { s with waiting := s.waiting ++ ((hs.map fun h => Waiter.move h m).filter fun w => !s.waiting.contains w) }

/-- A move that reads or writes half-lines that the host may hold has them asked back and waits (08 R223; 18 R429), one that
reads a peer that may not be asked now waits (18 R420), and so does one behind what waited for a half before it; none when the move
may be made. -/
def State.heldUp (s : State) (m : Mover) (f : State → Host.Outcome State Fault Refusal) : Option State :=
  let hs := (s.halves.map (·.1)).filter fun h => (s.hostHas h || s.comesBehind m h) && s.touches f h
  if !hs.isEmpty then some ((s.backInval hs).awaits m hs)
  else if s.closedPeers.any fun p => s.probes f (.peer p) then some s
  else none

/-- A move that has been made waits for no half any more; one that has asked for halves itself waits for them. -/
def State.moved (s : State) (m : Mover) (t : State) : State :=
  let asked := (s.halves.filter fun e => e.2 != .p && t.halves.get? e.1 == some .p).map (·.1)
  if s.halves.isEmpty then t
  else if !asked.isEmpty then t.awaits m asked
  else if { t with stalled := s.stalled } = s then t
  else { t with waiting := t.waiting.filter fun w => match w with
    | .move _ x => x != m
    | .acc .. => true }

/-- A move of an agent of the module. -/
def State.perform (s : State) (m : Mover) (f : State → Host.Outcome State Fault Refusal) : Host.Outcome State Fault Refusal :=
  match s.heldUp m f with
  | some t => .next { t with stalled := true }
  | none => match f s with
    | .next t => .next (s.moved m t)
    | r => r

/-- Something that every agent notices, the k-th of a step. -/
def State.notice (s : State) (k : Nat) (f : State → State) : State :=
  match s.heldUp (.notice k) fun s => .next (f s) with
  | some t => t
  | none => s.moved (.notice k) (f s)

/-- Sleeping slices wake that hold what a move of another unit than a group's access reads or writes (08 R226; log 36). -/
def State.wakeMet (s : State) (f : State → Host.Outcome State Fault Refusal) : Host.Outcome State Fault Refusal :=
  match f s with
  | .next t => .next { t with asleep := t.asleep.filter fun k =>
      !(s.asleep.contains k && (s.meets (·.flipSlice k) f || s.probes f (.slice k))) }
  | r => r

/-- Whether an event comes from outside the module: the host's and the peers' accesses see to the halves themselves. -/
def outside : Instr → Bool
  | .hostRead .. | .hostWrite .. | .backInvalidateAnswer .. | .hostWriteBack .. | .peerRequest .. | .dieLoss _ | .powerLoss
  | .powerOnReset => true
  | _ => false

/-- An event. -/
def State.event (s : State) (i : Instr) : Host.Outcome State Fault Refusal :=
  if outside i then exec i s else s.perform (.turn (.event i)) fun s => s.wakeMet (exec i)

/-- The turn of path q of group g, when it need not wait. -/
def State.turnOf (s : State) (g q : Nat) : Host.Outcome State Fault Refusal :=
  s.perform (.turn (.issue g q)) fun s => s.wakeMet (·.issueTurn g q)

/-- The first of some paths that issues; when none does, the state with what each waits for (19 R458). -/
def State.firstIssue (s : State) : List (Nat × Nat) → Host.Outcome State Fault Refusal
  | [] => .next s
  | (g, q) :: l =>
    match s.turnOf g q with
    | .next t => if t.stalled then { t with stalled := false }.firstIssue l else .next t
    | r => r

/-! ### The events of the module's agents (log 1) -/

/-- Whether an event does something now. -/
def State.due (s : State) (i : Instr) : Bool :=
  match s.event i with
  | .next t => decide ({ t with stalled := false } ≠ { s with stalled := false })
  | _ => false

/-- The events of an access of an operation. -/
def accEvents (s : State) (id : Nat) (k : Nat) (a : Access) : List Instr :=
  match a.st with
  | .walk => [.walkComplete id k]
  | .ready =>
    if a.mt = 1 then [.hostMemoryCompletion id k true] else if a.mt = 2 then [.windowAccess id k]
    else if a.peer then (if s.reachable (bits a.pa 47 40) then [] else [.peerResponse id k [] true 0 0 0])
    else [.holderAccess id k, .homeRead id k s.lease, .homeWrite id k, .homeAtomic id k, .tileUpdate id k]
  | .fill => [.fillArrival id k]
  | _ => []

/-- The tile lines that an operation needs (10 R276). -/
def tileEvents (s : State) (o : Op) : List Instr :=
  match o.kind.entryTile.or o.kind.moveTile, s.groups.get? o.g with
  | some t, some g => (List.range 16).map fun r => .tileLineFill g.block (s.memberOf g) (16 * t + r)
  | _, _ => []

/-- The events of an operation. -/
def opEvents (s : State) (id : Nat) (o : Op) : List Instr :=
  (match o.kind with
    | .copy _ => [.copyAccept id, .copyChunk id, .copyEnd id]
    | .mwait .. => [.monitorCheck id, .mwaitReply id]
    | .sample .. | .wcpin .. => [.sampleReturn id, .weightFill id]
    | .wcinv _ => [.wcinvDone id]
    | .trace .. => [.rayResult id]
    | .accq _ => [.tokenGrant id]
    | .accld .. | .accst .. => [.accMoveDone id]
    | .mma .. | .acczr _ => [.entryAging id]
    | _ => [.dataReturn id, .completionTimeReturn id]) ++
  tileEvents s o ++ (o.accs.zipIdx).flatMap fun a => accEvents s id a.2 a.1

/-- The events of a group. -/
def groupEvents (gid : Nat) (g : Group) : List Instr :=
  [.releaseEnd gid, .acquireEnd gid, .orcmdRegister gid, .orcmdDrop gid, .orcmdNoOp gid, .tlbiEnd gid, .groupReplay gid, .stepTrap gid,
    .haltPropagation gid, .mirrorHalt gid, .groupSave gid, .sleepExpire gid, .groupEndRelease gid, .ssqDrain gid] ++
  (match g.missingLine with | some n => [.registerLineFill gid n] | none => []) ++
  ((List.finRange 64).filter fun q => g.paths[q].kind == .record).map (fun q => .mergeJoin gid q.val) ++
  ((List.finRange 64).filter fun q => g.paths[q].hold != .none).flatMap fun q => [.growGrant gid q.val, .wtmExpire gid q.val]

/-- The events of a core. -/
def coreEvents (s : State) (core : Nat) : List Instr :=
  let c := s.core core
  (List.range 4).flatMap (fun e => [.kstepBoundary core e, .tileEntryEnd core e, .lendingStepEnd core e, .lendingTimer core e]) ++
  (s.ops.filter fun o => o.2.core == core && o.2.kind.entryTile.isSome).flatMap (fun o => (List.range 4).flatMap fun e =>
    [.tileEntryBegin core e o.1, .lendingStepBegin core e o.1]) ++
  (if c.raster.isEmpty then [] else
    [.rasterStamp core, .depthTest core] ++ (List.range 52).map fun k => .pixelGroupSpawn core (52 * coreDie core + k)) ++
  c.obs.map (fun e => .beacon core e.1) ++ (List.range 16).map fun k => .pcSample core k

/-- The events of a block. -/
def blockEvents (bid : Nat) : List Instr :=
  (List.range 16).map (fun k => .barGenerationComplete bid k) ++ [.passEnd bid, .blockSaved bid, .blockComplete bid]

/-- The events of an entity. -/
def entityEvents (id : Nat) : List Instr :=
  [.gridCounterAssign id, .gbarGenerationComplete id, .notBeforePass id, .phaseStart id, .graphStart id, .launchReady id,
    .launchAging id, .aggregatorDispatch id, .entityEnd id]

/-- Placing, pre-emption and resumption (15 R364 to R366; 16 R396; 09 R247): a block that only waits gives room to a launch
that fits nowhere, and to a saved block that no longer waits; it comes back when neither is there. -/
def placeEvents (s : State) : List Instr :=
  let ready := s.groups.filter fun e => s.resumable e.2
  let awake := ready.filter fun e => (s.blocks.get? e.2.block).any fun b => !s.blockWaits b
  let back := awake.flatMap fun e => (List.range 104).map fun k => Instr.groupResume e.1 k
  let displaced := awake.any fun e => (s.blocks.get? e.2.block).any (·.cores.isEmpty)
  let give := (s.blocks.filter fun b => !b.2.cores.isEmpty && s.blockWaits b.2).map fun b => Instr.preemptBlock b.1
  match s.placeNext with
  | some x => (List.range 104).map fun k => .blockPlace x.1 k
  | none => s.victim.toList.map .preemptBlock ++ back ++
      if !s.placeOrder.isEmpty || displaced then give
      else ready.flatMap fun e => (List.range 104).map fun k => .groupResume e.1 k

/-- The events of the command processor's host side, the links and the flash. -/
def moduleEvents (s : State) : List Instr :=
  (if s.host.hbusy then [.hcmdInvalidate, .hcmdInvalidateCtx, .hcmdMigrate, .hcmdSaveCtx, .hcmdReleaseCtx, .hcmdAttest, .hcmdUnassigned s.host.hcmd] else []) ++
  [.flashWriteComplete, .lockTimeout, .mirrorHalt 0] ++
  (List.range 18).flatMap fun k => [.flitPause k 0, .flitPause k 2, .flitResume k 0, .flitResume k 2]

/-- Every event that an agent of the module itself may take now, in a fixed order. -/
def ownEvents (s : State) : List Instr :=
  s.ops.flatMap (fun e => opEvents s e.1 e.2) ++ s.groups.flatMap (fun e => groupEvents e.1 e.2) ++
  s.blocks.flatMap (fun e => blockEvents e.1) ++
  ((s.groups.map (·.2.core) ++ (List.range 104).filter fun k => !(s.core k).raster.isEmpty).dedup).flatMap (coreEvents s) ++
  s.ctxs.flatMap (fun e => [.faultReply e.1, .traceRecordWrite e.1]) ++
  (s.queues.filter fun e => e.2.woken || e.2.job.isSome || (e.2.en && !e.2.bad)).flatMap (fun e => [.jobEnd e.1, .wptrWake e.1, .jobStart e.1]) ++
  s.entities.flatMap (fun e => entityEvents e.1) ++ placeEvents s ++ moduleEvents s ++
  (List.range 104).flatMap fun k => ((s.core k).l1.filter fun x => x.2.expiry != 0 && decide (x.2.expiry ≤ s.gnomon)).map fun x => .leaseExpiry k x.1

/-- The first event of an agent that does something (log 1). -/
def nextEvent (s : State) : Option Instr := (ownEvents s).find? s.due

/-- A turn of the agenda. -/
def State.runTurn (s : State) : Turn → Host.Outcome State Fault Refusal
  | .event i => s.event i
  | .issue g q =>
    match s.groups.get? g with
    | some gr => if gr.mayTurn q then s.turnOf g q else .next s
    | none => .next s
  | .pass n => .next { s with gnomon := s.gnomon + n }
  | .dropRecord line =>
    .next (s.dropLine line)
  | .evictL1 c line => .next (s.updCore c fun c => { c with l1 := c.l1.erase line })
  | .evictTlb loc ctx page =>
    .next { s with tlb := s.tlb.filter fun e => !(e.loc == loc && e.ctx == ctx && e.page == page) }
  | .evictICache c => .next (s.updCore c fun c => { c with icache := [] })
  | .softError e => .next (s.softError e)
  | .flash im k x => .next { s with boot := s.boot.update im k x }
  | .dropObs c r => .next (s.updCore c fun c => { c with obs := c.obs.erase r })

/-- An event that is due, else an issue. -/
def State.unscheduled (s : State) : Host.Outcome State Fault Refusal :=
  match nextEvent s with
  | some i => s.event i
  | none => s.firstIssue s.candidates

/-- Whether a turn waits for the host or for a peer. -/
def State.turnWaits (s : State) (t : Turn) : Bool := match t with
  | .event i => !outside i && (s.heldUp (.turn t) fun s => s.wakeMet (exec i)).isSome
  | _ => false

/-- The step without the tick: the agenda's next turn, else an event that is due, else an issue. A turn that waits goes behind the
others. -/
def State.move (s : State) : Host.Outcome State Fault Refusal :=
  match s.agenda with
  | t :: l => if { s with agenda := l }.turnWaits t then
      ((match { s with agenda := l }.runTurn t with | .next u => { u with agenda := l ++ [t], stalled := false } | _ => s) : State).unscheduled
    else { s with agenda := l }.runTurn t
  | [] => s.unscheduled

/-- What waits for halves and may still go on: a move that comes to nothing now, while none of its halves is still to come back, waits
no more (18 R429). -/
def State.settleMoves (s : State) : State :=
  let due (m : Mover) : Bool := match m with
    | .turn (.event i) => (match exec i s with | .next t => decide ({ t with stalled := s.stalled } ≠ s) | _ => false)
    | .turn (.issue g q) => (s.groups.get? g).any (·.mayTurn q)
    | .notice _ => true
    | _ => false
  let asks (m : Mover) : Bool := s.waiting.any fun w => match w with
    | .move h x => x == m && s.hostHas h
    | .acc .. => false
  { s with waiting := s.waiting.filter fun w => match w with
    | .move _ m => asks m || due m
    | .acc .. => true }

/-- What every agent notices at the end of a step (R151, R177, R223; 09 R242, R243; 13 R331), and one tick of Gnomon (18 R417;
log 2). -/
def State.tick (s : State) : State :=
  { ((((s.notice 0 State.settleEnded).notice 1 State.settleFalls).settleMoves.settleHalves.notice 2 State.settleGroups).notice 3
      State.settleTris).settleLinks.settleReserve.settleSigns with
    gnomon := s.gnomon + 1, stalled := false }

end Scheduler

end Sys2Proof.Machine
end

