-- ==== Sys2Proof/Machine/Step.lean ====
section
/-! DEFINITION. One step of the module: one agent moves, and Gnomon rises by one tick. -/

namespace Sys2Proof.Machine

noncomputable section Stepping

/-- One step: the move of the agent whose turn it is, then one tick. -/
def step (s : State) : Host.Outcome State Fault Refusal :=
  match s.move with
  | .next t => .next t.tick
  | r => r

end Stepping

/-- The state with the instruction of `decodeTableWord nbits w` stored where step fetches its next instruction (log 3);
the bits above nbits are zero. -/
def State.withFetchWord (s : State) (nbits w : Nat) : State := s.placeCode 8 (w % 2 ^ nbits)

end Sys2Proof.Machine
end

