-- ==== Sys2Proof/Safety.lean ====
section
/-! DEFINITION. The terms that claims use: the canonical forms of the memories, a group's registers, and an instruction
that issues with nothing in its way. -/

namespace Sys2Proof.Machine

/-- Every byte memory of the module is in canonical form. -/
def State.memsWf (s : State) : Prop :=
  memWf s.mem = true ∧ memWf s.hostMem = true ∧ ∀ e ∈ s.blocks, memWf e.2.scratch = true

/-- The registers of a group that programs read and write (01 R16; 06 R133, R137, R154, R160; 07 R169), without the path
entries, the return-class counters, the poison and what the model keeps of its issue order. -/
structure Regs where
  v : Vector Lanes 256
  s : Vector Word 64
  a : Vector DWord 16
  p : Vector Mask 8
  loops : LoopRegs
  rng : Vector Rand 16
  rd : Vector Nat 16
  nc : Vector Nat 16
  stack : Vector (Vector Word 8) 16
  trap : TrapRegs
  rib : DWord
  hlm : Mask
  valloc : Nat
  sup : Bool
  mprio : Nat
  entry : DWord
  xmask : Mask
  deriving DecidableEq, Repr

/-- The registers of a group. -/
def Group.regs (g : Group) : Regs :=
  { v := g.v, s := g.s, a := g.a, p := g.p, loops := g.loops, rng := g.rng, rd := g.rd, nc := g.nc, stack := g.stack,
    trap := g.trap, rib := g.rib, hlm := g.hlm, valloc := g.valloc, sup := g.sup, mprio := g.mprio, entry := g.entry,
    xmask := g.xmask }

/-- What a path entry says to a program and to the rules (06 R133, R134; 07 R170): without what the model keeps of the order of issues. -/
def PathEntry.plain (e : PathEntry) : PathEntry :=
  if e.kind = .free then {} else { e with since := 0, issued := 0, yielded := false, seen := false, why := 0 }

/-- Two groups have the same paths, records and saved paths, in whatever places: which of them stand in the table is a matter of the
order of issues (06 R143, R144). -/
def Group.samePaths (g h : Group) : Prop := (g.paths.toList.map PathEntry.plain).Perm (h.paths.toList.map PathEntry.plain)

/-- The paths and records of a group, whatever their places in the table and the overflow area. -/
def Group.listed (g : Group) : List PathEntry := (g.paths.toList.filter (·.kind != .free)).map PathEntry.plain

/-- A path of the table issues, with some live lane and none that is halted, in a group whose table holds paths alone
(06 R133, R135). -/
structure OnePath (c : Iss) : Prop where
  place : c.path < 4
  path : (c.g.entryAt c.path).kind = .path
  live : c.live = (c.g.entryAt c.path).mask
  someLive : c.live ≠ 0
  noHalt : c.g.liveOf c.live = c.live
  act : c.act &&& ~~~c.live = 0
  table : ∀ k, k < 4 → (c.g.entryAt k).kind = .free ∨ (c.g.entryAt k).kind = .path

/-- Between two groups only the entry at q differs among the paths. -/
def Group.onlyEntry (g h : Group) (q : Nat) : Prop := ∀ k, k ≠ q → h.entryAt k = g.entryAt k

/-- What lies outside the group that issues: the memories and the poison in them, the other groups, the blocks with their
scratchpads, barriers and tokens, the operations in flight, contexts, queues, entities, cores, links and watch registers. -/
def State.outside (s : State) (gid : Nat) (t : State) : Prop :=
  t.mem = s.mem ∧ t.hostMem = s.hostMem ∧ t.memPoison = s.memPoison ∧ (∀ k, k ≠ gid → t.groups.get? k = s.groups.get? k) ∧
  t.blocks = s.blocks ∧ t.ops = s.ops ∧ t.ctxs = s.ctxs ∧ t.queues = s.queues ∧ t.entities = s.entities ∧
  t.cores = s.cores ∧ t.lines = s.lines ∧ t.halves = s.halves ∧ t.monitors = s.monitors ∧ t.regions = s.regions ∧
  t.links = s.links ∧ t.preds = s.preds ∧ t.mirrors = s.mirrors ∧ t.host = s.host ∧ t.boot = s.boot ∧ t.gnomon = s.gnomon

/-- No watch predicate is enabled (19 R436). -/
def State.noWatch (s : State) : Prop := ∀ k : Fin 16, Pred.en s.preds[k] = false

/-- An instruction of words w that names and needs u has the turn in s as c, after every check of its issue (01 R25,
02 R41, 06 R156, 16 R388), in a group under no watch and no single-lane step, and the entries that its change of the
group to g makes fit the journal (16 R389). -/
structure Issues (w : IWord) (u : Use) (s : State) (c : Iss) (g : Group) : Prop where
  go : preIssue w u s = .go c
  noWatch : s.noWatch
  noStep : g.hstep = 0
  old : ∃ o, s.groups.get? c.gid = some o ∧ (o.finish c u (s.issues + 1) s.nextOp g).isSome = true

/-- The instruction i, of words w, has its whole effect in its group: when it issues as c, the step's next state has the
group with the registers and the paths of f c, and nothing outside the group differs. -/
def OnGroup (i : Instr) (w : IWord) (u : State → Use) (f : Iss → Group) : Prop :=
  ∀ s c, Issues w (u s) s c (f c) →
    ∃ t g, exec i s = .next t ∧ t.groups.get? c.gid = some g ∧ g.regs = (f c).regs ∧ g.samePaths (f c) ∧ s.outside c.gid t

/-- The same of an instruction that may trap at its own check (02 R41 check 7): when f answers a group. -/
def OnGroupOr (i : Instr) (w : IWord) (u : State → Use) (f : Iss → Except Trap Group) : Prop :=
  ∀ s c x, f c = .ok x → Issues w (u s) s c x →
    ∃ t g, exec i s = .next t ∧ t.groups.get? c.gid = some g ∧ g.regs = x.regs ∧ g.samePaths x ∧ s.outside c.gid t

/-- The instruction i raises the trap of f's own check: the next state is that of the trap. -/
def OwnTrap (i : Instr) (w : IWord) (u : State → Use) (f : Iss → Except Trap Group) : Prop :=
  ∀ s c x r, preIssue w (u s) s = .go c → f c = .error x → s.raiseTrap c.gid c.path x = some r → exec i s = .next r

/-- The instruction i has an effect e on the state: when it issues as c, e c s answers t, and the entries that its change
of the group makes fit the journal, the next state is t with the issue's own bookkeeping, when the evaluation of its flags does not
wait (19 R440). -/
def OnState (i : Instr) (w : IWord) (u : State → Use) (e : Iss → State → Eff) : Prop :=
  ∀ s c t fl o g g' r, preIssue w (u s) s = .go c → e c s = .ok t fl → s.groups.get? c.gid = some o →
    t.groups.get? c.gid = some g → o.finish c (u s) (s.issues + 1) t.nextOp g = some g' →
    ((t.setGroup c.gid g').counted (s.issues + 1)).watchFlags c fl = some r → exec i s = .next (r.endHstep c)

/-- The supervisor instruction i at user level, with the earlier checks passed and a trap that can be taken: the privilege
trap (02 R41 check 4). -/
def UserTraps (i : Instr) (w : IWord) (u : Use) : Prop :=
  ∀ (s r : State) (g q : Nat) (x : Group), s.cur = some (g, q) → s.groups.get? g = some x → x.mayTurn q = true →
    s.mayIssue g x (x.entryAt q) u = true → (∀ n, u.ext = some n → x.xmask.getLsbD n = true) → x.sup = false →
    s.raiseTrap g q { cause := 0x03, val := w.word, lanes := x.liveOf (x.entryAt q).mask } = some r →
    exec i s = .next r

/-! ### Values -/

/-- The rational number of a finite value (04 R75); 0 of the others. -/
def FV.rat : FV → ℚ
  | .fin s n e => (if s then -1 else 1) * (n : ℚ) * (2 : ℚ) ^ e
  | _ => 0

/-- Whether a value is finite. -/
def FV.finite : FV → Bool
  | .fin .. => true
  | _ => false

/-- The rational number of an exact result. -/
def Exact.rat (x : Exact) : ℚ := (if x.s then -1 else 1) * ((x.n : ℚ) / x.d) * (2 : ℚ) ^ x.e

/-- The writable bits of a half of a CSR (16 R400; 03 R67; 06 R154, R160; 17 R407; 18 R425; 19 R457); none of a CSR that is
read-only or unassigned. -/
def csrMask (n : Nat) (hi : Bool) : Word :=
  match n, hi with
  | 0x102, false | 0x112, false => 0xFFFF
  | 0x110, false | 0x111, false | 0x120, false | 0x121, false | 0x123, false | 0x124, false | 0x162, false | 0x163, false => 0xFFFFFFFC
  | 0x113, false | 0x122, false | 0x125, false | 0x140, false => 0xFFFFFFFF
  | 0x114, false => 7
  | 0x152, false => 0xFFFFF000
  | 0x160, false => 0xFFFFFFE0
  | 0x161, false => 0xB81FFFFF
  | 0x110, true | 0x111, true | 0x120, true | 0x121, true | 0x123, true | 0x124, true | 0x140, true | 0x152, true | 0x160, true
  | 0x162, true | 0x163, true => 0xFFFFFFFF
  | _, _ => 0

/-- Access k of operation id may be served at its home now: whole bytes of one line of a plain page, that no core holds and that no
lost die took with it (08 R198, R199; 13 R325; 07 R171; 21 R473). -/
structure ServedHere (s : State) (id k : Nat) (o : Op) (a : Access) : Prop where
  here : s.acc? id k = some (o, a)
  home : s.atHome id o a = true
  plain : a.cum = false ∧ a.nib = 0 ∧ a.fwd = 0 ∧ 0 < a.len ∧ a.pa % 128 + a.len ≤ 128
  free : s.isHeld a = false ∧ s.lost a.pa = false
  wf : memWf s.mem = true

/-- No two accesses of an operation are the same, and none is a part of an element that lies across a line (07 R186). -/
def Op.wholeAccs (o : Op) : Prop := o.accs.Nodup ∧ ∀ b ∈ o.accs, o.otherParts b = []

/-- In t the n bytes from pa are those of x, and every other byte of module memory and all of host memory reads as in s. -/
def State.storedTo (s t : State) (pa n x : Nat) : Prop :=
  (∀ i, i < n → memRead t.mem (pa + i) = BitVec.ofNat 8 (x >>> (8 * i))) ∧
  (∀ y, y < pa ∨ pa + n ≤ y → memRead t.mem y = memRead s.mem y) ∧ t.hostMem = s.hostMem

/-! ### Completion: an instruction whose own conditions hold answers the next state of its effect -/

/-- The state that an effect answers; s when it answers none. -/
def Eff.stateOr (s : State) : Eff → State
  | .ok t _ => t
  | _ => s

/-- An instruction of words w that names and needs u has the turn in s as c, after every check of its issue (01 R25, 02 R41,
06 R156, 16 R388), in a group under no watch and no single-lane step, and the entries of what its effect changes in the group
fit the journal (16 R389). -/
structure Ready (w : IWord) (u : Use) (e : Iss → State → Eff) (s : State) (c : Iss) : Prop where
  go : preIssue w u s = .go c
  noWatch : s.noWatch
  room : ∃ o g, s.groups.get? c.gid = some o ∧ ((e c s).stateOr s).groups.get? c.gid = some g ∧ g.hstep = 0 ∧
    (o.finish c u (s.issues + 1) ((e c s).stateOr s).nextOp g).isSome = true

/-- The instruction i completes in every state that meets its own conditions ok: its effect e answers a state t', of which own
holds, and exec answers a next state that differs from t' in what the issue itself notes of the group, and in nothing that
a program reads. -/
def Completes (i : Instr) (w : IWord) (u : State → Use) (e : Iss → State → Eff) (ok : Iss → State → Prop)
    (own : Iss → State → State → Prop := fun _ _ _ => True) : Prop :=
  ∀ s c, Ready w (u s) e s c → ok c s →
    ∃ t' fl t g g', e c s = .ok t' fl ∧ exec i s = .next t ∧ t'.groups.get? c.gid = some g ∧
      t.groups.get? c.gid = some g' ∧ g'.regs = g.regs ∧ g'.samePaths g ∧ t'.outside c.gid t ∧ own c s t'

/-- The instruction i, whose own effect is the trap x, enters the handler: with the earlier accesses of a native group settled
and no fault or deferred error pending (16 R388, R487), the next state is that of the trap's entry (06 R161). -/
def Enters (i : Instr) (w : IWord) (u : Use) (ok : Iss → Prop) (x : Iss → Trap) : Prop :=
  ∀ s c g, preIssue w u s = .go c → s.groups.get? c.gid = some g → ok c → g.deferred = none →
    (s.native g = true → s.settled c.gid = true ∧ s.pending c.gid g = false) →
    exec i s = .next (s.takeTrap c.gid (g.entryAt c.path).pc (g.liveOf (g.entryAt c.path).mask) (x c))

/-- From s to t the instruction c has begun a new operation of kind k, with its active lanes. -/
def State.begins (t s : State) (c : Iss) (k : OpKind) : Prop :=
  ∃ id o, s.nextOp ≤ id ∧ t.ops.get? id = some o ∧ o.g = c.gid ∧ o.act = c.act ∧ o.kind = k

/-- The accesses of an instruction of a group in compatibility mode, of a load of kind `how`, meet no poison that is there as it issues
(21 R469). -/
def Iss.clean (c : Iss) (s : State) (how : Option LoadHow) (accs : List Access) : Prop :=
  c.native = false →
    (s.transAccs c.g.core c.g.ctx c.g.sup true accs).1.ownTrap c how (s.transAccs c.g.core c.g.ctx c.g.sup true accs).2 = none

/-- A group out of precise mode whose accesses translate, if it is native: a fault of one of them would stop a sink
(16 R388, R390); in compatibility mode the access waits (16 R392), and poison is a trap (21 R469). -/
def Iss.translates (c : Iss) (s : State) (accs : List Access) : Prop :=
  c.g.precise = false ∧ (c.native = true → faultLanes (s.transAccs c.g.core c.g.ctx c.g.sup true accs).2 = 0) ∧ c.clean s none accs

/-- The operands of a load of kind `how`, or of a store, are in order: some lane is active, the record that MD.buf names reads and is well formed
(07 R181), every active lane's address passes check 7 (07 R182, R184), and a load in compatibility mode meets no poison (21 R469). -/
structure AddressesReady (how : Option LoadHow) (a : BitVec 4) (off : MOff) (r : BufRec) (c : Iss) (s : State) : Prop where
  active : c.act ≠ 0
  record : s.curRec c = .ok r none
  plain : c.g.precise = false
  checks : accessChecks c r how.isNone (c.act &&& ~~~(off.poison c.g a)) (off.ea c.g a) = none
  clean : how.isSome = true → c.clean s how ((laneList (c.act &&& ~~~(off.poison c.g a))).flatMap fun l =>
    r.laneAccs (mdType c.md) l.val .read (off.ea c.g a l))

/-- The speculative store queue has room, for an instruction that a native group queues (16 R387). -/
def Iss.queueRoom (c : Iss) : Prop := c.native = true → c.g.ssq.length < 8

/-- Scratchpad addresses: every lane's is a multiple of 4 and within the block's size (07 R187). -/
def ScratchReady (a : BitVec 4) (off : MOff) (c : Iss) (s : State) : Prop :=
  c.g.precise = false ∧ scratchChecks c (((s.blocks.get? c.g.block).map (·.ssize)).getD 0)
    (c.act &&& ~~~(off.poison c.g a)) (off.ea c.g a) = none

/-- Every active lane's address of an atomic is a multiple of the operand's size, and its word translates (09 R231). -/
def AtomicReady (cas dest : Bool) (d : Nat) (a : BitVec 4) (e : Nat → Nat) (c : Iss) (s : State) : Prop :=
  (∀ l : Fin 16, lane c.act l = true → atomEa c a e l % (4 * runLen (mdType c.md)) = 0) ∧
  c.translates s (atomAccs c cas dest d a e)

/-- The word of a monitor is aligned and translates (09 R236). -/
def MonitorReady (a : BitVec 4) (c : Iss) (s : State) : Prop :=
  c.act ≠ 0 ∧ (c.g.areg a).toNat % 4 = 0 ∧
  c.translates s [{ lane := uniLane, va := (c.g.areg a).toNat, len := 4, ask := .monitor }]

/-- A grow that the core can meet at once (07 R175). -/
def GrowReady (k : Word) (c : Iss) (s : State) : Prop :=
  c.act ≠ 0 ∧ (growTarget k ≤ c.g.valloc ∨ ((s.growers c.g.core).isEmpty = true ∧ s.admits c.g (growTarget k) = true))

/-- A copy's control word is legal for its form and some lane is active (07 R190, R191). -/
def ControlReady (form : Nat) (w : Word) (c : Iss) : Prop := c.act ≠ 0 ∧ ctlBad form w = false

/-- A copy of a form with its byte count, its scopes and the mode. -/
def copyShape (c : Iss) (form : Nat) (x : Copy) (n w : Word) : Copy :=
  { x with form := form, md := c.md, n := n.toNat }.scoped w

/-- A converting copy's types, records and ranges are in order (07 R192). -/
def ConvertReady (x : Copy) (n w : Word) (sr dr : BufRec) (c : Iss) (s : State) : Prop :=
  memTypes.contains (mdType c.md) = true ∧ mdRnd c.md ≠ 5 ∧
  s.bufRec c (bits w.toNat 23 16) (mdType c.md) = .ok sr none ∧ s.bufRec c (bits w.toNat 31 24) (mdType c.md) = .ok dr none ∧
  (mdRnd c.md < 6 ∨ (sr.rounds (mdType c.md) = false ∧ dr.rounds (mdType c.md) = false)) ∧ dr.refusesCopy = false ∧
  ({ copyShape c 1 x n w with srec := sr, drec := dr, sidx := bits w.toNat 23 16 } : Copy).overlaps = false

/-- A 2D copy's element size divides the row and its ranges do not overlap (07 R184, R192). -/
def RowsReady (x : Copy) (n w : Word) (c : Iss) : Prop :=
  let e := if w.getLsbD 9 then 2 ^ bits w.toNat 11 10 else 0
  (e = 0 ∨ bits n.toNat 15 0 % e = 0) ∧
  ({ copyShape c 2 x n w with n := bits n.toNat 15 0, h := bits n.toNat 31 16, esz := e } : Copy).overlaps = false

/-- A decompressing copy's source, record and ranges are in order (07 R184, R192). -/
def DecompressReady (x : Copy) (n w : Word) (dr : BufRec) (c : Iss) (s : State) : Prop :=
  x.src % 64 = 0 ∧ s.bufRec c (bits w.toNat 31 24) (mdType c.md) = .ok dr none ∧ decTypes.contains dr.stype = true ∧
  mdRnd c.md < 6 ∧ dr.ro = false ∧ ({ copyShape c 4 x n w with drec := dr } : Copy).overlaps = false

/-- The raster state that a[A] names is aligned, reads, and is well formed (13 R326). -/
def RasterReady (a : BitVec 4) (z : Bool) (rs : Nat) (c : Iss) (s : State) : Prop :=
  c.act ≠ 0 ∧ (c.g.areg a).toNat % 64 = 0 ∧ s.readRec c (c.g.areg a).toNat 64 = .ok (rs, none) ∧
  rsBad (c.g.areg a).toNat rs z = false

/-- The pixel kernel of a raster state reads and is well formed, and the core's queue has room for a triangle of each active
lane (13 R328, R331). -/
def TrianglesReady (rs x : Nat) (c : Iss) (s : State) : Prop :=
  rsPkd rs % 64 = 0 ∧ s.readRec c (rsPkd rs) 64 = .ok (x, none) ∧ triDescBad s c.g x = false ∧
  (s.core c.g.core).raster.length + (laneList c.act).length ≤ 256 ∧ (s.blocks.get? c.g.block).any (fun b => !b.tris.isEmpty) = false

/-- The group that a Reticle instruction targets is there, takes the change f, and need not settle first (19 R454, R455,
R456). -/
def TargetReady (rib : Nat) (paths : Bool) (f : Group → Option Group) (c : Iss) (s : State) : Prop :=
  let s := s.setGroup c.gid c.g
  c.act ≠ 0 ∧ ∃ t g new, s.target c.g.ctx rib = some t ∧ s.groups.get? t = some g ∧ f (s.viewOf g) = some new ∧
    (paths = true → s.mustSettle t g = false)

end Sys2Proof.Machine
end

