-- ==== Sys2Proof/Certificates/Slice0/Obligations.lean ====
section
/-! DEFINITION. The statements for the provers. -/

open Sys2Proof Sys2Proof.Machine

/-- Words of each format, written byte by byte as opcode, D, A, B from the encodings of the opcode map, decode to the instruction that they stand for: REG, SCB, LIT, BR and MOD formats and function codes. (02 R33; 02 R36; 02 R37; 02 R39; 03 R57; 03 R59; 03 R60; 03 R61; 03 R62; 03 R63) -/
def Obligations.DecodeWords : Prop :=
  decode 0x10010203 0 = .ok (.addReg 1 2 3) ∧ decode 0x11010203 0 = .ok (.addScb 1 2 3) ∧
  decode 0x12010200 0xFFFFFFFF = .ok (.addLit 1 2 0xFFFFFFFF) ∧ decode 0x53FF3F05 0 = .ok (.faddScb 0xFF 0x3F 5) ∧
  decode 0x01020304 0 = .ok (.popc 2 3) ∧ decode 0x02020302 0 = .ok (.frcp 2 3) ∧ decode 0x03000005 0 = .ok .ret ∧
  decode 0x80FFFFFE 0 = .ok (.br 0xFFFFFE) ∧ decode 0x04000055 0 = .ok (.fenceAcq 5) ∧
  decode 0x05040305 0 = .ok (.atom 4 3 5) ∧ decode 0xAA040300 0 = .ok (.ldReg 4 3 0) ∧
  decode 0xAD040307 0 = .ok (.stReg 4 3 7) ∧ decode 0xA0401234 0 = .error .illegalEncoding ∧
  decode 0xA0400034 0 = .ok (.modeBuf 0x34) ∧ decode 0xC1000810 0 = .ok (.mma 0 8 0x10) ∧
  decode 0xC9100203 0 = .ok (.smp 0x10 2 3) ∧ decode 0xCD100203 0 = .ok (.rtrc 0x10 2 3) ∧
  decode 0xE6010201 0 = .ok (.rrdObs 1 2) ∧ decode 0x0B0102B4 0 = .error .illegalEncoding

/-- For every instruction of the primary map that is well formed, with every operand at every value that its encoding admits, the bytes of its words, with any bytes after them, decode to it and leave those bytes. (02 R32; 02 R33; 02 R36; 02 R39; 03 R57) -/
def Obligations.DecodeOfEncode : Prop :=
  ∀ i : Instr, i.hasWords = true → i.wellFormed = true →
    ∀ rest, decodeBytes ((encode i).flatMap wordBytes ++ rest) = .ok (i, rest)

/-- When an instruction word and its trailing word decode to an instruction, the instruction is well formed and its encoding is the word itself, followed by the trailing word exactly when the opcode has the literal format. (02 R33; 02 R36; 02 R41; 03 R57) -/
def Obligations.EncodeOfDecode : Prop :=
  ∀ (w k : Word) (i : Instr), decode w k = .ok i →
    i.wellFormed = true ∧ i.hasWords = true ∧
    encode i = if isLit (w.extractLsb' 24 8).toNat then [w, k] else [w]

/-- A word with opcode 0x00 or 0xF0 to 0xFF, a word of zeros among them, decodes to no instruction, and the path that fetched it takes the trap of cause 0x01 with the word as TVAL whenever a trap can be taken. (R43) -/
def Obligations.ReservedOpcodes : Prop :=
  ∀ (w k : Word), ((w.extractLsb' 24 8).toNat = 0 ∨ 0xF0 ≤ (w.extractLsb' 24 8).toNat) →
    decode w k = .error .illegalInstruction ∧ instrOf w k = .illegalInstruction w ∧
    ∀ (s r : State) (g q : Nat) (x : Group), s.cur = some (g, q) → s.groups.get? g = some x → x.mayTurn q = true →
      s.mayIssue g x (x.entryAt q) { guard := false } = true →
      s.raiseTrap g q { cause := 0x01, val := w, lanes := x.liveOf (x.entryAt q).mask } = some r →
      exec (.illegalInstruction w) s = .next r

/-- The three rows for words that decode to no instruction take the trap of their check: illegal instruction 0x01, illegal encoding, and the emulation trap of an extension code of no group, whenever a trap can be taken. (02 R41; 03 R66; 03 R68; 03 R70) -/
def Obligations.DecodeFailures : Prop :=
  ∀ (w k : Word) (s r : State) (g q : Nat) (x : Group), s.cur = some (g, q) → s.groups.get? g = some x →
    x.mayTurn q = true → s.mayIssue g x (x.entryAt q) { guard := false } = true →
    (s.raiseTrap g q { cause := 0x01, val := w, lanes := x.liveOf (x.entryAt q).mask } = some r →
      exec (.illegalInstruction w) s = .next r) ∧
    (s.raiseTrap g q (encodingTrap w k x (x.liveOf (x.entryAt q).mask)) = some r →
      exec (.illegalEncoding w k) s = .next r) ∧
    (s.raiseTrap g q (emulation w k (isLit (opcodeOf w)) true x.sup 0 (x.liveOf (x.entryAt q).mask)) = some r →
      exec (.noGroupExtension w k) s = .next r)

/-- When the turn is a path of a group that may issue, the words at its PC decode to an instruction, and the move waits neither for a half-line that the host may hold nor for a peer (no move does while there are none), the step is exec of that instruction at the state that gives the path the turn, with the sleeping slices that it meets awake and the path waiting for nothing more, followed by the tick; no sleeping slice and no half-line means no such change. The same holds when no event is due and the path is the first candidate and its instruction does not wait. The order of turns (the agenda) is the model's choice, log 1, and so is one tick for each step, log 2. (02 R41; 08 R226; 18 R417) -/
def Obligations.StepRunsDecoded : Prop :=
  ∀ (s : State) (g q : Nat) (x : Group) (w k : Word) (i : Instr),
    s.groups.get? g = some x → x.mayTurn q = true →
    s.fetch x (x.entryAt q).pc.toNat = .words w k → decode w k = .ok i →
    let runs (r u : State) : Prop := ∃ A W, step s = .next ({ r with asleep := A, waiting := W } : State).tick ∧
      (∀ k ∈ A, k ∈ r.asleep) ∧ (u.asleep = [] → A = r.asleep) ∧ (u.halves = [] → W = r.waiting)
    (∀ l, s.agenda = .issue g q :: l →
      let u : State := { s with agenda := l }
      u.heldUp (.turn (.issue g q)) (fun s => s.wakeMet (·.issueTurn g q)) = none →
      match exec i { u with cur := some (g, q), stalled := false } with
      | .next r => runs r u
      | .fault e => step s = .fault e
      | .refused e => step s = .refused e) ∧
    (∀ l r, s.agenda = [] → nextEvent s = none → s.candidates = (g, q) :: l →
      s.heldUp (.turn (.issue g q)) (fun s => s.wakeMet (·.issueTurn g q)) = none →
      exec i { s with cur := some (g, q), stalled := false } = .next r → r.stalled = false → runs r s) ∧
    (s.halves = [] → s.peers = [] → ∀ m f, s.heldUp m f = none)

/-- In stages 0 to 3 and 7 a host read of any register but ID and STATUS gives 0 and a host write is dropped; the module right after power-on is in stage 0; at reset every memory of the model is in its canonical form (addresses rising, no listed byte equal to what an unlisted one reads as; the form is the model's own). (22 R478; 22 R481) -/
def Obligations.ResetState : Prop :=
  State.reset.boot.stage = 0 ∧ State.memsWf State.reset ∧
  ∀ s : State, s.boot.stage ≠ 4 →
    (∀ off, off ≠ 0x00 → off ≠ 0x08 → s.hostReg off = 0) ∧
    (∀ off v, exec (.hostRegWrite off v) s = .next s)

/-- With TSTAT.inh = 0 and TVEC not 0, a trap sets FLM, TPC, TMSK, TCAUSE, TVAL and TSTAT as R161 lists, raises the level to supervisor, makes one path at TVEC with MD 0, no record and the lanes of every saved path, sets NC of those lanes to 0, and leaves vector, scalar, address, predicate, loop and random registers and everything outside the group unchanged; an emulation trap also sets EMIW to the word, EMTW to the trailing word or 0 and EMINF to the group, the length, the level and the bit for no group, which every other trap leaves. When the table holds paths alone and the kept entries of R136 are free, the saved frame holds every path with its PC, mask, level, MD, record and wait, every record stays, and NC of a lane outside the frame stays. That a trap of a lane in a single-lane step ends the step after the same entry is the model's reading, log 69. (03 R70; 06 R136; 06 R160; 06 R161; 19 R455) -/
def Obligations.TrapEntry : Prop :=
  (∀ (s : State) (gid : Nat) (g : Group) (pc : DWord) (live : Mask) (t : Trap),
    s.groups.get? gid = some g → g.trap.tstat.getLsbD 0 = false → (s.ctx g.ctx).tvec ≠ 0 →
    ∃ h : Group, (g.steps live = false → s.takeTrap gid pc live t = s.setGroup gid h ∧ s.outside gid (s.takeTrap gid pc live t)) ∧
      (g.steps live = true → s.takeTrap gid pc live t = s.stepEnds gid h live pc) ∧
      h.trap.flm = t.lanes ∧ h.trap.tpc = pc ∧ h.trap.tmsk = live ∧ h.trap.tcause = tcauseOf t.cause t.detail ∧
      h.trap.tval = t.val ∧ h.trap.tstat.getLsbD 0 = true ∧ h.trap.tstat.getLsbD 1 = g.sup ∧
      h.trap.tstat.getLsbD 2 = false ∧ h.sup = true ∧
      (t.em = none → h.trap.emiw = g.trap.emiw ∧ h.trap.emtw = g.trap.emtw ∧ h.trap.eminf = g.trap.eminf) ∧
      (∀ e, t.em = some e → h.trap.emiw = e.1 ∧ h.trap.emtw = e.2.1 ∧ h.trap.eminf = e.2.2) ∧
      (h.entryAt 0).kind = .path ∧ (h.entryAt 0).pc = (s.ctx g.ctx).tvec ∧ (h.entryAt 0).md = 0 ∧
      (h.entryAt 0).rcd = 0 ∧ (h.entryAt 0).level = 0 ∧ (h.entryAt 0).mask = g.saveFrame.frameMask ∧
      (∀ l : Fin 16, lane (h.entryAt 0).mask l = true → h.nc[l] = 0) ∧
      h.v = g.v ∧ h.s = g.s ∧ h.a = g.a ∧ h.p = g.p ∧ h.loops = g.loops ∧ h.rng = g.rng ∧ h.rd = g.rd ∧
      h.stack = g.stack ∧ h.hlm = g.hlm ∧ h.valloc = g.valloc ∧
      (∀ l : Fin 16, lane g.saveFrame.frameMask l = false → h.nc[l] = g.nc[l]) ∧
      ((∀ k, k < 4 → (g.entryAt k).kind = .free ∨ (g.entryAt k).kind = .path) → g.noRoom 0 = false →
        h.listed.Perm ((h.entryAt 0).plain ::
          (g.clearBad live).listed.map fun e => if e.kind = .path then { e with kind := .saved } else e))) ∧
  (∀ (w k : Word) (len8 ng sup : Bool) (n : Nat) (live : Mask), n < 16 → ∃ inf : BitVec 7,
    (emulation w k len8 ng sup n live).cause = 0x07 ∧ (emulation w k len8 ng sup n live).lanes = live ∧
    (emulation w k len8 ng sup n live).em = some (w, if len8 then k else 0, inf) ∧
    inf.getLsbD 6 = ng ∧ inf.getLsbD 5 = sup ∧ inf.getLsbD 4 = len8 ∧ inf.toNat % 16 = if ng then 0 else n)

/-- With TSTAT.inh = 1 or TVEC = 0 a trap is the context fault of its cause, and nothing of the entry is done. (06 R161; 16 R398) -/
def Obligations.TrapInHandler : Prop :=
  ∀ (s : State) (gid : Nat) (g : Group) (pc : DWord) (live : Mask) (t : Trap), s.groups.get? gid = some g →
    (g.trap.tstat.getLsbD 0 = true ∨ (s.ctx g.ctx).tvec = 0) →
    s.takeTrap gid pc live t = s.contextFault gid t.cause 0 pc.toNat

/-- tret outside a handler traps with cause 0x03 detail 1, and with more than one path with cause 0x06; otherwise the level becomes TSTAT.pl, TSTAT.inh 0, a step is armed exactly when TSTAT.step is 1, FLM and the other trap registers and every vector, scalar, address and predicate register keep their values. The handler's path, at no record, ends; every saved path is a path again with its PC, mask, level, MD, record and wait, but that the stopped one, whose mask meets TMSK, is at TPC and waits for nothing; every record stays, and NC of each lane of a saved path is that path's level. (06 R161; 06 R162) -/
def Obligations.TrapReturn : Prop :=
  ∀ c : Iss,
    (c.g.trap.tstat.getLsbD 0 = false →
      tretEff c = .error { cause := 0x03, detail := 1, val := c.word, lanes := c.live }) ∧
    (c.g.trap.tstat.getLsbD 0 = true → c.g.manyPaths = true →
      tretEff c = .error { cause := 0x06, val := c.word, lanes := c.live }) ∧
    (c.g.trap.tstat.getLsbD 0 = true → c.g.manyPaths = false → ∃ h, tretEff c = .ok h ∧
      h.sup = c.g.trap.tstat.getLsbD 1 ∧ h.trap.tstat.getLsbD 0 = false ∧
      h.trap.tstat.getLsbD 1 = c.g.trap.tstat.getLsbD 1 ∧ h.trap.tstat.getLsbD 2 = c.g.trap.tstat.getLsbD 2 ∧
      h.trap = { c.g.trap with tstat := h.trap.tstat } ∧
      (h.step = if c.g.trap.tstat.getLsbD 2 then some (c.g.trap.tmsk, none) else none) ∧
      h.v = c.g.v ∧ h.s = c.g.s ∧ h.a = c.g.a ∧ h.p = c.g.p ∧ h.loops = c.g.loops ∧ h.rng = c.g.rng ∧
      h.hlm = c.g.hlm ∧ h.stack = c.g.stack ∧ h.rd = c.g.rd ∧
      (∀ (l : Fin 16) (k : Nat), k < 64 → (c.g.entryAt k).kind = .saved → lane (c.g.entryAt k).mask l = true →
        (∀ j, j < 64 → (c.g.entryAt j).kind = .saved → lane (c.g.entryAt j).mask l = true → j = k) → h.nc[l] = (c.g.entryAt k).level) ∧
      (∀ l : Fin 16, lane c.g.frameMask l = false → h.nc[l] = c.g.nc[l]) ∧
      ((∀ k, k < 4 → (c.g.entryAt k).kind = .free ∨ (c.g.entryAt k).kind = .path) →
        (∀ k, k < 64 → (c.g.entryAt k).kind = .path → (c.g.entryAt k).rcd = 0) →
        h.listed.Perm ((c.g.listed.filter (·.kind != .path)).map fun e =>
          let stopped := e.mask &&& c.g.trap.tmsk ≠ 0
          if e.kind = .saved then { e with
            kind := .path
            pc := if stopped then c.g.trap.tpc else e.pc
            hold := if stopped then .none else e.hold } else e)))

/-- For tret, sleep, tlbi.va, tlbi.ctx, tlbi.all, wpw, wpr, hrd, hwr, hstep and hres: issued at user level, when the earlier checks pass and a trap can be taken, the step takes the trap of cause 0x03 with the word as TVAL and the live lanes in FLM, and no other effect. (02 R41; 06 R162; 16 R383; 16 R403; 19 R450) -/
def Obligations.Privilege : Prop :=
  (UserTraps .tret W.tret { ({ guard := false, sup := true, sink := true } : Use) with ctl := true }) ∧
  (∀ (a : BitVec 6), UserTraps (.sleep a) (W.sleep a) { sr := [a.toNat], guard := false, sup := true, sink := true }) ∧
  (∀ (a : BitVec 4), UserTraps (.tlbiVa a) (W.tlbiVa a) { ar := [a].map (·.toNat), guard := false, sup := true, sink := true }) ∧
  (UserTraps .tlbiCtx W.tlbiCtx { ar := ([] : List (BitVec 4)).map (·.toNat), guard := false, sup := true, sink := true }) ∧
  (UserTraps .tlbiAll W.tlbiAll { ar := ([] : List (BitVec 4)).map (·.toNat), guard := false, sup := true, sink := true }) ∧
  (∀ (d : BitVec 3) (a : BitVec 6) (b : BitVec 4), UserTraps (.wpw d a b) (W.wpw d a b) { sr := a.toNat :: (List.range 4).map (4 * b.toNat + ·), pw := [d.toNat], sup := true, uniform := true, sink := true }) ∧
  (∀ (d : BitVec 6) (a : BitVec 6), UserTraps (.wpr d a) (W.wpr d a) { sr := [a.toNat], sw := [d.toNat], sup := true, uniform := true }) ∧
  (∀ (d : BitVec 6) (a : BitVec 4) (b : BitVec 6), UserTraps (.hrd d a b) (W.hrd d a b) { sr := [b.toNat], ar := [a.toNat], sw := [d.toNat], pw := [7], sup := true, uniform := true }) ∧
  (∀ (d : BitVec 6) (a : BitVec 4) (b : BitVec 6), UserTraps (.hwr d a b) (W.hwr d a b) { sr := [b.toNat, d.toNat], ar := [a.toNat], pw := [7], sup := true, uniform := true, sink := true }) ∧
  (∀ (d : BitVec 6) (a : BitVec 4), UserTraps (.hstep d a) (W.hstep d a) { sr := [d.toNat], ar := [a.toNat], pw := [7], sup := true, uniform := true, sink := true }) ∧
  (∀ (d : BitVec 6) (a : BitVec 4), UserTraps (.hres d a) (W.hres d a) { sr := [d.toNat], ar := [a.toNat], pw := [7], sup := true, uniform := true, sink := true })

/-- checks 2, 4, 5 and 6 decide in this order: a feature group whose XMASK bit is 0 gives the emulation trap, a supervisor instruction at user level cause 0x03, a register outside the allocation or an odd s64 register cause 0x04, a type or rounding that is not legal cause 0x05; when none fails no trap is raised. (02 R41; 01 R18; 01 R23; 03 R66) -/
def Obligations.CheckOrder : Prop :=
  ∀ (g : Group) (md : Word) (live : Mask) (w k : Word) (len8 : Bool) (u : Use),
    (∀ n, u.ext = some n → g.xmask.getLsbD n = false →
      checkFails g md live w k len8 u = some (emulation w k len8 false g.sup n live)) ∧
    ((∀ n, u.ext = some n → g.xmask.getLsbD n = true) →
      (u.sup = true → g.sup = false → checkFails g md live w k len8 u = some { cause := 0x03, val := w, lanes := live }) ∧
      ((u.sup = true → g.sup = true) →
        (((∃ n ∈ u.vs, 16 * g.valloc ≤ n) ∨ (∃ n ∈ u.pairs, n % 2 = 1) ∨ u.range = true) →
          checkFails g md live w k len8 u = some { cause := 0x04, val := w, lanes := live }) ∧
        ((∀ n ∈ u.vs, n < 16 * g.valloc) → (∀ n ∈ u.pairs, n % 2 = 0) → u.range = false →
          (((∃ l, u.types = some l ∧ mdType md ∉ l) ∨ (u.rounds = true ∧ 6 ≤ mdRnd md)) →
            checkFails g md live w k len8 u = some { cause := 0x05, val := md, lanes := live }) ∧
          ((∀ l, u.types = some l → mdType md ∈ l) → (u.rounds = true → mdRnd md < 6) →
            checkFails g md live w k len8 u = none))))

/-- An address that ends no live loop leaves the loop registers and goes on; one that ends loop N alone lowers lcN by one and goes to lsN unless lcN became 0; one that ends both counts first the loop with the greater start, loop 1 on a tie, and the other only when the first completes. (06 R154; 06 R156) -/
def Obligations.LoopCount : Prop :=
  ∀ (r : LoopRegs) (x next : DWord),
    ((r.lc0 = 0 ∨ r.le0 ≠ x) → (r.lc1 = 0 ∨ r.le1 ≠ x) → r.count next (r.ending x) = (next, r)) ∧
    (r.lc0 ≠ 0 → r.le0 = x → (r.lc1 = 0 ∨ r.le1 ≠ x) →
      r.count next (r.ending x) = (if r.lc0 = 1 then next else r.ls0, { r with lc0 := r.lc0 - 1 })) ∧
    ((r.lc0 = 0 ∨ r.le0 ≠ x) → r.lc1 ≠ 0 → r.le1 = x →
      r.count next (r.ending x) = (if r.lc1 = 1 then next else r.ls1, { r with lc1 := r.lc1 - 1 })) ∧
    (r.lc0 ≠ 0 → r.le0 = x → r.lc1 ≠ 0 → r.le1 = x →
      r.count next (r.ending x) =
        if r.ls1.toNat < r.ls0.toNat then
          if r.lc0 ≠ 1 then (r.ls0, { r with lc0 := r.lc0 - 1 })
          else (if r.lc1 = 1 then next else r.ls1, { r with lc0 := 0, lc1 := r.lc1 - 1 })
        else
          if r.lc1 ≠ 1 then (r.ls1, { r with lc1 := r.lc1 - 1 })
          else (if r.lc0 = 1 then next else r.ls0, { r with lc1 := 0, lc0 := r.lc0 - 1 }))

/-- and, or, xor and andn compute each active lane as a and b, a or b, a xor b, a and not b, whatever the type; the other lanes of D and every other register of the group keep their values. (R105) -/
def Obligations.BitwiseLanes : Prop :=
  ∀ (op : BitOp) (d a : BitVec 8) (b : BOp) (c : Iss) (l : Fin 16),
    (lane c.act l = true → (lane32Eff (bitLane op) d a b c).vlane d l =
      match op with
      | .and => c.g.vlane a l &&& b.lane32 c.g l
      | .or => c.g.vlane a l ||| b.lane32 c.g l
      | .xor => c.g.vlane a l ^^^ b.lane32 c.g l
      | .andn => c.g.vlane a l &&& ~~~(b.lane32 c.g l)) ∧
    (lane c.act l = false → (lane32Eff (bitLane op) d a b c).vlane d l = c.g.vlane d l) ∧
    (∀ r, r ≠ d → (lane32Eff (bitLane op) d a b c).vreg r = c.g.vreg r) ∧
    { (lane32Eff (bitLane op) d a b c).regs with v := c.g.v } = c.g.regs

/-- For each active lane addc writes the low 32 bits of a + b + p7 and p7 becomes the carry out; subb writes the low 32 bits of a - b - p7 and p7 becomes 1 exactly when a < b + borrow in; lanes that are not active keep D and p7, and the other predicates and registers keep their values. (R106) -/
def Obligations.CarryLanes : Prop :=
  ∀ (d a : BitVec 8) (b : BOp) (c : Iss) (l : Fin 16),
    let k : Nat := if lane (c.g.pred 7) l then 1 else 0
    let x := c.g.vlane a l
    let y := b.lane32 c.g l
    let add := carryEff false d a b c
    let sub := carryEff true d a b c
    (lane c.act l = true →
      add.vlane d l = BitVec.ofNat 32 (x.toNat + y.toNat + k) ∧
      lane (add.pred 7) l = decide (2 ^ 32 ≤ x.toNat + y.toNat + k) ∧
      sub.vlane d l = x - y - BitVec.ofNat 32 k ∧
      lane (sub.pred 7) l = decide (x.toNat < y.toNat + k)) ∧
    (lane c.act l = false →
      add.vlane d l = c.g.vlane d l ∧ lane (add.pred 7) l = lane (c.g.pred 7) l ∧
      sub.vlane d l = c.g.vlane d l ∧ lane (sub.pred 7) l = lane (c.g.pred 7) l) ∧
    (∀ r, r ≠ d → add.vreg r = c.g.vreg r ∧ sub.vreg r = c.g.vreg r) ∧
    (∀ q, q ≠ 7 → add.pred q = c.g.pred q ∧ sub.pred q = c.g.pred q) ∧
    { add.regs with v := c.g.v, p := c.g.p } = c.g.regs ∧ { sub.regs with v := c.g.v, p := c.g.p } = c.g.regs

/-- sel writes every lane of the path that is not halted: A where bit l of p[MD.gp] differs from MD.gs, else the B operand, whatever MD.ge holds; the other lanes and registers keep their values. (R108) -/
def Obligations.SelLanes : Prop :=
  ∀ (d a : BitVec 8) (b : BOp) (c : Iss) (l : Fin 16),
    (lane c.live l = true → (selEff d a b c).vlane d l =
      if lane (c.g.pred (mdGp c.md)) l ≠ mdGs c.md then c.g.vlane a l else b.lane32 c.g l) ∧
    (lane c.live l = false → (selEff d a b c).vlane d l = c.g.vlane d l) ∧
    (∀ r, r ≠ d → (selEff d a b c).vreg r = c.g.vreg r) ∧
    { (selEff d a b c).regs with v := c.g.v } = c.g.regs

/-- A lane passes the guard when MD.ge is 0 or bit l of the predicate that MD.gp names differs from MD.gs; a lane of a path is active exactly when its mask bit is 1, its HLM bit is 0 and it passes the guard. (R21) -/
def Obligations.ActiveLanes : Prop :=
  ∀ (g : Group) (m : Mask) (md : Word) (l : Fin 16),
    lane (g.passing md) l = (!md.getLsbD 3 || (lane (g.pred (md.extractLsb' 0 3)) l != md.getLsbD 4)) ∧
    lane (g.activeOf m md) l = (lane m l && !lane g.hlm l && lane (g.passing md) l)

/-- With pos = b[4:0] and len the smaller of b[13:8] and 32 - pos, bfx gives bits pos to pos + len - 1 of a, extended with the sign under s32 and with zeros under n32, and 0 when len is 0; bfi replaces bits pos to pos + len - 1 of D by the low bits of a and keeps every other bit; the other lanes and registers keep their values. (05 R107) -/
def Obligations.BitFieldLanes : Prop :=
  ∀ (signed : Bool) (d a : BitVec 8) (b : BOp) (c : Iss) (l : Fin 16) (k : Nat), k < 32 →
    let y := (b.lane32 c.g l).toNat
    let pos := y % 32
    let len := min (y / 256 % 64) (32 - pos)
    let x := c.g.vlane a l
    (lane c.act l = true →
      ((lane32Eff (bfxLane signed) d a b c).vlane d l).getLsbD k =
        (if k < len then x.getLsbD (pos + k) else signed && decide (0 < len) && x.getLsbD (pos + len - 1)) ∧
      ((bfiEff d a b c).vlane d l).getLsbD k =
        (if pos ≤ k ∧ k < pos + len then x.getLsbD (k - pos) else (c.g.vlane d l).getLsbD k)) ∧
    (lane c.act l = false → (lane32Eff (bfxLane signed) d a b c).vlane d l = c.g.vlane d l ∧
      (bfiEff d a b c).vlane d l = c.g.vlane d l) ∧
    (∀ r, r ≠ d → (lane32Eff (bfxLane signed) d a b c).vreg r = c.g.vreg r ∧ (bfiEff d a b c).vreg r = c.g.vreg r) ∧
    { (lane32Eff (bfxLane signed) d a b c).regs with v := c.g.v } = c.g.regs ∧ { (bfiEff d a b c).regs with v := c.g.v } = c.g.regs

/-- Each active lane sets its bit of p[D] to whether a = b or a < b, signed under s32 and unsigned under n32; the bits of lanes that are not active, the other predicates and every other register keep their values. (05 R109) -/
def Obligations.CompareLanes : Prop :=
  ∀ (lt : Bool) (d : BitVec 3) (a : BitVec 8) (b : BOp) (c : Iss) (l : Fin 16),
    let x := c.g.vlane a l
    let y := b.lane32 c.g l
    let h := cmpEff d (intCmp lt a b) c
    (lane c.act l = true → mdType c.md = .s32 → lane (h.pred d) l = (if lt then x.slt y else x == y)) ∧
    (lane c.act l = true → mdType c.md = .n32 → lane (h.pred d) l = (if lt then x.ult y else x == y)) ∧
    (lane c.act l = false → lane (h.pred d) l = lane (c.g.pred d) l) ∧
    (∀ q, q ≠ d → h.pred q = c.g.pred q) ∧ { h.regs with p := c.g.p } = c.g.regs

/-- clz is 32 for 0 and else the count of zeros above the highest one bit; popc is the count of one bits; bit k of brev is bit 31 - k of a; not inverts every bit; abs and neg give each element of s8, s16, s32 and s64 its absolute value and its negation, reduced modulo 2^w when MD.sat is 0 and saturated when it is 1; the other lanes and registers keep their values. fabs clears the sign bit, fneg inverts it; frnd gives an integral value by the mode, with the sign of its input, and keeps infinities. frcp to fcos give the results of R117 for its special inputs, and a NaN for a NaN; of other inputs that are not flushed frcp rounds 1 / a once, and fsqrt and frsq round once a number that lies in the same cell as the root, of a grid finer than 2^-30 of it, and on the edge exactly when the root does; fex2 of an integer, flg2 of a power of two and fsin and fcos of whole quarter turns come from the exact value (elsewhere their series are the model's, log 20). (04 R74; 04 R78; 05 R97; 05 R99; 05 R103; 05 R110; 05 R116; 05 R117) -/
def Obligations.UnaryLanes : Prop :=
  (∀ a : Word, (a = 0 → clzLane a = 32) ∧
    (a ≠ 0 → (clzLane a).toNat < 32 ∧ a.getLsbD (31 - (clzLane a).toNat) = true ∧
      ∀ k, 31 - (clzLane a).toNat < k → a.getLsbD k = false)) ∧
  (∀ a : Word, (popcLane a).toNat = ((List.range 32).map fun k => if a.getLsbD k then 1 else 0).sum) ∧
  (∀ (a : Word) (k : Nat), k < 32 → (brevLane a).getLsbD k = a.getLsbD (31 - k)) ∧
  (∀ (d a : BitVec 8) (c : Iss) (l : Fin 16) (k : Nat), k < 32 → lane c.act l = true →
    ((unary32Eff (~~~·) d a c).vlane d l).getLsbD k = !(c.g.vlane a l).getLsbD k) ∧
  (∀ (f : Word → Word) (d a : BitVec 8) (c : Iss) (l : Fin 16),
    (unary32Eff f d a c).vlane d l = (if lane c.act l then f (c.g.vlane a l) else c.g.vlane d l) ∧
    (∀ r, r ≠ d → (unary32Eff f d a c).vreg r = c.g.vreg r) ∧ { (unary32Eff f d a c).regs with v := c.g.v } = c.g.regs) ∧
  (∀ (neg : Bool) (d a : BitVec 8) (c : Iss) (l : Fin 16), mdType c.md ∈ [Ty.s8, .s16, .s32, .s64] →
    (mdType c.md = .s64 → d.toNat % 2 = 0) →
    let t := mdType c.md
    let h := absNegEff neg d a c
    (∀ i, i < t.count → lane c.act l = true →
      let x := intVal t (elem t (c.g.laneVal t a l) i)
      let y := intVal t (elem t (h.laneVal t d l) i)
      let z := if neg then -x else |x|
      (mdSat c.md = true → y = max (-(2 ^ (t.width - 1))) (min (2 ^ (t.width - 1) - 1) z)) ∧
      (mdSat c.md = false → y = if z = 2 ^ (t.width - 1) then -(2 ^ (t.width - 1)) else z)) ∧
    (lane c.act l = false → h.laneVal t d l = c.g.laneVal t d l) ∧
    (∀ r, r ≠ d → (t = .s64 → r ≠ d + 1) → h.vreg r = c.g.vreg r) ∧ { h.regs with v := c.g.v } = c.g.regs) ∧
  (∀ (neg : Bool) (d a : BitVec 8) (c : Iss) (l : Fin 16), mdType c.md ∈ fpTypes →
    let t := mdType c.md
    let h := signEff neg d a c
    (∀ i k, i < t.count → k < t.width → lane c.act l = true → (elem t (h.vlane d l).toNat i).testBit k =
      (let x := (elem t (c.g.vlane a l).toNat i).testBit k
       if k = t.width - 1 then neg && !x else x)) ∧
    (lane c.act l = false → h.vlane d l = c.g.vlane d l) ∧
    (∀ r, r ≠ d → h.vreg r = c.g.vreg r) ∧ { h.regs with v := c.g.v } = c.g.regs) ∧
  (∀ (t : Ty) (rnd q p : Nat), t ∈ fpTypes →
    let x := fval t p
    let r := frndRes t rnd false q x
    (x = .nan → r = (t.nanPat, 0)) ∧ (∀ s, x = .inf s → fval t r.1 = x ∧ r.2 = 0) ∧
    (x.finite = true → (fval t r.1).sign = x.sign ∧ (fval t r.1).finite = true ∧ ∃ k : Int, (fval t r.1).rat = k ∧
      |(k : ℚ) - x.rat| < 1 ∧ (rnd = 0 ∨ rnd = 4 → 2 * |(k : ℚ) - x.rat| ≤ 1) ∧ (rnd = 1 → |(k : ℚ)| ≤ |x.rat|) ∧
      (rnd = 2 → x.rat ≤ k) ∧ (rnd = 3 → (k : ℚ) ≤ x.rat) ∧ (rnd = 0 → 2 * |(k : ℚ) - x.rat| = 1 → k % 2 = 0) ∧
      (rnd = 4 → 2 * |(k : ℚ) - x.rat| = 1 → |x.rat| ≤ |(k : ℚ)|))) ∧
  (∀ rnd q p : Nat,
    let x := fval .f32 p
    let el := fun f => ufnEl f rnd false q p
    let isZero := fun (r : Nat × Flags) (s : Bool) (fl : Flags) =>
      (fval .f32 r.1).finite = true ∧ (fval .f32 r.1).rat = 0 ∧ (fval .f32 r.1).sign = s ∧ r.2 = fl
    let isInf := fun (r : Nat × Flags) (s : Bool) (fl : Flags) => fval .f32 r.1 = .inf s ∧ r.2 = fl
    let isOne := fun (r : Nat × Flags) (s : Bool) => (fval .f32 r.1).rat = (if s then -1 else 1) ∧ r.2 = 0
    let isNaN := fun (r : Nat × Flags) (fl : Flags) => r = (Ty.f32.nanPat, fl)
    (x = .nan → ∀ f, isNaN (el f) 0) ∧
    (x.finite = true → x.rat = 0 →
      isInf (el .rcp) x.sign fDivzero ∧ isInf (el .rsq) x.sign fDivzero ∧ isZero (el .sqrt) x.sign 0 ∧ isOne (el .ex2) false ∧
      isInf (el .lg2) true fDivzero ∧ isZero (el .sin) x.sign 0 ∧ isOne (el .cos) false) ∧
    (∀ s, x = .inf s → isZero (el .rcp) s 0 ∧ isNaN (el .sin) fInvalid ∧ isNaN (el .cos) fInvalid ∧
      (s = true → isNaN (el .rsq) fInvalid ∧ isNaN (el .sqrt) fInvalid ∧ isZero (el .ex2) false 0 ∧ isNaN (el .lg2) fInvalid) ∧
      (s = false → isZero (el .rsq) false 0 ∧ isInf (el .sqrt) false 0 ∧ isInf (el .ex2) false 0 ∧ isInf (el .lg2) false 0)) ∧
    (x.finite = true → x.rat < 0 → isNaN (el .rsq) fInvalid ∧ isNaN (el .sqrt) fInvalid ∧ isNaN (el .lg2) fInvalid) ∧
    (x.finite = true → x.rat ≠ 0 → ∃ E : Exact, 0 < E.d ∧ E.rat = 1 / x.rat ∧ el .rcp = roundTo .f32 rnd q false E) ∧
    (x.finite = true → 0 < x.rat → ∀ root : Bool, ∃ (E : Exact) (r : Nat) (k : Int),
      let y := if root then x.rat else 1 / x.rat
      let low := (r : ℚ) * 2 ^ k
      let high := ((r : ℚ) + 1) * 2 ^ k
      0 < E.d ∧ 2 ^ 30 ≤ r ∧ low ^ 2 ≤ y ∧ y < high ^ 2 ∧ low ≤ E.rat ∧ E.rat < high ∧ (E.rat = low ↔ low ^ 2 = y) ∧
      el (if root then .sqrt else .rsq) = roundTo .f32 rnd q false E) ∧
    (∀ k : Int, x.finite = true → x.rat = k → |k| < 256 →
      ∃ E : Exact, 0 < E.d ∧ E.rat = (2 : ℚ) ^ k ∧ el .ex2 = roundTo .f32 rnd q false E) ∧
    (∀ k : Int, x.finite = true → x.rat = (2 : ℚ) ^ k → ∃ E : Exact, 0 < E.d ∧ E.rat = k ∧ el .lg2 = roundTo .f32 rnd q false E) ∧
    (∀ k : Int, x.finite = true → 4 * x.rat = k →
      (k % 2 = 0 → isZero (el .sin) x.sign 0 ∧ isOne (el .cos) (k % 4 == 2)) ∧
      (k % 2 = 1 → isOne (el .sin) (k % 4 == 3) ∧ isZero (el .cos) false 0))) ∧
  (∀ (f : UFn) (d a : BitVec 8) (c : Iss) (l : Fin 16),
    let h := (ufnEff f d a c).1
    let q := if mdRnd c.md = 5 then ((c.g.rng[l].draws 1).1).headD 0 else 0
    (lane c.act l = true → (h.vlane d l).toNat = (ufnEl f (mdRnd c.md) (mdFtz c.md) q (c.g.vlane a l).toNat).1) ∧
    (lane c.act l = false → h.vlane d l = c.g.vlane d l ∧ h.rng[l] = c.g.rng[l]) ∧
    (∀ r, r ≠ d → h.vreg r = c.g.vreg r) ∧ { h.regs with v := c.g.v, rng := c.g.rng } = c.g.regs)

/-- Each active lane l of D receives lane src of A as A stood before the instruction: k[3:0] for bcast and shfl.idx (b[3:0] of lane l for the register form), l - k for shfl.up when k is at most l and else l, l + k for shfl.dn when that is at most 15 and else l, l xor k[3:0] for shfl.xor; the other lanes and registers keep their values. (05 R124) -/
def Obligations.ExchangeLanes : Prop :=
  ∀ (e : Exch) (d a : BitVec 8) (c : Iss) (l : Fin 16),
    let h := exchEff e d a c
    (lane c.act l = true → ∃ src : Fin 16, h.vlane d l = c.g.vlane a src ∧
      (match e with
      | .bcast k | .idx k => src.val = k.toNat % 16
      | .idxReg b => src.val = (c.g.vlane b l).toNat % 16
      | .up k => src.val = if k.toNat ≤ l.val then l.val - k.toNat else l.val
      | .dn k => src.val = if l.val + k.toNat ≤ 15 then l.val + k.toNat else l.val
      | .xor k => src.val = l.val ^^^ (k.toNat % 16))) ∧
    (lane c.act l = false → h.vlane d l = c.g.vlane d l) ∧
    (∀ r, r ≠ d → h.vreg r = c.g.vreg r) ∧ { h.regs with v := c.g.v } = c.g.regs

/-- The scalar and address operations, the scalar compares and moves, pmov, ballot, lred and rdln have no effect on any register when no lane is active. (05 R98) -/
def Obligations.UniformWithoutLane : Prop :=
  ∀ c : Iss, c.act = 0 →
    (∀ f, uniformEff f c = c.g) ∧
    (∀ op d a, (lredEff op d a c).1 = c.g ∧ (lredEff op d a c).2 = [])

/-- add, sub, mul and mad give the exact sum, difference, product or product and sum, which is the least or greatest value of the type when it lies outside the range and MD.sat is 1, and is reduced modulo 2^w when it is 0; mulh gives the high half of the product; min and max give the smaller and the larger value; the shifts and the rotation move each bit by the count taken modulo w, filling with zeros, or with the sign for sra. The vector instruction gives each element of an active lane that result, and leaves the other lanes and registers. (04 R73; 04 R74; 05 R97; 05 R99; 05 R101; 05 R103; 05 R104) -/
def Obligations.IntElements : Prop :=
  (∀ (t : Ty) (x : Int), t ∈ allInt →
    intVal t (fitInt true t x) = max t.minInt (min t.maxInt x) ∧ fitInt false t x = (x % 2 ^ t.width).toNat ∧
    (t.minInt ≤ x → x ≤ t.maxInt → intVal t (fitInt false t x) = x)) ∧
  (∀ (t : Ty) (sat : Bool) (a b d : Nat), t ∈ allInt → a < 2 ^ t.width → b < 2 ^ t.width → d < 2 ^ t.width →
    let x := intVal t a
    let y := intVal t b
    let w := t.width
    let n := b % w
    intEl .add t sat a b d = fitInt sat t (x + y) ∧ intEl .sub t sat a b d = fitInt sat t (x - y) ∧
    intEl .mul t sat a b d = fitInt sat t (x * y) ∧ intEl .mad t sat a b d = fitInt sat t (x * y + intVal t d) ∧
    intVal t (intEl .mulh t sat a b d) = x * y / 2 ^ w ∧
    intVal t (intEl .min t sat a b d) = min x y ∧ intVal t (intEl .max t sat a b d) = max x y ∧
    (∀ k, k < w →
      (intEl .shl t sat a b d).testBit k = (decide (n ≤ k) && a.testBit (k - n)) ∧
      (intEl .shr t sat a b d).testBit k = (decide (k + n < w) && a.testBit (k + n)) ∧
      (intEl .sra t sat a b d).testBit k = a.testBit (min (k + n) (w - 1)) ∧
      (intEl .rotl t sat a b d).testBit k = a.testBit ((k + w - n) % w)) ∧
    (∀ op, intEl op t sat a b d < 2 ^ w)) ∧
  (∀ (op : IntOp) (d a : BitVec 8) (b : BOp) (c : Iss) (l : Fin 16), mdType c.md ∈ op.types →
    (mdType c.md = .s64 → d.toNat % 2 = 0) →
    let t := mdType c.md
    let h := op.eff d a b c
    (∀ i, i < t.count → lane c.act l = true → elem t (h.laneVal t d l) i =
      intEl op t (mdSat c.md) (elem t (c.g.laneVal t a l) i) (elem t (b.laneVal c.g t l) i) (elem t (c.g.laneVal t d l) i)) ∧
    (lane c.act l = false → h.laneVal t d l = c.g.laneVal t d l) ∧
    (∀ r, r ≠ d → (t = .s64 → r ≠ d + 1) → h.vreg r = c.g.vreg r) ∧ { h.regs with v := c.g.v } = c.g.regs)

/-- call raises the trap of cause 0x0A with the lanes at depth 8 in FLM if any active lane is there; otherwise before the division each active lane has its depth raised by one and the link on top, and no other lane changes its stack. The link is (PC + 4 - entry) / 4: the signed number of words from the entry address to PC + 4, from which entry plus four times it is PC + 4 again. (06 R137; 06 R149) -/
def Obligations.CallPushes : Prop :=
  (∀ (g : Group) (pc : DWord) (n : Word), pc + 4 - g.entry = 4 * n.signExtend 64 → linkOf g pc = n ∧ g.entry + 4 * (linkOf g pc).signExtend 64 = pc + 4) ∧
  ∀ (o : BitVec 24) (c : Iss),
    ((∃ l : Fin 16, lane c.act l = true ∧ 8 ≤ c.g.rd[l]) → ∃ m : Mask,
      callEff o c = .error { cause := 0x0A, val := c.word, lanes := m } ∧
      ∀ l : Fin 16, lane m l = (lane c.act l && decide (8 ≤ c.g.rd[l]))) ∧
    ((∀ l : Fin 16, lane c.act l = true → c.g.rd[l] < 8) →
      callEff o c = divideEff (jumpTarget c.pc o) { c with g := c.g.push c.act (linkOf c.g c.pc) } ∧
      ∀ (l : Fin 16), ((c.g.push c.act (linkOf c.g c.pc)).rd[l] = if lane c.act l then c.g.rd[l] + 1 else c.g.rd[l]) ∧
        (lane c.act l = true → c.g.rd[l] < 8 →
          (c.g.push c.act (linkOf c.g c.pc)).stack[l].toList.getD c.g.rd[l] 0 = linkOf c.g c.pc) ∧
        (lane c.act l = false → (c.g.push c.act (linkOf c.g c.pc)).stack[l] = c.g.stack[l]))

/-- When the writes of an operation to a line are applied at the home, in plain pages, every byte of module memory outside that 128-byte line and the lines of the other parts of an element that lies across it, and all of host memory, reads as before, and module memory stays canonical. (07 R186; 08 R198) -/
def Obligations.HomeWriteFrame : Prop :=
  ∀ (s t : State) (id k : Nat) (o : Op) (a : Access), memWf s.mem = true → s.acc? id k = some (o, a) →
    (∀ b ∈ o.accs, b.cum = false ∧ b.pa % 128 + b.len ≤ 128) →
    exec (.homeWrite id k) s = .next t →
    memWf t.mem = true ∧ t.hostMem = s.hostMem ∧
    ∀ x, x / 128 ≠ a.pa / 128 →
      (∀ b ∈ o.accs, (∃ y ∈ o.otherParts b, y.pa / 128 = a.pa / 128) → x / 128 ≠ b.pa / 128) →
      memRead t.mem x = memRead s.mem x

/-- From every state whose module memory, host memory and scratchpads are in canonical form (addresses rising, no listed byte equal to what an unlisted one reads as), a step that answers a next state leaves them so; the canonical form is the model's own, and with it equal memories are equal data. (07 R186; 08 R198; 22 R478) -/
def Obligations.StepKeepsMemories : Prop :=
  ∀ s t : State, s.memsWf → step s = .next t → t.memsWf

/-- An instruction issues with its path at PC + 4, or + 8 with a trailing word, and with the loop registers as they are, when no live loop ends there, else at the address and with the loop registers of the end action, and with every other path entry as it is. mode K = 0 replaces the guard fields, type, rnd, sat and ftz, each exactly when its mask bit is 1, and keeps every other bit; K = 1 replaces bufrec alone; wrmd writes all of MD, or takes trap 0x05 with the value in TVAL for a value with a reserved bit; rdmd copies MD; each in the issuing path alone, with no other register changed. (01 R22; 01 R23; 02 R32; 02 R40; 05 R131; 06 R133; 06 R156) -/
def Obligations.ModeAndPc : Prop :=
  (∀ (w : IWord) (u : Use) (s : State) (c : Iss), preIssue w u s = .go c →
    ∃ g : Group, s.groups.get? c.gid = some g ∧ s.cur = some (c.gid, c.path) ∧ c.path < 4 ∧ c.e = g.entryAt c.path ∧
      c.pc = c.e.pc ∧ c.md = c.e.md ∧ c.live = g.liveOf c.e.mask ∧
      c.g.entryAt c.path = { c.e with pc := c.next } ∧ g.onlyEntry c.g c.path ∧ { c.g.regs with loops := g.loops } = g.regs ∧
      (let x := c.pc + (if w.lit then 8 else 4)
       (g.loops.lc0 = 0 ∨ g.loops.le0 ≠ x) → (g.loops.lc1 = 0 ∨ g.loops.le1 ≠ x) → c.next = x ∧ c.g.loops = g.loops) ∧
      (let x := c.pc + (if w.lit then 8 else 4)
       (c.next, c.g.loops) = g.loops.count x (g.loops.ending x))) ∧
  (∀ (g t r sm f : BitVec 1) (p : BitVec 3) (e v : BitVec 1) (y : BitVec 4) (n : BitVec 3) (u z : BitVec 1) (md : Word) (k : Nat), k < 32 →
    (modeArithMd g t r sm f p e v y n u z md).getLsbD k =
      (if k < 3 then (if g = 1 then p.getLsbD k else md.getLsbD k)
      else if k = 3 then (if g = 1 then e.getLsbD 0 else md.getLsbD k)
      else if k = 4 then (if g = 1 then v.getLsbD 0 else md.getLsbD k)
      else if k < 9 then (if t = 1 then y.getLsbD (k - 5) else md.getLsbD k)
      else if k < 12 then (if r = 1 then n.getLsbD (k - 9) else md.getLsbD k)
      else if k = 12 then (if sm = 1 then u.getLsbD 0 else md.getLsbD k)
      else if k = 13 then (if f = 1 then z.getLsbD 0 else md.getLsbD k)
      else md.getLsbD k)) ∧
  (∀ (b : BitVec 8) (md : Word) (k : Nat), k < 32 →
    (modeBufMd b md).getLsbD k = (if 16 ≤ k ∧ k < 24 then b.getLsbD (k - 16) else md.getLsbD k)) ∧
  (∀ (f : Iss → Word) (c : Iss), c.path < 64 →
    (setMdEff f c).entryAt c.path = { c.g.entryAt c.path with md := f c } ∧ c.g.onlyEntry (setMdEff f c) c.path ∧
    (setMdEff f c).regs = c.g.regs) ∧
  (∀ (a : BitVec 6) (c : Iss),
    wrmdEff a c = if c.g.sreg a &&& 0xFF00C000 = 0 then .ok (setMdEff (fun c => c.g.sreg a) c)
      else .error { cause := 0x05, val := c.g.sreg a, lanes := c.live }) ∧
  (∀ (d r : BitVec 6) (g : Group) (x : Word), (g.setS d x).sreg r = (if r = d then x else g.sreg r) ∧
    { (g.setS d x).regs with s := g.s } = g.regs ∧ (g.setS d x).paths = g.paths)

/-- br with all live lanes active goes to the target, with none to PC + 4, and else takes trap 0x06; jmp always goes to the target, which is PC plus four times the signed offset. A division replaces the path by a record of its mask, level, MD and record and by one path of the active lanes at the target and one of the other live lanes at PC + 4, each at the next level, under the new record and with the MD, and sets NC of the live lanes. ret replaces the path by one path for each return address of its lanes, at the same level, MD and record, and lowers RD of the live lanes. No other path, record or register changes. A division with a live lane at count 255 traps with cause 0x08, detail 0 and those lanes, else with too few free overflow entries (two, and four more outside a handler) with detail 1; ret traps with cause 0x0B and the live lanes at depth 0, and with cause 0x08 detail 1 when its paths find no room. (02 R38; 06 R134; 06 R136; 06 R137; 06 R139; 06 R147; 06 R148; 06 R149; 06 R150; 06 R160) -/
def Obligations.PathTargets : Prop :=
  (∀ (pc : DWord) (o : BitVec 24), jumpTarget pc o = BitVec.ofInt 64 ((pc.toNat : Int) + 4 * o.toInt)) ∧
  (∀ (c : Iss) (pc : DWord), c.path < 64 →
    (c.goto pc).entryAt c.path = { c.g.entryAt c.path with pc := pc } ∧ c.g.onlyEntry (c.goto pc) c.path ∧ (c.goto pc).regs = c.g.regs) ∧
  (∀ (o : BitVec 24) (c : Iss),
    (c.act = c.live → brEff o c = .ok (c.goto (jumpTarget c.pc o))) ∧
    (c.act ≠ c.live → c.act = 0 → brEff o c = .ok (c.goto (c.pc + 4))) ∧
    (c.act ≠ c.live → c.act ≠ 0 → brEff o c = .error { cause := 0x06, val := c.word, lanes := c.live })) ∧
  (∀ (target : DWord) (c : Iss), OnePath c → (∀ l : Fin 16, lane c.live l = true → c.g.nc[l] < 255) → c.g.noRoom 2 = false →
    let e := c.g.entryAt c.path
    ∃ (h : Group) (r : Nat), divideEff target c = .ok h ∧ 4 ≤ r ∧ r < 64 ∧ (c.g.entryAt r).kind = .free ∧
      h.entryAt r = { kind := .record, level := e.level, mask := c.live, md := e.md, rcd := e.rcd } ∧
      (let new (pc : DWord) (m : Mask) : List PathEntry := if m = 0 then [] else
          [{ kind := .path, level := e.level + 1, mask := m, pc := pc, md := e.md, rcd := r }]
       h.listed.Perm (c.g.listed.erase e.plain ++ [(h.entryAt r).plain] ++ new target c.act ++ new (c.pc + 4) (c.live &&& ~~~c.act))) ∧
      (∀ l : Fin 16, h.nc[l] = if lane c.live l then e.level + 1 else c.g.nc[l]) ∧ { h.regs with nc := c.g.nc } = c.g.regs) ∧
  (∀ (g : Group) (n : Nat), g.noRoom n = true ↔
    ((List.range 64).filter fun k => decide (4 ≤ k) && (g.entryAt k).kind == .free).length < n + if g.trap.tstat.getLsbD 0 then 0 else 4) ∧
  (∀ (target : DWord) (c : Iss),
    ((∃ l : Fin 16, lane c.live l = true ∧ 255 ≤ c.g.nc[l]) → ∃ m : Mask,
      divideEff target c = .error { cause := 0x08, val := c.word, lanes := m } ∧
      ∀ l : Fin 16, lane m l = (lane c.live l && decide (255 ≤ c.g.nc[l]))) ∧
    ((∀ l : Fin 16, lane c.live l = true → c.g.nc[l] < 255) → c.g.noRoom 2 = true →
      divideEff target c = .error { cause := 0x08, detail := 1, val := c.word, lanes := c.live })) ∧
  (∀ c : Iss,
    ((∃ l : Fin 16, lane c.live l = true ∧ c.g.rd[l] = 0) → ∃ m : Mask, retEff c = .error { cause := 0x0B, val := c.word, lanes := m } ∧
      ∀ l : Fin 16, lane m l = (lane c.live l && decide (c.g.rd[l] = 0))) ∧
    ((∀ l : Fin 16, lane c.live l = true → c.g.rd[l] ≠ 0) →
      c.g.noRoom ((retPcs c).length - 1 - c.g.freeTable.length) = true → c.g.freeTable.length < (retPcs c).length - 1 →
      retEff c = .error { cause := 0x08, detail := 1, val := c.word, lanes := c.live })) ∧
  (∀ (g : Group) (l : Fin 16), g.retAddr l = g.entry + 4 * ((g.stack[l].toList.getD (g.rd[l] - 1) 0).signExtend 64)) ∧
  (∀ c : Iss, OnePath c → (∀ l : Fin 16, lane c.live l = true → c.g.rd[l] ≠ 0) →
    (c.g.noRoom ((retPcs c).length - 1 - c.g.freeTable.length) = false ∨ (retPcs c).length - 1 ≤ c.g.freeTable.length) →
    ∃ (h : Group) (pcs : List DWord), retEff c = .ok h ∧ pcs.Nodup ∧
      (∀ pc, pc ∈ pcs ↔ ∃ l : Fin 16, lane c.live l = true ∧ c.g.retAddr l = pc) ∧
      h.listed.Perm (c.g.listed.erase (c.g.entryAt c.path).plain ++ pcs.map fun pc => ({ c.g.entryAt c.path with
        pc := pc, mask := maskOf fun l => lane c.live l && c.g.retAddr l == pc } : PathEntry).plain) ∧
      (∀ l : Fin 16, h.rd[l] = if lane c.live l then c.g.rd[l] - 1 else c.g.rd[l]) ∧ { h.regs with rd := c.g.rd } = c.g.regs)

/-- merge at level 0 takes trap 0x09; else the path waits in place with its PC held, or, when its record has already joined, goes on at PC + 4 with the record's level, MD and record. When every lane of a record waits, and no lane is halted, the join replaces the waiting paths and the record by one path for each address of a merge, at that address + 4, with the lanes that waited there and the record's level, MD and record, and sets NC of its lanes. loop sets the start and end registers and goes on, or to the end when the count is 0; lbrk clears the count and goes to the end when a lane is active and the count is not 0. exit takes the active lanes out of the path, and ends the group when no path is left. By the model's reading, log 15, exit with no active lane has no effect outside a handler, and in a handler it ends the group whatever lanes are active. (06 R134; 06 R140; 06 R141; 06 R151; 06 R155; 06 R157; 19 R447) -/
def Obligations.PathWaits : Prop :=
  (∀ c : Iss, (c.g.entryAt c.path).level = 0 → mergeEff c = .error { cause := 0x09, val := c.word, lanes := c.live }) ∧
  (∀ c : Iss, c.path < 4 → (c.g.entryAt c.path).level ≠ 0 →
    let e := c.g.entryAt c.path
    let Q := c.g.entryAt e.rcd
    ((Q.kind ≠ .record ∨ Q.hold = .none) → ∃ h : Group, mergeEff c = .ok h ∧ h.entryAt c.path = { e with pc := c.pc, hold := .merge } ∧
      c.g.onlyEntry h c.path ∧ h.regs = c.g.regs) ∧
    (Q.kind = .record → Q.hold ≠ .none → ∃ h : Group, mergeEff c = .ok h ∧
      h.entryAt c.path = { e with pc := c.pc + 4, level := Q.level, md := Q.md, rcd := Q.rcd } ∧
      (∀ l : Fin 16, h.nc[l] = if lane c.live l then Q.level else c.g.nc[l]) ∧ { h.regs with nc := c.g.nc } = c.g.regs)) ∧
  (∀ (g : Group) (r tick : Nat), 4 ≤ r → r < 64 → g.hlm = 0 → g.joinReady r = true →
    (∀ k, k < 64 → (g.entryAt k).kind ≠ .free → (g.entryAt k).rcd = r → g.atMerge r (g.entryAt k) = true) →
    (∀ k, k < 4 → (g.entryAt k).kind = .free ∨ (g.entryAt k).kind = .path) →
    let Q := g.entryAt r
    let waits (pc : DWord) (l : Fin 16) : Bool := g.paths.toList.any fun e => g.atMerge r e && e.pc == pc && lane e.mask l
    ∃ pcs : List DWord, pcs.Nodup ∧ (∀ pc, pc ∈ pcs ↔ ∃ l : Fin 16, waits pc l = true) ∧
      (g.join r tick).listed.Perm (((g.listed.erase Q.plain).filter fun e => e.kind != .path || e.rcd != r) ++
        pcs.map fun pc => { kind := .path, pc := pc + 4, mask := maskOf (waits pc), level := Q.level, md := Q.md, rcd := Q.rcd }) ∧
      (∀ l : Fin 16, (g.join r tick).nc[l] = if pcs.any (waits · l) then Q.level else g.nc[l]) ∧
      { (g.join r tick).regs with nc := g.nc } = g.regs) ∧
  (∀ (n : Bool) (o : BitVec 24) (c : Iss), c.path < 64 →
    (c.g.manyPaths = true → loopEff n o c = .error { cause := 0x06, val := c.word, lanes := c.live }) ∧
    (c.g.manyPaths = false → o.toInt < 2 → loopEff n o c = .error { cause := 0x02, val := c.word, lanes := c.live }) ∧
    (c.g.manyPaths = false → 2 ≤ o.toInt → ∃ h : Group, loopEff n o c = .ok h ∧ c.g.onlyEntry h c.path ∧
      { h.regs with loops := c.g.loops } = c.g.regs ∧
      h.loops = (if n then { c.g.loops with ls1 := c.pc + 4, le1 := jumpTarget c.pc o }
        else { c.g.loops with ls0 := c.pc + 4, le0 := jumpTarget c.pc o }) ∧
      h.entryAt c.path = { c.g.entryAt c.path with
        pc := if (if n then c.g.loops.lc1 else c.g.loops.lc0) = 0 then jumpTarget c.pc o else c.pc + 4 })) ∧
  (∀ (n : Bool) (c : Iss), c.path < 64 →
    (c.g.manyPaths = true → lbrkEff n c = .error { cause := 0x06, val := c.word, lanes := c.live }) ∧
    (c.g.manyPaths = false → ∃ h : Group, lbrkEff n c = .ok h ∧ c.g.onlyEntry h c.path ∧
      { h.regs with loops := c.g.loops } = c.g.regs ∧
      (let stays := c.act = 0 ∨ (if n then c.g.loops.lc1 else c.g.loops.lc0) = 0
       h.loops = (if stays then c.g.loops else if n then { c.g.loops with lc1 := 0 } else { c.g.loops with lc0 := 0 }) ∧
       h.entryAt c.path = { c.g.entryAt c.path with
         pc := if stays then c.pc + 4 else if n then c.g.loops.le1 else c.g.loops.le0 }))) ∧
  (∀ c : Iss, OnePath c →
    let e := c.g.entryAt c.path
    (c.g.trap.tstat.getLsbD 0 = true → (exitEff c).mode = .ended) ∧
    (c.g.trap.tstat.getLsbD 0 = false → c.act = 0 → exitEff c = c.g) ∧
    (c.g.trap.tstat.getLsbD 0 = false → c.act ≠ 0 → c.act ≠ c.live →
      (exitEff c).entryAt c.path = { e with mask := c.live &&& ~~~c.act } ∧ c.g.onlyEntry (exitEff c) c.path ∧
      (exitEff c).regs = c.g.regs ∧ (exitEff c).mode = c.g.mode) ∧
    (c.g.trap.tstat.getLsbD 0 = false → c.act = c.live →
      ((∃ k, k < 64 ∧ k ≠ c.path ∧ (c.g.entryAt k).kind = .path) → ((exitEff c).entryAt c.path).kind = .free ∧
        (∀ k, k < 64 → k ≠ c.path → (c.g.entryAt k).kind = .path → (exitEff c).entryAt k = c.g.entryAt k) ∧
        (exitEff c).mode = c.g.mode) ∧
      ((∀ k, k < 64 → k ≠ c.path → (c.g.entryAt k).kind ≠ .path) → (exitEff c).mode = .ended)))

/-- When the writes of an operation to a line of plain pages, every access of it translated, are applied at the home, they are applied together and each byte of module memory becomes that of the last access of the operation there that covers it (the model's reading, log 40), little-endian, and every other byte, and all of host memory, stays; a read served there brings the bytes that memory holds, with the detail of their poison, and changes no memory; bytes that no core holds are read from memory. A lane's address is a[A] plus the signed offset, modulo 2^64. A lane of a plain st of any type becomes one access with the lane's bytes at its address, and the bytes that an access of a plain ld brought are the lane; under element addressing element j of a lane is stored, converted, at the position that the record gives. The core's L1 serves a ld with the copy's bytes while its lease lasts, and not after. A core that holds a register line serves a read of it with the register's words. While the host may hold a half that an access needs, the home neither reads nor writes for it. A word written to a scratchpad reads back, and no other byte of it changes. (00 R7; 07 R171; 07 R182; 07 R185; 07 R186; 07 R187; 08 R198; 08 R199; 08 R200; 08 R219; 08 R223; 21 R468) -/
def Obligations.MemoryBytes : Prop :=
  (∀ (s : State) (id k : Nat) (o : Op) (a : Access), ServedHere s id k o a → a.ask = .write → o.wholeAccs →
    (∀ b ∈ o.accs, b.mt = 0 ∧ (b.st = .ready ∨ b.st = .fill ∨ b.st = .done)) →
    (∀ j b, o.accs[j]? = some b → lineAt b.pa = lineAt a.pa → ServedHere s id j o b ∧ b.ask = .write ∧ s.refused o b = false) →
    ∃ t, exec (.homeWrite id k) s = .next t ∧ memWf t.mem = true ∧ t.hostMem = s.hostMem ∧
      ∀ y, memRead t.mem y =
        match (o.accs.filter fun b => lineAt b.pa == lineAt a.pa && decide (b.pa ≤ y ∧ y < b.pa + b.len)).getLast? with
        | some b => BitVec.ofNat 8 (b.data >>> (8 * (y - b.pa)))
        | none => memRead s.mem y) ∧
  (∀ (s : State) (id k lease : Nat) (o : Op) (a : Access), ServedHere s id k o a → a.ask = .read → o.wholeAccs →
    (∀ n, o.kind.how ≠ some (.bound n true)) → (s.core o.core).l1.get? (lineAt a.pa) = none →
    ∃ t o' b, exec (.homeRead id k lease) s = .next t ∧ t.acc? id k = some (o', b) ∧ b.st = .fill ∧ b.tick = s.gnomon ∧
      (∀ i, i < a.len → BitVec.ofNat 8 (b.data >>> (8 * i)) = memRead s.mem (a.pa + i)) ∧ b.data < 2 ^ (8 * a.len) ∧
      b.poison = s.homePoison a.pa a.len ∧ t.mem = s.mem ∧ t.hostMem = s.hostMem) ∧
  (∀ (s : State) (pa n : Nat), 0 < n → inAperture pa = false → (∀ h ∈ halvesOf pa n, s.held h = none) →
    s.homeRead pa n = memReadN s.mem pa n ∧ ∀ i, i < n → BitVec.ofNat 8 (s.homeRead pa n >>> (8 * i)) = memRead s.mem (pa + i)) ∧
  (∀ (o : MOff) (g : Group) (a : BitVec 4) (l : Fin 16), (o.ea g a l : Int) = (((g.areg a).toNat : Int) +
    (match o with | .vec r => (g.vlane r l).toInt | .sreg r => (g.sreg r).toInt | .lit w => w.toInt)) % 2 ^ 64) ∧
  (∀ (md : Word) (l ea x : Nat) (qs : List Nat), mdType md ∈ memTypes → ea < 2 ^ 64 →
    let n := (mdType md).count * (mdType md).width / 8
    ea % n = 0 → x < 2 ^ (8 * n) →
    (plainRec (mdType md)).storeLane md l ea qs x = [{ lane := l, elem := wholeLane, va := ea, len := n, ask := .write, data := x }] ∧
    ∀ (o : Op) (a : Access), o.accs.filter (fun b => b.lane == l && b.elem == wholeLane) = [a] → a.len = n → a.off = 0 → a.data = x →
      (loadLane (plainRec (mdType md)) md o l).1 = x) ∧
  (∀ (r : BufRec) (md : Word) (l ea x : Nat) (qs : List Nat), mdType md ∈ memTypes → r.emode = true → 8 ≤ r.sw → r.stype.scaled = false →
    let place (j : Nat) : Nat := (r.base + r.pos ((ea + j) % 2 ^ 64) * (r.sw / 8)) % 2 ^ 64
    (∀ j, j < (mdType md).count → place j % 128 + r.sw / 8 ≤ 128) →
    r.storeLane md l ea qs x = ((List.range (mdType md).count).filter fun j => r.within (place j) (r.sw / 8)).map fun j =>
      { lane := l, elem := j, va := place j, len := r.sw / 8, ask := .write,
        data := (r.elemOut (mdType md) md (qs.getD j 0) (elem (mdType md) x j)).1 % 2 ^ r.sw }) ∧
  (∀ (s : State) (id : Nat) (o : Op) (a : Access) (c : L1Line), a.st = .ready → a.ask = .read → a.mt = 0 → a.cum = false → a.fwd = 0 →
    s.inOrder id o a = true → o.otherParts a = [] → (s.core o.core).l1.get? (lineAt a.pa) = some c → c.hasBytes (a.pa % 128) a.len = true →
    (s.gnomon < c.expiry → (s.tryL1 id o .l1 a).st = .done ∧ (s.tryL1 id o .l1 a).poison = c.poisonOf (a.pa % 128) a.len ∧
      ∀ i, i < a.len → BitVec.ofNat 8 ((s.tryL1 id o .l1 a).data >>> (8 * i)) = BitVec.ofNat 8 (c.data >>> (8 * (a.pa % 128 + i)))) ∧
    (c.expiry ≤ s.gnomon → s.tryL1 id o .l1 a = a)) ∧
  (∀ (s : State) (id k : Nat) (o : Op) (a : Access), s.acc? id k = some (o, a) → s.atHome id o a = true → a.ask = .read →
    a.cum = false → a.fwd = 0 → 0 < a.len → o.wholeAccs → s.isHeld a = true → s.ownLineLanded id o a.pa a.len = true →
    ∃ t o' b, exec (.holderAccess id k) s = .next t ∧ t.acc? id k = some (o', b) ∧ b.st = .fill ∧ b.tick = s.gnomon ∧
      b.data = s.homeRead a.pa a.len % 2 ^ (8 * a.len) ∧ t.mem = s.mem ∧ t.hostMem = s.hostMem) ∧
  (∀ (s : State) (h g n w : Nat) (x : Group), s.held h = some (.reg g n) → s.groups.get? g = some x → n < 256 → w < 16 →
    inAperture (64 * h + 4 * w) = false → s.homeRead (64 * h + 4 * w) 4 = (x.vlane (BitVec.ofNat 8 n) (Fin.ofNat 16 w)).toNat) ∧
  (∀ (s : State) (id k lease : Nat) (o : Op) (a : Access), s.acc? id k = some (o, a) → s.hostHolds a = true →
    exec (.homeRead id k lease) s = .next s ∧ exec (.homeWrite id k) s = .next s ∧ exec (.homeAtomic id k) s = .next s) ∧
  (∀ (b : Block) (m off n x : Nat), memWf b.scratch = true →
    (b.wrScratch m off n x false).rdScratch m off n = x % 2 ^ (8 * n) ∧
    (∀ y, y < scratchKey m off ∨ scratchKey m off + n ≤ y → memRead (b.wrScratch m off n x false).scratch y = memRead b.scratch y)) ∧
  (∀ (s : State) (g : Group) (b : Block) (l off : Nat), s.blocks.get? g.block = some b → g.ssq = [] →
    (s.scratchAccess g { lane := l, va := off, len := 4, st := .ready, pa := off, mt := 3 }).data = b.rdScratch (s.memberOf g) off 4)

/-- An atomic operation or reduction served at its home, at a clean word of a plain page and after the lower lanes of its word, brings back the old word, and leaves the word as the table of its operation says (for cas the new operand when the old word is the expected one and else the old word), with no other byte changed. The integer operations: add modulo 2^w, min and max by the type's signedness, the bitwise operations, exch, inc and dec. (09 R228; 09 R230; 09 R231; 09 R232) -/
def Obligations.AtomicWord : Prop :=
  (∀ (s : State) (id k : Nat) (o : Op) (a : Access) (dst : Option Nat) (op : Nat) (cas : Bool) (t : Ty),
    ServedHere s id k o a → o.lowerApplied k a = true → o.kind = .atom dst op cas t →
    a.ask = (if dst.isSome then .atomic else .red) → s.homePoison a.pa a.len = none →
    let old := memReadN s.mem a.pa a.len
    let new := if cas then (if old = o.vals.getD a.lane 0 then a.data else old) else atomNew op t old a.data
    ∃ r o' b, exec (.homeAtomic id k) s = .next r ∧ r.acc? id k = some (o', b) ∧ b.data = old ∧ b.st = .fill ∧ b.tick = s.gnomon ∧
      b.poison = none ∧ s.storedTo r a.pa a.len new) ∧
  (∀ (t : Ty) (x y : Nat), (t = .s32 ∨ t = .n32 ∨ t = .s64) → x < 2 ^ t.width → y < 2 ^ t.width →
    atomNew 0 t x y = (x + y) % 2 ^ t.width ∧
    (intVal t (atomNew 1 t x y) = min (intVal t x) (intVal t y)) ∧ (intVal t (atomNew 2 t x y) = max (intVal t x) (intVal t y)) ∧
    (∀ k, (atomNew 3 t x y).testBit k = (x.testBit k && y.testBit k) ∧ (atomNew 4 t x y).testBit k = (x.testBit k || y.testBit k) ∧
      (atomNew 5 t x y).testBit k = (x.testBit k != y.testBit k)) ∧
    atomNew 6 t x y = y) ∧
  (∀ x y : Nat, atomNew 7 .n32 x y = (if y ≤ x then 0 else x + 1) ∧ atomNew 8 .n32 x y = (if x = 0 ∨ y < x then y else x - 1))

/-- With an active lane csrr puts the selected half of the CSR in s[D] and changes no other register; csrw makes the writable bits of the selected half those of s[A] and its reserved bits 0, keeps the other half and every other CSR, and changes no other register of the group; it has no effect on a CSR that is read-only, unassigned or above its level. A number that the spec does not assign, the upper half of a 32-bit CSR, and a supervisor-read CSR at user level read as 0. A write of TRCTL with bit 30 set is left to the reset of the session. (03 R67; 06 R154; 06 R160; 07 R169; 10 R256; 16 R376; 16 R400; 16 R401; 17 R407; 18 R418; 18 R425; 19 R457) -/
def Obligations.CsrReadWrite : Prop :=
  (∀ (d : BitVec 6) (k : Word) (c : Iss) (s : State), c.act ≠ 0 →
    ∃ (t : State) (h : Group), csrrEff d k c s = .ok t [] ∧ t = s.setGroup c.gid h ∧
      (∀ r, h.sreg r = if r = d then
        (let x := s.csr c.g c.g.sup (k.toNat % 4096)
         if k.getLsbD 12 then BitVec.ofNat 32 (x.toNat / 2 ^ 32) else BitVec.ofNat 32 x.toNat) else c.g.sreg r) ∧
      { h.regs with s := c.g.s } = c.g.regs ∧ h.paths = c.g.paths) ∧
  (∀ (a : BitVec 6) (k : Word) (c : Iss) (s : State) (C : Ctx), c.act ≠ 0 → s.ctxs.get? c.g.ctx = some C →
    let n := k.toNat % 4096
    let hi := k.getLsbD 12
    let w := c.g.sreg a
    let may := csrMask n hi ≠ 0 ∧ (c.g.sup = true ∨ (0x120 ≤ n ∧ n ≤ 0x125))
    (n = 0x161 → w.getLsbD 30 = false) →
    ∃ (t : State) (h : Group), csrwEff a k c s = .ok t [] ∧ t.groups.get? c.gid = some h ∧
      csrHalf (t.csr h c.g.sup n) hi = (if may then w &&& csrMask n hi else csrHalf (s.csr c.g c.g.sup n) hi) ∧
      (csrHalf (s.csr c.g c.g.sup n) (!hi) &&& ~~~csrMask n (!hi) = 0 ∨ ¬may →
        csrHalf (t.csr h c.g.sup n) (!hi) = csrHalf (s.csr c.g c.g.sup n) (!hi)) ∧
      (∀ m, m ≠ n → t.csr h c.g.sup m = s.csr c.g c.g.sup m) ∧
      { h.regs with loops := c.g.loops, trap := c.g.trap, xmask := c.g.xmask } = c.g.regs ∧
      h.trap = { c.g.trap with tpc := h.trap.tpc, tcause := h.trap.tcause, tval := h.trap.tval, tstat := h.trap.tstat } ∧
      h.paths = c.g.paths ∧ t.mem = s.mem ∧ t.hostMem = s.hostMem ∧ (∀ j, j ≠ c.gid → t.groups.get? j = s.groups.get? j)) ∧
  (∀ (s : State) (g : Group) (sup : Bool),
    (∀ n, n < 0x100 ∨ (0x102 < n ∧ n < 0x108) ∨ (0x10A < n ∧ n < 0x110) ∨ (0x11C < n ∧ n < 0x120) ∨ (0x125 < n ∧ n < 0x130) ∨
      (0x131 < n ∧ n < 0x140) ∨ (0x140 < n ∧ n < 0x150) ∨ (0x152 < n ∧ n < 0x160) ∨ 0x165 < n → s.csr g sup n = 0) ∧
    s.csr g false 0x131 = 0 ∧ s.csr g false 0x140 = 0 ∧
    (∀ n ∈ [0x100, 0x101, 0x102, 0x108, 0x109, 0x10A, 0x112, 0x113, 0x114, 0x115, 0x116, 0x122, 0x125, 0x131, 0x153, 0x161, 0x164, 0x165],
      csrHalf (s.csr g sup n) true = 0) ∧
    (g.valloc ≤ 16 → csrHalf (s.csr g sup 0x119) true = 0) ∧ (s.memberVal g (·.aslots) < 256 → csrHalf (s.csr g sup 0x11C) true = 0) ∧
    (g.ctx < 2 ^ 16 → csrHalf (s.csr g sup 0x130) true = 0) ∧ (s.disc.src < 8 → csrHalf (s.csr g sup 0x150) true = 0) ∧
    (s.disc.sigma < 2 ^ 32 → csrHalf (s.csr g sup 0x151) true = 0))

/-- For f32, f16 and bf16 and finite inputs that are not flushed, fadd, fsub, fmul and fma round once, by the mode, an exact number that is the sum, difference, product or product and sum, with the sign of an exact zero as IEEE 754 gives it; a NaN input, opposite infinities and infinity times zero give the canonical NaN, the last two with invalid, and every other infinite sum, difference, product and fused result has the sign of IEEE 754; fmin and fmax give the smaller and the larger value, of finite values and of infinities, with -0 below +0, and pass over a NaN. A compare holds as the numbers and infinities compare, no compare with a NaN holds, and lt and le then raise invalid; a flushed input is a zero with the underflow flag. A lane of the vector instruction holds those element results, and the lanes that are not active and the other registers keep theirs. (04 R75; 04 R77; 04 R83; 04 R95; 05 R111; 05 R112; 05 R113; 05 R114; 05 R115) -/
def Obligations.FpElements : Prop :=
  (∀ (t : Ty) (rnd q a b d : Nat), t ∈ fpTypes →
    let x := fval t a
    let y := fval t b
    let z := fval t d
    let el := fun op => fpEl op t rnd false q a b d
    (x.finite = true → y.finite = true →
      (∃ E : Exact, 0 < E.d ∧ E.rat = x.rat + y.rat ∧ (E.rat = 0 → E.s = if x.sign = y.sign then x.sign else decide (rnd = 3)) ∧
        el .add = roundTo t rnd q false E) ∧
      (∃ E : Exact, 0 < E.d ∧ E.rat = x.rat - y.rat ∧ (E.rat = 0 → E.s = if x.sign ≠ y.sign then x.sign else decide (rnd = 3)) ∧
        el .sub = roundTo t rnd q false E) ∧
      (∃ E : Exact, 0 < E.d ∧ E.rat = x.rat * y.rat ∧ E.s = (x.sign != y.sign) ∧ el .mul = roundTo t rnd q false E) ∧
      (z.finite = true → ∃ E : Exact, 0 < E.d ∧ E.rat = x.rat * y.rat + z.rat ∧
        (E.rat = 0 → E.s = if (x.sign != y.sign) = z.sign then z.sign else decide (rnd = 3)) ∧ el .fma = roundTo t rnd q false E) ∧
      (fval t (el .min).1).rat = min x.rat y.rat ∧ (fval t (el .max).1).rat = max x.rat y.rat ∧ (el .min).2 = 0 ∧ (el .max).2 = 0 ∧
      (x.rat = 0 → y.rat = 0 → (fval t (el .min).1).sign = (x.sign || y.sign) ∧ (fval t (el .max).1).sign = (x.sign && y.sign)) ∧
      (∀ s, z = .inf s → fval t (el .fma).1 = .inf s ∧ (el .fma).2 = 0)) ∧
    ((x = .nan ∨ y = .nan) → el .add = (t.nanPat, 0) ∧ el .sub = (t.nanPat, 0) ∧ el .mul = (t.nanPat, 0) ∧ el .fma = (t.nanPat, 0)) ∧
    (z = .nan → el .fma = (t.nanPat, 0)) ∧
    (x = .nan → y ≠ .nan → fval t (el .min).1 = y ∧ fval t (el .max).1 = y) ∧
    (y = .nan → x ≠ .nan → fval t (el .min).1 = x ∧ fval t (el .max).1 = x) ∧
    (x = .nan → y = .nan → el .min = (t.nanPat, 0) ∧ el .max = (t.nanPat, 0)) ∧
    (∀ s, x = .inf s →
      (y = .inf (!s) → el .add = (t.nanPat, fInvalid)) ∧ (y = .inf s → el .sub = (t.nanPat, fInvalid)) ∧
      (y = .inf s ∨ y.finite = true → fval t (el .add).1 = .inf s ∧ (el .add).2 = 0) ∧
      (y = .inf (!s) ∨ y.finite = true → fval t (el .sub).1 = .inf s ∧ (el .sub).2 = 0) ∧
      (y.finite = true → y.rat = 0 → el .mul = (t.nanPat, fInvalid)) ∧
      (y ≠ .nan → (y.finite = true → y.rat ≠ 0) → fval t (el .mul).1 = .inf (s != y.sign) ∧ (el .mul).2 = 0)) ∧
    (∀ s, y = .inf s → x.finite = true → fval t (el .add).1 = .inf s ∧ (el .add).2 = 0 ∧ fval t (el .sub).1 = .inf (!s) ∧ (el .sub).2 = 0 ∧
      (x.rat = 0 → el .mul = (t.nanPat, fInvalid)) ∧ (x.rat ≠ 0 → fval t (el .mul).1 = .inf (s != x.sign) ∧ (el .mul).2 = 0)) ∧
    (∀ (u v : FV) (s : Bool), ((u = x ∧ v = y) ∨ (u = y ∧ v = x)) → u = .inf s → v ≠ .nan →
      (z ≠ .nan → (v.finite = true → v.rat = 0 → el .fma = (t.nanPat, fInvalid)) ∧
        ((v.finite = true → v.rat ≠ 0) →
          (z = .inf (s == v.sign) → el .fma = (t.nanPat, fInvalid)) ∧
          (z ≠ .inf (s == v.sign) → fval t (el .fma).1 = .inf (s != v.sign) ∧ (el .fma).2 = 0))) ∧
      fval t (el .min).1 = (if s then u else v) ∧ fval t (el .max).1 = (if s then v else u) ∧ (el .min).2 = 0 ∧ (el .max).2 = 0)) ∧
  (∀ a b : Nat,
    let x := fval .f32 a
    let y := fval .f32 b
    (x.finite = true → y.finite = true → fcmpEl .eq false a b = (decide (x.rat = y.rat), 0) ∧
      fcmpEl .lt false a b = (decide (x.rat < y.rat), 0) ∧ fcmpEl .le false a b = (decide (x.rat ≤ y.rat), 0)) ∧
    (∀ s, x = .inf s → y ≠ .nan → fcmpEl .eq false a b = (decide (y = x), 0) ∧
      fcmpEl .lt false a b = (s && decide (y ≠ x), 0) ∧ fcmpEl .le false a b = (s || decide (y = x), 0)) ∧
    (∀ s, y = .inf s → x.finite = true → fcmpEl .eq false a b = (false, 0) ∧
      fcmpEl .lt false a b = (!s, 0) ∧ fcmpEl .le false a b = (!s, 0)) ∧
    (x = .nan ∨ y = .nan → fcmpEl .eq false a b = (false, 0) ∧ fcmpEl .lt false a b = (false, fInvalid) ∧
      fcmpEl .le false a b = (false, fInvalid))) ∧
  (∀ (ftz : Bool) (t : Ty) (a : Nat),
    (ftz = true → t ∈ fpTypes → isSubnormal t a = true → (finput ftz t a).1.rat = 0 ∧ (finput ftz t a).2 = fUnderflow) ∧
    (ftz = false ∨ isSubnormal t a = false → finput ftz t a = (fval t a, 0))) ∧
  (∀ x : Nat, x < 2 ^ 32 →
    let neg := decide (2 ^ 31 ≤ x)
    let E := x / 2 ^ 23 % 256
    let M := x % 2 ^ 23
    fclass x = (if E = 255 then (if M ≠ 0 then 8 else if neg then 0 else 7)
      else if E = 0 then (if M = 0 then (if neg then 3 else 4) else if neg then 2 else 5) else if neg then 1 else 6)) ∧
  (∀ (op : FpOp) (d a : BitVec 8) (b : BOp) (c : Iss) (l : Fin 16) (i : Nat), mdType c.md ∈ fpTypes → i < (mdType c.md).count →
    let t := mdType c.md
    let h := (op.eff d a b c).1
    let q := if op.rounds = true ∧ mdRnd c.md = 5 then ((c.g.rng[l].draws t.count).1).getD i 0 else 0
    (lane c.act l = true → elem t (h.vlane d l).toNat i =
      (fpEl op t (mdRnd c.md) (mdFtz c.md) q (elem t (c.g.vlane a l).toNat i) (elem t (b.lane32 c.g l).toNat i)
        (elem t (c.g.vlane d l).toNat i)).1 % 2 ^ t.width) ∧
    (lane c.act l = false → h.vlane d l = c.g.vlane d l ∧ h.rng[l] = c.g.rng[l]) ∧
    (op.rounds = false ∨ mdRnd c.md ≠ 5 → h.rng = c.g.rng) ∧
    (∀ r, r ≠ d → h.vreg r = c.g.vreg r) ∧ { h.regs with v := c.g.v, rng := c.g.rng } = c.g.regs)

/-- For a non-zero number and a floating-point type, when the result does not overflow, the result is a finite value with no value of the type strictly between it and the number; it is the number itself exactly when no inexact flag is raised, and that holds whenever the number is a value of the type; rz never gives more than the magnitude, ru never less and rd never more than the number; rne and rna give a value at the least distance, on a tie rne one with an even pattern and rna the one of the greater magnitude. (04 R75; 04 R78; 04 R80; 04 R83) -/
def Obligations.Rounding : Prop :=
  ∀ (t : Ty) (mode q : Nat) (sat : Bool) (x : Exact), t.isFloat = true → 0 < x.n → 0 < x.d →
    let r := roundTo t mode q sat x
    let v := (fval t r.1).rat
    r.2 &&& fOverflow = 0 →
    (fval t r.1).finite = true ∧ (r.2 &&& fInexact = 0 ↔ v = x.rat) ∧
    (∀ p, (fval t p).finite = true →
      ¬(min v x.rat < (fval t p).rat ∧ (fval t p).rat < max v x.rat) ∧
      ((fval t p).rat = x.rat → v = x.rat) ∧
      (mode = 0 ∨ mode = 4 → |v - x.rat| ≤ |(fval t p).rat - x.rat|) ∧
      (mode = 0 → (fval t p).rat ≠ v → |v - x.rat| = |(fval t p).rat - x.rat| → r.1 % 2 = 0) ∧
      (mode = 4 → |v - x.rat| = |(fval t p).rat - x.rat| → |(fval t p).rat| ≤ |v|)) ∧
    (mode = 1 → |v| ≤ |x.rat|) ∧ (mode = 2 → x.rat ≤ v) ∧ (mode = 3 → v ≤ x.rat)

/-- dot4 adds the four products of the signed or unsigned bytes to D modulo 2^32. A matrix step of finite values, and so fdot2, rounds the exact sum of the products, scaled elements among them, to f32 to nearest even and then the sum of that and the accumulator, with the signs of zero and the special values of R90. A conversion between integer types saturates when MD.sat is 1 and wraps when it is 0; from a floating type to an integer type it rounds to an integer by the mode, a tie to the even one under rne and to the greater magnitude under rna, saturates, infinities too, raises invalid out of range, and gives 0 for a NaN; from an integer type to a floating type, and between floating types for a finite value that is not flushed, it rounds the value once, and infinities and NaNs become those of R81. unpk converts the element that it names; pack2 converts two values into the two halves, or into the upper two bytes above what was there. mxscl gives 0xFF for a block with a NaN or an infinity, 0 for a block of zeros and else the clamped exponent of the greatest magnitude less emax, plus 127; mxq rounds each element times 2^(127 - x) once, saturating, and packs the elements from lane 0 up. (04 R74; 04 R81; 04 R82; 04 R85; 04 R89; 04 R90; 04 R91; 04 R92; 05 R118; 05 R120; 05 R121; 05 R122) -/
def Obligations.DotAndConvert : Prop :=
  (∀ (t : Ty) (a b d : Nat), t = .s8 ∨ t = .n8 → dot4Lane t a b d =
    ((intVal .s32 d + ((List.range 4).map fun i => intVal t (a / 2 ^ (8 * i)) * intVal t (b / 2 ^ (8 * i))).sum) % 2 ^ 32).toNat) ∧
  (∀ (acc : Nat) (ab : List (FV × FV)), (fval .f32 acc).finite = true → (∀ x ∈ ab, x.1.finite = true ∧ x.2.finite = true) →
    ∃ E : Exact, 0 < E.d ∧ E.rat = (ab.map fun x => x.1.rat * x.2.rat).sum ∧
      (E.rat = 0 → E.s = ab.all fun x => decide (x.1.rat * x.2.rat = 0) && x.1.sign != x.2.sign) ∧
      (let p := (roundTo .f32 0 0 false E).1
       (fval .f32 p).finite = true → ∃ F : Exact, 0 < F.d ∧ F.rat = (fval .f32 acc).rat + (fval .f32 p).rat ∧
         (F.rat = 0 → F.s = ((fval .f32 acc).sign && (fval .f32 p).sign)) ∧ matrixStep acc ab = (roundTo .f32 0 0 false F).1) ∧
      (let p := (roundTo .f32 0 0 false E).1
       ∀ s, fval .f32 p = .inf s → fval .f32 (matrixStep acc ab) = .inf s)) ∧
  (∀ (acc : Nat) (ab : List (FV × FV)),
    (fval .f32 acc = .nan ∨ (∃ x ∈ ab, x.1 = .nan ∨ x.2 = .nan ∨
        (∃ s, x.1 = .inf s ∧ x.2.finite = true ∧ x.2.rat = 0) ∨ (∃ s, x.2 = .inf s ∧ x.1.finite = true ∧ x.1.rat = 0)) →
      matrixStep acc ab = Ty.f32.nanPat) ∧
    (∀ s, (∀ x ∈ ab, x.1.finite = true ∧ x.2.finite = true) → fval .f32 acc = .inf s →
      (∀ E : Exact, 0 < E.d → E.rat = (ab.map fun x => x.1.rat * x.2.rat).sum → (fval .f32 (roundTo .f32 0 0 false E).1).finite = true →
        fval .f32 (matrixStep acc ab) = .inf s)) ∧
    (∀ s (x : FV × FV), x.1 = .inf s ∨ x.2 = .inf s → x.1 ≠ .nan → x.2 ≠ .nan → (x.1.finite = true → x.1.rat ≠ 0) →
      (x.2.finite = true → x.2.rat ≠ 0) →
      matrixStep acc [x] = (if fval .f32 acc = .inf (x.1.sign == x.2.sign) ∨ fval .f32 acc = .nan then Ty.f32.nanPat
        else infResult .f32 false (x.1.sign != x.2.sign)))) ∧
  (∀ (e : Ty) (x pat : Nat), (x = 0xFF → blockVal e x pat = .nan) ∧
    (x < 0xFF → (fval e pat).finite = true → (blockVal e x pat).finite = true ∧ (blockVal e x pat).sign = (fval e pat).sign ∧
      (blockVal e x pat).rat = (fval e pat).rat * (2 : ℚ) ^ ((x : Int) - 127))) ∧
  (∀ (t : Ty) (a b d : Nat), t = .f16 ∨ t = .bf16 → (fdot2Lane t false a b d).1 =
    matrixStep d [(fval t (a % 2 ^ 16), fval t (b % 2 ^ 16)), (fval t (a / 2 ^ 16 % 2 ^ 16), fval t (b / 2 ^ 16 % 2 ^ 16))]) ∧
  (∀ (f t : Ty) (sx : Int) (rnd q x : Nat) (ftz : Bool), f ∈ allInt → t ∈ allInt →
    intVal t (convertEl f t sx rnd true ftz q x).1 = max t.minInt (min t.maxInt (intVal f x)) ∧
    (convertEl f t sx rnd false ftz q x).1 = ((intVal f x) % 2 ^ t.width).toNat) ∧
  (∀ (f t : Ty) (sx : Int) (rnd q x : Nat) (sat : Bool), f.isFloat = true → t ∈ allInt →
    (fval f x = .nan → convertEl f t sx rnd sat false q x = (0, fInvalid)) ∧
    (∀ s, fval f x = .inf s → intVal t (convertEl f t sx rnd sat false q x).1 = (if s then t.minInt else t.maxInt) ∧
      (convertEl f t sx rnd sat false q x).2 = fInvalid) ∧
    ((fval f x).finite = true → ∃ k : Int, |(k : ℚ) - (fval f x).rat| < 1 ∧
      (rnd = 0 ∨ rnd = 4 → 2 * |(k : ℚ) - (fval f x).rat| ≤ 1) ∧ (rnd = 1 → |(k : ℚ)| ≤ |(fval f x).rat|) ∧
      (rnd = 2 → (fval f x).rat ≤ k) ∧ (rnd = 3 → (k : ℚ) ≤ (fval f x).rat) ∧
      (rnd = 0 → 2 * |(k : ℚ) - (fval f x).rat| = 1 → k % 2 = 0) ∧
      (rnd = 4 → 2 * |(k : ℚ) - (fval f x).rat| = 1 → |(fval f x).rat| ≤ |(k : ℚ)|) ∧
      intVal t (convertEl f t sx rnd sat false q x).1 = max t.minInt (min t.maxInt k) ∧
      ((convertEl f t sx rnd sat false q x).2 &&& fInvalid = 0 ↔ t.minInt ≤ k ∧ k ≤ t.maxInt))) ∧
  (∀ (f t : Ty) (rnd q x : Nat) (sat : Bool), t.isFloat = true →
    (f ∈ allInt → ∃ E : Exact, 0 < E.d ∧ E.rat = intVal f x ∧ convertEl f t 0 rnd sat false q x = roundTo t rnd q sat E) ∧
    (f.isFloat = true → (fval f x).finite = true →
      ∃ E : Exact, 0 < E.d ∧ E.rat = (fval f x).rat ∧ E.s = (fval f x).sign ∧ convertEl f t 0 rnd sat false q x = roundTo t rnd q sat E) ∧
    (f.isFloat = true → fval f x = .nan → (convertEl f t 0 rnd sat false q x).1 = t.nanPat) ∧
    (∀ s, f.isFloat = true → fval f x = .inf s →
      let y := (convertEl f t 0 rnd sat false q x).1
      (t ∈ [Ty.f32, .f16, .bf16, .e5m2] → fval t y = .inf s) ∧ (t = .e2m1 → (fval t y).rat = if s then -6 else 6) ∧
      (t = .e4m3 → if sat then (fval t y).rat = (if s then -448 else 448) else y = t.nanPat))) ∧
  (∀ (f : Ty) (k : Nat) (d a : BitVec 8) (c : Iss) (l : Fin 16), mdType c.md ∈ [Ty.s32, .n32, .f32] →
    let h := (unpkEff f k d a c).1
    let q := if cvtRounds f (mdType c.md) = true ∧ mdRnd c.md = 5 then ((c.g.rng[l].draws 1).1).headD 0 else 0
    (lane c.act l = true → (h.vlane d l).toNat = (convertEl f (mdType c.md) 0 (mdRnd c.md) (mdSat c.md) (mdFtz c.md) q
      (elem f (c.g.vlane a l).toNat k)).1 % 2 ^ 32) ∧
    (lane c.act l = false → h.vlane d l = c.g.vlane d l) ∧
    (∀ r, r ≠ d → h.vreg r = c.g.vreg r) ∧ { h.regs with v := c.g.v, rng := c.g.rng } = c.g.regs) ∧
  (∀ (d a b : BitVec 8) (c : Iss) (l : Fin 16), mdType c.md ∈ [Ty.f16, .bf16, .e4m3, .e5m2, .s16, .n16, .s8, .n8] →
    let t := mdType c.md
    let h := (packEff d a b c).1
    let src := if t.isFloat then Ty.f32 else .s32
    let qs := if t.isFloat = true ∧ mdRnd c.md = 5 then (c.g.rng[l].draws 2).1 else []
    let x := (convertEl src t 0 (mdRnd c.md) (mdSat c.md) (mdFtz c.md) (qs.getD 0 0) (c.g.vlane a l).toNat).1
    let y := (convertEl src t 0 (mdRnd c.md) (mdSat c.md) (mdFtz c.md) (qs.getD 1 0) (c.g.vlane b l).toNat).1
    (lane c.act l = true → t.width = 16 → elem t (h.vlane d l).toNat 0 = x ∧ elem t (h.vlane d l).toNat 1 = y) ∧
    (lane c.act l = true → t.width = 8 → elem t (h.vlane d l).toNat 2 = x ∧ elem t (h.vlane d l).toNat 3 = y ∧
      ∀ i, i < 2 → elem t (h.vlane d l).toNat i = elem t (c.g.vlane d l).toNat (i + 2)) ∧
    (lane c.act l = false → h.vlane d l = c.g.vlane d l) ∧
    (∀ r, r ≠ d → h.vreg r = c.g.vreg r) ∧ { h.regs with v := c.g.v, rng := c.g.rng } = c.g.regs) ∧
  (∀ (emax : Int) (vs : List FV),
    ((∃ v ∈ vs, v.finite = false) → blockScale emax vs = 0xFF) ∧
    ((∀ v ∈ vs, v.finite = true ∧ v.rat = 0) → blockScale emax vs = 0) ∧
    (∀ m ∈ vs, (∀ v ∈ vs, v.finite = true ∧ |v.rat| ≤ |m.rat|) → m.rat ≠ 0 →
      (blockScale emax vs : Int) = max (-127) (min 127 (Int.log 2 |m.rat| - emax)) + 127)) ∧
  (∀ (e : Ty) (x rnd q : Nat) (v : FV), e = .e4m3 ∨ e = .e2m1 →
    (x = 0xFF → (quantEl e x rnd q v).1 = 0) ∧
    (x < 0xFF →
      (v = .nan → (quantEl e x rnd q v).1 = if e = .e4m3 then 0x7F else 0) ∧
      (∀ s, v = .inf s → (quantEl e x rnd q v).1 = (if s then e.signPat else 0) + e.maxPat) ∧
      (v.finite = true → ∃ E : Exact, 0 < E.d ∧ E.rat = v.rat * (2 : ℚ) ^ (127 - (x : Int)) ∧ E.s = v.sign ∧
        quantEl e x rnd q v = roundTo e rnd q true E))) ∧
  (∀ (d : BitVec 6) (a : BitVec 8) (c : Iss), c.act = 0xFFFF → ∃ h : Group, mxsclEff d a c = .ok h ∧
    h.sreg d = BitVec.ofNat 32 (blockScale (if mdType c.md = .mx8 then 8 else 2) ((List.range 32).map fun i =>
      (finput (mdFtz c.md) .f32 (c.g.vget (a.toNat + i / 16) (Fin.ofNat 16 i)).toNat).1)) ∧
    (∀ r, r ≠ d → h.sreg r = c.g.sreg r) ∧ { h.regs with s := c.g.s } = c.g.regs) ∧
  (∀ (d a : BitVec 8) (b : BitVec 6) (c : Iss) (i : Nat), mdType c.md = .mx8 ∨ mdType c.md = .mx4 → c.act = 0xFFFF → i < 32 →
    let e := if mdType c.md = .mx8 then Ty.e4m3 else .e2m1
    let n := 32 / e.width
    let h := (mxqGroup d a b c).1
    let j : Fin 16 := Fin.ofNat 16 i
    let q := if mdRnd c.md = 5 then ((c.g.rng[j].draws 2).1).getD (i / 16) 0 else 0
    elem e (h.vlane d (Fin.ofNat 16 (i / n))).toNat (i % n) = (quantEl e ((c.g.sreg b).toNat % 256) (mdRnd c.md) q
      (finput (mdFtz c.md) .f32 (c.g.vget (a.toNat + i / 16) j).toNat).1).1 ∧
    (∀ l : Fin 16, 32 / n ≤ l.val → h.vlane d l = 0) ∧
    (∀ r, r ≠ d → h.vreg r = c.g.vreg r) ∧ { h.regs with v := c.g.v, rng := c.g.rng } = c.g.regs)

/-- vote.any gives 1 when some active lane has its bit, vote.all when every active lane has it; ballot gives the bits of the active lanes and zeros above; the integer reductions give the exact sum, saturated or wrapped, and the least and greatest value of the active lanes, into s[D] alone; an f32 sum of finite inputs is the exact sum, to be rounded once (that every active lane draws under rs whatever the operation is the model's choice, log 145); rdln reads the lane that the low four bits of the index name, wrln writes that lane if it is active and nothing else; a part of the random state written reads back and leaves the other parts, and rngs changes the active lanes alone. (05 R101; 05 R123; 05 R125; 05 R126; 05 R127; 05 R132) -/
def Obligations.LaneQueries : Prop :=
  (∀ (p act : Mask), (voteBit false p act = true ↔ ∃ l : Fin 16, lane act l = true ∧ lane p l = true) ∧
    (voteBit true p act = true ↔ ∀ l : Fin 16, lane act l = true → lane p l = true) ∧
    (∀ k, ((p &&& act).setWidth 32).getLsbD k = (if h : k < 16 then lane p ⟨k, h⟩ && lane act ⟨k, h⟩ else false))) ∧
  (∀ (t : Ty) (sat : Bool) (xs : List Nat), t = .s32 ∨ t = .n32 → xs ≠ [] →
    redInt .add t sat xs = fitInt sat t (xs.map (intVal t)).sum ∧
    (∃ x ∈ xs, intVal t (redInt .min t sat xs) = intVal t x) ∧ (∀ x ∈ xs, intVal t (redInt .min t sat xs) ≤ intVal t x) ∧
    (∃ x ∈ xs, intVal t (redInt .max t sat xs) = intVal t x) ∧ (∀ x ∈ xs, intVal t x ≤ intVal t (redInt .max t sat xs))) ∧
  (∀ vs : List FV, (∀ v ∈ vs, v.finite = true) → ∃ E : Exact, 0 < E.d ∧ E.rat = (vs.map FV.rat).sum ∧ redSum vs = .num E ∧
    (E.rat = 0 → E.s = vs.all FV.sign)) ∧
  (∀ (op : Red) (d : BitVec 6) (a : BitVec 8) (c : Iss), c.act ≠ 0 → mdType c.md ≠ .f32 →
    let h := (lredEff op d a c).1
    h.sreg d = BitVec.ofNat 32 (redInt op (mdType c.md) (mdSat c.md) ((laneList c.act).map fun l => (c.g.vlane a l).toNat)) ∧
    (∀ r, r ≠ d → h.sreg r = c.g.sreg r) ∧ { h.regs with s := c.g.s, rng := c.g.rng } = c.g.regs ∧
    (∀ l : Fin 16, h.rng[l] = if lane c.act l && mdRnd c.md == 5 then c.g.rng[l].next else c.g.rng[l])) ∧
  (∀ (d : BitVec 6) (a : BitVec 8) (o : SOp) (c : Iss) (j : Fin 16), j.val = (o.val c.g).toNat % 16 →
    (rdlnEff d a o c).sreg d = c.g.vlane a j ∧ (∀ r, r ≠ d → (rdlnEff d a o c).sreg r = c.g.sreg r) ∧
    { (rdlnEff d a o c).regs with s := c.g.s } = c.g.regs) ∧
  (∀ (d : BitVec 8) (a : BitVec 6) (o : SOp) (c : Iss) (l : Fin 16),
    (wrlnEff d a o c).vlane d l = (if l.val = (o.val c.g).toNat % 16 ∧ lane c.act l = true then c.g.sreg a else c.g.vlane d l) ∧
    (∀ r, r ≠ d → (wrlnEff d a o c).vreg r = c.g.vreg r) ∧ { (wrlnEff d a o c).regs with v := c.g.v } = c.g.regs) ∧
  (∀ (r : Rand) (n m : Nat) (x : Word), n ≤ 6 → m ≤ 6 →
    (r.setPart n x).part n = (if n = 2 then x &&& 3 else x) ∧ (m ≠ n → (r.setPart n x).part m = r.part m)) ∧
  (∀ (n : Nat) (a : BitVec 8) (c : Iss) (l : Fin 16),
    (rngsEff n a c).rng[l] = (if lane c.act l then c.g.rng[l].setPart n (c.g.vlane a l) else c.g.rng[l]) ∧
    { (rngsEff n a c).regs with rng := c.g.rng } = c.g.regs)

/-- sadd, ssub and smul give the sum, difference and product modulo 2^32, sand, sor and sxor the bits, sshl, sshr and ssra shift by b modulo 32, filling with zeros and the sign, smin and smax give the smaller and larger signed value; a scalar that widens to an address keeps its signed value; each writes one scalar, address or predicate register, or its active lanes, and no other register; with no active lane a uniform instruction writes nothing. (05 R97; 05 R98; 05 R128; 05 R129; 05 R130) -/
def Obligations.ScalarValues : Prop :=
  (∀ a b : Word,
    scalarOp .add a b = BitVec.ofNat 32 (a.toNat + b.toNat) ∧ scalarOp .sub a b = BitVec.ofInt 32 ((a.toNat : Int) - b.toNat) ∧
    scalarOp .mul a b = BitVec.ofNat 32 (a.toNat * b.toNat) ∧
    (∀ k, (scalarOp .and a b).getLsbD k = (a.getLsbD k && b.getLsbD k) ∧ (scalarOp .or a b).getLsbD k = (a.getLsbD k || b.getLsbD k) ∧
      (scalarOp .xor a b).getLsbD k = (a.getLsbD k != b.getLsbD k)) ∧
    scalarOp .shl a b = BitVec.ofNat 32 (a.toNat * 2 ^ (b.toNat % 32)) ∧ (scalarOp .shr a b).toNat = a.toNat / 2 ^ (b.toNat % 32) ∧
    (scalarOp .sra a b).toInt = a.toInt / 2 ^ (b.toNat % 32) ∧
    (scalarOp .min a b).toInt = min a.toInt b.toInt ∧ (scalarOp .max a b).toInt = max a.toInt b.toInt ∧
    (sx64 a).toInt = a.toInt) ∧
  (∀ (g : Group) (d r : BitVec 6) (x : Word), (g.setS d x).sreg r = (if r = d then x else g.sreg r) ∧
    { (g.setS d x).regs with s := g.s } = g.regs) ∧
  (∀ (g : Group) (d r : BitVec 4) (x : DWord), (g.setA d x).areg r = (if r = d then x else g.areg r) ∧
    { (g.setA d x).regs with a := g.a } = g.regs) ∧
  (∀ (g : Group) (d r : BitVec 3) (m x : Mask), (g.setP d x).pred r = (if r = d then x else g.pred r) ∧
    { (g.setP d x).regs with p := g.p } = g.regs ∧
    (∀ l : Fin 16, lane ((g.setPLanes d m x).pred d) l = if lane m l then lane x l else lane (g.pred d) l) ∧
    (r ≠ d → (g.setPLanes d m x).pred r = g.pred r) ∧ { (g.setPLanes d m x).regs with p := g.p } = g.regs) ∧
  (∀ (f : Iss → Group) (c : Iss), uniformEff f c = if c.act = 0 then c.g else f c)

/-- When the instruction issues, exec answers a next state in which the group has the registers of the element, lane or predicate results of its rule, its paths as the issue left them, and nothing outside the group differs. (05 R97; 05 R99; 05 R104; 05 R105; 05 R106; 05 R107; 05 R108; 05 R109; 05 R110) -/
def Obligations.IntegerInstructions : Prop :=
  (∀ (d a : BitVec 8), OnGroup (.abs d a) (W.abs d a) (fun s => { useV s.curTy d [a] (.lit 0) with types := some [.s32, .s16, .s8, .s64] }) ((absNegEff false d a))) ∧
  (∀ (d a : BitVec 8), OnGroup (.neg d a) (W.neg d a) (fun s => { useV s.curTy d [a] (.lit 0) with types := some [.s32, .s16, .s8, .s64] }) ((absNegEff true d a))) ∧
  (∀ (d a : BitVec 8), OnGroup (.notB d a) (W.notB d a) (fun _ => (useV .n32 d [a] (.lit 0))) ((unary32Eff (~~~·) d a))) ∧
  (∀ (d a : BitVec 8), OnGroup (.clz d a) (W.clz d a) (fun _ => (useV .n32 d [a] (.lit 0))) ((unary32Eff clzLane d a))) ∧
  (∀ (d a : BitVec 8), OnGroup (.popc d a) (W.popc d a) (fun _ => (useV .n32 d [a] (.lit 0))) ((unary32Eff popcLane d a))) ∧
  (∀ (d a : BitVec 8), OnGroup (.brev d a) (W.brev d a) (fun _ => (useV .n32 d [a] (.lit 0))) ((unary32Eff brevLane d a))) ∧
  (∀ (d : BitVec 8) (a : BitVec 8) (b : BitVec 8), OnGroup (.addReg d a b) (W.addReg d a b) (fun s => (IntOp.add.use s.curTy d a (BOp.vec b))) ((IntOp.add.eff d a (BOp.vec b)))) ∧
  (∀ (d : BitVec 8) (a : BitVec 8) (b : BitVec 6), OnGroup (.addScb d a b) (W.addScb d a b) (fun s => (IntOp.add.use s.curTy d a (BOp.sreg b))) ((IntOp.add.eff d a (BOp.sreg b)))) ∧
  (∀ (d : BitVec 8) (a : BitVec 8) (k : BitVec 32), OnGroup (.addLit d a k) (W.addLit d a k) (fun s => (IntOp.add.use s.curTy d a (BOp.lit k))) ((IntOp.add.eff d a (BOp.lit k)))) ∧
  (∀ (d : BitVec 8) (a : BitVec 8) (b : BitVec 8), OnGroup (.subReg d a b) (W.subReg d a b) (fun s => (IntOp.sub.use s.curTy d a (BOp.vec b))) ((IntOp.sub.eff d a (BOp.vec b)))) ∧
  (∀ (d : BitVec 8) (a : BitVec 8) (b : BitVec 6), OnGroup (.subScb d a b) (W.subScb d a b) (fun s => (IntOp.sub.use s.curTy d a (BOp.sreg b))) ((IntOp.sub.eff d a (BOp.sreg b)))) ∧
  (∀ (d : BitVec 8) (a : BitVec 8) (k : BitVec 32), OnGroup (.subLit d a k) (W.subLit d a k) (fun s => (IntOp.sub.use s.curTy d a (BOp.lit k))) ((IntOp.sub.eff d a (BOp.lit k)))) ∧
  (∀ (d : BitVec 8) (a : BitVec 8) (b : BitVec 8), OnGroup (.addcReg d a b) (W.addcReg d a b) (fun _ => { useV .n32 d [a] (BOp.vec b) with pr := [7], pw := [7] }) ((carryEff false d a (BOp.vec b)))) ∧
  (∀ (d : BitVec 8) (a : BitVec 8) (b : BitVec 6), OnGroup (.addcScb d a b) (W.addcScb d a b) (fun _ => { useV .n32 d [a] (BOp.sreg b) with pr := [7], pw := [7] }) ((carryEff false d a (BOp.sreg b)))) ∧
  (∀ (d : BitVec 8) (a : BitVec 8) (k : BitVec 32), OnGroup (.addcLit d a k) (W.addcLit d a k) (fun _ => { useV .n32 d [a] (BOp.lit k) with pr := [7], pw := [7] }) ((carryEff false d a (BOp.lit k)))) ∧
  (∀ (d : BitVec 8) (a : BitVec 8) (b : BitVec 8), OnGroup (.subbReg d a b) (W.subbReg d a b) (fun _ => { useV .n32 d [a] (BOp.vec b) with pr := [7], pw := [7] }) ((carryEff true d a (BOp.vec b)))) ∧
  (∀ (d : BitVec 8) (a : BitVec 8) (b : BitVec 6), OnGroup (.subbScb d a b) (W.subbScb d a b) (fun _ => { useV .n32 d [a] (BOp.sreg b) with pr := [7], pw := [7] }) ((carryEff true d a (BOp.sreg b)))) ∧
  (∀ (d : BitVec 8) (a : BitVec 8) (k : BitVec 32), OnGroup (.subbLit d a k) (W.subbLit d a k) (fun _ => { useV .n32 d [a] (BOp.lit k) with pr := [7], pw := [7] }) ((carryEff true d a (BOp.lit k)))) ∧
  (∀ (d : BitVec 8) (a : BitVec 8) (b : BitVec 8), OnGroup (.mulReg d a b) (W.mulReg d a b) (fun s => (IntOp.mul.use s.curTy d a (BOp.vec b))) ((IntOp.mul.eff d a (BOp.vec b)))) ∧
  (∀ (d : BitVec 8) (a : BitVec 8) (b : BitVec 6), OnGroup (.mulScb d a b) (W.mulScb d a b) (fun s => (IntOp.mul.use s.curTy d a (BOp.sreg b))) ((IntOp.mul.eff d a (BOp.sreg b)))) ∧
  (∀ (d : BitVec 8) (a : BitVec 8) (k : BitVec 32), OnGroup (.mulLit d a k) (W.mulLit d a k) (fun s => (IntOp.mul.use s.curTy d a (BOp.lit k))) ((IntOp.mul.eff d a (BOp.lit k)))) ∧
  (∀ (d : BitVec 8) (a : BitVec 8) (b : BitVec 8), OnGroup (.mulhReg d a b) (W.mulhReg d a b) (fun s => (IntOp.mulh.use s.curTy d a (BOp.vec b))) ((IntOp.mulh.eff d a (BOp.vec b)))) ∧
  (∀ (d : BitVec 8) (a : BitVec 8) (b : BitVec 6), OnGroup (.mulhScb d a b) (W.mulhScb d a b) (fun s => (IntOp.mulh.use s.curTy d a (BOp.sreg b))) ((IntOp.mulh.eff d a (BOp.sreg b)))) ∧
  (∀ (d : BitVec 8) (a : BitVec 8) (k : BitVec 32), OnGroup (.mulhLit d a k) (W.mulhLit d a k) (fun s => (IntOp.mulh.use s.curTy d a (BOp.lit k))) ((IntOp.mulh.eff d a (BOp.lit k)))) ∧
  (∀ (d : BitVec 8) (a : BitVec 8) (b : BitVec 8), OnGroup (.madReg d a b) (W.madReg d a b) (fun s => (IntOp.mad.use s.curTy d a (BOp.vec b))) ((IntOp.mad.eff d a (BOp.vec b)))) ∧
  (∀ (d : BitVec 8) (a : BitVec 8) (b : BitVec 6), OnGroup (.madScb d a b) (W.madScb d a b) (fun s => (IntOp.mad.use s.curTy d a (BOp.sreg b))) ((IntOp.mad.eff d a (BOp.sreg b)))) ∧
  (∀ (d : BitVec 8) (a : BitVec 8) (k : BitVec 32), OnGroup (.madLit d a k) (W.madLit d a k) (fun s => (IntOp.mad.use s.curTy d a (BOp.lit k))) ((IntOp.mad.eff d a (BOp.lit k)))) ∧
  (∀ (d : BitVec 8) (a : BitVec 8) (b : BitVec 8), OnGroup (.minReg d a b) (W.minReg d a b) (fun s => (IntOp.min.use s.curTy d a (BOp.vec b))) ((IntOp.min.eff d a (BOp.vec b)))) ∧
  (∀ (d : BitVec 8) (a : BitVec 8) (b : BitVec 6), OnGroup (.minScb d a b) (W.minScb d a b) (fun s => (IntOp.min.use s.curTy d a (BOp.sreg b))) ((IntOp.min.eff d a (BOp.sreg b)))) ∧
  (∀ (d : BitVec 8) (a : BitVec 8) (k : BitVec 32), OnGroup (.minLit d a k) (W.minLit d a k) (fun s => (IntOp.min.use s.curTy d a (BOp.lit k))) ((IntOp.min.eff d a (BOp.lit k)))) ∧
  (∀ (d : BitVec 8) (a : BitVec 8) (b : BitVec 8), OnGroup (.maxReg d a b) (W.maxReg d a b) (fun s => (IntOp.max.use s.curTy d a (BOp.vec b))) ((IntOp.max.eff d a (BOp.vec b)))) ∧
  (∀ (d : BitVec 8) (a : BitVec 8) (b : BitVec 6), OnGroup (.maxScb d a b) (W.maxScb d a b) (fun s => (IntOp.max.use s.curTy d a (BOp.sreg b))) ((IntOp.max.eff d a (BOp.sreg b)))) ∧
  (∀ (d : BitVec 8) (a : BitVec 8) (k : BitVec 32), OnGroup (.maxLit d a k) (W.maxLit d a k) (fun s => (IntOp.max.use s.curTy d a (BOp.lit k))) ((IntOp.max.eff d a (BOp.lit k)))) ∧
  (∀ (d : BitVec 8) (a : BitVec 8) (b : BitVec 8), OnGroup (.andReg d a b) (W.andReg d a b) (fun _ => (useV .n32 d [a] (BOp.vec b))) ((lane32Eff (bitLane BitOp.and) d a (BOp.vec b)))) ∧
  (∀ (d : BitVec 8) (a : BitVec 8) (b : BitVec 6), OnGroup (.andScb d a b) (W.andScb d a b) (fun _ => (useV .n32 d [a] (BOp.sreg b))) ((lane32Eff (bitLane BitOp.and) d a (BOp.sreg b)))) ∧
  (∀ (d : BitVec 8) (a : BitVec 8) (k : BitVec 32), OnGroup (.andLit d a k) (W.andLit d a k) (fun _ => (useV .n32 d [a] (BOp.lit k))) ((lane32Eff (bitLane BitOp.and) d a (BOp.lit k)))) ∧
  (∀ (d : BitVec 8) (a : BitVec 8) (b : BitVec 8), OnGroup (.orReg d a b) (W.orReg d a b) (fun _ => (useV .n32 d [a] (BOp.vec b))) ((lane32Eff (bitLane BitOp.or) d a (BOp.vec b)))) ∧
  (∀ (d : BitVec 8) (a : BitVec 8) (b : BitVec 6), OnGroup (.orScb d a b) (W.orScb d a b) (fun _ => (useV .n32 d [a] (BOp.sreg b))) ((lane32Eff (bitLane BitOp.or) d a (BOp.sreg b)))) ∧
  (∀ (d : BitVec 8) (a : BitVec 8) (k : BitVec 32), OnGroup (.orLit d a k) (W.orLit d a k) (fun _ => (useV .n32 d [a] (BOp.lit k))) ((lane32Eff (bitLane BitOp.or) d a (BOp.lit k)))) ∧
  (∀ (d : BitVec 8) (a : BitVec 8) (b : BitVec 8), OnGroup (.xorReg d a b) (W.xorReg d a b) (fun _ => (useV .n32 d [a] (BOp.vec b))) ((lane32Eff (bitLane BitOp.xor) d a (BOp.vec b)))) ∧
  (∀ (d : BitVec 8) (a : BitVec 8) (b : BitVec 6), OnGroup (.xorScb d a b) (W.xorScb d a b) (fun _ => (useV .n32 d [a] (BOp.sreg b))) ((lane32Eff (bitLane BitOp.xor) d a (BOp.sreg b)))) ∧
  (∀ (d : BitVec 8) (a : BitVec 8) (k : BitVec 32), OnGroup (.xorLit d a k) (W.xorLit d a k) (fun _ => (useV .n32 d [a] (BOp.lit k))) ((lane32Eff (bitLane BitOp.xor) d a (BOp.lit k)))) ∧
  (∀ (d : BitVec 8) (a : BitVec 8) (b : BitVec 8), OnGroup (.andnReg d a b) (W.andnReg d a b) (fun _ => (useV .n32 d [a] (BOp.vec b))) ((lane32Eff (bitLane BitOp.andn) d a (BOp.vec b)))) ∧
  (∀ (d : BitVec 8) (a : BitVec 8) (b : BitVec 6), OnGroup (.andnScb d a b) (W.andnScb d a b) (fun _ => (useV .n32 d [a] (BOp.sreg b))) ((lane32Eff (bitLane BitOp.andn) d a (BOp.sreg b)))) ∧
  (∀ (d : BitVec 8) (a : BitVec 8) (k : BitVec 32), OnGroup (.andnLit d a k) (W.andnLit d a k) (fun _ => (useV .n32 d [a] (BOp.lit k))) ((lane32Eff (bitLane BitOp.andn) d a (BOp.lit k)))) ∧
  (∀ (d : BitVec 8) (a : BitVec 8) (b : BitVec 8), OnGroup (.shlReg d a b) (W.shlReg d a b) (fun s => (IntOp.shl.use s.curTy d a (BOp.vec b))) ((IntOp.shl.eff d a (BOp.vec b)))) ∧
  (∀ (d : BitVec 8) (a : BitVec 8) (b : BitVec 6), OnGroup (.shlScb d a b) (W.shlScb d a b) (fun s => (IntOp.shl.use s.curTy d a (BOp.sreg b))) ((IntOp.shl.eff d a (BOp.sreg b)))) ∧
  (∀ (d : BitVec 8) (a : BitVec 8) (k : BitVec 32), OnGroup (.shlLit d a k) (W.shlLit d a k) (fun s => (IntOp.shl.use s.curTy d a (BOp.lit k))) ((IntOp.shl.eff d a (BOp.lit k)))) ∧
  (∀ (d : BitVec 8) (a : BitVec 8) (b : BitVec 8), OnGroup (.shrReg d a b) (W.shrReg d a b) (fun s => (IntOp.shr.use s.curTy d a (BOp.vec b))) ((IntOp.shr.eff d a (BOp.vec b)))) ∧
  (∀ (d : BitVec 8) (a : BitVec 8) (b : BitVec 6), OnGroup (.shrScb d a b) (W.shrScb d a b) (fun s => (IntOp.shr.use s.curTy d a (BOp.sreg b))) ((IntOp.shr.eff d a (BOp.sreg b)))) ∧
  (∀ (d : BitVec 8) (a : BitVec 8) (k : BitVec 32), OnGroup (.shrLit d a k) (W.shrLit d a k) (fun s => (IntOp.shr.use s.curTy d a (BOp.lit k))) ((IntOp.shr.eff d a (BOp.lit k)))) ∧
  (∀ (d : BitVec 8) (a : BitVec 8) (b : BitVec 8), OnGroup (.sraReg d a b) (W.sraReg d a b) (fun s => (IntOp.sra.use s.curTy d a (BOp.vec b))) ((IntOp.sra.eff d a (BOp.vec b)))) ∧
  (∀ (d : BitVec 8) (a : BitVec 8) (b : BitVec 6), OnGroup (.sraScb d a b) (W.sraScb d a b) (fun s => (IntOp.sra.use s.curTy d a (BOp.sreg b))) ((IntOp.sra.eff d a (BOp.sreg b)))) ∧
  (∀ (d : BitVec 8) (a : BitVec 8) (k : BitVec 32), OnGroup (.sraLit d a k) (W.sraLit d a k) (fun s => (IntOp.sra.use s.curTy d a (BOp.lit k))) ((IntOp.sra.eff d a (BOp.lit k)))) ∧
  (∀ (d : BitVec 8) (a : BitVec 8) (b : BitVec 8), OnGroup (.rotlReg d a b) (W.rotlReg d a b) (fun s => (IntOp.rotl.use s.curTy d a (BOp.vec b))) ((IntOp.rotl.eff d a (BOp.vec b)))) ∧
  (∀ (d : BitVec 8) (a : BitVec 8) (b : BitVec 6), OnGroup (.rotlScb d a b) (W.rotlScb d a b) (fun s => (IntOp.rotl.use s.curTy d a (BOp.sreg b))) ((IntOp.rotl.eff d a (BOp.sreg b)))) ∧
  (∀ (d : BitVec 8) (a : BitVec 8) (k : BitVec 32), OnGroup (.rotlLit d a k) (W.rotlLit d a k) (fun s => (IntOp.rotl.use s.curTy d a (BOp.lit k))) ((IntOp.rotl.eff d a (BOp.lit k)))) ∧
  (∀ (d : BitVec 8) (a : BitVec 8) (b : BitVec 8), OnGroup (.bfxReg d a b) (W.bfxReg d a b) (fun _ => { useV .n32 d [a] (BOp.vec b) with types := some [.s32, .n32] }) (fun c => lane32Eff (bfxLane (mdType c.md == .s32)) d a (BOp.vec b) c)) ∧
  (∀ (d : BitVec 8) (a : BitVec 8) (b : BitVec 6), OnGroup (.bfxScb d a b) (W.bfxScb d a b) (fun _ => { useV .n32 d [a] (BOp.sreg b) with types := some [.s32, .n32] }) (fun c => lane32Eff (bfxLane (mdType c.md == .s32)) d a (BOp.sreg b) c)) ∧
  (∀ (d : BitVec 8) (a : BitVec 8) (k : BitVec 32), OnGroup (.bfxLit d a k) (W.bfxLit d a k) (fun _ => { useV .n32 d [a] (BOp.lit k) with types := some [.s32, .n32] }) (fun c => lane32Eff (bfxLane (mdType c.md == .s32)) d a (BOp.lit k) c)) ∧
  (∀ (d : BitVec 8) (a : BitVec 8) (b : BitVec 8), OnGroup (.bfiReg d a b) (W.bfiReg d a b) (fun _ => (useV .n32 d [a] (BOp.vec b) true)) ((bfiEff d a (BOp.vec b)))) ∧
  (∀ (d : BitVec 8) (a : BitVec 8) (b : BitVec 6), OnGroup (.bfiScb d a b) (W.bfiScb d a b) (fun _ => (useV .n32 d [a] (BOp.sreg b) true)) ((bfiEff d a (BOp.sreg b)))) ∧
  (∀ (d : BitVec 8) (a : BitVec 8) (k : BitVec 32), OnGroup (.bfiLit d a k) (W.bfiLit d a k) (fun _ => (useV .n32 d [a] (BOp.lit k) true)) ((bfiEff d a (BOp.lit k)))) ∧
  (∀ (d : BitVec 8) (a : BitVec 8) (b : BitVec 8), OnGroup (.selReg d a b) (W.selReg d a b) (fun s => { useV .n32 d [a] (BOp.vec b) with guard := false, pr := [(mdGp s.curMd).toNat] }) ((selEff d a (BOp.vec b)))) ∧
  (∀ (d : BitVec 8) (a : BitVec 8) (b : BitVec 6), OnGroup (.selScb d a b) (W.selScb d a b) (fun s => { useV .n32 d [a] (BOp.sreg b) with guard := false, pr := [(mdGp s.curMd).toNat] }) ((selEff d a (BOp.sreg b)))) ∧
  (∀ (d : BitVec 8) (a : BitVec 8) (k : BitVec 32), OnGroup (.selLit d a k) (W.selLit d a k) (fun s => { useV .n32 d [a] (BOp.lit k) with guard := false, pr := [(mdGp s.curMd).toNat] }) ((selEff d a (BOp.lit k)))) ∧
  (∀ (d : BitVec 3) (a : BitVec 8) (b : BitVec 8), OnGroup (.cmpEqReg d a b) (W.cmpEqReg d a b) (fun s => { useCmp s.curTy d a (BOp.vec b) with types := some [.s32, .n32, .s64] }) ((cmpEff d (intCmp false a (BOp.vec b))))) ∧
  (∀ (d : BitVec 3) (a : BitVec 8) (b : BitVec 6), OnGroup (.cmpEqScb d a b) (W.cmpEqScb d a b) (fun s => { useCmp s.curTy d a (BOp.sreg b) with types := some [.s32, .n32, .s64] }) ((cmpEff d (intCmp false a (BOp.sreg b))))) ∧
  (∀ (d : BitVec 3) (a : BitVec 8) (k : BitVec 32), OnGroup (.cmpEqLit d a k) (W.cmpEqLit d a k) (fun s => { useCmp s.curTy d a (BOp.lit k) with types := some [.s32, .n32, .s64] }) ((cmpEff d (intCmp false a (BOp.lit k))))) ∧
  (∀ (d : BitVec 3) (a : BitVec 8) (b : BitVec 8), OnGroup (.cmpLtReg d a b) (W.cmpLtReg d a b) (fun s => { useCmp s.curTy d a (BOp.vec b) with types := some [.s32, .n32, .s64] }) ((cmpEff d (intCmp true a (BOp.vec b))))) ∧
  (∀ (d : BitVec 3) (a : BitVec 8) (b : BitVec 6), OnGroup (.cmpLtScb d a b) (W.cmpLtScb d a b) (fun s => { useCmp s.curTy d a (BOp.sreg b) with types := some [.s32, .n32, .s64] }) ((cmpEff d (intCmp true a (BOp.sreg b))))) ∧
  (∀ (d : BitVec 3) (a : BitVec 8) (k : BitVec 32), OnGroup (.cmpLtLit d a k) (W.cmpLtLit d a k) (fun s => { useCmp s.curTy d a (BOp.lit k) with types := some [.s32, .n32, .s64] }) ((cmpEff d (intCmp true a (BOp.lit k)))))

/-- When the instruction issues, with no watch predicate enabled, exec answers a next state in which the group has the rounded results in the active lanes of D, its paths as the issue left them, and nothing outside the group differs. (04 R80; 05 R111; 05 R112; 05 R113; 05 R114; 05 R115; 05 R116; 05 R117; 05 R122) -/
def Obligations.FloatInstructions : Prop :=
  (∀ (d a : BitVec 8), OnGroup (.fabs d a) (W.fabs d a) (fun _ => { useV .f32 d [a] (.lit 0) with types := some fpTypes }) ((signEff false d a))) ∧
  (∀ (d a : BitVec 8), OnGroup (.fneg d a) (W.fneg d a) (fun _ => { useV .f32 d [a] (.lit 0) with types := some fpTypes }) ((signEff true d a))) ∧
  (∀ (d a : BitVec 8), OnGroup (.frcp d a) (W.frcp d a) (fun _ => { useV .f32 d [a] (.lit 0) with types := some [.f32], rounds := true }) (fun c => ((ufnEff UFn.rcp d a) c).1)) ∧
  (∀ (d a : BitVec 8), OnGroup (.frsq d a) (W.frsq d a) (fun _ => { useV .f32 d [a] (.lit 0) with types := some [.f32], rounds := true }) (fun c => ((ufnEff UFn.rsq d a) c).1)) ∧
  (∀ (d a : BitVec 8), OnGroup (.fsqrt d a) (W.fsqrt d a) (fun _ => { useV .f32 d [a] (.lit 0) with types := some [.f32], rounds := true }) (fun c => ((ufnEff UFn.sqrt d a) c).1)) ∧
  (∀ (d a : BitVec 8), OnGroup (.fex2 d a) (W.fex2 d a) (fun _ => { useV .f32 d [a] (.lit 0) with types := some [.f32], rounds := true }) (fun c => ((ufnEff UFn.ex2 d a) c).1)) ∧
  (∀ (d a : BitVec 8), OnGroup (.flg2 d a) (W.flg2 d a) (fun _ => { useV .f32 d [a] (.lit 0) with types := some [.f32], rounds := true }) (fun c => ((ufnEff UFn.lg2 d a) c).1)) ∧
  (∀ (d a : BitVec 8), OnGroup (.fsin d a) (W.fsin d a) (fun _ => { useV .f32 d [a] (.lit 0) with types := some [.f32], rounds := true }) (fun c => ((ufnEff UFn.sin d a) c).1)) ∧
  (∀ (d a : BitVec 8), OnGroup (.fcos d a) (W.fcos d a) (fun _ => { useV .f32 d [a] (.lit 0) with types := some [.f32], rounds := true }) (fun c => ((ufnEff UFn.cos d a) c).1)) ∧
  (∀ (d a : BitVec 8), OnGroup (.frnd d a) (W.frnd d a) (fun _ => { useV .f32 d [a] (.lit 0) with types := some fpTypes, rounds := true }) (fun c => ((frndEff d a) c).1)) ∧
  (∀ (d : BitVec 8) (a : BitVec 8) (b : BitVec 8), OnGroup (.faddReg d a b) (W.faddReg d a b) (fun _ => (FpOp.add.use d a (BOp.vec b))) (fun c => ((FpOp.add.eff d a (BOp.vec b)) c).1)) ∧
  (∀ (d : BitVec 8) (a : BitVec 8) (b : BitVec 6), OnGroup (.faddScb d a b) (W.faddScb d a b) (fun _ => (FpOp.add.use d a (BOp.sreg b))) (fun c => ((FpOp.add.eff d a (BOp.sreg b)) c).1)) ∧
  (∀ (d : BitVec 8) (a : BitVec 8) (k : BitVec 32), OnGroup (.faddLit d a k) (W.faddLit d a k) (fun _ => (FpOp.add.use d a (BOp.lit k))) (fun c => ((FpOp.add.eff d a (BOp.lit k)) c).1)) ∧
  (∀ (d : BitVec 8) (a : BitVec 8) (b : BitVec 8), OnGroup (.fsubReg d a b) (W.fsubReg d a b) (fun _ => (FpOp.sub.use d a (BOp.vec b))) (fun c => ((FpOp.sub.eff d a (BOp.vec b)) c).1)) ∧
  (∀ (d : BitVec 8) (a : BitVec 8) (b : BitVec 6), OnGroup (.fsubScb d a b) (W.fsubScb d a b) (fun _ => (FpOp.sub.use d a (BOp.sreg b))) (fun c => ((FpOp.sub.eff d a (BOp.sreg b)) c).1)) ∧
  (∀ (d : BitVec 8) (a : BitVec 8) (k : BitVec 32), OnGroup (.fsubLit d a k) (W.fsubLit d a k) (fun _ => (FpOp.sub.use d a (BOp.lit k))) (fun c => ((FpOp.sub.eff d a (BOp.lit k)) c).1)) ∧
  (∀ (d : BitVec 8) (a : BitVec 8) (b : BitVec 8), OnGroup (.fmulReg d a b) (W.fmulReg d a b) (fun _ => (FpOp.mul.use d a (BOp.vec b))) (fun c => ((FpOp.mul.eff d a (BOp.vec b)) c).1)) ∧
  (∀ (d : BitVec 8) (a : BitVec 8) (b : BitVec 6), OnGroup (.fmulScb d a b) (W.fmulScb d a b) (fun _ => (FpOp.mul.use d a (BOp.sreg b))) (fun c => ((FpOp.mul.eff d a (BOp.sreg b)) c).1)) ∧
  (∀ (d : BitVec 8) (a : BitVec 8) (k : BitVec 32), OnGroup (.fmulLit d a k) (W.fmulLit d a k) (fun _ => (FpOp.mul.use d a (BOp.lit k))) (fun c => ((FpOp.mul.eff d a (BOp.lit k)) c).1)) ∧
  (∀ (d : BitVec 8) (a : BitVec 8) (b : BitVec 8), OnGroup (.fmaReg d a b) (W.fmaReg d a b) (fun _ => (FpOp.fma.use d a (BOp.vec b))) (fun c => ((FpOp.fma.eff d a (BOp.vec b)) c).1)) ∧
  (∀ (d : BitVec 8) (a : BitVec 8) (b : BitVec 6), OnGroup (.fmaScb d a b) (W.fmaScb d a b) (fun _ => (FpOp.fma.use d a (BOp.sreg b))) (fun c => ((FpOp.fma.eff d a (BOp.sreg b)) c).1)) ∧
  (∀ (d : BitVec 8) (a : BitVec 8) (k : BitVec 32), OnGroup (.fmaLit d a k) (W.fmaLit d a k) (fun _ => (FpOp.fma.use d a (BOp.lit k))) (fun c => ((FpOp.fma.eff d a (BOp.lit k)) c).1)) ∧
  (∀ (d : BitVec 8) (a : BitVec 8) (b : BitVec 8), OnGroup (.fminReg d a b) (W.fminReg d a b) (fun _ => (FpOp.min.use d a (BOp.vec b))) (fun c => ((FpOp.min.eff d a (BOp.vec b)) c).1)) ∧
  (∀ (d : BitVec 8) (a : BitVec 8) (b : BitVec 6), OnGroup (.fminScb d a b) (W.fminScb d a b) (fun _ => (FpOp.min.use d a (BOp.sreg b))) (fun c => ((FpOp.min.eff d a (BOp.sreg b)) c).1)) ∧
  (∀ (d : BitVec 8) (a : BitVec 8) (k : BitVec 32), OnGroup (.fminLit d a k) (W.fminLit d a k) (fun _ => (FpOp.min.use d a (BOp.lit k))) (fun c => ((FpOp.min.eff d a (BOp.lit k)) c).1)) ∧
  (∀ (d : BitVec 8) (a : BitVec 8) (b : BitVec 8), OnGroup (.fmaxReg d a b) (W.fmaxReg d a b) (fun _ => (FpOp.max.use d a (BOp.vec b))) (fun c => ((FpOp.max.eff d a (BOp.vec b)) c).1)) ∧
  (∀ (d : BitVec 8) (a : BitVec 8) (b : BitVec 6), OnGroup (.fmaxScb d a b) (W.fmaxScb d a b) (fun _ => (FpOp.max.use d a (BOp.sreg b))) (fun c => ((FpOp.max.eff d a (BOp.sreg b)) c).1)) ∧
  (∀ (d : BitVec 8) (a : BitVec 8) (k : BitVec 32), OnGroup (.fmaxLit d a k) (W.fmaxLit d a k) (fun _ => (FpOp.max.use d a (BOp.lit k))) (fun c => ((FpOp.max.eff d a (BOp.lit k)) c).1)) ∧
  (∀ (d : BitVec 3) (a : BitVec 8) (b : BitVec 8), OnGroup (.fclsReg d a b) (W.fclsReg d a b) (fun _ => { useCmp .f32 d a (BOp.vec b) with types := some [.f32] }) ((cmpEff d fun c l => ((BOp.vec b).lane32 c.g l).getLsbD (fclass (c.g.vlane a l).toNat)))) ∧
  (∀ (d : BitVec 3) (a : BitVec 8) (b : BitVec 6), OnGroup (.fclsScb d a b) (W.fclsScb d a b) (fun _ => { useCmp .f32 d a (BOp.sreg b) with types := some [.f32] }) ((cmpEff d fun c l => ((BOp.sreg b).lane32 c.g l).getLsbD (fclass (c.g.vlane a l).toNat)))) ∧
  (∀ (d : BitVec 3) (a : BitVec 8) (k : BitVec 32), OnGroup (.fclsLit d a k) (W.fclsLit d a k) (fun _ => { useCmp .f32 d a (BOp.lit k) with types := some [.f32] }) ((cmpEff d fun c l => ((BOp.lit k).lane32 c.g l).getLsbD (fclass (c.g.vlane a l).toNat)))) ∧
  (∀ (d : BitVec 3) (a : BitVec 8) (b : BitVec 8), OnGroup (.fcmpEqReg d a b) (W.fcmpEqReg d a b) (fun _ => { useCmp .f32 d a (BOp.vec b) with types := some [.f32] }) (fun c => ((fcmpEff FCmp.eq d a (BOp.vec b)) c).1)) ∧
  (∀ (d : BitVec 3) (a : BitVec 8) (b : BitVec 6), OnGroup (.fcmpEqScb d a b) (W.fcmpEqScb d a b) (fun _ => { useCmp .f32 d a (BOp.sreg b) with types := some [.f32] }) (fun c => ((fcmpEff FCmp.eq d a (BOp.sreg b)) c).1)) ∧
  (∀ (d : BitVec 3) (a : BitVec 8) (k : BitVec 32), OnGroup (.fcmpEqLit d a k) (W.fcmpEqLit d a k) (fun _ => { useCmp .f32 d a (BOp.lit k) with types := some [.f32] }) (fun c => ((fcmpEff FCmp.eq d a (BOp.lit k)) c).1)) ∧
  (∀ (d : BitVec 3) (a : BitVec 8) (b : BitVec 8), OnGroup (.fcmpLtReg d a b) (W.fcmpLtReg d a b) (fun _ => { useCmp .f32 d a (BOp.vec b) with types := some [.f32] }) (fun c => ((fcmpEff FCmp.lt d a (BOp.vec b)) c).1)) ∧
  (∀ (d : BitVec 3) (a : BitVec 8) (b : BitVec 6), OnGroup (.fcmpLtScb d a b) (W.fcmpLtScb d a b) (fun _ => { useCmp .f32 d a (BOp.sreg b) with types := some [.f32] }) (fun c => ((fcmpEff FCmp.lt d a (BOp.sreg b)) c).1)) ∧
  (∀ (d : BitVec 3) (a : BitVec 8) (k : BitVec 32), OnGroup (.fcmpLtLit d a k) (W.fcmpLtLit d a k) (fun _ => { useCmp .f32 d a (BOp.lit k) with types := some [.f32] }) (fun c => ((fcmpEff FCmp.lt d a (BOp.lit k)) c).1)) ∧
  (∀ (d : BitVec 3) (a : BitVec 8) (b : BitVec 8), OnGroup (.fcmpLeReg d a b) (W.fcmpLeReg d a b) (fun _ => { useCmp .f32 d a (BOp.vec b) with types := some [.f32] }) (fun c => ((fcmpEff FCmp.le d a (BOp.vec b)) c).1)) ∧
  (∀ (d : BitVec 3) (a : BitVec 8) (b : BitVec 6), OnGroup (.fcmpLeScb d a b) (W.fcmpLeScb d a b) (fun _ => { useCmp .f32 d a (BOp.sreg b) with types := some [.f32] }) (fun c => ((fcmpEff FCmp.le d a (BOp.sreg b)) c).1)) ∧
  (∀ (d : BitVec 3) (a : BitVec 8) (k : BitVec 32), OnGroup (.fcmpLeLit d a k) (W.fcmpLeLit d a k) (fun _ => { useCmp .f32 d a (BOp.lit k) with types := some [.f32] }) (fun c => ((fcmpEff FCmp.le d a (BOp.lit k)) c).1)) ∧
  (∀ (d : BitVec 8) (a : BitVec 8) (b : BitVec 8), OnGroup (.dot4Reg d a b) (W.dot4Reg d a b) (fun _ => { useV .n32 d [a] (BOp.vec b) true with types := some [.s8, .n8] }) ((dot4Eff d a (BOp.vec b)))) ∧
  (∀ (d : BitVec 8) (a : BitVec 8) (b : BitVec 6), OnGroup (.dot4Scb d a b) (W.dot4Scb d a b) (fun _ => { useV .n32 d [a] (BOp.sreg b) true with types := some [.s8, .n8] }) ((dot4Eff d a (BOp.sreg b)))) ∧
  (∀ (d : BitVec 8) (a : BitVec 8) (k : BitVec 32), OnGroup (.dot4Lit d a k) (W.dot4Lit d a k) (fun _ => { useV .n32 d [a] (BOp.lit k) true with types := some [.s8, .n8] }) ((dot4Eff d a (BOp.lit k)))) ∧
  (∀ (d : BitVec 8) (a : BitVec 8) (b : BitVec 8), OnGroup (.fdot2Reg d a b) (W.fdot2Reg d a b) (fun _ => { useV .f32 d [a] (BOp.vec b) true with types := some [.f16, .bf16] }) (fun c => ((fdot2Eff d a (BOp.vec b)) c).1)) ∧
  (∀ (d : BitVec 8) (a : BitVec 8) (b : BitVec 6), OnGroup (.fdot2Scb d a b) (W.fdot2Scb d a b) (fun _ => { useV .f32 d [a] (BOp.sreg b) true with types := some [.f16, .bf16] }) (fun c => ((fdot2Eff d a (BOp.sreg b)) c).1)) ∧
  (∀ (d : BitVec 8) (a : BitVec 8) (k : BitVec 32), OnGroup (.fdot2Lit d a k) (W.fdot2Lit d a k) (fun _ => { useV .f32 d [a] (BOp.lit k) true with types := some [.f16, .bf16] }) (fun c => ((fdot2Eff d a (BOp.lit k)) c).1))

/-- When the instruction issues, with no watch predicate enabled, exec answers a next state with the converted elements; mxscl and mxq where their own check passes. (05 R118; 05 R119; 05 R120; 05 R121) -/
def Obligations.Conversions : Prop :=
  (∀ (d : BitVec 8) (a : BitVec 8) (s1 : BitVec 4), OnGroup (.cvt d a s1) (W.cvt d a s1) (fun s => (useCvt (Ty.ofCode s1.toNat) s.curTy d a)) (fun c => ((cvtEff (Ty.ofCode s1.toNat) d a) c).1)) ∧
  (∀ (d : BitVec 8) (a : BitVec 8) (b : BitVec 8), OnGroup (.pack2 d a b) (W.pack2 d a b) (fun s => { useV .n32 d [a] (.vec b) (s.curTy.width == 8) with types := some [.f16, .bf16, .e4m3, .e5m2, .s16, .n16, .s8, .n8], rounds := s.curTy.isFloat }) (fun c => ((packEff d a b) c).1)) ∧
  (∀ (d : BitVec 8) (a : BitVec 8) (k : BitVec 3) (s1 : BitVec 4), OnGroup (.unpk d a k s1) (W.unpk d a k s1) (fun s => { useV .n32 d [a] (.lit 0) with types := some (if unpkSources.contains (Ty.ofCode s1.toNat) then [.s32, .n32, .f32] else []), rounds := cvtRounds (Ty.ofCode s1.toNat) s.curTy }) (fun c => ((unpkEff (Ty.ofCode s1.toNat) k.toNat d a) c).1)) ∧
  (∀ (d : BitVec 6) (a : BitVec 8), OnGroupOr (.mxscl d a) (W.mxscl d a) (fun _ => { vr := [a.toNat, a.toNat + 1], sw := [d.toNat], ext := some 0, types := some [.mx8, .mx4], cross := true }) ((mxsclEff d a))) ∧
  (∀ (d : BitVec 6) (a : BitVec 8), OwnTrap (.mxscl d a) (W.mxscl d a) (fun _ => { vr := [a.toNat, a.toNat + 1], sw := [d.toNat], ext := some 0, types := some [.mx8, .mx4], cross := true }) ((mxsclEff d a))) ∧
  (∀ (d : BitVec 8) (a : BitVec 8) (b : BitVec 6), OnState (.mxq d a b) (W.mxq d a b) (fun _ => { vr := [a.toNat, a.toNat + 1], sr := [b.toNat], vw := [d.toNat], ext := some 0, types := some [.mx8, .mx4], rounds := true, cross := true }) (mxqEff d a b))

/-- When the instruction issues, exec answers a next state in which the group has the registers and paths that its effect gives, and nothing outside the group differs. That under rs every active lane draws for lred, whatever the operation, is the model's choice (log 145). (05 R123; 05 R124; 05 R125; 05 R126; 05 R127; 05 R132) -/
def Obligations.LaneInstructions : Prop :=
  (∀ (d : BitVec 3) (a : BitVec 3), OnGroup (.voteAny d a) (W.voteAny d a) (fun _ => { pr := [a.toNat, d.toNat], pw := [d.toNat], cross := true }) (fun c => c.g.setPLanes d c.act (maskOf fun _ => voteBit false (c.g.pred a) c.act))) ∧
  (∀ (d : BitVec 3) (a : BitVec 3), OnGroup (.voteAll d a) (W.voteAll d a) (fun _ => { pr := [a.toNat, d.toNat], pw := [d.toNat], cross := true }) (fun c => c.g.setPLanes d c.act (maskOf fun _ => voteBit true (c.g.pred a) c.act))) ∧
  (∀ (d : BitVec 6) (a : BitVec 3), OnGroup (.ballot d a) (W.ballot d a) (fun _ => { pr := [a.toNat], sw := [d.toNat], uniform := true, cross := true }) ((uniformEff fun c => c.g.setS d ((c.g.pred a &&& c.act).setWidth 32)))) ∧
  (∀ (d : BitVec 6) (a : BitVec 8), OnGroup (.lredAdd d a) (W.lredAdd d a) (fun s => { vr := [a.toNat], sw := [d.toNat], uniform := true, cross := true, rng := true, types := some [.s32, .n32, .f32], rounds := Red.add == .add && s.curTy == .f32 }) (fun c => ((lredEff Red.add d a) c).1)) ∧
  (∀ (d : BitVec 6) (a : BitVec 8), OnGroup (.lredMin d a) (W.lredMin d a) (fun s => { vr := [a.toNat], sw := [d.toNat], uniform := true, cross := true, rng := true, types := some [.s32, .n32, .f32], rounds := Red.min == .add && s.curTy == .f32 }) (fun c => ((lredEff Red.min d a) c).1)) ∧
  (∀ (d : BitVec 6) (a : BitVec 8), OnGroup (.lredMax d a) (W.lredMax d a) (fun s => { vr := [a.toNat], sw := [d.toNat], uniform := true, cross := true, rng := true, types := some [.s32, .n32, .f32], rounds := Red.max == .add && s.curTy == .f32 }) (fun c => ((lredEff Red.max d a) c).1)) ∧
  (∀ (d : BitVec 8), OnGroup (.lid d) (W.lid d) (fun _ => { vw := [d.toNat] }) (fun c => c.g.setV d c.act fun l => BitVec.ofNat 32 l.val)) ∧
  (∀ (d : BitVec 8) (c1 : BitVec 8), OnGroup (.rng d c1) (W.rng d c1) (fun _ => { vw := [d.toNat], rng := true }) (fun c => c.g.setV d c.act fun l => c.g.rng[l].part c1.toNat)) ∧
  (∀ (c1 : BitVec 8) (a : BitVec 8), OnGroup (.rngs c1 a) (W.rngs c1 a) (fun _ => { vr := [a.toNat], rng := true }) ((rngsEff c1.toNat a))) ∧
  (∀ (d : BitVec 8) (b : BitVec 8), OnGroup (.movReg d b) (W.movReg d b) (fun _ => (useV .n32 d [] (BOp.vec b))) (fun c => c.g.setV d c.act ((BOp.vec b).lane32 c.g))) ∧
  (∀ (d : BitVec 8) (b : BitVec 6), OnGroup (.movScb d b) (W.movScb d b) (fun _ => (useV .n32 d [] (BOp.sreg b))) (fun c => c.g.setV d c.act ((BOp.sreg b).lane32 c.g))) ∧
  (∀ (d : BitVec 8) (k : BitVec 32), OnGroup (.movLit d k) (W.movLit d k) (fun _ => (useV .n32 d [] (BOp.lit k))) (fun c => c.g.setV d c.act ((BOp.lit k).lane32 c.g))) ∧
  (∀ (d : BitVec 8) (a : BitVec 8) (k : BitVec 32), OnGroup (.bcast d a k) (W.bcast d a k) (fun _ => { useV .n32 d [a] (match (Exch.bcast k) with | .idxReg b => .vec b | _ => .lit 0) with ownPoison := true }) ((exchEff (Exch.bcast k) d a))) ∧
  (∀ (d : BitVec 8) (a : BitVec 8) (b : BitVec 8), OnGroup (.shflIdxReg d a b) (W.shflIdxReg d a b) (fun _ => { useV .n32 d [a] (match (Exch.idxReg b) with | .idxReg b => .vec b | _ => .lit 0) with ownPoison := true }) ((exchEff (Exch.idxReg b) d a))) ∧
  (∀ (d : BitVec 8) (a : BitVec 8) (k : BitVec 32), OnGroup (.shflIdxLit d a k) (W.shflIdxLit d a k) (fun _ => { useV .n32 d [a] (match (Exch.idx k) with | .idxReg b => .vec b | _ => .lit 0) with ownPoison := true }) ((exchEff (Exch.idx k) d a))) ∧
  (∀ (d : BitVec 8) (a : BitVec 8) (k : BitVec 32), OnGroup (.shflUp d a k) (W.shflUp d a k) (fun _ => { useV .n32 d [a] (match (Exch.up k) with | .idxReg b => .vec b | _ => .lit 0) with ownPoison := true }) ((exchEff (Exch.up k) d a))) ∧
  (∀ (d : BitVec 8) (a : BitVec 8) (k : BitVec 32), OnGroup (.shflDn d a k) (W.shflDn d a k) (fun _ => { useV .n32 d [a] (match (Exch.dn k) with | .idxReg b => .vec b | _ => .lit 0) with ownPoison := true }) ((exchEff (Exch.dn k) d a))) ∧
  (∀ (d : BitVec 8) (a : BitVec 8) (k : BitVec 32), OnGroup (.shflXor d a k) (W.shflXor d a k) (fun _ => { useV .n32 d [a] (match (Exch.xor k) with | .idxReg b => .vec b | _ => .lit 0) with ownPoison := true }) ((exchEff (Exch.xor k) d a))) ∧
  (∀ (d : BitVec 6) (a : BitVec 8) (b : BitVec 6), OnGroup (.rdlnScb d a b) (W.rdlnScb d a b) (fun _ => { vr := [a.toNat], sr := (SOp.sreg b).srs, sw := [d.toNat], uniform := true, ownPoison := true }) ((uniformEff (rdlnEff d a (SOp.sreg b))))) ∧
  (∀ (d : BitVec 6) (a : BitVec 8) (k : BitVec 32), OnGroup (.rdlnLit d a k) (W.rdlnLit d a k) (fun _ => { vr := [a.toNat], sr := (SOp.lit k).srs, sw := [d.toNat], uniform := true, ownPoison := true }) ((uniformEff (rdlnEff d a (SOp.lit k))))) ∧
  (∀ (d : BitVec 8) (a : BitVec 6) (b : BitVec 6), OnGroup (.wrlnScb d a b) (W.wrlnScb d a b) (fun _ => { sr := a.toNat :: (SOp.sreg b).srs, vw := [d.toNat], ownPoison := true }) ((wrlnEff d a (SOp.sreg b)))) ∧
  (∀ (d : BitVec 8) (a : BitVec 6) (k : BitVec 32), OnGroup (.wrlnLit d a k) (W.wrlnLit d a k) (fun _ => { sr := a.toNat :: (SOp.lit k).srs, vw := [d.toNat], ownPoison := true }) ((wrlnEff d a (SOp.lit k))))

/-- When the instruction issues, exec answers a next state in which the group has the registers and the path entries, MD among them, that its effect gives, and nothing outside the group differs; wrmd where the value has no reserved bit, else its own trap. (01 R20; 01 R22; 02 R39; 02 R40; 05 R98; 05 R128; 05 R129; 05 R130; 05 R131) -/
def Obligations.ScalarInstructions : Prop :=
  (∀ (d : BitVec 6), OnGroup (.rdmd d) (W.rdmd d) (fun _ => { sw := [d.toNat], guard := false }) (fun c => c.g.setS d c.md)) ∧
  (∀ (a : BitVec 6), OnGroupOr (.wrmd a) (W.wrmd a) (fun _ => { sr := [a.toNat], guard := false }) ((wrmdEff a))) ∧
  (∀ (a : BitVec 6), OwnTrap (.wrmd a) (W.wrmd a) (fun _ => { sr := [a.toNat], guard := false }) ((wrmdEff a))) ∧
  (∀ (d : BitVec 3) (a : BitVec 3) (b : BitVec 3), OnGroup (.pand d a b) (W.pand d a b) (fun _ => { pr := [a, b].map (·.toNat), pw := [d.toNat] }) (fun c => c.g.setPLanes d c.act ((fun g => g.pred a &&& g.pred b) c.g))) ∧
  (∀ (d : BitVec 3) (a : BitVec 3) (b : BitVec 3), OnGroup (.por d a b) (W.por d a b) (fun _ => { pr := [a, b].map (·.toNat), pw := [d.toNat] }) (fun c => c.g.setPLanes d c.act ((fun g => g.pred a ||| g.pred b) c.g))) ∧
  (∀ (d : BitVec 3) (a : BitVec 3) (b : BitVec 3), OnGroup (.pxor d a b) (W.pxor d a b) (fun _ => { pr := [a, b].map (·.toNat), pw := [d.toNat] }) (fun c => c.g.setPLanes d c.act ((fun g => g.pred a ^^^ g.pred b) c.g))) ∧
  (∀ (d : BitVec 3) (a : BitVec 3), OnGroup (.pnot d a) (W.pnot d a) (fun _ => { pr := [a].map (·.toNat), pw := [d.toNat] }) (fun c => c.g.setPLanes d c.act ((fun g => ~~~(g.pred a)) c.g))) ∧
  (∀ (d : BitVec 3) (a : BitVec 6), OnGroup (.pmov d a) (W.pmov d a) (fun _ => { sr := [a.toNat], pw := [d.toNat], uniform := true }) ((uniformEff fun c => c.g.setP d ((c.g.sreg a).setWidth 16)))) ∧
  (∀ (d : BitVec 6) (a : BitVec 6) (b : BitVec 6), OnGroup (.saddScb d a b) (W.saddScb d a b) (fun _ => { sr := a.toNat :: (SOp.sreg b).srs, sw := [d.toNat], uniform := true }) ((uniformEff fun c => c.g.setS d (scalarOp ScOp.add (c.g.sreg a) ((SOp.sreg b).val c.g))))) ∧
  (∀ (d : BitVec 6) (a : BitVec 6) (k : BitVec 32), OnGroup (.saddLit d a k) (W.saddLit d a k) (fun _ => { sr := a.toNat :: (SOp.lit k).srs, sw := [d.toNat], uniform := true }) ((uniformEff fun c => c.g.setS d (scalarOp ScOp.add (c.g.sreg a) ((SOp.lit k).val c.g))))) ∧
  (∀ (d : BitVec 6) (a : BitVec 6) (b : BitVec 6), OnGroup (.ssubScb d a b) (W.ssubScb d a b) (fun _ => { sr := a.toNat :: (SOp.sreg b).srs, sw := [d.toNat], uniform := true }) ((uniformEff fun c => c.g.setS d (scalarOp ScOp.sub (c.g.sreg a) ((SOp.sreg b).val c.g))))) ∧
  (∀ (d : BitVec 6) (a : BitVec 6) (k : BitVec 32), OnGroup (.ssubLit d a k) (W.ssubLit d a k) (fun _ => { sr := a.toNat :: (SOp.lit k).srs, sw := [d.toNat], uniform := true }) ((uniformEff fun c => c.g.setS d (scalarOp ScOp.sub (c.g.sreg a) ((SOp.lit k).val c.g))))) ∧
  (∀ (d : BitVec 6) (a : BitVec 6) (b : BitVec 6), OnGroup (.smulScb d a b) (W.smulScb d a b) (fun _ => { sr := a.toNat :: (SOp.sreg b).srs, sw := [d.toNat], uniform := true }) ((uniformEff fun c => c.g.setS d (scalarOp ScOp.mul (c.g.sreg a) ((SOp.sreg b).val c.g))))) ∧
  (∀ (d : BitVec 6) (a : BitVec 6) (k : BitVec 32), OnGroup (.smulLit d a k) (W.smulLit d a k) (fun _ => { sr := a.toNat :: (SOp.lit k).srs, sw := [d.toNat], uniform := true }) ((uniformEff fun c => c.g.setS d (scalarOp ScOp.mul (c.g.sreg a) ((SOp.lit k).val c.g))))) ∧
  (∀ (d : BitVec 6) (a : BitVec 6) (b : BitVec 6), OnGroup (.sandScb d a b) (W.sandScb d a b) (fun _ => { sr := a.toNat :: (SOp.sreg b).srs, sw := [d.toNat], uniform := true }) ((uniformEff fun c => c.g.setS d (scalarOp ScOp.and (c.g.sreg a) ((SOp.sreg b).val c.g))))) ∧
  (∀ (d : BitVec 6) (a : BitVec 6) (k : BitVec 32), OnGroup (.sandLit d a k) (W.sandLit d a k) (fun _ => { sr := a.toNat :: (SOp.lit k).srs, sw := [d.toNat], uniform := true }) ((uniformEff fun c => c.g.setS d (scalarOp ScOp.and (c.g.sreg a) ((SOp.lit k).val c.g))))) ∧
  (∀ (d : BitVec 6) (a : BitVec 6) (b : BitVec 6), OnGroup (.sorScb d a b) (W.sorScb d a b) (fun _ => { sr := a.toNat :: (SOp.sreg b).srs, sw := [d.toNat], uniform := true }) ((uniformEff fun c => c.g.setS d (scalarOp ScOp.or (c.g.sreg a) ((SOp.sreg b).val c.g))))) ∧
  (∀ (d : BitVec 6) (a : BitVec 6) (k : BitVec 32), OnGroup (.sorLit d a k) (W.sorLit d a k) (fun _ => { sr := a.toNat :: (SOp.lit k).srs, sw := [d.toNat], uniform := true }) ((uniformEff fun c => c.g.setS d (scalarOp ScOp.or (c.g.sreg a) ((SOp.lit k).val c.g))))) ∧
  (∀ (d : BitVec 6) (a : BitVec 6) (b : BitVec 6), OnGroup (.sxorScb d a b) (W.sxorScb d a b) (fun _ => { sr := a.toNat :: (SOp.sreg b).srs, sw := [d.toNat], uniform := true }) ((uniformEff fun c => c.g.setS d (scalarOp ScOp.xor (c.g.sreg a) ((SOp.sreg b).val c.g))))) ∧
  (∀ (d : BitVec 6) (a : BitVec 6) (k : BitVec 32), OnGroup (.sxorLit d a k) (W.sxorLit d a k) (fun _ => { sr := a.toNat :: (SOp.lit k).srs, sw := [d.toNat], uniform := true }) ((uniformEff fun c => c.g.setS d (scalarOp ScOp.xor (c.g.sreg a) ((SOp.lit k).val c.g))))) ∧
  (∀ (d : BitVec 6) (a : BitVec 6) (b : BitVec 6), OnGroup (.sshlScb d a b) (W.sshlScb d a b) (fun _ => { sr := a.toNat :: (SOp.sreg b).srs, sw := [d.toNat], uniform := true }) ((uniformEff fun c => c.g.setS d (scalarOp ScOp.shl (c.g.sreg a) ((SOp.sreg b).val c.g))))) ∧
  (∀ (d : BitVec 6) (a : BitVec 6) (k : BitVec 32), OnGroup (.sshlLit d a k) (W.sshlLit d a k) (fun _ => { sr := a.toNat :: (SOp.lit k).srs, sw := [d.toNat], uniform := true }) ((uniformEff fun c => c.g.setS d (scalarOp ScOp.shl (c.g.sreg a) ((SOp.lit k).val c.g))))) ∧
  (∀ (d : BitVec 6) (a : BitVec 6) (b : BitVec 6), OnGroup (.sshrScb d a b) (W.sshrScb d a b) (fun _ => { sr := a.toNat :: (SOp.sreg b).srs, sw := [d.toNat], uniform := true }) ((uniformEff fun c => c.g.setS d (scalarOp ScOp.shr (c.g.sreg a) ((SOp.sreg b).val c.g))))) ∧
  (∀ (d : BitVec 6) (a : BitVec 6) (k : BitVec 32), OnGroup (.sshrLit d a k) (W.sshrLit d a k) (fun _ => { sr := a.toNat :: (SOp.lit k).srs, sw := [d.toNat], uniform := true }) ((uniformEff fun c => c.g.setS d (scalarOp ScOp.shr (c.g.sreg a) ((SOp.lit k).val c.g))))) ∧
  (∀ (d : BitVec 6) (a : BitVec 6) (b : BitVec 6), OnGroup (.ssraScb d a b) (W.ssraScb d a b) (fun _ => { sr := a.toNat :: (SOp.sreg b).srs, sw := [d.toNat], uniform := true }) ((uniformEff fun c => c.g.setS d (scalarOp ScOp.sra (c.g.sreg a) ((SOp.sreg b).val c.g))))) ∧
  (∀ (d : BitVec 6) (a : BitVec 6) (k : BitVec 32), OnGroup (.ssraLit d a k) (W.ssraLit d a k) (fun _ => { sr := a.toNat :: (SOp.lit k).srs, sw := [d.toNat], uniform := true }) ((uniformEff fun c => c.g.setS d (scalarOp ScOp.sra (c.g.sreg a) ((SOp.lit k).val c.g))))) ∧
  (∀ (d : BitVec 6) (a : BitVec 6) (b : BitVec 6), OnGroup (.sminScb d a b) (W.sminScb d a b) (fun _ => { sr := a.toNat :: (SOp.sreg b).srs, sw := [d.toNat], uniform := true }) ((uniformEff fun c => c.g.setS d (scalarOp ScOp.min (c.g.sreg a) ((SOp.sreg b).val c.g))))) ∧
  (∀ (d : BitVec 6) (a : BitVec 6) (k : BitVec 32), OnGroup (.sminLit d a k) (W.sminLit d a k) (fun _ => { sr := a.toNat :: (SOp.lit k).srs, sw := [d.toNat], uniform := true }) ((uniformEff fun c => c.g.setS d (scalarOp ScOp.min (c.g.sreg a) ((SOp.lit k).val c.g))))) ∧
  (∀ (d : BitVec 6) (a : BitVec 6) (b : BitVec 6), OnGroup (.smaxScb d a b) (W.smaxScb d a b) (fun _ => { sr := a.toNat :: (SOp.sreg b).srs, sw := [d.toNat], uniform := true }) ((uniformEff fun c => c.g.setS d (scalarOp ScOp.max (c.g.sreg a) ((SOp.sreg b).val c.g))))) ∧
  (∀ (d : BitVec 6) (a : BitVec 6) (k : BitVec 32), OnGroup (.smaxLit d a k) (W.smaxLit d a k) (fun _ => { sr := a.toNat :: (SOp.lit k).srs, sw := [d.toNat], uniform := true }) ((uniformEff fun c => c.g.setS d (scalarOp ScOp.max (c.g.sreg a) ((SOp.lit k).val c.g))))) ∧
  (∀ (g : BitVec 1) (t : BitVec 1) (r : BitVec 1) (s1 : BitVec 1) (f : BitVec 1) (p : BitVec 3) (e : BitVec 1) (v : BitVec 1) (y : BitVec 4) (n : BitVec 3) (u : BitVec 1) (z : BitVec 1), OnGroup (.modeArith g t r s1 f p e v y n u z) (W.modeArith g t r s1 f p e v y n u z) (fun _ => { guard := false }) ((setMdEff fun c => (modeArithMd g t r s1 f p e v y n u z) c.md))) ∧
  (∀ (b : BitVec 8), OnGroup (.modeBuf b) (W.modeBuf b) (fun _ => { guard := false }) ((setMdEff fun c => (modeBufMd b) c.md))) ∧
  (∀ (d : BitVec 3) (a : BitVec 6) (b : BitVec 6), OnGroup (.scmpEqScb d a b) (W.scmpEqScb d a b) (fun _ => { sr := a.toNat :: (SOp.sreg b).srs, pw := [d.toNat], uniform := true }) ((uniformEff fun c => c.g.setP d (if (if false then (c.g.sreg a).slt ((SOp.sreg b).val c.g) else c.g.sreg a == (SOp.sreg b).val c.g) then 0xFFFF else 0)))) ∧
  (∀ (d : BitVec 3) (a : BitVec 6) (k : BitVec 32), OnGroup (.scmpEqLit d a k) (W.scmpEqLit d a k) (fun _ => { sr := a.toNat :: (SOp.lit k).srs, pw := [d.toNat], uniform := true }) ((uniformEff fun c => c.g.setP d (if (if false then (c.g.sreg a).slt ((SOp.lit k).val c.g) else c.g.sreg a == (SOp.lit k).val c.g) then 0xFFFF else 0)))) ∧
  (∀ (d : BitVec 3) (a : BitVec 6) (b : BitVec 6), OnGroup (.scmpLtScb d a b) (W.scmpLtScb d a b) (fun _ => { sr := a.toNat :: (SOp.sreg b).srs, pw := [d.toNat], uniform := true }) ((uniformEff fun c => c.g.setP d (if (if true then (c.g.sreg a).slt ((SOp.sreg b).val c.g) else c.g.sreg a == (SOp.sreg b).val c.g) then 0xFFFF else 0)))) ∧
  (∀ (d : BitVec 3) (a : BitVec 6) (k : BitVec 32), OnGroup (.scmpLtLit d a k) (W.scmpLtLit d a k) (fun _ => { sr := a.toNat :: (SOp.lit k).srs, pw := [d.toNat], uniform := true }) ((uniformEff fun c => c.g.setP d (if (if true then (c.g.sreg a).slt ((SOp.lit k).val c.g) else c.g.sreg a == (SOp.lit k).val c.g) then 0xFFFF else 0)))) ∧
  (∀ (d : BitVec 6) (b : BitVec 6), OnGroup (.smov d b) (W.smov d b) (fun _ => { ({ sr := [b.toNat] } : Use) with sw := [d.toNat], uniform := true }) ((uniformEff fun c => c.g.setS d ((fun g => g.sreg b) c.g)))) ∧
  (∀ (d : BitVec 6) (b : BitVec 4), OnGroup (.smovAlo d b) (W.smovAlo d b) (fun _ => { ({ ar := [b.toNat] } : Use) with sw := [d.toNat], uniform := true }) ((uniformEff fun c => c.g.setS d ((fun g => (g.areg b).setWidth 32) c.g)))) ∧
  (∀ (d : BitVec 6) (b : BitVec 4), OnGroup (.smovAhi d b) (W.smovAhi d b) (fun _ => { ({ ar := [b.toNat] } : Use) with sw := [d.toNat], uniform := true }) ((uniformEff fun c => c.g.setS d ((fun g => (g.areg b).extractLsb' 32 32) c.g)))) ∧
  (∀ (d : BitVec 6) (k : BitVec 32), OnGroup (.sli d k) (W.sli d k) (fun _ => { ({} : Use) with sw := [d.toNat], uniform := true }) ((uniformEff fun c => c.g.setS d ((fun _ => k) c.g)))) ∧
  (∀ (d : BitVec 4) (a : BitVec 4) (b : BitVec 6), OnGroup (.aaddScb d a b) (W.aaddScb d a b) (fun _ => { ar := [a.toNat], sr := (SOp.sreg b).srs, aw := [d.toNat], uniform := true }) ((uniformEff fun c => c.g.setA d (c.g.areg a + sx64 ((SOp.sreg b).val c.g))))) ∧
  (∀ (d : BitVec 4) (a : BitVec 4) (k : BitVec 32), OnGroup (.aaddLit d a k) (W.aaddLit d a k) (fun _ => { ar := [a.toNat], sr := (SOp.lit k).srs, aw := [d.toNat], uniform := true }) ((uniformEff fun c => c.g.setA d (c.g.areg a + sx64 ((SOp.lit k).val c.g))))) ∧
  (∀ (d : BitVec 4) (a : BitVec 6) (b : BitVec 6), OnGroup (.amov d a b) (W.amov d a b) (fun _ => { sr := [a.toNat, b.toNat], aw := [d.toNat], uniform := true }) ((uniformEff fun c => c.g.setA d (c.g.sreg b ++ c.g.sreg a))))

/-- When the instruction issues and its own check passes, exec answers a next state in which the group has the path entries (PC, mask, level, MD, record and wait of each, and the records) and registers that its effect gives and nothing outside the group differs; when its own check fails it takes that trap, which is the whole effect of brk. (06 R146; 06 R147; 06 R148; 06 R149; 06 R150; 06 R151; 06 R152; 06 R153; 06 R155; 06 R157; 06 R162) -/
def Obligations.ControlInstructions : Prop :=
  (OnGroup .nop W.nop (fun _ => { guard := false }) (fun c => c.g)) ∧
  (OnGroupOr .exit W.exit (fun _ => { ({ sink := true } : Use) with ctl := true }) ((fun c => Except.ok (exitEff c)))) ∧
  (OnGroup .yield W.yield (fun _ => { guard := false, yields := true }) (fun c => c.g)) ∧
  (OwnTrap .brk W.brk (fun _ => { ({ guard := false } : Use) with ctl := true }) ((fun c => Except.error { cause := 0x11, val := 0, lanes := c.live }))) ∧
  (OnGroupOr .merge W.merge (fun _ => { ({ guard := false, stop := true } : Use) with ctl := true }) (mergeEff)) ∧
  (OwnTrap .merge W.merge (fun _ => { ({ guard := false, stop := true } : Use) with ctl := true }) (mergeEff)) ∧
  (OnGroupOr .ret W.ret (fun _ => { ({ guard := false, ends := true } : Use) with ctl := true }) (retEff)) ∧
  (OwnTrap .ret W.ret (fun _ => { ({ guard := false, ends := true } : Use) with ctl := true }) (retEff)) ∧
  (OnGroupOr .lbrkLc0 W.lbrkLc0 (fun _ => { ({} : Use) with ctl := true }) ((lbrkEff false))) ∧
  (OwnTrap .lbrkLc0 W.lbrkLc0 (fun _ => { ({} : Use) with ctl := true }) ((lbrkEff false))) ∧
  (OnGroupOr .lbrkLc1 W.lbrkLc1 (fun _ => { ({} : Use) with ctl := true }) ((lbrkEff true))) ∧
  (OwnTrap .lbrkLc1 W.lbrkLc1 (fun _ => { ({} : Use) with ctl := true }) ((lbrkEff true))) ∧
  (OnGroupOr .tret W.tret (fun _ => { ({ guard := false, sup := true, sink := true } : Use) with ctl := true }) (tretEff)) ∧
  (OwnTrap .tret W.tret (fun _ => { ({ guard := false, sup := true, sink := true } : Use) with ctl := true }) (tretEff)) ∧
  (∀ (k : BitVec 32), OnGroupOr (.trap k) (W.trap k) (fun _ => { ({} : Use) with ctl := true }) ((trapEff k))) ∧
  (∀ (k : BitVec 32), OwnTrap (.trap k) (W.trap k) (fun _ => { ({} : Use) with ctl := true }) ((trapEff k))) ∧
  (∀ (o : BitVec 24), OnGroupOr (.br o) (W.br o) (fun _ => { ({} : Use) with ctl := true }) ((brEff o))) ∧
  (∀ (o : BitVec 24), OwnTrap (.br o) (W.br o) (fun _ => { ({} : Use) with ctl := true }) ((brEff o))) ∧
  (∀ (o : BitVec 24), OnGroupOr (.jmp o) (W.jmp o) (fun _ => { ({ guard := false } : Use) with ctl := true }) ((fun c => Except.ok (c.goto (jumpTarget c.pc o))))) ∧
  (∀ (o : BitVec 24), OnGroupOr (.call o) (W.call o) (fun _ => { ({ ends := true } : Use) with ctl := true }) ((callEff o))) ∧
  (∀ (o : BitVec 24), OwnTrap (.call o) (W.call o) (fun _ => { ({ ends := true } : Use) with ctl := true }) ((callEff o))) ∧
  (∀ (o : BitVec 24), OnGroupOr (.split o) (W.split o) (fun _ => { ({ ends := true } : Use) with ctl := true }) ((fun c => divideEff (jumpTarget c.pc o) c))) ∧
  (∀ (o : BitVec 24), OwnTrap (.split o) (W.split o) (fun _ => { ({ ends := true } : Use) with ctl := true }) ((fun c => divideEff (jumpTarget c.pc o) c))) ∧
  (∀ (o : BitVec 24), OnGroupOr (.loopLc0 o) (W.loopLc0 o) (fun _ => { ({ guard := false } : Use) with ctl := true }) ((loopEff false o))) ∧
  (∀ (o : BitVec 24), OwnTrap (.loopLc0 o) (W.loopLc0 o) (fun _ => { ({ guard := false } : Use) with ctl := true }) ((loopEff false o))) ∧
  (∀ (o : BitVec 24), OnGroupOr (.loopLc1 o) (W.loopLc1 o) (fun _ => { ({ guard := false } : Use) with ctl := true }) ((loopEff true o))) ∧
  (∀ (o : BitVec 24), OwnTrap (.loopLc1 o) (W.loopLc1 o) (fun _ => { ({ guard := false } : Use) with ctl := true }) ((loopEff true o)))

/-- When the instruction issues, a Reticle instruction at supervisor level, and its effect answers a state, exec answers the next state that this gives with the issue done. (03 R67; 16 R383; 16 R401; 16 R402; 16 R403; 18 R421; 18 R422; 19 R449; 19 R450; 19 R455; 19 R456) -/
def Obligations.SystemInstructions : Prop :=
  (∀ (a : BitVec 6), OnState (.ecall a) (W.ecall a) (fun _ => { sr := [a.toNat], sink := true }) (ecallEff a)) ∧
  (∀ (a : BitVec 6), OnGroup (.sleep a) (W.sleep a) (fun _ => { sr := [a.toNat], guard := false, sup := true, sink := true }) ((sleepEff a))) ∧
  (∀ (a : BitVec 4), OnGroup (.tlbiVa a) (W.tlbiVa a) (fun _ => { ar := [a].map (·.toNat), guard := false, sup := true, sink := true }) ((tlbiEff 0 fun c => ([a].map fun a => (c.g.areg a).toNat).headD 0))) ∧
  (OnGroup .tlbiCtx W.tlbiCtx (fun _ => { ar := ([] : List (BitVec 4)).map (·.toNat), guard := false, sup := true, sink := true }) ((tlbiEff 1 fun c => (([] : List (BitVec 4)).map fun a => (c.g.areg a).toNat).headD 0))) ∧
  (OnGroup .tlbiAll W.tlbiAll (fun _ => { ar := ([] : List (BitVec 4)).map (·.toNat), guard := false, sup := true, sink := true }) ((tlbiEff 2 fun c => (([] : List (BitVec 4)).map fun a => (c.g.areg a).toNat).headD 0))) ∧
  (∀ (d : BitVec 4), OnGroup (.rdtm d) (W.rdtm d) (fun _ => { aw := [d.toNat], uniform := true }) ((rdtmEff d))) ∧
  (∀ (a : BitVec 4), OnGroup (.wtm a) (W.wtm a) (fun _ => { ar := [a.toNat], guard := false, stop := true }) ((wtmEff a))) ∧
  (∀ (d : BitVec 6) (k : BitVec 32), OnState (.csrr d k) (W.csrr d k) (fun _ => { sw := [d.toNat], uniform := true }) (csrrEff d k)) ∧
  (∀ (a : BitVec 6) (k : BitVec 32), OnState (.csrw a k) (W.csrw a k) (fun _ => { sr := [a.toNat], uniform := true, sink := true }) (csrwEff a k)) ∧
  (∀ (a : BitVec 6), OnState (.xmaskWrite a) (W.csrw a 0x102) (fun _ => { sr := [a.toNat], uniform := true, sink := true }) (csrwEff a 0x102)) ∧
  (∀ (hi : Bool) (a : BitVec 6), OnState (.almapWrite hi a) (W.csrw a (if hi then 0x1140 else 0x140)) (fun _ => { sr := [a.toNat], uniform := true, sink := true }) (csrwEff a (if hi then 0x1140 else 0x140))) ∧
  (∀ (a : BitVec 6), OnState (.trctlReset a) (W.csrw a 0x161) (fun _ => { sr := [a.toNat], uniform := true, sink := true }) (csrwEff a 0x161)) ∧
  (∀ (d : BitVec 6) (a : BitVec 4), OnState (.hstep d a) (W.hstep d a) (fun _ => { sr := [d.toNat], ar := [a.toNat], pw := [7], sup := true, uniform := true, sink := true }) (hstepEff d a)) ∧
  (∀ (d : BitVec 6) (a : BitVec 4), OnState (.hres d a) (W.hres d a) (fun _ => { sr := [d.toNat], ar := [a.toNat], pw := [7], sup := true, uniform := true, sink := true }) (hresEff d a)) ∧
  (∀ (d : BitVec 3) (a : BitVec 6) (b : BitVec 4), OnState (.wpw d a b) (W.wpw d a b) (fun _ => { sr := a.toNat :: (List.range 4).map (4 * b.toNat + ·), pw := [d.toNat], sup := true, uniform := true, sink := true }) (wpwEff d a b)) ∧
  (∀ (d : BitVec 6) (a : BitVec 6), OnState (.wpr d a) (W.wpr d a) (fun _ => { sr := [a.toNat], sw := [d.toNat], sup := true, uniform := true }) (wprEff d a)) ∧
  (∀ (d : BitVec 6) (a : BitVec 4) (b : BitVec 6), OnState (.hrd d a b) (W.hrd d a b) (fun _ => { sr := [b.toNat], ar := [a.toNat], sw := [d.toNat], pw := [7], sup := true, uniform := true }) (hrdEff d a b)) ∧
  (∀ (d : BitVec 6) (a : BitVec 4) (b : BitVec 6), OnState (.hwr d a b) (W.hwr d a b) (fun _ => { sr := [b.toNat, d.toNat], ar := [a.toNat], pw := [7], sup := true, uniform := true, sink := true }) (hwrEff d a b))

/-- When the instruction issues and its effect answers a state, in which the operation is in flight, exec answers the next state that this gives with the issue done. (07 R175; 07 R178; 07 R184; 07 R186; 07 R187; 07 R188; 07 R189; 08 R214; 09 R234; 09 R248) -/
def Obligations.MemoryInstructions : Prop :=
  (∀ (a : BitVec 6) (c1 : BitVec 3), OnGroup (.wret a c1) (W.wret a c1) (fun _ => { sr := [a.toNat], guard := false, stop := true }) ((wretEff a c1.toNat))) ∧
  (∀ (d : BitVec 8) (a : BitVec 4) (b : BitVec 8), OnState (.ldReg d a b) (W.ldReg d a b) (fun s => (useLoad s.curTy d a (MOff.vec b))) (loadEff LoadHow.l1 d a (MOff.vec b))) ∧
  (∀ (d : BitVec 8) (a : BitVec 4) (b : BitVec 6), OnState (.ldScb d a b) (W.ldScb d a b) (fun s => (useLoad s.curTy d a (MOff.sreg b))) (loadEff LoadHow.l1 d a (MOff.sreg b))) ∧
  (∀ (d : BitVec 8) (a : BitVec 4) (k : BitVec 32), OnState (.ldLit d a k) (W.ldLit d a k) (fun s => (useLoad s.curTy d a (MOff.lit k))) (loadEff LoadHow.l1 d a (MOff.lit k))) ∧
  (∀ (d : BitVec 8) (a : BitVec 4) (b : BitVec 8), OnState (.stReg d a b) (W.stReg d a b) (fun s => { ((MOff.vec b).use a) with vr := ((MOff.vec b).use a).vr ++ vnums (s.curTy) d, pairs := evens (s.curTy) [d], cls := some 1, types := some memTypes, sink := false }) (storeEff false d a (MOff.vec b))) ∧
  (∀ (d : BitVec 8) (a : BitVec 4) (b : BitVec 6), OnState (.stScb d a b) (W.stScb d a b) (fun s => { ((MOff.sreg b).use a) with vr := ((MOff.sreg b).use a).vr ++ vnums (s.curTy) d, pairs := evens (s.curTy) [d], cls := some 1, types := some memTypes, sink := false }) (storeEff false d a (MOff.sreg b))) ∧
  (∀ (d : BitVec 8) (a : BitVec 4) (k : BitVec 32), OnState (.stLit d a k) (W.stLit d a k) (fun s => { ((MOff.lit k).use a) with vr := ((MOff.lit k).use a).vr ++ vnums (s.curTy) d, pairs := evens (s.curTy) [d], cls := some 1, types := some memTypes, sink := false }) (storeEff false d a (MOff.lit k))) ∧
  (∀ (d : BitVec 8) (a : BitVec 4) (b : BitVec 8), OnState (.ldsReg d a b) (W.ldsReg d a b) (fun _ => { (MOff.vec b).use a with later := { v := [d.toNat] }, cls := some 0, ownPoison := true }) (ldsEff d a (MOff.vec b))) ∧
  (∀ (d : BitVec 8) (a : BitVec 4) (k : BitVec 32), OnState (.ldsLit d a k) (W.ldsLit d a k) (fun _ => { (MOff.lit k).use a with later := { v := [d.toNat] }, cls := some 0, ownPoison := true }) (ldsEff d a (MOff.lit k))) ∧
  (∀ (d : BitVec 8) (a : BitVec 4) (b : BitVec 8), OnState (.stsReg d a b) (W.stsReg d a b) (fun _ => { ((MOff.vec b).use a) with vr := d.toNat :: ((MOff.vec b).use a).vr, cls := some 1 }) (stsEff d a (MOff.vec b))) ∧
  (∀ (d : BitVec 8) (a : BitVec 4) (k : BitVec 32), OnState (.stsLit d a k) (W.stsLit d a k) (fun _ => { ((MOff.lit k).use a) with vr := d.toNat :: ((MOff.lit k).use a).vr, cls := some 1 }) (stsEff d a (MOff.lit k))) ∧
  (∀ (d : BitVec 8) (a : BitVec 4) (b : BitVec 8), OnState (.ldcReg d a b) (W.ldcReg d a b) (fun s => (useLoad s.curTy d a (MOff.vec b))) (loadEff LoadHow.home d a (MOff.vec b))) ∧
  (∀ (d : BitVec 8) (a : BitVec 4) (k : BitVec 32), OnState (.ldcLit d a k) (W.ldcLit d a k) (fun s => (useLoad s.curTy d a (MOff.lit k))) (loadEff LoadHow.home d a (MOff.lit k))) ∧
  (∀ (d : BitVec 8) (a : BitVec 4) (b : BitVec 8), OnState (.ldaReg d a b) (W.ldaReg d a b) (fun s => (useLoad s.curTy d a (MOff.vec b))) (loadEff LoadHow.acq d a (MOff.vec b))) ∧
  (∀ (d : BitVec 8) (a : BitVec 4) (k : BitVec 32), OnState (.ldaLit d a k) (W.ldaLit d a k) (fun s => (useLoad s.curTy d a (MOff.lit k))) (loadEff LoadHow.acq d a (MOff.lit k))) ∧
  (∀ (d : BitVec 8) (a : BitVec 4) (b : BitVec 8), OnState (.strReg d a b) (W.strReg d a b) (fun s => { ((MOff.vec b).use a) with vr := ((MOff.vec b).use a).vr ++ vnums (s.curTy) d, pairs := evens (s.curTy) [d], cls := some 1, types := some memTypes, sink := true }) (storeEff true d a (MOff.vec b))) ∧
  (∀ (d : BitVec 8) (a : BitVec 4) (k : BitVec 32), OnState (.strLit d a k) (W.strLit d a k) (fun s => { ((MOff.lit k).use a) with vr := ((MOff.lit k).use a).vr ++ vnums (s.curTy) d, pairs := evens (s.curTy) [d], cls := some 1, types := some memTypes, sink := true }) (storeEff true d a (MOff.lit k))) ∧
  (∀ (a : BitVec 4) (b : BitVec 8), OnState (.prefReg a b) (W.prefReg a b) (fun _ => { (MOff.vec b).use a with types := some memTypes, ownPoison := true }) (prefEff a (MOff.vec b))) ∧
  (∀ (a : BitVec 4) (k : BitVec 32), OnState (.prefLit a k) (W.prefLit a k) (fun _ => { (MOff.lit k).use a with types := some memTypes, ownPoison := true }) (prefEff a (MOff.lit k))) ∧
  (∀ (k : BitVec 32), OnState (.grow k) (W.grow k) (fun _ => { uniform := true, stop := true }) (growEff k)) ∧
  (∀ (d : BitVec 3) (k : BitVec 32), OnState (.growTry d k) (W.growTry d k) (fun _ => { pw := [d.toNat], uniform := true }) (growTryEff d k)) ∧
  (∀ (k : BitVec 32), OnState (.shrink k) (W.shrink k) (fun _ => { uniform := true }) (shrinkEff k)) ∧
  (∀ (d : BitVec 8) (a : BitVec 4) (b : BitVec 8), OnState (.ldbReg d a b) (W.ldbReg d a b) (fun s => { (useLoad s.curTy d a (MOff.vec b)) with sr := 63 :: (useLoad s.curTy d a (MOff.vec b)).sr, ext := some 2, later := { (useLoad s.curTy d a (MOff.vec b)).later with p := [7] } }) (fun c s => loadEff (boundOf c.g) d a (MOff.vec b) c s)) ∧
  (∀ (d : BitVec 8) (a : BitVec 4) (k : BitVec 32), OnState (.ldbLit d a k) (W.ldbLit d a k) (fun s => { (useLoad s.curTy d a (MOff.lit k)) with sr := 63 :: (useLoad s.curTy d a (MOff.lit k)).sr, ext := some 2, later := { (useLoad s.curTy d a (MOff.lit k)).later with p := [7] } }) (fun c s => loadEff (boundOf c.g) d a (MOff.lit k) c s))

/-- When the instruction issues and its effect answers a state, exec answers the next state that this gives with the issue done. (08 R208; 09 R229; 09 R236; 09 R242; 09 R243; 09 R245; 09 R249; 09 R250; 15 R373) -/
def Obligations.SyncInstructions : Prop :=
  (∀ (d : BitVec 6) (a : BitVec 4), OnState (.cwait d a) (W.cwait d a) (fun _ => { ar := [a.toNat], later := replyRegs (some d.toNat), uniform := true, sink := true }) (mwaitEff (some d) 1 a fun _ => 0)) ∧
  (OnGroup .bar W.bar (fun _ => { guard := false, sink := true }) (fun c => c.hold (.bar none))) ∧
  (∀ (a : BitVec 6), OnState (.barw a) (W.barw a) (fun _ => { sr := [a.toNat], guard := false, stop := true }) (barwEff a)) ∧
  (OnState .gbar W.gbar (fun _ => { guard := false, sink := true }) (fun c s => .ok (gbarEff c s) [])) ∧
  (∀ (s1 : BitVec 3), OnState (.fenceAcq s1) (W.fenceAcq s1) (fun _ => { guard := false }) (fun c s => .ok (fenceAcqEff s1.toNat c s) [])) ∧
  (∀ (s1 : BitVec 3), OnGroup (.fenceRel s1) (W.fenceRel s1) (fun _ => { guard := false, sink := true }) (fun c => c.release s1.toNat .done)) ∧
  (∀ (s1 : BitVec 3), OnGroup (.fenceAr s1) (W.fenceAr s1) (fun _ => { guard := false, sink := true }) (fun c => c.release s1.toNat (.acquire s1.toNat))) ∧
  (∀ (d : BitVec 8) (a : BitVec 4) (o : BitVec 4), OnState (.atom d a o) (W.atom d a o) (fun s => (useAtom s.curTy o.toNat false true d.toNat a ((d.toNat + ·) (runLen s.curTy)))) (atomEff o.toNat false true d.toNat a (d.toNat + ·))) ∧
  (∀ (d : BitVec 8) (a : BitVec 4) (o : BitVec 4), OnState (.red d a o) (W.red d a o) (fun s => (useAtom s.curTy o.toNat false false d.toNat a ((d.toNat + ·) (runLen s.curTy)))) (atomEff o.toNat false false d.toNat a (d.toNat + ·))) ∧
  (∀ (d : BitVec 8) (a : BitVec 4) (b : BitVec 8), OnState (.cas d a b) (W.cas d a b) (fun s => (useAtom s.curTy 0 true true d.toNat a ((fun _ => b.toNat) (runLen s.curTy)))) (atomEff 0 true true d.toNat a (fun _ => b.toNat))) ∧
  (∀ (d : BitVec 6) (a : BitVec 6) (b : BitVec 6), OnState (.barv d a b) (W.barv d a b) (fun _ => { sr := [a.toNat, b.toNat], sw := [d.toNat], uniform := true, sink := true }) (fun c s => .ok (s.setGroup c.gid (barvEff d a b c s)) [])) ∧
  (∀ (c1 : BitVec 3) (a : BitVec 4) (b : BitVec 6), OnState (.mwait c1 a b) (W.mwait c1 a b) (fun _ => { ar := [a.toNat], sr := [b.toNat], later := replyRegs none, uniform := true, sink := true }) (mwaitEff none c1.toNat a fun g => g.sreg b)) ∧
  (∀ (s1 : BitVec 3) (a : BitVec 4), OnGroup (.radv s1 a) (W.radv s1 a) (fun _ => { ar := [a.toNat], ext := some 2, uniform := true, sink := true }) ((radvEff s1.toNat a))) ∧
  (∀ (d : BitVec 4) (a : BitVec 4), OnState (.rrd d a) (W.rrd d a) (fun _ => (useRrd d a)) (fun c s => .ok (rrdEff false d a c s) [])) ∧
  (∀ (d : BitVec 4) (a : BitVec 4), OnState (.rrdObs d a) (W.rrdObs d a) (fun _ => (useRrd d a)) (fun c s => .ok (rrdEff true d a c s) []))

/-- When the instruction issues and its effect answers a state, in which the copy or the entry is in flight, exec answers the next state that this gives with the issue done. (07 R190; 07 R191; 07 R192; 07 R193; 10 R259; 10 R264; 10 R266; 10 R268; 10 R269; 10 R270; 10 R272; 11 R302) -/
def Obligations.CopyAndMatrixInstructions : Prop :=
  (∀ (d : BitVec 4) (a : BitVec 4) (b : BitVec 5), OnState (.cp d a b) (W.cp d a b) (fun _ => (useCopy [d.toNat, a.toNat] [] (2 * b.toNat) 2 none)) (fun c s => copyEff c s 0 { form := 0, n := 0, dst := (c.g.areg d).toNat, src := (c.g.areg a).toNat, sp := (c.g.sAt ((2 * b.toNat) + 2)).toInt, dp := (c.g.sAt ((2 * b.toNat) + 3)).toInt } (c.g.sAt (2 * b.toNat)) (c.g.sAt ((2 * b.toNat) + 1)))) ∧
  (∀ (d : BitVec 4) (a : BitVec 4) (b : BitVec 4), OnState (.cp2d d a b) (W.cp2d d a b) (fun _ => (useCopy [d.toNat, a.toNat] [] (4 * b.toNat) 4 none)) (fun c s => copyEff c s 2 { form := 2, n := 0, dst := (c.g.areg d).toNat, src := (c.g.areg a).toNat, sp := (c.g.sAt ((4 * b.toNat) + 2)).toInt, dp := (c.g.sAt ((4 * b.toNat) + 3)).toInt } (c.g.sAt (4 * b.toNat)) (c.g.sAt ((4 * b.toNat) + 1)))) ∧
  (∀ (d : BitVec 4) (a : BitVec 6) (b : BitVec 5), OnState (.cpr d a b) (W.cpr d a b) (fun _ => (useCopy [d.toNat] [a.toNat] (2 * b.toNat) 2 none)) (fun c s => let w := c.g.sAt ((2 * b.toNat) + 1); let m := (c.g.areg d).toNat; let k := (c.g.sreg a).toNat; copyEff c s 3 { form := 3, n := 0, dst := if w.getLsbD 12 then m else k, src := if w.getLsbD 12 then k else m } (c.g.sAt (2 * b.toNat)) w)) ∧
  (∀ (d : BitVec 4) (a : BitVec 4) (b : BitVec 5), OnState (.cpdec d a b) (W.cpdec d a b) (fun _ => (useCopy [d.toNat, a.toNat] [] (2 * b.toNat) 2 (some 1))) (fun c s => copyEff c s 4 { form := 4, n := 0, dst := (c.g.areg d).toNat, src := (c.g.areg a).toNat, sp := (c.g.sAt ((2 * b.toNat) + 2)).toInt, dp := (c.g.sAt ((2 * b.toNat) + 3)).toInt } (c.g.sAt (2 * b.toNat)) (c.g.sAt ((2 * b.toNat) + 1)))) ∧
  (∀ (d : BitVec 8) (a : BitVec 8) (b : BitVec 8), OnState (.mma d a b) (W.mma d a b) (fun s => (useMma s false d a b)) (mmaEff false d a b)) ∧
  (∀ (d : BitVec 8) (a : BitVec 8) (b : BitVec 8), OnState (.mmakb d a b) (W.mmakb d a b) (fun s => (useMma s false d a b)) (mmaEff false d a b)) ∧
  (∀ (d : BitVec 8), OnState (.accq d) (W.accq d) (fun s => (useTile s d)) (accqEff d)) ∧
  (∀ (d : BitVec 8), OnState (.accr d) (W.accr d) (fun s => (useTile s d)) (accrEff d)) ∧
  (∀ (d : BitVec 8) (a : BitVec 8), OnState (.accld d a) (W.accld d a) (fun s => (useMove s false a d)) (accldEff d a)) ∧
  (∀ (d : BitVec 8) (a : BitVec 8), OnState (.accst d a) (W.accst d a) (fun s => (useMove s true d a)) (accstEff d a)) ∧
  (∀ (d : BitVec 8), OnState (.acczr d) (W.acczr d) (fun s => (useTile s d)) (acczrEff d)) ∧
  (∀ (a : BitVec 6), OnGroup (.mprio a) (W.mprio a) (fun _ => { sr := [a.toNat], uniform := true }) ((mprioEff a))) ∧
  (∀ (d : BitVec 8) (a : BitVec 8) (b : BitVec 8), OnState (.xmma d a b) (W.xmma d a b) (fun s => (useMma s true d a b)) (mmaEff true d a b))

/-- When the instruction issues and its effect answers a state, exec answers the next state that this gives with the issue done. (11 R280; 11 R293; 11 R300; 11 R301; 12 R317; 12 R318; 12 R319; 17 R415) -/
def Obligations.TextureAndRayInstructions : Prop :=
  (∀ (d : BitVec 3) (a : BitVec 4), OnState (.wcpin d a) (W.wcpin d a) (fun _ => { ar := [a.toNat], later := { p := [d.toNat] }, cls := some 3, uniform := true, sink := true, ownPoison := true }) (wcpinEff d a)) ∧
  (∀ (a : BitVec 4), OnState (.wcunp a) (W.wcunp a) (fun _ => { ar := [a.toNat], uniform := true, sink := true }) (wcunpEff a)) ∧
  (∀ (a : BitVec 4), OnState (.wcinv a) (W.wcinv a) (fun _ => { ar := [a.toNat], cls := some 3, uniform := true, sink := true }) (wcinvEff (some a))) ∧
  (OnState .wcinvAll W.wcinvAll (fun _ => { cls := some 3, uniform := true, sink := true }) (wcinvEff none)) ∧
  (∀ (a : BitVec 6), OnState (.rtgen a) (W.rtgen a) (fun _ => { sr := [a.toNat], uniform := true }) (rtgenEff a)) ∧
  (∀ (a : BitVec 6), OnState (.rtinv a) (W.rtinv a) (fun _ => { sr := [a.toNat], uniform := true }) (rtinvEff (some a))) ∧
  (OnState .rtinvAll W.rtinvAll (fun _ => { uniform := true }) (rtinvEff none)) ∧
  (∀ (d : BitVec 8) (a : BitVec 4) (b : BitVec 8), OnState (.smp d a b) (W.smp d a b) (fun s => (useSample 0 s.curTy d a b)) (sampleEff 0 d a b)) ∧
  (∀ (d : BitVec 8) (a : BitVec 4) (b : BitVec 8), OnState (.smpg d a b) (W.smpg d a b) (fun s => (useSample 1 s.curTy d a b)) (sampleEff 1 d a b)) ∧
  (∀ (d : BitVec 8) (a : BitVec 4) (b : BitVec 8), OnState (.smpl d a b) (W.smpl d a b) (fun s => (useSample 2 s.curTy d a b)) (sampleEff 2 d a b)) ∧
  (∀ (d : BitVec 8) (a : BitVec 4) (b : BitVec 8), OnState (.txf d a b) (W.txf d a b) (fun s => (useSample 3 s.curTy d a b)) (sampleEff 3 d a b)) ∧
  (∀ (d : BitVec 8) (a : BitVec 4) (b : BitVec 8), OnState (.rtrc d a b) (W.rtrc d a b) (fun _ => (useTrace 0 d a b)) (traceEff 0 d a b)) ∧
  (∀ (d : BitVec 8) (a : BitVec 4) (b : BitVec 8), OnState (.rtnx d a b) (W.rtnx d a b) (fun _ => (useTrace 1 d a b)) (traceEff 1 d a b)) ∧
  (∀ (d : BitVec 8), OnGroup (.rtrs d) (W.rtrs d) (fun _ => (useRtrs d)) ((rtrsEff d))) ∧
  (∀ (d : BitVec 8) (a : BitVec 4) (b : BitVec 8), OnState (.rthit d a b) (W.rthit d a b) (fun _ => (useTrace 2 d a b)) (traceEff 2 d a b)) ∧
  (∀ (d : BitVec 8) (a : BitVec 4) (b : BitVec 8), OnState (.smpn d a b) (W.smpn d a b) (fun s => (useSample 4 s.curTy d a b)) (sampleEff 4 d a b))

/-- When the instruction issues and its effect answers a state, exec answers the next state that this gives with the issue done. (13 R328; 13 R335; 13 R336; 13 R337; 13 R338; 13 R339; 15 R370; 15 R372; 15 R374) -/
def Obligations.RasterAndLaunchInstructions : Prop :=
  (∀ (d : BitVec 6) (a : BitVec 4), OnState (.cncl d a) (W.cncl d a) (fun _ => { ar := [a.toNat], sw := [d.toNat], uniform := true, sink := true }) (cnclEff d a)) ∧
  (OnGroup .rend W.rend (fun _ => { guard := false, sink := true }) (rendEff)) ∧
  (∀ (d : BitVec 8) (a : BitVec 4) (b : BitVec 8), OnState (.rtri d a b) (W.rtri d a b) (fun _ => (useRtri d a b)) (rtriEff d a b)) ∧
  (∀ (d : BitVec 8) (a : BitVec 4) (b : BitVec 8), OnState (.rtw d a b) (W.rtw d a b) (fun _ => { vr := (List.range 4).map (· + d.toNat) ++ [b.toNat, b.toNat + 1], ar := [a.toNat], cls := some 1 }) (rtwEff d a b)) ∧
  (∀ (a : BitVec 4) (b : BitVec 6), OnState (.rclr a b) (W.rclr a b) (fun _ => { ar := [a.toNat], sr := (List.range 3).map (· + b.toNat), range := decide (61 < b.toNat), cls := some 1, uniform := true, sink := true }) (rclrEff a b)) ∧
  (∀ (d : BitVec 3) (a : BitVec 4) (b : BitVec 8), OnState (.zts d a b) (W.zts d a b) (fun _ => { vr := (List.range 3).map (· + b.toNat), ar := [a.toNat], later := { p := [d.toNat] }, cls := some 0, sink := true, ownPoison := true }) (ztsEff d a b)) ∧
  (∀ (d : BitVec 3) (a : BitVec 4) (b : BitVec 8), OnState (.launch d a b) (W.launch d a b) (fun _ => { vr := [b.toNat, b.toNat + 1], ar := [a.toNat], later := { p := [d.toNat] }, pairs := [b.toNat], sink := true, ownPoison := true }) (launchEff d a b)) ∧
  (∀ (d : BitVec 6) (a : BitVec 6), OnState (.rdparam d a) (W.rdparam d a) (fun _ => { sr := [a.toNat], sw := [d.toNat], uniform := true }) (rdparamEff d a)) ∧
  (∀ (a : BitVec 4) (b : BitVec 6), OnState (.rdcmp a b) (W.rdcmp a b) (fun _ => { ar := [a.toNat], sr := [b.toNat, b.toNat + 1], range := decide (62 < b.toNat), cls := some 1, uniform := true, sink := true, ext := some 3 }) (rdcmpEff a b))

/-- For every state, exec of the event answers the next state that its rule gives: the translation, the read and the write at the home, the fill, the data and completion returns, the end of a release, host memory, the window and the drain of the store queue; atomics at the home, monitors, the end of an acquire, beacons, barrier generations, joins and the step trap. The event of the opcode table is one step of the model, and when it comes is the model's choice (logs 1, 2 and 4). (07 R177; 08 R198; 08 R200; 08 R203; 09 R229; 09 R237; 09 R242; 09 R246; 06 R140; 06 R164; 16 R381; 16 R387) -/
def Obligations.MemoryEvents : Prop :=
  (∀ (g : Nat) (path : Nat) (s : State), exec (.growGrant g path) s = .next (s.growGrant g path)) ∧
  (∀ (op : Nat) (acc : Nat) (lease : Nat) (s : State), exec (.homeRead op acc lease) s = .next (s.homeReadStep op acc lease)) ∧
  (∀ (op : Nat) (acc : Nat) (s : State), exec (.fillArrival op acc) s = .next (s.fillStep op acc)) ∧
  (∀ (op : Nat) (s : State), exec (.dataReturn op) s = .next (s.returnStep op)) ∧
  (∀ (op : Nat) (acc : Nat) (s : State), exec (.homeWrite op acc) s = .next (s.homeWriteStep op acc)) ∧
  (∀ (op : Nat) (s : State), exec (.completionTimeReturn op) s = .next (s.completionReturn op)) ∧
  (∀ (op : Nat) (acc : Nat) (s : State), exec (.windowAccess op acc) s = .next (s.windowStep op acc)) ∧
  (∀ (core : Nat) (line : Nat) (s : State), exec (.leaseExpiry core line) s = .next (s.leaseEnd core line)) ∧
  (∀ (g : Nat) (s : State), exec (.releaseEnd g) s = .next (s.releaseStep g)) ∧
  (∀ (op : Nat) (acc : Nat) (ok : Bool) (s : State), exec (.hostMemoryCompletion op acc ok) s = .next (s.hostMemStep op acc ok)) ∧
  (∀ (op : Nat) (acc : Nat) (s : State), exec (.walkComplete op acc) s = .next (s.walkStep op acc)) ∧
  (∀ (g : Nat) (s : State), exec (.ssqDrain g) s = .next (s.ssqDrain g)) ∧
  (∀ (g : Nat) (q : Nat) (s : State), exec (.mergeJoin g q) s = .next (s.joinStep g q)) ∧
  (∀ (g : Nat) (s : State), exec (.stepTrap g) s = .next (s.stepTrapStep g)) ∧
  (∀ (op : Nat) (acc : Nat) (s : State), exec (.homeAtomic op acc) s = .next (s.homeAtomicStep op acc)) ∧
  (∀ (op : Nat) (s : State), exec (.monitorCheck op) s = .next (s.monitorStep op)) ∧
  (∀ (op : Nat) (s : State), exec (.mwaitReply op) s = .next (s.mwaitReplyStep op)) ∧
  (∀ (op : Nat) (acc : Nat) (s : State), exec (.holderAccess op acc) s = .next (s.holderStep op acc)) ∧
  (∀ (g : Nat) (s : State), exec (.acquireEnd g) s = .next (s.acquireEnd g)) ∧
  (∀ (core : Nat) (region : Nat) (s : State), exec (.beacon core region) s = .next (s.beaconStep core region)) ∧
  (∀ (blk : Nat) (barrier : Nat) (s : State), exec (.barGenerationComplete blk barrier) s = .next (s.barComplete blk barrier)) ∧
  (∀ (launch : Nat) (s : State), exec (.gridCounterAssign launch) s = .next (s.assignCounter launch)) ∧
  (∀ (launch : Nat) (s : State), exec (.gbarGenerationComplete launch) s = .next (s.gridComplete launch))

/-- For every state, exec of the event answers the next state that its rule gives. Which unit moves when, and the operands that stand for what the spec leaves to the device, are the model's choice (logs 101, 122, 123). The event of the opcode table is one step of the model, and when it comes is the model's choice (logs 1, 2 and 4). (07 R194; 10 R258; 10 R271; 10 R273; 11 R296; 11 R303; 12 R319; 13 R329; 13 R331; 18 R418; 18 R431; 18 R433) -/
def Obligations.UnitEvents : Prop :=
  (∀ (op : Nat) (s : State), exec (.copyAccept op) s = .next (s.copyAcceptStep op)) ∧
  (∀ (op : Nat) (s : State), exec (.copyChunk op) s = .next (s.copyChunkStep op)) ∧
  (∀ (op : Nat) (s : State), exec (.copyEnd op) s = .next (s.copyEndStep op)) ∧
  (∀ (g : Nat) (s : State), exec (.groupEndRelease g) s = .next (s.groupEndRelease g)) ∧
  (∀ (core : Nat) (engine : Nat) (entry : Nat) (s : State), exec (.tileEntryBegin core engine entry) s = .next (s.entryBegin core engine entry)) ∧
  (∀ (core : Nat) (engine : Nat) (s : State), exec (.kstepBoundary core engine) s = .next (s.kstep core engine)) ∧
  (∀ (core : Nat) (engine : Nat) (s : State), exec (.tileEntryEnd core engine) s = .next (s.entryEnd core engine)) ∧
  (∀ (op : Nat) (s : State), exec (.tokenGrant op) s = .next (s.grant op)) ∧
  (∀ (op : Nat) (s : State), exec (.accMoveDone op) s = .next (s.accMove op)) ∧
  (∀ (op : Nat) (s : State), exec (.entryAging op) s = .next (s.entryAge op)) ∧
  (∀ (op : Nat) (s : State), exec (.sampleReturn op) s = .next (s.sampleStep op)) ∧
  (∀ (op : Nat) (s : State), exec (.weightFill op) s = .next (s.weightStep op)) ∧
  (∀ (op : Nat) (s : State), exec (.wcinvDone op) s = .next (s.wcinvStep op)) ∧
  (∀ (core : Nat) (array : Nat) (entry : Nat) (s : State), exec (.lendingStepBegin core array entry) s = .next (s.lendBegin core array entry)) ∧
  (∀ (core : Nat) (array : Nat) (s : State), exec (.lendingStepEnd core array) s = .next (s.lendEnd core array)) ∧
  (∀ (core : Nat) (array : Nat) (s : State), exec (.lendingTimer core array) s = .next (s.lendTimer core array)) ∧
  (∀ (op : Nat) (s : State), exec (.rayResult op) s = .next (s.rayStep op)) ∧
  (∀ (core : Nat) (s : State), exec (.rasterStamp core) s = .next (s.rasterStep core)) ∧
  (∀ (core : Nat) (s : State), exec (.depthTest core) s = .next (s.depthStep core)) ∧
  (∀ (core : Nat) (target : Nat) (s : State), exec (.pixelGroupSpawn core target) s = .next (s.spawnStep core target)) ∧
  (∀ (op : Nat) (acc : Nat) (s : State), exec (.tileUpdate op acc) s = .next (s.tileStep op acc)) ∧
  (∀ (blk : Nat) (s : State), exec (.passEnd blk) s = .next (s.passEnd blk)) ∧
  (∀ (blk : Nat) (member : Nat) (line : Nat) (s : State), exec (.tileLineFill blk member line) s = .next (s.tileFill blk member line)) ∧
  (∀ (g : Nat) (s : State), exec (.orcmdRegister g) s = .next (s.orcmdStep g (· == 1) fun s c n => s.orRegister g c n)) ∧
  (∀ (g : Nat) (s : State), exec (.orcmdDrop g) s = .next (s.orcmdStep g (· == 2) fun s c n => s.orDrop g c n)) ∧
  (∀ (g : Nat) (s : State), exec (.orcmdNoOp g) s = .next (s.orcmdStep g (fun op => op != 1 && op != 2) fun s _ _ => s.updGroup g fun g => { g with order := none })) ∧
  (∀ (offset : Nat) (s : State), exec (.ptpExchange offset) s = .next (s.ptpStep offset)) ∧
  (∀ (link : Nat) (offset : Nat) (s : State), exec (.linkTimingExchange link offset) s = .next (s.timingStep link offset)) ∧
  (∀ (s : State), exec .lockTimeout s = .next s.lockTimeout) ∧
  (∀ (link : Nat) (lanes : Nat) (roundTrip : Nat) (sigma : Nat) (peerLocked : Bool) (s : State), exec (.linkTraining link lanes roundTrip sigma peerLocked) s = .next (s.linkTraining link lanes roundTrip sigma peerLocked)) ∧
  (∀ (link : Nat) (s : State), exec (.linkFailure link) s = .next (s.linkFailure link)) ∧
  (∀ (link : Nat) (head : BitVec 32) (payload : List Byte) (checkOk : Bool) (s : State), exec (.flitReceive link head payload checkOk) s = .next (s.flitReceive link head payload checkOk)) ∧
  (∀ (link : Nat) (vc : Nat) (s : State), exec (.flitPause link vc) s = .next (s.flitPause link vc)) ∧
  (∀ (link : Nat) (vc : Nat) (s : State), exec (.flitResume link vc) s = .next (s.flitResume link vc)) ∧
  (∀ (peer : Nat) (pa : Nat) (n : Nat) (write : List Byte × Option (Nat × Nat)) (lease : Bool) (s : State), exec (.peerRequest peer pa n write lease) s = .next (s.peerRequest peer pa n write lease)) ∧
  (∀ (op : Nat) (acc : Nat) (data : List Byte) (poison : Bool) (cd0 : Nat) (cd1 : Nat) (cf : Nat) (s : State), exec (.peerResponse op acc data poison cd0 cd1 cf) s = .next (s.peerResponse op acc data poison (cd0, cd1, cf)))

/-- For every state, exec of the event answers the next state that its rule gives. The event of the opcode table is one step of the model, and when it comes is the model's choice (logs 1, 2 and 4). (15 R348; 15 R353; 15 R357; 15 R364; 16 R385; 16 R390; 16 R393; 16 R396; 16 R403; 19 R443; 19 R445; 19 R458) -/
def Obligations.ContextEvents : Prop :=
  (∀ (g : Nat) (path : Nat) (s : State), exec (.instrFetchReturn g path) s = .next (s.fetchReturn g path)) ∧
  (∀ (g : Nat) (line : Nat) (s : State), exec (.registerLineFill g line) s = .next (s.lineFill g line)) ∧
  (∀ (ctx : Nat) (s : State), exec (.faultReply ctx) s = .next (s.faultReply ctx)) ∧
  (∀ (g : Nat) (s : State), exec (.groupReplay g) s = .next (s.groupReplay g)) ∧
  (∀ (g : Nat) (s : State), exec (.tlbiEnd g) s = .next (s.tlbiEndStep g)) ∧
  (∀ (g : Nat) (s : State), exec (.groupSave g) s = .next (s.groupSave g)) ∧
  (∀ (blk : Nat) (s : State), exec (.blockSaved blk) s = .next (s.blockSaved blk)) ∧
  (∀ (g : Nat) (core : Nat) (s : State), exec (.groupResume g core) s = .next (s.groupResume g core)) ∧
  (∀ (g : Nat) (s : State), exec (.sleepExpire g) s = .next (s.sleepExpire g)) ∧
  (∀ (g : Nat) (path : Nat) (s : State), exec (.wtmExpire g path) s = .next (s.wtmStep g path)) ∧
  (∀ (g : Nat) (s : State), exec (.haltPropagation g) s = .next (s.haltStep g)) ∧
  (∀ (g : Nat) (s : State), exec (.mirrorHalt g) s = .next (s.mirrorHaltStep g)) ∧
  (∀ (core : Nat) (sched : Nat) (s : State), exec (.pcSample core sched) s = .next (s.pcSampleStep core sched)) ∧
  (∀ (ctx : Nat) (s : State), exec (.traceRecordWrite ctx) s = .next (s.traceStep ctx)) ∧
  (∀ (queue : Nat) (s : State), exec (.wptrWake queue) s = .next (s.wptrWake queue)) ∧
  (∀ (queue : Nat) (s : State), exec (.jobStart queue) s = .next (s.jobStart queue)) ∧
  (∀ (entity : Nat) (s : State), exec (.phaseStart entity) s = .next (s.phaseStart entity)) ∧
  (∀ (entity : Nat) (s : State), exec (.graphStart entity) s = .next (s.graphStart entity)) ∧
  (∀ (entity : Nat) (s : State), exec (.notBeforePass entity) s = .next (s.nbStep entity)) ∧
  (∀ (entity : Nat) (s : State), exec (.launchReady entity) s = .next (s.launchReady entity)) ∧
  (∀ (entity : Nat) (s : State), exec (.launchAging entity) s = .next (s.agingStep entity)) ∧
  (∀ (entity : Nat) (s : State), exec (.aggregatorDispatch entity) s = .next (s.aggregate entity)) ∧
  (∀ (entity : Nat) (core : Nat) (s : State), exec (.blockPlace entity core) s = .next (s.placeBlock entity core)) ∧
  (∀ (blk : Nat) (s : State), exec (.preemptBlock blk) s = .next (s.preemptBlock blk)) ∧
  (∀ (blk : Nat) (s : State), exec (.blockComplete blk) s = .next (s.blockComplete blk)) ∧
  (∀ (entity : Nat) (s : State), exec (.entityEnd entity) s = .next (s.entityEnd entity)) ∧
  (∀ (queue : Nat) (s : State), exec (.jobEnd queue) s = .next (s.jobEnd queue))

/-- For every state, exec of the event answers the next state that its rule gives. The operands that stand for what the host or the hardware does are the model's choice (logs 101, 122, 123). The event of the opcode table is one step of the model, and when it comes is the model's choice (logs 1, 2 and 4). (08 R222; 08 R223; 21 R470; 21 R472; 21 R473; 21 R475; 22 R478; 22 R479; 22 R481; 22 R482; 22 R483; 22 R485) -/
def Obligations.HostEvents : Prop :=
  (∀ (pa : Nat) (n : Nat) (s : State), exec (.hostRead pa n) s = .next (s.hostRead pa n)) ∧
  (∀ (pa : Nat) (bytes : List Byte) (s : State), exec (.hostWrite pa bytes) s = .next (s.hostWrite pa bytes)) ∧
  (∀ (half : Nat) (modified : List Byte) (s : State), exec (.backInvalidateAnswer half modified) s = .next (s.backAnswer half modified)) ∧
  (∀ (half : Nat) (bytes : List Byte) (s : State), exec (.hostWriteBack half bytes) s = .next (s.hostWriteBack half bytes)) ∧
  (∀ (slice : Nat) (s : State), exec (.retentionEnter slice) s = .next (s.retentionEnter slice)) ∧
  (∀ (slice : Nat) (s : State), exec (.retentionWake slice) s = .next (s.retentionWake slice)) ∧
  (∀ (lanes : Nat) (s : State), exec (.hostLinkTrainDown lanes) s = .next s) ∧
  (∀ (v : BitVec 64) (s : State), exec (.qtbWrite v) s = .next (s.qtbWrite v)) ∧
  (∀ (v : BitVec 32) (s : State), exec (.pcapWrite v) s = .next (s.pcapWrite v)) ∧
  (∀ (offset : Nat) (v : BitVec 64) (s : State), exec (.hostRegWrite offset v) s = .next (s.hostRegWrite offset v)) ∧
  (∀ (s : State), exec .hcmdInvalidate s = .next (s.hcmdInval 1 0)) ∧
  (∀ (s : State), exec .hcmdInvalidateCtx s = .next (s.hcmdInval 2 1)) ∧
  (∀ (s : State), exec .hcmdMigrate s = .next s.hcmdMigrate) ∧
  (∀ (s : State), exec .hcmdSaveCtx s = .next s.hcmdSave) ∧
  (∀ (s : State), exec .hcmdReleaseCtx s = .next s.hcmdRelease) ∧
  (∀ (code : BitVec 32) (s : State), exec (.hcmdUnassigned code) s = .next (s.hcmdOther code)) ∧
  (∀ (pa : Nat) (uncorrectable : Bool) (s : State), exec (.scrub pa uncorrectable) s = .next (s.scrub pa uncorrectable)) ∧
  (∀ (die : Nat) (s : State), exec (.dieLoss die) s = .next (s.dieLoss die)) ∧
  (∀ (failing : Nat) (spare : Nat) (s : State), exec (.spareActivation failing spare) s = .next (s.spareStep failing spare)) ∧
  (∀ (die : Nat) (slice : Nat) (s : State), exec (.sliceRetirement die slice) s = .next (s.sliceStep die slice)) ∧
  (∀ (lo : Nat) (hi : Nat) (s : State), exec (.rowRepair lo hi) s = .next (s.rowRepair lo hi)) ∧
  (∀ (ctx : Nat) (va : BitVec 64) (newPa : BitVec 64) (movable : Bool) (s : State), exec (.channelRetirement ctx va newPa movable) s = .next (s.retirePage ctx va.toNat newPa.toNat movable)) ∧
  (∀ (s : State), exec .powerOnReset s = .next s.powerless) ∧
  (∀ (s : State), exec .hostLinkUp s = .next s.linkUp) ∧
  (∀ (bank0 : Bool) (bank1 : Bool) (s : State), exec (.firmwareVerified bank0 bank1) s = .next (s.firmwareStep bank0 bank1)) ∧
  (∀ (bank0 : Bool) (bank1 : Bool) (s : State), exec (.imageVerified bank0 bank1) s = .next (s.imageStep bank0 bank1)) ∧
  (∀ (trained : Bool) (_source : Nat) (_sigma : Nat) (time : Nat) (records : Nat) (badRecord : Nat) (s : State), exec (.applyComplete trained _source _sigma time records badRecord) s = .next (s.applyStep trained time records badRecord)) ∧
  (∀ (s : State), exec .hcmdAttest s = .next s.hcmdAttest) ∧
  (∀ (watts : Nat) (s : State), exec (.powerCapCheck watts) s = .next (s.capCheck watts)) ∧
  (∀ (core : Nat) (s : State), exec (.corePowerGate core) s = .next (s.powerGate core)) ∧
  (∀ (s : State), exec .flashWriteComplete s = .next s.flashDone) ∧
  (∀ (s : State), exec .powerLoss s = .next s.powerless)

/-- Whenever the instruction issues and its own condition holds, exec answers a next state in which the group has the registers of its effect and nothing outside the group differs. The conditions: for wrmd the value has no reserved bit set, for mxscl and mxq all 16 lanes are active, and none for the others. (01 R22; 01 R23; 02 R39; 05 R98; 05 R118; 05 R119; 05 R120; 05 R128; 05 R129) -/
def Obligations.ScalarComplete : Prop :=
  (∀ (d : BitVec 6), OnGroup (.rdmd d) (W.rdmd d) (fun _ => { sw := [d.toNat], guard := false }) (fun c => c.g.setS d c.md)) ∧
  (∀ (a : BitVec 6), Completes (.wrmd a) (W.wrmd a) (fun _ => { sr := [a.toNat], guard := false }) (groupTrapEff (wrmdEff a))
    (fun c _ => mdLegal (c.g.sreg a) = true)) ∧
  (∀ (d : BitVec 3) (a : BitVec 3) (b : BitVec 3), OnGroup (.pand d a b) (W.pand d a b) (fun _ => { pr := [a, b].map (·.toNat), pw := [d.toNat] }) (fun c => c.g.setPLanes d c.act ((fun g => g.pred a &&& g.pred b) c.g))) ∧
  (∀ (d : BitVec 3) (a : BitVec 3) (b : BitVec 3), OnGroup (.por d a b) (W.por d a b) (fun _ => { pr := [a, b].map (·.toNat), pw := [d.toNat] }) (fun c => c.g.setPLanes d c.act ((fun g => g.pred a ||| g.pred b) c.g))) ∧
  (∀ (d : BitVec 3) (a : BitVec 3) (b : BitVec 3), OnGroup (.pxor d a b) (W.pxor d a b) (fun _ => { pr := [a, b].map (·.toNat), pw := [d.toNat] }) (fun c => c.g.setPLanes d c.act ((fun g => g.pred a ^^^ g.pred b) c.g))) ∧
  (∀ (d : BitVec 3) (a : BitVec 3), OnGroup (.pnot d a) (W.pnot d a) (fun _ => { pr := [a].map (·.toNat), pw := [d.toNat] }) (fun c => c.g.setPLanes d c.act ((fun g => ~~~(g.pred a)) c.g))) ∧
  (∀ (d : BitVec 3) (a : BitVec 6), OnGroup (.pmov d a) (W.pmov d a) (fun _ => { sr := [a.toNat], pw := [d.toNat], uniform := true }) ((uniformEff fun c => c.g.setP d ((c.g.sreg a).setWidth 16)))) ∧
  (∀ (d : BitVec 6) (a : BitVec 6) (b : BitVec 6), OnGroup (.saddScb d a b) (W.saddScb d a b) (fun _ => { sr := a.toNat :: (SOp.sreg b).srs, sw := [d.toNat], uniform := true }) ((uniformEff fun c => c.g.setS d (scalarOp ScOp.add (c.g.sreg a) ((SOp.sreg b).val c.g))))) ∧
  (∀ (d : BitVec 6) (a : BitVec 6) (k : BitVec 32), OnGroup (.saddLit d a k) (W.saddLit d a k) (fun _ => { sr := a.toNat :: (SOp.lit k).srs, sw := [d.toNat], uniform := true }) ((uniformEff fun c => c.g.setS d (scalarOp ScOp.add (c.g.sreg a) ((SOp.lit k).val c.g))))) ∧
  (∀ (d : BitVec 6) (a : BitVec 6) (b : BitVec 6), OnGroup (.ssubScb d a b) (W.ssubScb d a b) (fun _ => { sr := a.toNat :: (SOp.sreg b).srs, sw := [d.toNat], uniform := true }) ((uniformEff fun c => c.g.setS d (scalarOp ScOp.sub (c.g.sreg a) ((SOp.sreg b).val c.g))))) ∧
  (∀ (d : BitVec 6) (a : BitVec 6) (k : BitVec 32), OnGroup (.ssubLit d a k) (W.ssubLit d a k) (fun _ => { sr := a.toNat :: (SOp.lit k).srs, sw := [d.toNat], uniform := true }) ((uniformEff fun c => c.g.setS d (scalarOp ScOp.sub (c.g.sreg a) ((SOp.lit k).val c.g))))) ∧
  (∀ (d : BitVec 6) (a : BitVec 6) (b : BitVec 6), OnGroup (.smulScb d a b) (W.smulScb d a b) (fun _ => { sr := a.toNat :: (SOp.sreg b).srs, sw := [d.toNat], uniform := true }) ((uniformEff fun c => c.g.setS d (scalarOp ScOp.mul (c.g.sreg a) ((SOp.sreg b).val c.g))))) ∧
  (∀ (d : BitVec 6) (a : BitVec 6) (k : BitVec 32), OnGroup (.smulLit d a k) (W.smulLit d a k) (fun _ => { sr := a.toNat :: (SOp.lit k).srs, sw := [d.toNat], uniform := true }) ((uniformEff fun c => c.g.setS d (scalarOp ScOp.mul (c.g.sreg a) ((SOp.lit k).val c.g))))) ∧
  (∀ (d : BitVec 6) (a : BitVec 6) (b : BitVec 6), OnGroup (.sandScb d a b) (W.sandScb d a b) (fun _ => { sr := a.toNat :: (SOp.sreg b).srs, sw := [d.toNat], uniform := true }) ((uniformEff fun c => c.g.setS d (scalarOp ScOp.and (c.g.sreg a) ((SOp.sreg b).val c.g))))) ∧
  (∀ (d : BitVec 6) (a : BitVec 6) (k : BitVec 32), OnGroup (.sandLit d a k) (W.sandLit d a k) (fun _ => { sr := a.toNat :: (SOp.lit k).srs, sw := [d.toNat], uniform := true }) ((uniformEff fun c => c.g.setS d (scalarOp ScOp.and (c.g.sreg a) ((SOp.lit k).val c.g))))) ∧
  (∀ (d : BitVec 6) (a : BitVec 6) (b : BitVec 6), OnGroup (.sorScb d a b) (W.sorScb d a b) (fun _ => { sr := a.toNat :: (SOp.sreg b).srs, sw := [d.toNat], uniform := true }) ((uniformEff fun c => c.g.setS d (scalarOp ScOp.or (c.g.sreg a) ((SOp.sreg b).val c.g))))) ∧
  (∀ (d : BitVec 6) (a : BitVec 6) (k : BitVec 32), OnGroup (.sorLit d a k) (W.sorLit d a k) (fun _ => { sr := a.toNat :: (SOp.lit k).srs, sw := [d.toNat], uniform := true }) ((uniformEff fun c => c.g.setS d (scalarOp ScOp.or (c.g.sreg a) ((SOp.lit k).val c.g))))) ∧
  (∀ (d : BitVec 6) (a : BitVec 6) (b : BitVec 6), OnGroup (.sxorScb d a b) (W.sxorScb d a b) (fun _ => { sr := a.toNat :: (SOp.sreg b).srs, sw := [d.toNat], uniform := true }) ((uniformEff fun c => c.g.setS d (scalarOp ScOp.xor (c.g.sreg a) ((SOp.sreg b).val c.g))))) ∧
  (∀ (d : BitVec 6) (a : BitVec 6) (k : BitVec 32), OnGroup (.sxorLit d a k) (W.sxorLit d a k) (fun _ => { sr := a.toNat :: (SOp.lit k).srs, sw := [d.toNat], uniform := true }) ((uniformEff fun c => c.g.setS d (scalarOp ScOp.xor (c.g.sreg a) ((SOp.lit k).val c.g))))) ∧
  (∀ (d : BitVec 6) (a : BitVec 6) (b : BitVec 6), OnGroup (.sshlScb d a b) (W.sshlScb d a b) (fun _ => { sr := a.toNat :: (SOp.sreg b).srs, sw := [d.toNat], uniform := true }) ((uniformEff fun c => c.g.setS d (scalarOp ScOp.shl (c.g.sreg a) ((SOp.sreg b).val c.g))))) ∧
  (∀ (d : BitVec 6) (a : BitVec 6) (k : BitVec 32), OnGroup (.sshlLit d a k) (W.sshlLit d a k) (fun _ => { sr := a.toNat :: (SOp.lit k).srs, sw := [d.toNat], uniform := true }) ((uniformEff fun c => c.g.setS d (scalarOp ScOp.shl (c.g.sreg a) ((SOp.lit k).val c.g))))) ∧
  (∀ (d : BitVec 6) (a : BitVec 6) (b : BitVec 6), OnGroup (.sshrScb d a b) (W.sshrScb d a b) (fun _ => { sr := a.toNat :: (SOp.sreg b).srs, sw := [d.toNat], uniform := true }) ((uniformEff fun c => c.g.setS d (scalarOp ScOp.shr (c.g.sreg a) ((SOp.sreg b).val c.g))))) ∧
  (∀ (d : BitVec 6) (a : BitVec 6) (k : BitVec 32), OnGroup (.sshrLit d a k) (W.sshrLit d a k) (fun _ => { sr := a.toNat :: (SOp.lit k).srs, sw := [d.toNat], uniform := true }) ((uniformEff fun c => c.g.setS d (scalarOp ScOp.shr (c.g.sreg a) ((SOp.lit k).val c.g))))) ∧
  (∀ (d : BitVec 6) (a : BitVec 6) (b : BitVec 6), OnGroup (.ssraScb d a b) (W.ssraScb d a b) (fun _ => { sr := a.toNat :: (SOp.sreg b).srs, sw := [d.toNat], uniform := true }) ((uniformEff fun c => c.g.setS d (scalarOp ScOp.sra (c.g.sreg a) ((SOp.sreg b).val c.g))))) ∧
  (∀ (d : BitVec 6) (a : BitVec 6) (k : BitVec 32), OnGroup (.ssraLit d a k) (W.ssraLit d a k) (fun _ => { sr := a.toNat :: (SOp.lit k).srs, sw := [d.toNat], uniform := true }) ((uniformEff fun c => c.g.setS d (scalarOp ScOp.sra (c.g.sreg a) ((SOp.lit k).val c.g))))) ∧
  (∀ (d : BitVec 6) (a : BitVec 6) (b : BitVec 6), OnGroup (.sminScb d a b) (W.sminScb d a b) (fun _ => { sr := a.toNat :: (SOp.sreg b).srs, sw := [d.toNat], uniform := true }) ((uniformEff fun c => c.g.setS d (scalarOp ScOp.min (c.g.sreg a) ((SOp.sreg b).val c.g))))) ∧
  (∀ (d : BitVec 6) (a : BitVec 6) (k : BitVec 32), OnGroup (.sminLit d a k) (W.sminLit d a k) (fun _ => { sr := a.toNat :: (SOp.lit k).srs, sw := [d.toNat], uniform := true }) ((uniformEff fun c => c.g.setS d (scalarOp ScOp.min (c.g.sreg a) ((SOp.lit k).val c.g))))) ∧
  (∀ (d : BitVec 6) (a : BitVec 6) (b : BitVec 6), OnGroup (.smaxScb d a b) (W.smaxScb d a b) (fun _ => { sr := a.toNat :: (SOp.sreg b).srs, sw := [d.toNat], uniform := true }) ((uniformEff fun c => c.g.setS d (scalarOp ScOp.max (c.g.sreg a) ((SOp.sreg b).val c.g))))) ∧
  (∀ (d : BitVec 6) (a : BitVec 6) (k : BitVec 32), OnGroup (.smaxLit d a k) (W.smaxLit d a k) (fun _ => { sr := a.toNat :: (SOp.lit k).srs, sw := [d.toNat], uniform := true }) ((uniformEff fun c => c.g.setS d (scalarOp ScOp.max (c.g.sreg a) ((SOp.lit k).val c.g))))) ∧
  (∀ (g : BitVec 1) (t : BitVec 1) (r : BitVec 1) (s1 : BitVec 1) (f : BitVec 1) (p : BitVec 3) (e : BitVec 1) (v : BitVec 1) (y : BitVec 4) (n : BitVec 3) (u : BitVec 1) (z : BitVec 1), OnGroup (.modeArith g t r s1 f p e v y n u z) (W.modeArith g t r s1 f p e v y n u z) (fun _ => { guard := false }) ((setMdEff fun c => (modeArithMd g t r s1 f p e v y n u z) c.md))) ∧
  (∀ (b : BitVec 8), OnGroup (.modeBuf b) (W.modeBuf b) (fun _ => { guard := false }) ((setMdEff fun c => (modeBufMd b) c.md))) ∧
  (∀ (d : BitVec 3) (a : BitVec 6) (b : BitVec 6), OnGroup (.scmpEqScb d a b) (W.scmpEqScb d a b) (fun _ => { sr := a.toNat :: (SOp.sreg b).srs, pw := [d.toNat], uniform := true }) ((uniformEff fun c => c.g.setP d (if (if false then (c.g.sreg a).slt ((SOp.sreg b).val c.g) else c.g.sreg a == (SOp.sreg b).val c.g) then 0xFFFF else 0)))) ∧
  (∀ (d : BitVec 3) (a : BitVec 6) (k : BitVec 32), OnGroup (.scmpEqLit d a k) (W.scmpEqLit d a k) (fun _ => { sr := a.toNat :: (SOp.lit k).srs, pw := [d.toNat], uniform := true }) ((uniformEff fun c => c.g.setP d (if (if false then (c.g.sreg a).slt ((SOp.lit k).val c.g) else c.g.sreg a == (SOp.lit k).val c.g) then 0xFFFF else 0)))) ∧
  (∀ (d : BitVec 3) (a : BitVec 6) (b : BitVec 6), OnGroup (.scmpLtScb d a b) (W.scmpLtScb d a b) (fun _ => { sr := a.toNat :: (SOp.sreg b).srs, pw := [d.toNat], uniform := true }) ((uniformEff fun c => c.g.setP d (if (if true then (c.g.sreg a).slt ((SOp.sreg b).val c.g) else c.g.sreg a == (SOp.sreg b).val c.g) then 0xFFFF else 0)))) ∧
  (∀ (d : BitVec 3) (a : BitVec 6) (k : BitVec 32), OnGroup (.scmpLtLit d a k) (W.scmpLtLit d a k) (fun _ => { sr := a.toNat :: (SOp.lit k).srs, pw := [d.toNat], uniform := true }) ((uniformEff fun c => c.g.setP d (if (if true then (c.g.sreg a).slt ((SOp.lit k).val c.g) else c.g.sreg a == (SOp.lit k).val c.g) then 0xFFFF else 0)))) ∧
  (∀ (d : BitVec 6) (b : BitVec 6), OnGroup (.smov d b) (W.smov d b) (fun _ => { ({ sr := [b.toNat] } : Use) with sw := [d.toNat], uniform := true }) ((uniformEff fun c => c.g.setS d ((fun g => g.sreg b) c.g)))) ∧
  (∀ (d : BitVec 6) (b : BitVec 4), OnGroup (.smovAlo d b) (W.smovAlo d b) (fun _ => { ({ ar := [b.toNat] } : Use) with sw := [d.toNat], uniform := true }) ((uniformEff fun c => c.g.setS d ((fun g => (g.areg b).setWidth 32) c.g)))) ∧
  (∀ (d : BitVec 6) (b : BitVec 4), OnGroup (.smovAhi d b) (W.smovAhi d b) (fun _ => { ({ ar := [b.toNat] } : Use) with sw := [d.toNat], uniform := true }) ((uniformEff fun c => c.g.setS d ((fun g => (g.areg b).extractLsb' 32 32) c.g)))) ∧
  (∀ (d : BitVec 6) (k : BitVec 32), OnGroup (.sli d k) (W.sli d k) (fun _ => { ({} : Use) with sw := [d.toNat], uniform := true }) ((uniformEff fun c => c.g.setS d ((fun _ => k) c.g)))) ∧
  (∀ (d : BitVec 4) (a : BitVec 4) (b : BitVec 6), OnGroup (.aaddScb d a b) (W.aaddScb d a b) (fun _ => { ar := [a.toNat], sr := (SOp.sreg b).srs, aw := [d.toNat], uniform := true }) ((uniformEff fun c => c.g.setA d (c.g.areg a + sx64 ((SOp.sreg b).val c.g))))) ∧
  (∀ (d : BitVec 4) (a : BitVec 4) (k : BitVec 32), OnGroup (.aaddLit d a k) (W.aaddLit d a k) (fun _ => { ar := [a.toNat], sr := (SOp.lit k).srs, aw := [d.toNat], uniform := true }) ((uniformEff fun c => c.g.setA d (c.g.areg a + sx64 ((SOp.lit k).val c.g))))) ∧
  (∀ (d : BitVec 4) (a : BitVec 6) (b : BitVec 6), OnGroup (.amov d a b) (W.amov d a b) (fun _ => { sr := [a.toNat, b.toNat], aw := [d.toNat], uniform := true }) ((uniformEff fun c => c.g.setA d (c.g.sreg b ++ c.g.sreg a)))) ∧
  (∀ (d : BitVec 8) (a : BitVec 8) (s1 : BitVec 4), OnGroup (.cvt d a s1) (W.cvt d a s1) (fun s => (useCvt (Ty.ofCode s1.toNat) s.curTy d a)) (fun c => ((cvtEff (Ty.ofCode s1.toNat) d a) c).1)) ∧
  (∀ (d : BitVec 8) (a : BitVec 8) (b : BitVec 8), OnGroup (.pack2 d a b) (W.pack2 d a b) (fun s => { useV .n32 d [a] (.vec b) (s.curTy.width == 8) with types := some [.f16, .bf16, .e4m3, .e5m2, .s16, .n16, .s8, .n8], rounds := s.curTy.isFloat }) (fun c => ((packEff d a b) c).1)) ∧
  (∀ (d : BitVec 8) (a : BitVec 8) (k : BitVec 3) (s1 : BitVec 4), OnGroup (.unpk d a k s1) (W.unpk d a k s1) (fun s => { useV .n32 d [a] (.lit 0) with types := some (if unpkSources.contains (Ty.ofCode s1.toNat) then [.s32, .n32, .f32] else []), rounds := cvtRounds (Ty.ofCode s1.toNat) s.curTy }) (fun c => ((unpkEff (Ty.ofCode s1.toNat) k.toNat d a) c).1)) ∧
  (∀ (d : BitVec 6) (a : BitVec 8), Completes (.mxscl d a) (W.mxscl d a) (fun _ => { vr := [a.toNat, a.toNat + 1], sw := [d.toNat], ext := some 0, types := some [.mx8, .mx4], cross := true }) (groupTrapEff (mxsclEff d a))
    (fun c _ => c.act = 0xFFFF)) ∧
  (∀ (d : BitVec 8) (a : BitVec 8) (b : BitVec 6), Completes (.mxq d a b) (W.mxq d a b) (fun _ => { vr := [a.toNat, a.toNat + 1], sr := [b.toNat], vw := [d.toNat], ext := some 0, types := some [.mx8, .mx4], rounds := true, cross := true }) (mxqEff d a b)
    (fun c _ => c.act = 0xFFFF))

/-- Whenever the instruction issues and its own condition holds, exec answers the next state of its effect. The conditions: br with all of the live lanes active or none; call with no active lane at depth 8, split and call with no live lane at count 255 and two entries free; ret with no live lane at depth 0 and room for its paths; merge below a record; loop and lbrk with one path (loop with an offset of at least 2); tret in a handler with one path; ecall in a handler asks the host. The own effect of brk, of trap with an active lane and of ecall outside a handler is the entry to the handler with causes 0x11, 0x10 and 0x13. (06 R139; 06 R141; 06 R146; 06 R147; 06 R149; 06 R150; 06 R151; 06 R153; 06 R155; 06 R157; 06 R162; 16 R402) -/
def Obligations.ControlComplete : Prop :=
  (OnGroup .nop W.nop (fun _ => { guard := false }) (fun c => c.g)) ∧
  (Completes .exit W.exit (fun _ => { ({ sink := true } : Use) with ctl := true }) (groupTrapEff (fun c => Except.ok (exitEff c)))
    (fun _ _ => True)) ∧
  (OnGroup .yield W.yield (fun _ => { guard := false, yields := true }) (fun c => c.g)) ∧
  (Enters .brk W.brk { ({ guard := false } : Use) with ctl := true } (fun _ => True) (fun c => { cause := 0x11, val := 0, lanes := c.live })) ∧
  (Completes .merge W.merge (fun _ => { ({ guard := false, stop := true } : Use) with ctl := true }) (groupTrapEff mergeEff)
    (fun c _ => (c.g.entryAt c.path).level ≠ 0)) ∧
  (Completes .ret W.ret (fun _ => { ({ guard := false, ends := true } : Use) with ctl := true }) (groupTrapEff retEff)
    (fun c _ => (∀ l : Fin 16, lane c.live l = true → c.g.rd[l] ≠ 0) ∧
      (c.g.noRoom ((retPcs c).length - 1 - c.g.freeTable.length) = false ∨ (retPcs c).length - 1 ≤ c.g.freeTable.length))) ∧
  (Completes .lbrkLc0 W.lbrkLc0 (fun _ => { ({} : Use) with ctl := true }) (groupTrapEff (lbrkEff false))
    (fun c _ => c.g.manyPaths = false)) ∧
  (Completes .lbrkLc1 W.lbrkLc1 (fun _ => { ({} : Use) with ctl := true }) (groupTrapEff (lbrkEff true))
    (fun c _ => c.g.manyPaths = false)) ∧
  (Completes .tret W.tret (fun _ => { ({ guard := false, sup := true, sink := true } : Use) with ctl := true }) (groupTrapEff tretEff)
    (fun c _ => c.g.trap.tstat.getLsbD 0 = true ∧ c.g.manyPaths = false)) ∧
  (∀ (k : BitVec 32), Enters (.trap k) (W.trap k) { ({} : Use) with ctl := true } (fun c => c.act ≠ 0) (fun c => { cause := 0x10, val := k, lanes := c.act })) ∧
  (∀ (o : BitVec 24), Completes (.br o) (W.br o) (fun _ => { ({} : Use) with ctl := true }) (groupTrapEff (brEff o))
    (fun c _ => c.act = c.live ∨ c.act = 0)) ∧
  (∀ (o : BitVec 24), Completes (.jmp o) (W.jmp o) (fun _ => { ({ guard := false } : Use) with ctl := true }) (groupTrapEff (fun c => Except.ok (c.goto (jumpTarget c.pc o))))
    (fun _ _ => True)) ∧
  (∀ (o : BitVec 24), Completes (.call o) (W.call o) (fun _ => { ({ ends := true } : Use) with ctl := true }) (groupTrapEff (callEff o))
    (fun c _ => (∀ l : Fin 16, lane c.act l = true → c.g.rd[l] < 8) ∧
      (∀ l : Fin 16, lane c.live l = true → c.g.nc[l] < 255) ∧ c.g.noRoom 2 = false)) ∧
  (∀ (o : BitVec 24), Completes (.split o) (W.split o) (fun _ => { ({ ends := true } : Use) with ctl := true }) (groupTrapEff (fun c => divideEff (jumpTarget c.pc o) c))
    (fun c _ => (∀ l : Fin 16, lane c.live l = true → c.g.nc[l] < 255) ∧ c.g.noRoom 2 = false)) ∧
  (∀ (o : BitVec 24), Completes (.loopLc0 o) (W.loopLc0 o) (fun _ => { ({ guard := false } : Use) with ctl := true }) (groupTrapEff (loopEff false o))
    (fun c _ => c.g.manyPaths = false ∧ o.slt 2 = false)) ∧
  (∀ (o : BitVec 24), Completes (.loopLc1 o) (W.loopLc1 o) (fun _ => { ({ guard := false } : Use) with ctl := true }) (groupTrapEff (loopEff true o))
    (fun c _ => c.g.manyPaths = false ∧ o.slt 2 = false)) ∧
  (∀ (a : BitVec 6), Completes (.ecall a) (W.ecall a) (fun _ => { sr := [a.toNat], sink := true }) (ecallEff a)
    (fun c _ => c.act ≠ 0 ∧ c.g.trap.tstat.getLsbD 0 = true)
    (fun c _ t => ∃ g, t.groups.get? c.gid = some g ∧ g.mode = .service c.path)) ∧
  (∀ (a : BitVec 6), Enters (.ecall a) (W.ecall a) { sr := [a.toNat], sink := true } (fun c => c.act ≠ 0 ∧ c.g.trap.tstat.getLsbD 0 = false) (fun c => { cause := 0x13, val := c.g.sreg a, lanes := c.act }))

/-- Whenever the instruction issues, exec answers the next state of its effect: always for the CSR reads and writes, sleep, the translation invalidations, the time instructions, wpw, wpr and hrd, and for hstep, hres and hwr when the target group is there, takes the change and need not settle first. (03 R67; 16 R383; 16 R401; 16 R403; 18 R421; 18 R422; 19 R450; 19 R452; 19 R453; 19 R454; 19 R455; 19 R456) -/
def Obligations.SystemComplete : Prop :=
  (∀ (a : BitVec 6), OnGroup (.sleep a) (W.sleep a) (fun _ => { sr := [a.toNat], guard := false, sup := true, sink := true }) ((sleepEff a))) ∧
  (∀ (a : BitVec 4), OnGroup (.tlbiVa a) (W.tlbiVa a) (fun _ => { ar := [a].map (·.toNat), guard := false, sup := true, sink := true }) ((tlbiEff 0 fun c => ([a].map fun a => (c.g.areg a).toNat).headD 0))) ∧
  (OnGroup .tlbiCtx W.tlbiCtx (fun _ => { ar := ([] : List (BitVec 4)).map (·.toNat), guard := false, sup := true, sink := true }) ((tlbiEff 1 fun c => (([] : List (BitVec 4)).map fun a => (c.g.areg a).toNat).headD 0))) ∧
  (OnGroup .tlbiAll W.tlbiAll (fun _ => { ar := ([] : List (BitVec 4)).map (·.toNat), guard := false, sup := true, sink := true }) ((tlbiEff 2 fun c => (([] : List (BitVec 4)).map fun a => (c.g.areg a).toNat).headD 0))) ∧
  (∀ (d : BitVec 4), OnGroup (.rdtm d) (W.rdtm d) (fun _ => { aw := [d.toNat], uniform := true }) ((rdtmEff d))) ∧
  (∀ (a : BitVec 4), OnGroup (.wtm a) (W.wtm a) (fun _ => { ar := [a.toNat], guard := false, stop := true }) ((wtmEff a))) ∧
  (∀ (d : BitVec 6) (k : BitVec 32), Completes (.csrr d k) (W.csrr d k) (fun _ => { sw := [d.toNat], uniform := true }) (csrrEff d k)
    (fun _ _ => True)) ∧
  (∀ (a : BitVec 6) (k : BitVec 32), Completes (.csrw a k) (W.csrw a k) (fun _ => { sr := [a.toNat], uniform := true, sink := true }) (csrwEff a k)
    (fun _ _ => True)) ∧
  (∀ (a : BitVec 6), Completes (.xmaskWrite a) (W.csrw a 0x102) (fun _ => { sr := [a.toNat], uniform := true, sink := true }) (csrwEff a 0x102)
    (fun _ _ => True)) ∧
  (∀ (hi : Bool) (a : BitVec 6), Completes (.almapWrite hi a) (W.csrw a (if hi then 0x1140 else 0x140)) (fun _ => { sr := [a.toNat], uniform := true, sink := true }) (csrwEff a (if hi then 0x1140 else 0x140))
    (fun _ _ => True)) ∧
  (∀ (a : BitVec 6), Completes (.trctlReset a) (W.csrw a 0x161) (fun _ => { sr := [a.toNat], uniform := true, sink := true }) (csrwEff a 0x161)
    (fun _ _ => True)) ∧
  (∀ (d : BitVec 6) (a : BitVec 4), Completes (.hstep d a) (W.hstep d a) (fun _ => { sr := [d.toNat], ar := [a.toNat], pw := [7], sup := true, uniform := true, sink := true }) (hstepEff d a)
    (fun c => TargetReady (c.g.areg a).toNat true (fun g => g.startStep (Fin.ofNat 16 (c.g.sreg d).toNat) c.tick) c)) ∧
  (∀ (d : BitVec 6) (a : BitVec 4), Completes (.hres d a) (W.hres d a) (fun _ => { sr := [d.toNat], ar := [a.toNat], pw := [7], sup := true, uniform := true, sink := true }) (hresEff d a)
    (fun c => TargetReady (c.g.areg a).toNat true (fun g => g.resumeLanes ((c.g.sreg d).setWidth 16) c.tick) c)) ∧
  (∀ (d : BitVec 3) (a : BitVec 6) (b : BitVec 4), Completes (.wpw d a b) (W.wpw d a b) (fun _ => { sr := a.toNat :: (List.range 4).map (4 * b.toNat + ·), pw := [d.toNat], sup := true, uniform := true, sink := true }) (wpwEff d a b)
    (fun _ _ => True)) ∧
  (∀ (d : BitVec 6) (a : BitVec 6), Completes (.wpr d a) (W.wpr d a) (fun _ => { sr := [a.toNat], sw := [d.toNat], sup := true, uniform := true }) (wprEff d a)
    (fun _ _ => True)) ∧
  (∀ (d : BitVec 6) (a : BitVec 4) (b : BitVec 6), Completes (.hrd d a b) (W.hrd d a b) (fun _ => { sr := [b.toNat], ar := [a.toNat], sw := [d.toNat], pw := [7], sup := true, uniform := true }) (hrdEff d a b)
    (fun _ _ => True)) ∧
  (∀ (d : BitVec 6) (a : BitVec 4) (b : BitVec 6), Completes (.hwr d a b) (W.hwr d a b) (fun _ => { sr := [b.toNat, d.toNat], ar := [a.toNat], pw := [7], sup := true, uniform := true, sink := true }) (hwrEff d a b)
    (fun c => TargetReady (c.g.areg a).toNat (bits (c.g.sreg b).toNat 31 28 == 4) (fun g => g.hwrItem (c.g.sreg b) (c.g.sreg d) c.tick) c))

/-- Whenever the instruction issues and its operands are in order, exec answers a next state in which its operation is in flight with the active lanes. The conditions: out of precise mode, the record of MD.buf reads and every active lane passes check 7; a queued store finds room in the speculative store queue; a release store translates; grow can be met at once; shrink drops no register with a write pending; pref has no condition. (07 R173; 07 R175; 07 R178; 07 R181; 07 R182; 07 R184; 07 R186; 07 R187; 07 R188; 08 R214; 09 R234; 16 R387) -/
def Obligations.AccessComplete : Prop :=
  (∀ (a : BitVec 6) (c1 : BitVec 3), OnGroup (.wret a c1) (W.wret a c1) (fun _ => { sr := [a.toNat], guard := false, stop := true }) ((wretEff a c1.toNat))) ∧
  (∀ (d : BitVec 8) (a : BitVec 4) (b : BitVec 8) (r : BufRec), Completes (.ldReg d a b) (W.ldReg d a b) (fun s => (useLoad s.curTy d a (MOff.vec b))) (loadEff LoadHow.l1 d a (MOff.vec b))
    (AddressesReady (some .l1) a (MOff.vec b) r)
    (fun c s t => t.begins s c (.load d.toNat r c.md .l1))) ∧
  (∀ (d : BitVec 8) (a : BitVec 4) (b : BitVec 6) (r : BufRec), Completes (.ldScb d a b) (W.ldScb d a b) (fun s => (useLoad s.curTy d a (MOff.sreg b))) (loadEff LoadHow.l1 d a (MOff.sreg b))
    (AddressesReady (some .l1) a (MOff.sreg b) r)
    (fun c s t => t.begins s c (.load d.toNat r c.md .l1))) ∧
  (∀ (d : BitVec 8) (a : BitVec 4) (k : BitVec 32) (r : BufRec), Completes (.ldLit d a k) (W.ldLit d a k) (fun s => (useLoad s.curTy d a (MOff.lit k))) (loadEff LoadHow.l1 d a (MOff.lit k))
    (AddressesReady (some .l1) a (MOff.lit k) r)
    (fun c s t => t.begins s c (.load d.toNat r c.md .l1))) ∧
  (∀ (d : BitVec 8) (a : BitVec 4) (b : BitVec 8) (r : BufRec), Completes (.stReg d a b) (W.stReg d a b) (fun s => { ((MOff.vec b).use a) with vr := ((MOff.vec b).use a).vr ++ vnums (s.curTy) d, pairs := evens (s.curTy) [d], cls := some 1, types := some memTypes, sink := false }) (storeEff false d a (MOff.vec b))
    (fun c s => AddressesReady none a (MOff.vec b) r c s ∧ c.queueRoom)
    (fun c s t => t.begins s c .store)) ∧
  (∀ (d : BitVec 8) (a : BitVec 4) (b : BitVec 6) (r : BufRec), Completes (.stScb d a b) (W.stScb d a b) (fun s => { ((MOff.sreg b).use a) with vr := ((MOff.sreg b).use a).vr ++ vnums (s.curTy) d, pairs := evens (s.curTy) [d], cls := some 1, types := some memTypes, sink := false }) (storeEff false d a (MOff.sreg b))
    (fun c s => AddressesReady none a (MOff.sreg b) r c s ∧ c.queueRoom)
    (fun c s t => t.begins s c .store)) ∧
  (∀ (d : BitVec 8) (a : BitVec 4) (k : BitVec 32) (r : BufRec), Completes (.stLit d a k) (W.stLit d a k) (fun s => { ((MOff.lit k).use a) with vr := ((MOff.lit k).use a).vr ++ vnums (s.curTy) d, pairs := evens (s.curTy) [d], cls := some 1, types := some memTypes, sink := false }) (storeEff false d a (MOff.lit k))
    (fun c s => AddressesReady none a (MOff.lit k) r c s ∧ c.queueRoom)
    (fun c s t => t.begins s c .store)) ∧
  (∀ (d : BitVec 8) (a : BitVec 4) (b : BitVec 8), Completes (.ldsReg d a b) (W.ldsReg d a b) (fun _ => { (MOff.vec b).use a with later := { v := [d.toNat] }, cls := some 0, ownPoison := true }) (ldsEff d a (MOff.vec b))
    (ScratchReady a (MOff.vec b))
    (fun c s t => t.begins s c (.lds d.toNat))) ∧
  (∀ (d : BitVec 8) (a : BitVec 4) (k : BitVec 32), Completes (.ldsLit d a k) (W.ldsLit d a k) (fun _ => { (MOff.lit k).use a with later := { v := [d.toNat] }, cls := some 0, ownPoison := true }) (ldsEff d a (MOff.lit k))
    (ScratchReady a (MOff.lit k))
    (fun c s t => t.begins s c (.lds d.toNat))) ∧
  (∀ (d : BitVec 8) (a : BitVec 4) (b : BitVec 8), Completes (.stsReg d a b) (W.stsReg d a b) (fun _ => { ((MOff.vec b).use a) with vr := d.toNat :: ((MOff.vec b).use a).vr, cls := some 1 }) (stsEff d a (MOff.vec b))
    (fun c s => ScratchReady a (MOff.vec b) c s ∧ c.queueRoom)
    (fun c s t => t.begins s c .sts)) ∧
  (∀ (d : BitVec 8) (a : BitVec 4) (k : BitVec 32), Completes (.stsLit d a k) (W.stsLit d a k) (fun _ => { ((MOff.lit k).use a) with vr := d.toNat :: ((MOff.lit k).use a).vr, cls := some 1 }) (stsEff d a (MOff.lit k))
    (fun c s => ScratchReady a (MOff.lit k) c s ∧ c.queueRoom)
    (fun c s t => t.begins s c .sts)) ∧
  (∀ (d : BitVec 8) (a : BitVec 4) (b : BitVec 8) (r : BufRec), Completes (.ldcReg d a b) (W.ldcReg d a b) (fun s => (useLoad s.curTy d a (MOff.vec b))) (loadEff LoadHow.home d a (MOff.vec b))
    (AddressesReady (some .home) a (MOff.vec b) r)
    (fun c s t => t.begins s c (.load d.toNat r c.md .home))) ∧
  (∀ (d : BitVec 8) (a : BitVec 4) (k : BitVec 32) (r : BufRec), Completes (.ldcLit d a k) (W.ldcLit d a k) (fun s => (useLoad s.curTy d a (MOff.lit k))) (loadEff LoadHow.home d a (MOff.lit k))
    (AddressesReady (some .home) a (MOff.lit k) r)
    (fun c s t => t.begins s c (.load d.toNat r c.md .home))) ∧
  (∀ (d : BitVec 8) (a : BitVec 4) (b : BitVec 8) (r : BufRec), Completes (.ldaReg d a b) (W.ldaReg d a b) (fun s => (useLoad s.curTy d a (MOff.vec b))) (loadEff LoadHow.acq d a (MOff.vec b))
    (AddressesReady (some .acq) a (MOff.vec b) r)
    (fun c s t => t.begins s c (.load d.toNat r c.md .acq))) ∧
  (∀ (d : BitVec 8) (a : BitVec 4) (k : BitVec 32) (r : BufRec), Completes (.ldaLit d a k) (W.ldaLit d a k) (fun s => (useLoad s.curTy d a (MOff.lit k))) (loadEff LoadHow.acq d a (MOff.lit k))
    (AddressesReady (some .acq) a (MOff.lit k) r)
    (fun c s t => t.begins s c (.load d.toNat r c.md .acq))) ∧
  (∀ (d : BitVec 8) (a : BitVec 4) (b : BitVec 8) (r : BufRec), Completes (.strReg d a b) (W.strReg d a b) (fun s => { ((MOff.vec b).use a) with vr := ((MOff.vec b).use a).vr ++ vnums (s.curTy) d, pairs := evens (s.curTy) [d], cls := some 1, types := some memTypes, sink := true }) (storeEff true d a (MOff.vec b))
    (fun c s => AddressesReady none a (MOff.vec b) r c s ∧
      c.translates s (storeAccs d a (MOff.vec b) c r (c.act &&& ~~~(((MOff.vec b)).poison c.g a))))
    (fun c s t => t.begins s c .store)) ∧
  (∀ (d : BitVec 8) (a : BitVec 4) (k : BitVec 32) (r : BufRec), Completes (.strLit d a k) (W.strLit d a k) (fun s => { ((MOff.lit k).use a) with vr := ((MOff.lit k).use a).vr ++ vnums (s.curTy) d, pairs := evens (s.curTy) [d], cls := some 1, types := some memTypes, sink := true }) (storeEff true d a (MOff.lit k))
    (fun c s => AddressesReady none a (MOff.lit k) r c s ∧
      c.translates s (storeAccs d a (MOff.lit k) c r (c.act &&& ~~~(((MOff.lit k)).poison c.g a))))
    (fun c s t => t.begins s c .store)) ∧
  (∀ (a : BitVec 4) (b : BitVec 8), Completes (.prefReg a b) (W.prefReg a b) (fun _ => { (MOff.vec b).use a with types := some memTypes, ownPoison := true }) (prefEff a (MOff.vec b))
    (fun _ _ => True)) ∧
  (∀ (a : BitVec 4) (k : BitVec 32), Completes (.prefLit a k) (W.prefLit a k) (fun _ => { (MOff.lit k).use a with types := some memTypes, ownPoison := true }) (prefEff a (MOff.lit k))
    (fun _ _ => True)) ∧
  (∀ (k : BitVec 32), Completes (.grow k) (W.grow k) (fun _ => { uniform := true, stop := true }) (growEff k)
    (GrowReady k)
    (fun c _ t => ∃ g, t.groups.get? c.gid = some g ∧ g.valloc = max c.g.valloc (growTarget k))) ∧
  (∀ (d : BitVec 3) (k : BitVec 32), Completes (.growTry d k) (W.growTry d k) (fun _ => { pw := [d.toNat], uniform := true }) (growTryEff d k)
    (GrowReady k)
    (fun c _ t => ∃ g, t.groups.get? c.gid = some g ∧ g.valloc = max c.g.valloc (growTarget k) ∧ g.pred d = 0xFFFF)) ∧
  (∀ (k : BitVec 32), Completes (.shrink k) (W.shrink k) (fun _ => { uniform := true }) (shrinkEff k)
    (fun c s => c.act ≠ 0 ∧ ∀ n ∈ (s.pendingRegs c.gid).v, n < 16 * growTarget k)
    (fun c _ t => ∃ g, t.groups.get? c.gid = some g ∧ g.valloc = min c.g.valloc (growTarget k))) ∧
  (∀ (d : BitVec 8) (a : BitVec 4) (b : BitVec 8) (r : BufRec), Completes (.ldbReg d a b) (W.ldbReg d a b) (fun s => { (useLoad s.curTy d a (MOff.vec b)) with sr := 63 :: (useLoad s.curTy d a (MOff.vec b)).sr, ext := some 2, later := { (useLoad s.curTy d a (MOff.vec b)).later with p := [7] } }) (fun c s => loadEff (boundOf c.g) d a (MOff.vec b) c s)
    (fun c => AddressesReady (some (boundOf c.g)) a (MOff.vec b) r c)
    (fun c s t => t.begins s c (.load d.toNat r c.md (boundOf c.g)))) ∧
  (∀ (d : BitVec 8) (a : BitVec 4) (k : BitVec 32) (r : BufRec), Completes (.ldbLit d a k) (W.ldbLit d a k) (fun s => { (useLoad s.curTy d a (MOff.lit k)) with sr := 63 :: (useLoad s.curTy d a (MOff.lit k)).sr, ext := some 2, later := { (useLoad s.curTy d a (MOff.lit k)).later with p := [7] } }) (fun c s => loadEff (boundOf c.g) d a (MOff.lit k) c s)
    (fun c => AddressesReady (some (boundOf c.g)) a (MOff.lit k) r c)
    (fun c s t => t.begins s c (.load d.toNat r c.md (boundOf c.g))))

/-- Whenever the instruction issues and its operands are in order, exec answers the next state of its effect: for the atomics and the monitors when every address is aligned and translates, for rrd with an active lane, and always for the barriers, the fences and radv. (08 R206; 08 R207; 08 R208; 09 R231; 09 R236; 09 R240; 09 R242; 09 R245; 09 R249; 09 R250; 15 R373) -/
def Obligations.SyncComplete : Prop :=
  (∀ (d : BitVec 6) (a : BitVec 4), Completes (.cwait d a) (W.cwait d a) (fun _ => { ar := [a.toNat], later := replyRegs (some d.toNat), uniform := true, sink := true }) (mwaitEff (some d) 1 a fun _ => 0)
    (MonitorReady a)) ∧
  (OnGroup .bar W.bar (fun _ => { guard := false, sink := true }) (fun c => c.hold (.bar none))) ∧
  (∀ (a : BitVec 6), Completes (.barw a) (W.barw a) (fun _ => { sr := [a.toNat], guard := false, stop := true }) (barwEff a)
    (fun _ _ => True)) ∧
  (Completes .gbar W.gbar (fun _ => { guard := false, sink := true }) (fun c s => .ok (gbarEff c s) [])
    (fun _ _ => True)) ∧
  (∀ (s1 : BitVec 3), Completes (.fenceAcq s1) (W.fenceAcq s1) (fun _ => { guard := false }) (fun c s => .ok (fenceAcqEff s1.toNat c s) [])
    (fun _ _ => True)) ∧
  (∀ (s1 : BitVec 3), OnGroup (.fenceRel s1) (W.fenceRel s1) (fun _ => { guard := false, sink := true }) (fun c => c.release s1.toNat .done)) ∧
  (∀ (s1 : BitVec 3), OnGroup (.fenceAr s1) (W.fenceAr s1) (fun _ => { guard := false, sink := true }) (fun c => c.release s1.toNat (.acquire s1.toNat))) ∧
  (∀ (d : BitVec 8) (a : BitVec 4) (o : BitVec 4), Completes (.atom d a o) (W.atom d a o) (fun s => (useAtom s.curTy o.toNat false true d.toNat a ((d.toNat + ·) (runLen s.curTy)))) (atomEff o.toNat false true d.toNat a (d.toNat + ·))
    (AtomicReady false true d.toNat a (d.toNat + ·))
    (fun c s t => t.begins s c (.atom (some d.toNat) o.toNat false (mdType c.md)))) ∧
  (∀ (d : BitVec 8) (a : BitVec 4) (o : BitVec 4), Completes (.red d a o) (W.red d a o) (fun s => (useAtom s.curTy o.toNat false false d.toNat a ((d.toNat + ·) (runLen s.curTy)))) (atomEff o.toNat false false d.toNat a (d.toNat + ·))
    (AtomicReady false false d.toNat a (d.toNat + ·))
    (fun c s t => t.begins s c (.atom none o.toNat false (mdType c.md)))) ∧
  (∀ (d : BitVec 8) (a : BitVec 4) (b : BitVec 8), Completes (.cas d a b) (W.cas d a b) (fun s => (useAtom s.curTy 0 true true d.toNat a ((fun _ => b.toNat) (runLen s.curTy)))) (atomEff 0 true true d.toNat a (fun _ => b.toNat))
    (AtomicReady true true d.toNat a (fun _ => b.toNat))
    (fun c s t => t.begins s c (.atom (some d.toNat) 0 true (mdType c.md)))) ∧
  (∀ (d : BitVec 6) (a : BitVec 6) (b : BitVec 6), Completes (.barv d a b) (W.barv d a b) (fun _ => { sr := [a.toNat, b.toNat], sw := [d.toNat], uniform := true, sink := true }) (fun c s => .ok (s.setGroup c.gid (barvEff d a b c s)) [])
    (fun _ _ => True)) ∧
  (∀ (c1 : BitVec 3) (a : BitVec 4) (b : BitVec 6), Completes (.mwait c1 a b) (W.mwait c1 a b) (fun _ => { ar := [a.toNat], sr := [b.toNat], later := replyRegs none, uniform := true, sink := true }) (mwaitEff none c1.toNat a fun g => g.sreg b)
    (MonitorReady a)) ∧
  (∀ (s1 : BitVec 3) (a : BitVec 4), Completes (.radv s1 a) (W.radv s1 a) (fun _ => { ar := [a.toNat], ext := some 2, uniform := true, sink := true }) (groupEff (radvEff s1.toNat a))
    (fun _ _ => True)) ∧
  (∀ (d : BitVec 4) (a : BitVec 4), Completes (.rrd d a) (W.rrd d a) (fun _ => (useRrd d a)) (fun c s => .ok (rrdEff false d a c s) [])
    (fun c _ => c.act ≠ 0)) ∧
  (∀ (d : BitVec 4) (a : BitVec 4), Completes (.rrdObs d a) (W.rrdObs d a) (fun _ => (useRrd d a)) (fun c s => .ok (rrdEff true d a c s) [])
    (fun c _ => c.act ≠ 0))

/-- Whenever the instruction issues and its operands are in order, exec answers a next state in which its operation is in flight. The conditions: for a copy a legal control word, records that read, and ranges as its form asks; for a matrix instruction all 16 lanes, the token state that it needs and room in the queue; for wcpin and wcunp a header that reads; for the samples and traces a group out of precise mode. (07 R190; 07 R191; 07 R192; 10 R259; 10 R264; 10 R266; 10 R268; 10 R269; 11 R293; 11 R300; 12 R317; 12 R319) -/
def Obligations.EnginesComplete : Prop :=
  (∀ (d : BitVec 4) (a : BitVec 4) (b : BitVec 5), Completes (.cp d a b) (W.cp d a b) (fun _ => (useCopy [d.toNat, a.toNat] [] (2 * b.toNat) 2 none)) (fun c s => copyEff c s 0 { form := 0, n := 0, dst := (c.g.areg d).toNat, src := (c.g.areg a).toNat, sp := (c.g.sAt ((2 * b.toNat) + 2)).toInt, dp := (c.g.sAt ((2 * b.toNat) + 3)).toInt } (c.g.sAt (2 * b.toNat)) (c.g.sAt ((2 * b.toNat) + 1)))
    (fun c _ => (c.g.sAt (2 * b.toNat + 1)).getLsbD 8 = false ∧ ControlReady 0 (c.g.sAt (2 * b.toNat + 1)) c)
    (fun c s t => ∃ x, t.begins s c (.copy x))) ∧
  (∀ (d : BitVec 4) (a : BitVec 4) (b : BitVec 5) (sr dr : BufRec), Completes (.cp d a b) (W.cp d a b) (fun _ => (useCopy [d.toNat, a.toNat] [] (2 * b.toNat) 2 none)) (fun c s => copyEff c s 0 { form := 0, n := 0, dst := (c.g.areg d).toNat, src := (c.g.areg a).toNat, sp := (c.g.sAt ((2 * b.toNat) + 2)).toInt, dp := (c.g.sAt ((2 * b.toNat) + 3)).toInt } (c.g.sAt (2 * b.toNat)) (c.g.sAt ((2 * b.toNat) + 1)))
    (fun c s => (c.g.sAt (2 * b.toNat + 1)).getLsbD 8 = true ∧ ControlReady 1 (c.g.sAt (2 * b.toNat + 1)) c ∧
      ConvertReady { form := 0, n := 0, dst := (c.g.areg d).toNat, src := (c.g.areg a).toNat, sp := (c.g.sAt (2 * b.toNat + 2)).toInt, dp := (c.g.sAt (2 * b.toNat + 3)).toInt }
        (c.g.sAt (2 * b.toNat)) (c.g.sAt (2 * b.toNat + 1)) sr dr c s)
    (fun c s t => ∃ x, t.begins s c (.copy x))) ∧
  (∀ (d : BitVec 4) (a : BitVec 4) (b : BitVec 4), Completes (.cp2d d a b) (W.cp2d d a b) (fun _ => (useCopy [d.toNat, a.toNat] [] (4 * b.toNat) 4 none)) (fun c s => copyEff c s 2 { form := 2, n := 0, dst := (c.g.areg d).toNat, src := (c.g.areg a).toNat, sp := (c.g.sAt ((4 * b.toNat) + 2)).toInt, dp := (c.g.sAt ((4 * b.toNat) + 3)).toInt } (c.g.sAt (4 * b.toNat)) (c.g.sAt ((4 * b.toNat) + 1)))
    (fun c _ => ControlReady 2 (c.g.sAt (4 * b.toNat + 1)) c ∧
      RowsReady { form := 2, n := 0, dst := (c.g.areg d).toNat, src := (c.g.areg a).toNat, sp := (c.g.sAt (4 * b.toNat + 2)).toInt, dp := (c.g.sAt (4 * b.toNat + 3)).toInt }
        (c.g.sAt (4 * b.toNat)) (c.g.sAt (4 * b.toNat + 1)) c)
    (fun c s t => ∃ x, t.begins s c (.copy x))) ∧
  (∀ (d : BitVec 4) (a : BitVec 6) (b : BitVec 5), Completes (.cpr d a b) (W.cpr d a b) (fun _ => (useCopy [d.toNat] [a.toNat] (2 * b.toNat) 2 none)) (fun c s => let w := c.g.sAt ((2 * b.toNat) + 1); let m := (c.g.areg d).toNat; let k := (c.g.sreg a).toNat; copyEff c s 3 { form := 3, n := 0, dst := if w.getLsbD 12 then m else k, src := if w.getLsbD 12 then k else m } (c.g.sAt (2 * b.toNat)) w)
    (fun c s => ControlReady 3 (c.g.sAt (2 * b.toNat + 1)) c ∧ (c.g.sAt (2 * b.toNat) = 0 ∨
      (c.g.sreg a).toNat + (c.g.sAt (2 * b.toNat)).toNat ≤ ((s.blocks.get? c.g.block).map (·.ssize)).getD 0))
    (fun c s t => ∃ x, t.begins s c (.copy x))) ∧
  (∀ (d : BitVec 4) (a : BitVec 4) (b : BitVec 5) (dr : BufRec), Completes (.cpdec d a b) (W.cpdec d a b) (fun _ => (useCopy [d.toNat, a.toNat] [] (2 * b.toNat) 2 (some 1))) (fun c s => copyEff c s 4 { form := 4, n := 0, dst := (c.g.areg d).toNat, src := (c.g.areg a).toNat, sp := (c.g.sAt ((2 * b.toNat) + 2)).toInt, dp := (c.g.sAt ((2 * b.toNat) + 3)).toInt } (c.g.sAt (2 * b.toNat)) (c.g.sAt ((2 * b.toNat) + 1)))
    (fun c s => ControlReady 4 (c.g.sAt (2 * b.toNat + 1)) c ∧
      DecompressReady { form := 4, n := 0, dst := (c.g.areg d).toNat, src := (c.g.areg a).toNat, sp := (c.g.sAt (2 * b.toNat + 2)).toInt, dp := (c.g.sAt (2 * b.toNat + 3)).toInt }
        (c.g.sAt (2 * b.toNat)) (c.g.sAt (2 * b.toNat + 1)) dr c s)
    (fun c s t => ∃ x, t.begins s c (.copy x))) ∧
  (∀ (d : BitVec 8) (a : BitVec 8) (b : BitVec 8), Completes (.mma d a b) (W.mma d a b) (fun s => (useMma s false d a b)) (mmaEff false d a b)
    (fun c s => c.act = 0xFFFF ∧ s.hasToken c.gid c.g d.toNat = false ∧ s.queueFull c.g false = false)
    (fun c s t => ∃ ra rb sa sb, t.begins s c (.mma d.toNat false (mdType c.md) ra rb sa sb))) ∧
  (∀ (d : BitVec 8) (a : BitVec 8) (b : BitVec 8), Completes (.mmakb d a b) (W.mmakb d a b) (fun s => (useMma s false d a b)) (mmaEff false d a b)
    (fun c s => c.act = 0xFFFF ∧ s.hasToken c.gid c.g d.toNat = false ∧ s.queueFull c.g false = false)
    (fun c s t => ∃ ra rb sa sb, t.begins s c (.mma d.toNat false (mdType c.md) ra rb sa sb))) ∧
  (∀ (d : BitVec 8), Completes (.accq d) (W.accq d) (fun s => (useTile s d)) (accqEff d)
    (fun c s => c.act = 0xFFFF ∧ s.hasToken c.gid c.g d.toNat = false)
    (fun c s t => t.begins s c (.accq d.toNat))) ∧
  (∀ (d : BitVec 8), Completes (.accr d) (W.accr d) (fun s => (useTile s d)) (accrEff d)
    (fun c s => c.act = 0xFFFF ∧ s.hasToken c.gid c.g d.toNat = true ∧
      s.ops.any (fun e => e.2.g == c.gid && !e.2.finished && e.2.kind.moveTile == some d.toNat) = false)
    (fun c s t => t.begins s c (.accr d.toNat))) ∧
  (∀ (d : BitVec 8) (a : BitVec 8), Completes (.accld d a) (W.accld d a) (fun s => (useMove s false a d)) (accldEff d a)
    (fun c s => c.act = 0xFFFF ∧ s.hasToken c.gid c.g a.toNat = true)
    (fun c s t => t.begins s c (.accld d.toNat a.toNat))) ∧
  (∀ (d : BitVec 8) (a : BitVec 8), Completes (.accst d a) (W.accst d a) (fun s => (useMove s true d a)) (accstEff d a)
    (fun c s => c.act = 0xFFFF ∧ s.hasToken c.gid c.g d.toNat = true)
    (fun c s t => ∃ rows, t.begins s c (.accst d.toNat rows))) ∧
  (∀ (d : BitVec 8), Completes (.acczr d) (W.acczr d) (fun s => (useTile s d)) (acczrEff d)
    (fun c s => c.act = 0xFFFF ∧ s.hasToken c.gid c.g d.toNat = false ∧ s.queueFull c.g false = false)
    (fun c s t => t.begins s c (.acczr d.toNat))) ∧
  (∀ (a : BitVec 6), OnGroup (.mprio a) (W.mprio a) (fun _ => { sr := [a.toNat], uniform := true }) ((mprioEff a))) ∧
  (∀ (d : BitVec 8) (a : BitVec 8) (b : BitVec 8), Completes (.xmma d a b) (W.xmma d a b) (fun s => (useMma s true d a b)) (mmaEff true d a b)
    (fun c s => c.act = 0xFFFF ∧ s.hasToken c.gid c.g d.toNat = false ∧ s.queueFull c.g true = false)
    (fun c s t => ∃ ra rb sa sb, t.begins s c (.mma d.toNat true (mdType c.md) ra rb sa sb))) ∧
  (∀ (d : BitVec 3) (a : BitVec 4) (x y : Nat), Completes (.wcpin d a) (W.wcpin d a) (fun _ => { ar := [a.toNat], later := { p := [d.toNat] }, cls := some 3, uniform := true, sink := true, ownPoison := true }) (wcpinEff d a)
    (fun c s => c.act ≠ 0 ∧ s.unitHdr { c.op (.wcpin d.toNat (c.g.areg a).toNat) (some 3) with writes := { p := [d.toNat] }, phase := 7 } true (c.g.areg a).toNat = .ok x ∧
      (((s.core c.g.core).weights c.g.ctx (NetHdr.of x).wbase).isSome = true ∨
        s.readBlob { c.op (.wcpin d.toNat (c.g.areg a).toNat) (some 3) with writes := { p := [d.toNat] }, phase := 7 } (NetHdr.of x) = .ok y))
    (fun c s t => t.begins s c (.wcpin d.toNat (c.g.areg a).toNat))) ∧
  (∀ (a : BitVec 4) (x : Nat), Completes (.wcunp a) (W.wcunp a) (fun _ => { ar := [a.toNat], uniform := true, sink := true }) (wcunpEff a)
    (fun c s => c.act ≠ 0 ∧ s.unitHdr { c.op (.wcpin 0 (c.g.areg a).toNat) none with phase := 7 } true (c.g.areg a).toNat = .ok x)) ∧
  (∀ (a : BitVec 4), Completes (.wcinv a) (W.wcinv a) (fun _ => { ar := [a.toNat], cls := some 3, uniform := true, sink := true }) (wcinvEff (some a))
    (fun _ _ => True)) ∧
  (Completes .wcinvAll W.wcinvAll (fun _ => { cls := some 3, uniform := true, sink := true }) (wcinvEff none)
    (fun _ _ => True)) ∧
  (∀ (a : BitVec 6), Completes (.rtgen a) (W.rtgen a) (fun _ => { sr := [a.toNat], uniform := true }) (rtgenEff a)
    (fun _ _ => True)) ∧
  (∀ (a : BitVec 6), Completes (.rtinv a) (W.rtinv a) (fun _ => { sr := [a.toNat], uniform := true }) (rtinvEff (some a))
    (fun _ _ => True)) ∧
  (Completes .rtinvAll W.rtinvAll (fun _ => { uniform := true }) (rtinvEff none)
    (fun _ _ => True)) ∧
  (∀ (d : BitVec 8) (a : BitVec 4) (b : BitVec 8), Completes (.smp d a b) (W.smp d a b) (fun s => (useSample 0 s.curTy d a b)) (sampleEff 0 d a b)
    (fun c _ => c.g.precise = false)
    (fun c s t => t.begins s c (.sample 0 d.toNat (c.g.areg a).toNat (mdType c.md)))) ∧
  (∀ (d : BitVec 8) (a : BitVec 4) (b : BitVec 8), Completes (.smpg d a b) (W.smpg d a b) (fun s => (useSample 1 s.curTy d a b)) (sampleEff 1 d a b)
    (fun c _ => c.g.precise = false)
    (fun c s t => t.begins s c (.sample 1 d.toNat (c.g.areg a).toNat (mdType c.md)))) ∧
  (∀ (d : BitVec 8) (a : BitVec 4) (b : BitVec 8), Completes (.smpl d a b) (W.smpl d a b) (fun s => (useSample 2 s.curTy d a b)) (sampleEff 2 d a b)
    (fun c _ => c.g.precise = false)
    (fun c s t => t.begins s c (.sample 2 d.toNat (c.g.areg a).toNat (mdType c.md)))) ∧
  (∀ (d : BitVec 8) (a : BitVec 4) (b : BitVec 8), Completes (.txf d a b) (W.txf d a b) (fun s => (useSample 3 s.curTy d a b)) (sampleEff 3 d a b)
    (fun c _ => c.g.precise = false)
    (fun c s t => t.begins s c (.sample 3 d.toNat (c.g.areg a).toNat (mdType c.md)))) ∧
  (∀ (d : BitVec 8) (a : BitVec 4) (b : BitVec 8), Completes (.rtrc d a b) (W.rtrc d a b) (fun _ => (useTrace 0 d a b)) (traceEff 0 d a b)
    (fun c _ => c.g.precise = false)
    (fun c s t => t.begins s c (.trace 0 d.toNat (c.g.areg a).toNat))) ∧
  (∀ (d : BitVec 8) (a : BitVec 4) (b : BitVec 8), Completes (.rtnx d a b) (W.rtnx d a b) (fun _ => (useTrace 1 d a b)) (traceEff 1 d a b)
    (fun c _ => c.g.precise = false)
    (fun c s t => t.begins s c (.trace 1 d.toNat (c.g.areg a).toNat))) ∧
  (∀ (d : BitVec 8), OnGroup (.rtrs d) (W.rtrs d) (fun _ => (useRtrs d)) ((rtrsEff d))) ∧
  (∀ (d : BitVec 8) (a : BitVec 4) (b : BitVec 8), Completes (.rthit d a b) (W.rthit d a b) (fun _ => (useTrace 2 d a b)) (traceEff 2 d a b)
    (fun c _ => c.g.precise = false)
    (fun c s t => t.begins s c (.trace 2 d.toNat (c.g.areg a).toNat))) ∧
  (∀ (d : BitVec 8) (a : BitVec 4) (b : BitVec 8), Completes (.smpn d a b) (W.smpn d a b) (fun s => (useSample 4 s.curTy d a b)) (sampleEff 4 d a b)
    (fun c _ => c.g.precise = false)
    (fun c s t => t.begins s c (.sample 4 d.toNat (c.g.areg a).toNat (mdType c.md))))

/-- Whenever the instruction issues and its operands are in order, exec answers the next state of its effect. The conditions: the raster state record is aligned, reads and is well formed; for rtri also its pixel kernel and room in the queue of triangles; for rtw room in the store queue and no earlier group at its pixel; for the others that the accesses translate; for launch an aligned descriptor; none for cncl, rdparam and rend. (13 R326; 13 R328; 13 R331; 13 R335; 13 R336; 13 R337; 13 R338; 13 R339; 15 R370; 15 R372; 15 R374; 16 R387) -/
def Obligations.RasterAndWorkComplete : Prop :=
  (∀ (d : BitVec 6) (a : BitVec 4), Completes (.cncl d a) (W.cncl d a) (fun _ => { ar := [a.toNat], sw := [d.toNat], uniform := true, sink := true }) (cnclEff d a)
    (fun _ _ => True)) ∧
  (OnGroup .rend W.rend (fun _ => { guard := false, sink := true }) (rendEff)) ∧
  (∀ (d : BitVec 8) (a : BitVec 4) (b : BitVec 8) (rs x : Nat), Completes (.rtri d a b) (W.rtri d a b) (fun _ => (useRtri d a b)) (rtriEff d a b)
    (fun c s => RasterReady a false rs c s ∧ TrianglesReady rs x c s)) ∧
  (∀ (d : BitVec 8) (a : BitVec 4) (b : BitVec 8) (rs : Nat), Completes (.rtw d a b) (W.rtw d a b) (fun _ => { vr := (List.range 4).map (· + d.toNat) ++ [b.toNat, b.toNat + 1], ar := [a.toNat], cls := some 1 }) (rtwEff d a b)
    (fun c s => RasterReady a false rs c s ∧ c.g.precise = false ∧ c.queueRoom ∧ s.earlierPixel c.g = false)
    (fun c s t => t.begins s c (.rtw rs))) ∧
  (∀ (a : BitVec 4) (b : BitVec 6) (rs : Nat), Completes (.rclr a b) (W.rclr a b) (fun _ => { ar := [a.toNat], sr := (List.range 3).map (· + b.toNat), range := decide (61 < b.toNat), cls := some 1, uniform := true, sink := true }) (rclrEff a b)
    (fun c s => RasterReady a false rs c s ∧ (let w := fun k => (c.g.sAt (b.toNat + k)).toNat
      c.translates s (tileAccs rs (rclrTiles rs (w 0 % 65536) (w 0 / 65536) (min (w 1 % 65536) (rsW rs - 1)) (min (w 1 / 65536) (rsH rs - 1))))))
    (fun c s t => ∃ x0 y0 x1 y1 k, t.begins s c (.rclr rs x0 y0 x1 y1 k))) ∧
  (∀ (d : BitVec 3) (a : BitVec 4) (b : BitVec 8) (rs : Nat), Completes (.zts d a b) (W.zts d a b) (fun _ => { vr := (List.range 3).map (· + b.toNat), ar := [a.toNat], later := { p := [d.toNat] }, cls := some 0, sink := true, ownPoison := true }) (ztsEff d a b)
    (fun c s => RasterReady a true rs c s ∧ c.translates s (ztsAccs c rs b))
    (fun c s t => t.begins s c (.zts d.toNat rs))) ∧
  (∀ (d : BitVec 3) (a : BitVec 4) (b : BitVec 8), Completes (.launch d a b) (W.launch d a b) (fun _ => { vr := [b.toNat, b.toNat + 1], ar := [a.toNat], later := { p := [d.toNat] }, pairs := [b.toNat], sink := true, ownPoison := true }) (launchEff d a b)
    (fun c _ => c.act ≠ 0 ∧ (c.g.areg a).toNat % 64 = 0)
    (fun c s t => t.begins s c (.launch d.toNat (c.g.areg a).toNat))) ∧
  (∀ (d : BitVec 6) (a : BitVec 6), Completes (.rdparam d a) (W.rdparam d a) (fun _ => { sr := [a.toNat], sw := [d.toNat], uniform := true }) (rdparamEff d a)
    (fun _ _ => True)) ∧
  (∀ (a : BitVec 4) (b : BitVec 6) (rs : Nat), Completes (.rdcmp a b) (W.rdcmp a b) (fun _ => { ar := [a.toNat], sr := [b.toNat, b.toNat + 1], range := decide (62 < b.toNat), cls := some 1, uniform := true, sink := true, ext := some 3 }) (rdcmpEff a b)
    (fun c s => RasterReady a false rs c s ∧ (let m := s.transAccs c.g.core c.g.ctx c.g.sup true (rdcmpModes c b rs)
      faultLanes m.2 = 0 ∧ (let k := m.1.rdcmpAccs c b rs m.2
        c.translates k.1 k.2)))
    (fun c s t => t.begins s c (.rdcmp rs)))
end

