-- ==== Sys2Proof/Laws/Assoc.lean ====
section
/-! SUPPORT. Tables by number: what is read after a write, a change, an erasure. -/

namespace Sys2Proof

@[simp] theorem AMap.get?_set_self {α : Type} (m : AMap α) (n : Nat) (x : α) : (m.set n x).get? n = some x := by
  induction m with
  | nil => simp [AMap.set, AMap.get?]
  | cons e m ih =>
    obtain ⟨k, y⟩ := e
    simp only [AMap.set]
    split_ifs with h1 h2
    · simp [AMap.get?]
    · simp [AMap.get?]
    · simp [AMap.get?, h2, ih]

theorem AMap.get?_set_ne {α : Type} (m : AMap α) {n k : Nat} (x : α) (h : k ≠ n) : (m.set n x).get? k = m.get? k := by
  induction m with
  | nil => simp [AMap.set, AMap.get?, Ne.symm h]
  | cons e m ih =>
    obtain ⟨j, y⟩ := e
    simp only [AMap.set]
    split_ifs with h1 h2
    · simp [AMap.get?, Ne.symm h]
    · subst h2; simp [AMap.get?, Ne.symm h]
    · simp only [AMap.get?, ih]

@[simp] theorem AMap.get?_upd_self {α : Type} (m : AMap α) (n : Nat) (f : α → α) :
    (m.upd n f).get? n = (m.get? n).map f := by
  induction m with
  | nil => rfl
  | cons e m ih =>
    obtain ⟨k, y⟩ := e
    simp only [AMap.upd]
    split_ifs with h
    · simp [AMap.get?, h]
    · simp [AMap.get?, h, ih]

theorem AMap.get?_upd_ne {α : Type} (m : AMap α) {n k : Nat} (f : α → α) (h : k ≠ n) :
    (m.upd n f).get? k = m.get? k := by
  induction m with
  | nil => rfl
  | cons e m ih =>
    obtain ⟨j, y⟩ := e
    simp only [AMap.upd]
    split_ifs with h1
    · subst h1; simp [AMap.get?, Ne.symm h]
    · simp only [AMap.get?, ih]

/-- Writing an entry's own value changes nothing that is read. -/
theorem AMap.get?_set {α : Type} (m : AMap α) (n k : Nat) (x : α) :
    (m.set n x).get? k = if k = n then some x else m.get? k := by
  by_cases h : k = n
  · subst h; simp
  · rw [AMap.get?_set_ne m x h, if_neg h]

end Sys2Proof
end

