-- ==== Sys2Proof/Laws/State.lean ====
section
/-! SUPPORT. The named updates of State, field by field, so that no proof unfolds a record update. -/

namespace Sys2Proof.Machine.State

/-! ### setGroup -/

@[simp] theorem setGroup_gnomon (s : State) (g : Nat) (x : Group) : (s.setGroup g x).gnomon = s.gnomon := rfl
@[simp] theorem setGroup_disc (s : State) (g : Nat) (x : Group) : (s.setGroup g x).disc = s.disc := rfl
@[simp] theorem setGroup_boot (s : State) (g : Nat) (x : Group) : (s.setGroup g x).boot = s.boot := rfl
@[simp] theorem setGroup_host (s : State) (g : Nat) (x : Group) : (s.setGroup g x).host = s.host := rfl
@[simp] theorem setGroup_mem (s : State) (g : Nat) (x : Group) : (s.setGroup g x).mem = s.mem := rfl
@[simp] theorem setGroup_memPoison (s : State) (g : Nat) (x : Group) : (s.setGroup g x).memPoison = s.memPoison := rfl
@[simp] theorem setGroup_hostMem (s : State) (g : Nat) (x : Group) : (s.setGroup g x).hostMem = s.hostMem := rfl
@[simp] theorem setGroup_lines (s : State) (g : Nat) (x : Group) : (s.setGroup g x).lines = s.lines := rfl
@[simp] theorem setGroup_floors (s : State) (g : Nat) (x : Group) : (s.setGroup g x).floors = s.floors := rfl
@[simp] theorem setGroup_asleep (s : State) (g : Nat) (x : Group) : (s.setGroup g x).asleep = s.asleep := rfl
@[simp] theorem setGroup_halves (s : State) (g : Nat) (x : Group) : (s.setGroup g x).halves = s.halves := rfl
@[simp] theorem setGroup_waiting (s : State) (g : Nat) (x : Group) : (s.setGroup g x).waiting = s.waiting := rfl
@[simp] theorem setGroup_monitors (s : State) (g : Nat) (x : Group) : (s.setGroup g x).monitors = s.monitors := rfl
@[simp] theorem setGroup_tlb (s : State) (g : Nat) (x : Group) : (s.setGroup g x).tlb = s.tlb := rfl
@[simp] theorem setGroup_ctxs (s : State) (g : Nat) (x : Group) : (s.setGroup g x).ctxs = s.ctxs := rfl
@[simp] theorem setGroup_tlbis (s : State) (g : Nat) (x : Group) : (s.setGroup g x).tlbis = s.tlbis := rfl
@[simp] theorem setGroup_queues (s : State) (g : Nat) (x : Group) : (s.setGroup g x).queues = s.queues := rfl
@[simp] theorem setGroup_entities (s : State) (g : Nat) (x : Group) : (s.setGroup g x).entities = s.entities := rfl
@[simp] theorem setGroup_nextEntity (s : State) (g : Nat) (x : Group) : (s.setGroup g x).nextEntity = s.nextEntity := rfl
@[simp] theorem setGroup_reserve (s : State) (g : Nat) (x : Group) : (s.setGroup g x).reserve = s.reserve := rfl
@[simp] theorem setGroup_nextRec (s : State) (g : Nat) (x : Group) : (s.setGroup g x).nextRec = s.nextRec := rfl
@[simp] theorem setGroup_blocks (s : State) (g : Nat) (x : Group) : (s.setGroup g x).blocks = s.blocks := rfl
@[simp] theorem setGroup_nextBlock (s : State) (g : Nat) (x : Group) : (s.setGroup g x).nextBlock = s.nextBlock := rfl
@[simp] theorem setGroup_groups (s : State) (g : Nat) (x : Group) : (s.setGroup g x).groups = s.groups.set g x := rfl
@[simp] theorem setGroup_nextGroup (s : State) (g : Nat) (x : Group) : (s.setGroup g x).nextGroup = s.nextGroup := rfl
@[simp] theorem setGroup_cores (s : State) (g : Nat) (x : Group) : (s.setGroup g x).cores = s.cores := rfl
@[simp] theorem setGroup_deadDies (s : State) (g : Nat) (x : Group) : (s.setGroup g x).deadDies = s.deadDies := rfl
@[simp] theorem setGroup_remap (s : State) (g : Nat) (x : Group) : (s.setGroup g x).remap = s.remap := rfl
@[simp] theorem setGroup_retired (s : State) (g : Nat) (x : Group) : (s.setGroup g x).retired = s.retired := rfl
@[simp] theorem setGroup_units (s : State) (g : Nat) (x : Group) : (s.setGroup g x).units = s.units := rfl
@[simp] theorem setGroup_rows (s : State) (g : Nat) (x : Group) : (s.setGroup g x).rows = s.rows := rfl
@[simp] theorem setGroup_excluded (s : State) (g : Nat) (x : Group) : (s.setGroup g x).excluded = s.excluded := rfl
@[simp] theorem setGroup_ops (s : State) (g : Nat) (x : Group) : (s.setGroup g x).ops = s.ops := rfl
@[simp] theorem setGroup_nextOp (s : State) (g : Nat) (x : Group) : (s.setGroup g x).nextOp = s.nextOp := rfl
@[simp] theorem setGroup_regions (s : State) (g : Nat) (x : Group) : (s.setGroup g x).regions = s.regions := rfl
@[simp] theorem setGroup_links (s : State) (g : Nat) (x : Group) : (s.setGroup g x).links = s.links := rfl
@[simp] theorem setGroup_own (s : State) (g : Nat) (x : Group) : (s.setGroup g x).own = s.own := rfl
@[simp] theorem setGroup_peers (s : State) (g : Nat) (x : Group) : (s.setGroup g x).peers = s.peers := rfl
@[simp] theorem setGroup_preds (s : State) (g : Nat) (x : Group) : (s.setGroup g x).preds = s.preds := rfl
@[simp] theorem setGroup_mirrors (s : State) (g : Nat) (x : Group) : (s.setGroup g x).mirrors = s.mirrors := rfl
@[simp] theorem setGroup_mirrorCnt (s : State) (g : Nat) (x : Group) : (s.setGroup g x).mirrorCnt = s.mirrorCnt := rfl
@[simp] theorem setGroup_peerWakes (s : State) (g : Nat) (x : Group) : (s.setGroup g x).peerWakes = s.peerWakes := rfl
@[simp] theorem setGroup_mirrorHalts (s : State) (g : Nat) (x : Group) : (s.setGroup g x).mirrorHalts = s.mirrorHalts := rfl
@[simp] theorem setGroup_capped (s : State) (g : Nat) (x : Group) : (s.setGroup g x).capped = s.capped := rfl
@[simp] theorem setGroup_probe (s : State) (g : Nat) (x : Group) : (s.setGroup g x).probe = s.probe := rfl
@[simp] theorem setGroup_cur (s : State) (g : Nat) (x : Group) : (s.setGroup g x).cur = s.cur := rfl
@[simp] theorem setGroup_agenda (s : State) (g : Nat) (x : Group) : (s.setGroup g x).agenda = s.agenda := rfl
@[simp] theorem setGroup_lease (s : State) (g : Nat) (x : Group) : (s.setGroup g x).lease = s.lease := rfl
@[simp] theorem setGroup_free (s : State) (g : Nat) (x : Group) : (s.setGroup g x).free = s.free := rfl
@[simp] theorem setGroup_issues (s : State) (g : Nat) (x : Group) : (s.setGroup g x).issues = s.issues := rfl
@[simp] theorem setGroup_stalled (s : State) (g : Nat) (x : Group) : (s.setGroup g x).stalled = s.stalled := rfl

/-! ### updGroup -/

@[simp] theorem updGroup_gnomon (s : State) (g : Nat) (f : Group → Group) : (s.updGroup g f).gnomon = s.gnomon := rfl
@[simp] theorem updGroup_disc (s : State) (g : Nat) (f : Group → Group) : (s.updGroup g f).disc = s.disc := rfl
@[simp] theorem updGroup_boot (s : State) (g : Nat) (f : Group → Group) : (s.updGroup g f).boot = s.boot := rfl
@[simp] theorem updGroup_host (s : State) (g : Nat) (f : Group → Group) : (s.updGroup g f).host = s.host := rfl
@[simp] theorem updGroup_mem (s : State) (g : Nat) (f : Group → Group) : (s.updGroup g f).mem = s.mem := rfl
@[simp] theorem updGroup_memPoison (s : State) (g : Nat) (f : Group → Group) : (s.updGroup g f).memPoison = s.memPoison := rfl
@[simp] theorem updGroup_hostMem (s : State) (g : Nat) (f : Group → Group) : (s.updGroup g f).hostMem = s.hostMem := rfl
@[simp] theorem updGroup_lines (s : State) (g : Nat) (f : Group → Group) : (s.updGroup g f).lines = s.lines := rfl
@[simp] theorem updGroup_floors (s : State) (g : Nat) (f : Group → Group) : (s.updGroup g f).floors = s.floors := rfl
@[simp] theorem updGroup_asleep (s : State) (g : Nat) (f : Group → Group) : (s.updGroup g f).asleep = s.asleep := rfl
@[simp] theorem updGroup_halves (s : State) (g : Nat) (f : Group → Group) : (s.updGroup g f).halves = s.halves := rfl
@[simp] theorem updGroup_waiting (s : State) (g : Nat) (f : Group → Group) : (s.updGroup g f).waiting = s.waiting := rfl
@[simp] theorem updGroup_monitors (s : State) (g : Nat) (f : Group → Group) : (s.updGroup g f).monitors = s.monitors := rfl
@[simp] theorem updGroup_tlb (s : State) (g : Nat) (f : Group → Group) : (s.updGroup g f).tlb = s.tlb := rfl
@[simp] theorem updGroup_ctxs (s : State) (g : Nat) (f : Group → Group) : (s.updGroup g f).ctxs = s.ctxs := rfl
@[simp] theorem updGroup_tlbis (s : State) (g : Nat) (f : Group → Group) : (s.updGroup g f).tlbis = s.tlbis := rfl
@[simp] theorem updGroup_queues (s : State) (g : Nat) (f : Group → Group) : (s.updGroup g f).queues = s.queues := rfl
@[simp] theorem updGroup_entities (s : State) (g : Nat) (f : Group → Group) : (s.updGroup g f).entities = s.entities := rfl
@[simp] theorem updGroup_nextEntity (s : State) (g : Nat) (f : Group → Group) : (s.updGroup g f).nextEntity = s.nextEntity := rfl
@[simp] theorem updGroup_reserve (s : State) (g : Nat) (f : Group → Group) : (s.updGroup g f).reserve = s.reserve := rfl
@[simp] theorem updGroup_nextRec (s : State) (g : Nat) (f : Group → Group) : (s.updGroup g f).nextRec = s.nextRec := rfl
@[simp] theorem updGroup_blocks (s : State) (g : Nat) (f : Group → Group) : (s.updGroup g f).blocks = s.blocks := rfl
@[simp] theorem updGroup_nextBlock (s : State) (g : Nat) (f : Group → Group) : (s.updGroup g f).nextBlock = s.nextBlock := rfl
@[simp] theorem updGroup_groups (s : State) (g : Nat) (f : Group → Group) : (s.updGroup g f).groups = s.groups.upd g f := rfl
@[simp] theorem updGroup_nextGroup (s : State) (g : Nat) (f : Group → Group) : (s.updGroup g f).nextGroup = s.nextGroup := rfl
@[simp] theorem updGroup_cores (s : State) (g : Nat) (f : Group → Group) : (s.updGroup g f).cores = s.cores := rfl
@[simp] theorem updGroup_deadDies (s : State) (g : Nat) (f : Group → Group) : (s.updGroup g f).deadDies = s.deadDies := rfl
@[simp] theorem updGroup_remap (s : State) (g : Nat) (f : Group → Group) : (s.updGroup g f).remap = s.remap := rfl
@[simp] theorem updGroup_retired (s : State) (g : Nat) (f : Group → Group) : (s.updGroup g f).retired = s.retired := rfl
@[simp] theorem updGroup_units (s : State) (g : Nat) (f : Group → Group) : (s.updGroup g f).units = s.units := rfl
@[simp] theorem updGroup_rows (s : State) (g : Nat) (f : Group → Group) : (s.updGroup g f).rows = s.rows := rfl
@[simp] theorem updGroup_excluded (s : State) (g : Nat) (f : Group → Group) : (s.updGroup g f).excluded = s.excluded := rfl
@[simp] theorem updGroup_ops (s : State) (g : Nat) (f : Group → Group) : (s.updGroup g f).ops = s.ops := rfl
@[simp] theorem updGroup_nextOp (s : State) (g : Nat) (f : Group → Group) : (s.updGroup g f).nextOp = s.nextOp := rfl
@[simp] theorem updGroup_regions (s : State) (g : Nat) (f : Group → Group) : (s.updGroup g f).regions = s.regions := rfl
@[simp] theorem updGroup_links (s : State) (g : Nat) (f : Group → Group) : (s.updGroup g f).links = s.links := rfl
@[simp] theorem updGroup_own (s : State) (g : Nat) (f : Group → Group) : (s.updGroup g f).own = s.own := rfl
@[simp] theorem updGroup_peers (s : State) (g : Nat) (f : Group → Group) : (s.updGroup g f).peers = s.peers := rfl
@[simp] theorem updGroup_preds (s : State) (g : Nat) (f : Group → Group) : (s.updGroup g f).preds = s.preds := rfl
@[simp] theorem updGroup_mirrors (s : State) (g : Nat) (f : Group → Group) : (s.updGroup g f).mirrors = s.mirrors := rfl
@[simp] theorem updGroup_mirrorCnt (s : State) (g : Nat) (f : Group → Group) : (s.updGroup g f).mirrorCnt = s.mirrorCnt := rfl
@[simp] theorem updGroup_peerWakes (s : State) (g : Nat) (f : Group → Group) : (s.updGroup g f).peerWakes = s.peerWakes := rfl
@[simp] theorem updGroup_mirrorHalts (s : State) (g : Nat) (f : Group → Group) : (s.updGroup g f).mirrorHalts = s.mirrorHalts := rfl
@[simp] theorem updGroup_capped (s : State) (g : Nat) (f : Group → Group) : (s.updGroup g f).capped = s.capped := rfl
@[simp] theorem updGroup_probe (s : State) (g : Nat) (f : Group → Group) : (s.updGroup g f).probe = s.probe := rfl
@[simp] theorem updGroup_cur (s : State) (g : Nat) (f : Group → Group) : (s.updGroup g f).cur = s.cur := rfl
@[simp] theorem updGroup_agenda (s : State) (g : Nat) (f : Group → Group) : (s.updGroup g f).agenda = s.agenda := rfl
@[simp] theorem updGroup_lease (s : State) (g : Nat) (f : Group → Group) : (s.updGroup g f).lease = s.lease := rfl
@[simp] theorem updGroup_free (s : State) (g : Nat) (f : Group → Group) : (s.updGroup g f).free = s.free := rfl
@[simp] theorem updGroup_issues (s : State) (g : Nat) (f : Group → Group) : (s.updGroup g f).issues = s.issues := rfl
@[simp] theorem updGroup_stalled (s : State) (g : Nat) (f : Group → Group) : (s.updGroup g f).stalled = s.stalled := rfl

/-! ### updOp -/

@[simp] theorem updOp_gnomon (s : State) (o : Nat) (f : Op → Op) : (s.updOp o f).gnomon = s.gnomon := rfl
@[simp] theorem updOp_disc (s : State) (o : Nat) (f : Op → Op) : (s.updOp o f).disc = s.disc := rfl
@[simp] theorem updOp_boot (s : State) (o : Nat) (f : Op → Op) : (s.updOp o f).boot = s.boot := rfl
@[simp] theorem updOp_host (s : State) (o : Nat) (f : Op → Op) : (s.updOp o f).host = s.host := rfl
@[simp] theorem updOp_mem (s : State) (o : Nat) (f : Op → Op) : (s.updOp o f).mem = s.mem := rfl
@[simp] theorem updOp_memPoison (s : State) (o : Nat) (f : Op → Op) : (s.updOp o f).memPoison = s.memPoison := rfl
@[simp] theorem updOp_hostMem (s : State) (o : Nat) (f : Op → Op) : (s.updOp o f).hostMem = s.hostMem := rfl
@[simp] theorem updOp_lines (s : State) (o : Nat) (f : Op → Op) : (s.updOp o f).lines = s.lines := rfl
@[simp] theorem updOp_floors (s : State) (o : Nat) (f : Op → Op) : (s.updOp o f).floors = s.floors := rfl
@[simp] theorem updOp_asleep (s : State) (o : Nat) (f : Op → Op) : (s.updOp o f).asleep = s.asleep := rfl
@[simp] theorem updOp_halves (s : State) (o : Nat) (f : Op → Op) : (s.updOp o f).halves = s.halves := rfl
@[simp] theorem updOp_waiting (s : State) (o : Nat) (f : Op → Op) : (s.updOp o f).waiting = s.waiting := rfl
@[simp] theorem updOp_monitors (s : State) (o : Nat) (f : Op → Op) : (s.updOp o f).monitors = s.monitors := rfl
@[simp] theorem updOp_tlb (s : State) (o : Nat) (f : Op → Op) : (s.updOp o f).tlb = s.tlb := rfl
@[simp] theorem updOp_ctxs (s : State) (o : Nat) (f : Op → Op) : (s.updOp o f).ctxs = s.ctxs := rfl
@[simp] theorem updOp_tlbis (s : State) (o : Nat) (f : Op → Op) : (s.updOp o f).tlbis = s.tlbis := rfl
@[simp] theorem updOp_queues (s : State) (o : Nat) (f : Op → Op) : (s.updOp o f).queues = s.queues := rfl
@[simp] theorem updOp_entities (s : State) (o : Nat) (f : Op → Op) : (s.updOp o f).entities = s.entities := rfl
@[simp] theorem updOp_nextEntity (s : State) (o : Nat) (f : Op → Op) : (s.updOp o f).nextEntity = s.nextEntity := rfl
@[simp] theorem updOp_reserve (s : State) (o : Nat) (f : Op → Op) : (s.updOp o f).reserve = s.reserve := rfl
@[simp] theorem updOp_nextRec (s : State) (o : Nat) (f : Op → Op) : (s.updOp o f).nextRec = s.nextRec := rfl
@[simp] theorem updOp_blocks (s : State) (o : Nat) (f : Op → Op) : (s.updOp o f).blocks = s.blocks := rfl
@[simp] theorem updOp_nextBlock (s : State) (o : Nat) (f : Op → Op) : (s.updOp o f).nextBlock = s.nextBlock := rfl
@[simp] theorem updOp_groups (s : State) (o : Nat) (f : Op → Op) : (s.updOp o f).groups = s.groups := rfl
@[simp] theorem updOp_nextGroup (s : State) (o : Nat) (f : Op → Op) : (s.updOp o f).nextGroup = s.nextGroup := rfl
@[simp] theorem updOp_cores (s : State) (o : Nat) (f : Op → Op) : (s.updOp o f).cores = s.cores := rfl
@[simp] theorem updOp_deadDies (s : State) (o : Nat) (f : Op → Op) : (s.updOp o f).deadDies = s.deadDies := rfl
@[simp] theorem updOp_remap (s : State) (o : Nat) (f : Op → Op) : (s.updOp o f).remap = s.remap := rfl
@[simp] theorem updOp_retired (s : State) (o : Nat) (f : Op → Op) : (s.updOp o f).retired = s.retired := rfl
@[simp] theorem updOp_units (s : State) (o : Nat) (f : Op → Op) : (s.updOp o f).units = s.units := rfl
@[simp] theorem updOp_rows (s : State) (o : Nat) (f : Op → Op) : (s.updOp o f).rows = s.rows := rfl
@[simp] theorem updOp_excluded (s : State) (o : Nat) (f : Op → Op) : (s.updOp o f).excluded = s.excluded := rfl
@[simp] theorem updOp_ops (s : State) (o : Nat) (f : Op → Op) : (s.updOp o f).ops = s.ops.upd o f := rfl
@[simp] theorem updOp_nextOp (s : State) (o : Nat) (f : Op → Op) : (s.updOp o f).nextOp = s.nextOp := rfl
@[simp] theorem updOp_regions (s : State) (o : Nat) (f : Op → Op) : (s.updOp o f).regions = s.regions := rfl
@[simp] theorem updOp_links (s : State) (o : Nat) (f : Op → Op) : (s.updOp o f).links = s.links := rfl
@[simp] theorem updOp_own (s : State) (o : Nat) (f : Op → Op) : (s.updOp o f).own = s.own := rfl
@[simp] theorem updOp_peers (s : State) (o : Nat) (f : Op → Op) : (s.updOp o f).peers = s.peers := rfl
@[simp] theorem updOp_preds (s : State) (o : Nat) (f : Op → Op) : (s.updOp o f).preds = s.preds := rfl
@[simp] theorem updOp_mirrors (s : State) (o : Nat) (f : Op → Op) : (s.updOp o f).mirrors = s.mirrors := rfl
@[simp] theorem updOp_mirrorCnt (s : State) (o : Nat) (f : Op → Op) : (s.updOp o f).mirrorCnt = s.mirrorCnt := rfl
@[simp] theorem updOp_peerWakes (s : State) (o : Nat) (f : Op → Op) : (s.updOp o f).peerWakes = s.peerWakes := rfl
@[simp] theorem updOp_mirrorHalts (s : State) (o : Nat) (f : Op → Op) : (s.updOp o f).mirrorHalts = s.mirrorHalts := rfl
@[simp] theorem updOp_capped (s : State) (o : Nat) (f : Op → Op) : (s.updOp o f).capped = s.capped := rfl
@[simp] theorem updOp_probe (s : State) (o : Nat) (f : Op → Op) : (s.updOp o f).probe = s.probe := rfl
@[simp] theorem updOp_cur (s : State) (o : Nat) (f : Op → Op) : (s.updOp o f).cur = s.cur := rfl
@[simp] theorem updOp_agenda (s : State) (o : Nat) (f : Op → Op) : (s.updOp o f).agenda = s.agenda := rfl
@[simp] theorem updOp_lease (s : State) (o : Nat) (f : Op → Op) : (s.updOp o f).lease = s.lease := rfl
@[simp] theorem updOp_free (s : State) (o : Nat) (f : Op → Op) : (s.updOp o f).free = s.free := rfl
@[simp] theorem updOp_issues (s : State) (o : Nat) (f : Op → Op) : (s.updOp o f).issues = s.issues := rfl
@[simp] theorem updOp_stalled (s : State) (o : Nat) (f : Op → Op) : (s.updOp o f).stalled = s.stalled := rfl

/-! ### updBlock -/

@[simp] theorem updBlock_gnomon (s : State) (b : Nat) (f : Block → Block) : (s.updBlock b f).gnomon = s.gnomon := rfl
@[simp] theorem updBlock_disc (s : State) (b : Nat) (f : Block → Block) : (s.updBlock b f).disc = s.disc := rfl
@[simp] theorem updBlock_boot (s : State) (b : Nat) (f : Block → Block) : (s.updBlock b f).boot = s.boot := rfl
@[simp] theorem updBlock_host (s : State) (b : Nat) (f : Block → Block) : (s.updBlock b f).host = s.host := rfl
@[simp] theorem updBlock_mem (s : State) (b : Nat) (f : Block → Block) : (s.updBlock b f).mem = s.mem := rfl
@[simp] theorem updBlock_memPoison (s : State) (b : Nat) (f : Block → Block) : (s.updBlock b f).memPoison = s.memPoison := rfl
@[simp] theorem updBlock_hostMem (s : State) (b : Nat) (f : Block → Block) : (s.updBlock b f).hostMem = s.hostMem := rfl
@[simp] theorem updBlock_lines (s : State) (b : Nat) (f : Block → Block) : (s.updBlock b f).lines = s.lines := rfl
@[simp] theorem updBlock_floors (s : State) (b : Nat) (f : Block → Block) : (s.updBlock b f).floors = s.floors := rfl
@[simp] theorem updBlock_asleep (s : State) (b : Nat) (f : Block → Block) : (s.updBlock b f).asleep = s.asleep := rfl
@[simp] theorem updBlock_halves (s : State) (b : Nat) (f : Block → Block) : (s.updBlock b f).halves = s.halves := rfl
@[simp] theorem updBlock_waiting (s : State) (b : Nat) (f : Block → Block) : (s.updBlock b f).waiting = s.waiting := rfl
@[simp] theorem updBlock_monitors (s : State) (b : Nat) (f : Block → Block) : (s.updBlock b f).monitors = s.monitors := rfl
@[simp] theorem updBlock_tlb (s : State) (b : Nat) (f : Block → Block) : (s.updBlock b f).tlb = s.tlb := rfl
@[simp] theorem updBlock_ctxs (s : State) (b : Nat) (f : Block → Block) : (s.updBlock b f).ctxs = s.ctxs := rfl
@[simp] theorem updBlock_tlbis (s : State) (b : Nat) (f : Block → Block) : (s.updBlock b f).tlbis = s.tlbis := rfl
@[simp] theorem updBlock_queues (s : State) (b : Nat) (f : Block → Block) : (s.updBlock b f).queues = s.queues := rfl
@[simp] theorem updBlock_entities (s : State) (b : Nat) (f : Block → Block) : (s.updBlock b f).entities = s.entities := rfl
@[simp] theorem updBlock_nextEntity (s : State) (b : Nat) (f : Block → Block) : (s.updBlock b f).nextEntity = s.nextEntity := rfl
@[simp] theorem updBlock_reserve (s : State) (b : Nat) (f : Block → Block) : (s.updBlock b f).reserve = s.reserve := rfl
@[simp] theorem updBlock_nextRec (s : State) (b : Nat) (f : Block → Block) : (s.updBlock b f).nextRec = s.nextRec := rfl
@[simp] theorem updBlock_blocks (s : State) (b : Nat) (f : Block → Block) : (s.updBlock b f).blocks = s.blocks.upd b f := rfl
@[simp] theorem updBlock_nextBlock (s : State) (b : Nat) (f : Block → Block) : (s.updBlock b f).nextBlock = s.nextBlock := rfl
@[simp] theorem updBlock_groups (s : State) (b : Nat) (f : Block → Block) : (s.updBlock b f).groups = s.groups := rfl
@[simp] theorem updBlock_nextGroup (s : State) (b : Nat) (f : Block → Block) : (s.updBlock b f).nextGroup = s.nextGroup := rfl
@[simp] theorem updBlock_cores (s : State) (b : Nat) (f : Block → Block) : (s.updBlock b f).cores = s.cores := rfl
@[simp] theorem updBlock_deadDies (s : State) (b : Nat) (f : Block → Block) : (s.updBlock b f).deadDies = s.deadDies := rfl
@[simp] theorem updBlock_remap (s : State) (b : Nat) (f : Block → Block) : (s.updBlock b f).remap = s.remap := rfl
@[simp] theorem updBlock_retired (s : State) (b : Nat) (f : Block → Block) : (s.updBlock b f).retired = s.retired := rfl
@[simp] theorem updBlock_units (s : State) (b : Nat) (f : Block → Block) : (s.updBlock b f).units = s.units := rfl
@[simp] theorem updBlock_rows (s : State) (b : Nat) (f : Block → Block) : (s.updBlock b f).rows = s.rows := rfl
@[simp] theorem updBlock_excluded (s : State) (b : Nat) (f : Block → Block) : (s.updBlock b f).excluded = s.excluded := rfl
@[simp] theorem updBlock_ops (s : State) (b : Nat) (f : Block → Block) : (s.updBlock b f).ops = s.ops := rfl
@[simp] theorem updBlock_nextOp (s : State) (b : Nat) (f : Block → Block) : (s.updBlock b f).nextOp = s.nextOp := rfl
@[simp] theorem updBlock_regions (s : State) (b : Nat) (f : Block → Block) : (s.updBlock b f).regions = s.regions := rfl
@[simp] theorem updBlock_links (s : State) (b : Nat) (f : Block → Block) : (s.updBlock b f).links = s.links := rfl
@[simp] theorem updBlock_own (s : State) (b : Nat) (f : Block → Block) : (s.updBlock b f).own = s.own := rfl
@[simp] theorem updBlock_peers (s : State) (b : Nat) (f : Block → Block) : (s.updBlock b f).peers = s.peers := rfl
@[simp] theorem updBlock_preds (s : State) (b : Nat) (f : Block → Block) : (s.updBlock b f).preds = s.preds := rfl
@[simp] theorem updBlock_mirrors (s : State) (b : Nat) (f : Block → Block) : (s.updBlock b f).mirrors = s.mirrors := rfl
@[simp] theorem updBlock_mirrorCnt (s : State) (b : Nat) (f : Block → Block) : (s.updBlock b f).mirrorCnt = s.mirrorCnt := rfl
@[simp] theorem updBlock_peerWakes (s : State) (b : Nat) (f : Block → Block) : (s.updBlock b f).peerWakes = s.peerWakes := rfl
@[simp] theorem updBlock_mirrorHalts (s : State) (b : Nat) (f : Block → Block) : (s.updBlock b f).mirrorHalts = s.mirrorHalts := rfl
@[simp] theorem updBlock_capped (s : State) (b : Nat) (f : Block → Block) : (s.updBlock b f).capped = s.capped := rfl
@[simp] theorem updBlock_probe (s : State) (b : Nat) (f : Block → Block) : (s.updBlock b f).probe = s.probe := rfl
@[simp] theorem updBlock_cur (s : State) (b : Nat) (f : Block → Block) : (s.updBlock b f).cur = s.cur := rfl
@[simp] theorem updBlock_agenda (s : State) (b : Nat) (f : Block → Block) : (s.updBlock b f).agenda = s.agenda := rfl
@[simp] theorem updBlock_lease (s : State) (b : Nat) (f : Block → Block) : (s.updBlock b f).lease = s.lease := rfl
@[simp] theorem updBlock_free (s : State) (b : Nat) (f : Block → Block) : (s.updBlock b f).free = s.free := rfl
@[simp] theorem updBlock_issues (s : State) (b : Nat) (f : Block → Block) : (s.updBlock b f).issues = s.issues := rfl
@[simp] theorem updBlock_stalled (s : State) (b : Nat) (f : Block → Block) : (s.updBlock b f).stalled = s.stalled := rfl

/-! ### updCtx -/

@[simp] theorem updCtx_gnomon (s : State) (c : Nat) (f : Ctx → Ctx) : (s.updCtx c f).gnomon = s.gnomon := rfl
@[simp] theorem updCtx_disc (s : State) (c : Nat) (f : Ctx → Ctx) : (s.updCtx c f).disc = s.disc := rfl
@[simp] theorem updCtx_boot (s : State) (c : Nat) (f : Ctx → Ctx) : (s.updCtx c f).boot = s.boot := rfl
@[simp] theorem updCtx_host (s : State) (c : Nat) (f : Ctx → Ctx) : (s.updCtx c f).host = s.host := rfl
@[simp] theorem updCtx_mem (s : State) (c : Nat) (f : Ctx → Ctx) : (s.updCtx c f).mem = s.mem := rfl
@[simp] theorem updCtx_memPoison (s : State) (c : Nat) (f : Ctx → Ctx) : (s.updCtx c f).memPoison = s.memPoison := rfl
@[simp] theorem updCtx_hostMem (s : State) (c : Nat) (f : Ctx → Ctx) : (s.updCtx c f).hostMem = s.hostMem := rfl
@[simp] theorem updCtx_lines (s : State) (c : Nat) (f : Ctx → Ctx) : (s.updCtx c f).lines = s.lines := rfl
@[simp] theorem updCtx_floors (s : State) (c : Nat) (f : Ctx → Ctx) : (s.updCtx c f).floors = s.floors := rfl
@[simp] theorem updCtx_asleep (s : State) (c : Nat) (f : Ctx → Ctx) : (s.updCtx c f).asleep = s.asleep := rfl
@[simp] theorem updCtx_halves (s : State) (c : Nat) (f : Ctx → Ctx) : (s.updCtx c f).halves = s.halves := rfl
@[simp] theorem updCtx_waiting (s : State) (c : Nat) (f : Ctx → Ctx) : (s.updCtx c f).waiting = s.waiting := rfl
@[simp] theorem updCtx_monitors (s : State) (c : Nat) (f : Ctx → Ctx) : (s.updCtx c f).monitors = s.monitors := rfl
@[simp] theorem updCtx_tlb (s : State) (c : Nat) (f : Ctx → Ctx) : (s.updCtx c f).tlb = s.tlb := rfl
@[simp] theorem updCtx_ctxs (s : State) (c : Nat) (f : Ctx → Ctx) : (s.updCtx c f).ctxs = s.ctxs.upd c f := rfl
@[simp] theorem updCtx_tlbis (s : State) (c : Nat) (f : Ctx → Ctx) : (s.updCtx c f).tlbis = s.tlbis := rfl
@[simp] theorem updCtx_queues (s : State) (c : Nat) (f : Ctx → Ctx) : (s.updCtx c f).queues = s.queues := rfl
@[simp] theorem updCtx_entities (s : State) (c : Nat) (f : Ctx → Ctx) : (s.updCtx c f).entities = s.entities := rfl
@[simp] theorem updCtx_nextEntity (s : State) (c : Nat) (f : Ctx → Ctx) : (s.updCtx c f).nextEntity = s.nextEntity := rfl
@[simp] theorem updCtx_reserve (s : State) (c : Nat) (f : Ctx → Ctx) : (s.updCtx c f).reserve = s.reserve := rfl
@[simp] theorem updCtx_nextRec (s : State) (c : Nat) (f : Ctx → Ctx) : (s.updCtx c f).nextRec = s.nextRec := rfl
@[simp] theorem updCtx_blocks (s : State) (c : Nat) (f : Ctx → Ctx) : (s.updCtx c f).blocks = s.blocks := rfl
@[simp] theorem updCtx_nextBlock (s : State) (c : Nat) (f : Ctx → Ctx) : (s.updCtx c f).nextBlock = s.nextBlock := rfl
@[simp] theorem updCtx_groups (s : State) (c : Nat) (f : Ctx → Ctx) : (s.updCtx c f).groups = s.groups := rfl
@[simp] theorem updCtx_nextGroup (s : State) (c : Nat) (f : Ctx → Ctx) : (s.updCtx c f).nextGroup = s.nextGroup := rfl
@[simp] theorem updCtx_cores (s : State) (c : Nat) (f : Ctx → Ctx) : (s.updCtx c f).cores = s.cores := rfl
@[simp] theorem updCtx_deadDies (s : State) (c : Nat) (f : Ctx → Ctx) : (s.updCtx c f).deadDies = s.deadDies := rfl
@[simp] theorem updCtx_remap (s : State) (c : Nat) (f : Ctx → Ctx) : (s.updCtx c f).remap = s.remap := rfl
@[simp] theorem updCtx_retired (s : State) (c : Nat) (f : Ctx → Ctx) : (s.updCtx c f).retired = s.retired := rfl
@[simp] theorem updCtx_units (s : State) (c : Nat) (f : Ctx → Ctx) : (s.updCtx c f).units = s.units := rfl
@[simp] theorem updCtx_rows (s : State) (c : Nat) (f : Ctx → Ctx) : (s.updCtx c f).rows = s.rows := rfl
@[simp] theorem updCtx_excluded (s : State) (c : Nat) (f : Ctx → Ctx) : (s.updCtx c f).excluded = s.excluded := rfl
@[simp] theorem updCtx_ops (s : State) (c : Nat) (f : Ctx → Ctx) : (s.updCtx c f).ops = s.ops := rfl
@[simp] theorem updCtx_nextOp (s : State) (c : Nat) (f : Ctx → Ctx) : (s.updCtx c f).nextOp = s.nextOp := rfl
@[simp] theorem updCtx_regions (s : State) (c : Nat) (f : Ctx → Ctx) : (s.updCtx c f).regions = s.regions := rfl
@[simp] theorem updCtx_links (s : State) (c : Nat) (f : Ctx → Ctx) : (s.updCtx c f).links = s.links := rfl
@[simp] theorem updCtx_own (s : State) (c : Nat) (f : Ctx → Ctx) : (s.updCtx c f).own = s.own := rfl
@[simp] theorem updCtx_peers (s : State) (c : Nat) (f : Ctx → Ctx) : (s.updCtx c f).peers = s.peers := rfl
@[simp] theorem updCtx_preds (s : State) (c : Nat) (f : Ctx → Ctx) : (s.updCtx c f).preds = s.preds := rfl
@[simp] theorem updCtx_mirrors (s : State) (c : Nat) (f : Ctx → Ctx) : (s.updCtx c f).mirrors = s.mirrors := rfl
@[simp] theorem updCtx_mirrorCnt (s : State) (c : Nat) (f : Ctx → Ctx) : (s.updCtx c f).mirrorCnt = s.mirrorCnt := rfl
@[simp] theorem updCtx_peerWakes (s : State) (c : Nat) (f : Ctx → Ctx) : (s.updCtx c f).peerWakes = s.peerWakes := rfl
@[simp] theorem updCtx_mirrorHalts (s : State) (c : Nat) (f : Ctx → Ctx) : (s.updCtx c f).mirrorHalts = s.mirrorHalts := rfl
@[simp] theorem updCtx_capped (s : State) (c : Nat) (f : Ctx → Ctx) : (s.updCtx c f).capped = s.capped := rfl
@[simp] theorem updCtx_probe (s : State) (c : Nat) (f : Ctx → Ctx) : (s.updCtx c f).probe = s.probe := rfl
@[simp] theorem updCtx_cur (s : State) (c : Nat) (f : Ctx → Ctx) : (s.updCtx c f).cur = s.cur := rfl
@[simp] theorem updCtx_agenda (s : State) (c : Nat) (f : Ctx → Ctx) : (s.updCtx c f).agenda = s.agenda := rfl
@[simp] theorem updCtx_lease (s : State) (c : Nat) (f : Ctx → Ctx) : (s.updCtx c f).lease = s.lease := rfl
@[simp] theorem updCtx_free (s : State) (c : Nat) (f : Ctx → Ctx) : (s.updCtx c f).free = s.free := rfl
@[simp] theorem updCtx_issues (s : State) (c : Nat) (f : Ctx → Ctx) : (s.updCtx c f).issues = s.issues := rfl
@[simp] theorem updCtx_stalled (s : State) (c : Nat) (f : Ctx → Ctx) : (s.updCtx c f).stalled = s.stalled := rfl

/-! ### updEntity -/

@[simp] theorem updEntity_gnomon (s : State) (e : Nat) (f : Entity → Entity) : (s.updEntity e f).gnomon = s.gnomon := rfl
@[simp] theorem updEntity_disc (s : State) (e : Nat) (f : Entity → Entity) : (s.updEntity e f).disc = s.disc := rfl
@[simp] theorem updEntity_boot (s : State) (e : Nat) (f : Entity → Entity) : (s.updEntity e f).boot = s.boot := rfl
@[simp] theorem updEntity_host (s : State) (e : Nat) (f : Entity → Entity) : (s.updEntity e f).host = s.host := rfl
@[simp] theorem updEntity_mem (s : State) (e : Nat) (f : Entity → Entity) : (s.updEntity e f).mem = s.mem := rfl
@[simp] theorem updEntity_memPoison (s : State) (e : Nat) (f : Entity → Entity) : (s.updEntity e f).memPoison = s.memPoison := rfl
@[simp] theorem updEntity_hostMem (s : State) (e : Nat) (f : Entity → Entity) : (s.updEntity e f).hostMem = s.hostMem := rfl
@[simp] theorem updEntity_lines (s : State) (e : Nat) (f : Entity → Entity) : (s.updEntity e f).lines = s.lines := rfl
@[simp] theorem updEntity_floors (s : State) (e : Nat) (f : Entity → Entity) : (s.updEntity e f).floors = s.floors := rfl
@[simp] theorem updEntity_asleep (s : State) (e : Nat) (f : Entity → Entity) : (s.updEntity e f).asleep = s.asleep := rfl
@[simp] theorem updEntity_halves (s : State) (e : Nat) (f : Entity → Entity) : (s.updEntity e f).halves = s.halves := rfl
@[simp] theorem updEntity_waiting (s : State) (e : Nat) (f : Entity → Entity) : (s.updEntity e f).waiting = s.waiting := rfl
@[simp] theorem updEntity_monitors (s : State) (e : Nat) (f : Entity → Entity) : (s.updEntity e f).monitors = s.monitors := rfl
@[simp] theorem updEntity_tlb (s : State) (e : Nat) (f : Entity → Entity) : (s.updEntity e f).tlb = s.tlb := rfl
@[simp] theorem updEntity_ctxs (s : State) (e : Nat) (f : Entity → Entity) : (s.updEntity e f).ctxs = s.ctxs := rfl
@[simp] theorem updEntity_tlbis (s : State) (e : Nat) (f : Entity → Entity) : (s.updEntity e f).tlbis = s.tlbis := rfl
@[simp] theorem updEntity_queues (s : State) (e : Nat) (f : Entity → Entity) : (s.updEntity e f).queues = s.queues := rfl
@[simp] theorem updEntity_entities (s : State) (e : Nat) (f : Entity → Entity) : (s.updEntity e f).entities = s.entities.upd e f := rfl
@[simp] theorem updEntity_nextEntity (s : State) (e : Nat) (f : Entity → Entity) : (s.updEntity e f).nextEntity = s.nextEntity := rfl
@[simp] theorem updEntity_reserve (s : State) (e : Nat) (f : Entity → Entity) : (s.updEntity e f).reserve = s.reserve := rfl
@[simp] theorem updEntity_nextRec (s : State) (e : Nat) (f : Entity → Entity) : (s.updEntity e f).nextRec = s.nextRec := rfl
@[simp] theorem updEntity_blocks (s : State) (e : Nat) (f : Entity → Entity) : (s.updEntity e f).blocks = s.blocks := rfl
@[simp] theorem updEntity_nextBlock (s : State) (e : Nat) (f : Entity → Entity) : (s.updEntity e f).nextBlock = s.nextBlock := rfl
@[simp] theorem updEntity_groups (s : State) (e : Nat) (f : Entity → Entity) : (s.updEntity e f).groups = s.groups := rfl
@[simp] theorem updEntity_nextGroup (s : State) (e : Nat) (f : Entity → Entity) : (s.updEntity e f).nextGroup = s.nextGroup := rfl
@[simp] theorem updEntity_cores (s : State) (e : Nat) (f : Entity → Entity) : (s.updEntity e f).cores = s.cores := rfl
@[simp] theorem updEntity_deadDies (s : State) (e : Nat) (f : Entity → Entity) : (s.updEntity e f).deadDies = s.deadDies := rfl
@[simp] theorem updEntity_remap (s : State) (e : Nat) (f : Entity → Entity) : (s.updEntity e f).remap = s.remap := rfl
@[simp] theorem updEntity_retired (s : State) (e : Nat) (f : Entity → Entity) : (s.updEntity e f).retired = s.retired := rfl
@[simp] theorem updEntity_units (s : State) (e : Nat) (f : Entity → Entity) : (s.updEntity e f).units = s.units := rfl
@[simp] theorem updEntity_rows (s : State) (e : Nat) (f : Entity → Entity) : (s.updEntity e f).rows = s.rows := rfl
@[simp] theorem updEntity_excluded (s : State) (e : Nat) (f : Entity → Entity) : (s.updEntity e f).excluded = s.excluded := rfl
@[simp] theorem updEntity_ops (s : State) (e : Nat) (f : Entity → Entity) : (s.updEntity e f).ops = s.ops := rfl
@[simp] theorem updEntity_nextOp (s : State) (e : Nat) (f : Entity → Entity) : (s.updEntity e f).nextOp = s.nextOp := rfl
@[simp] theorem updEntity_regions (s : State) (e : Nat) (f : Entity → Entity) : (s.updEntity e f).regions = s.regions := rfl
@[simp] theorem updEntity_links (s : State) (e : Nat) (f : Entity → Entity) : (s.updEntity e f).links = s.links := rfl
@[simp] theorem updEntity_own (s : State) (e : Nat) (f : Entity → Entity) : (s.updEntity e f).own = s.own := rfl
@[simp] theorem updEntity_peers (s : State) (e : Nat) (f : Entity → Entity) : (s.updEntity e f).peers = s.peers := rfl
@[simp] theorem updEntity_preds (s : State) (e : Nat) (f : Entity → Entity) : (s.updEntity e f).preds = s.preds := rfl
@[simp] theorem updEntity_mirrors (s : State) (e : Nat) (f : Entity → Entity) : (s.updEntity e f).mirrors = s.mirrors := rfl
@[simp] theorem updEntity_mirrorCnt (s : State) (e : Nat) (f : Entity → Entity) : (s.updEntity e f).mirrorCnt = s.mirrorCnt := rfl
@[simp] theorem updEntity_peerWakes (s : State) (e : Nat) (f : Entity → Entity) : (s.updEntity e f).peerWakes = s.peerWakes := rfl
@[simp] theorem updEntity_mirrorHalts (s : State) (e : Nat) (f : Entity → Entity) : (s.updEntity e f).mirrorHalts = s.mirrorHalts := rfl
@[simp] theorem updEntity_capped (s : State) (e : Nat) (f : Entity → Entity) : (s.updEntity e f).capped = s.capped := rfl
@[simp] theorem updEntity_probe (s : State) (e : Nat) (f : Entity → Entity) : (s.updEntity e f).probe = s.probe := rfl
@[simp] theorem updEntity_cur (s : State) (e : Nat) (f : Entity → Entity) : (s.updEntity e f).cur = s.cur := rfl
@[simp] theorem updEntity_agenda (s : State) (e : Nat) (f : Entity → Entity) : (s.updEntity e f).agenda = s.agenda := rfl
@[simp] theorem updEntity_lease (s : State) (e : Nat) (f : Entity → Entity) : (s.updEntity e f).lease = s.lease := rfl
@[simp] theorem updEntity_free (s : State) (e : Nat) (f : Entity → Entity) : (s.updEntity e f).free = s.free := rfl
@[simp] theorem updEntity_issues (s : State) (e : Nat) (f : Entity → Entity) : (s.updEntity e f).issues = s.issues := rfl
@[simp] theorem updEntity_stalled (s : State) (e : Nat) (f : Entity → Entity) : (s.updEntity e f).stalled = s.stalled := rfl

/-! ### wrMem -/

@[simp] theorem wrMem_gnomon (s : State) (pa n x : Nat) : (s.wrMem pa n x).gnomon = s.gnomon := rfl
@[simp] theorem wrMem_disc (s : State) (pa n x : Nat) : (s.wrMem pa n x).disc = s.disc := rfl
@[simp] theorem wrMem_boot (s : State) (pa n x : Nat) : (s.wrMem pa n x).boot = s.boot := rfl
@[simp] theorem wrMem_host (s : State) (pa n x : Nat) : (s.wrMem pa n x).host = s.host := rfl
@[simp] theorem wrMem_mem (s : State) (pa n x : Nat) : (s.wrMem pa n x).mem = memWriteN s.mem pa n x := rfl
@[simp] theorem wrMem_memPoison (s : State) (pa n x : Nat) : (s.wrMem pa n x).memPoison = s.memPoison := rfl
@[simp] theorem wrMem_hostMem (s : State) (pa n x : Nat) : (s.wrMem pa n x).hostMem = s.hostMem := rfl
@[simp] theorem wrMem_lines (s : State) (pa n x : Nat) : (s.wrMem pa n x).lines = s.lines := rfl
@[simp] theorem wrMem_floors (s : State) (pa n x : Nat) : (s.wrMem pa n x).floors = s.floors := rfl
@[simp] theorem wrMem_asleep (s : State) (pa n x : Nat) : (s.wrMem pa n x).asleep = s.asleep := rfl
@[simp] theorem wrMem_halves (s : State) (pa n x : Nat) : (s.wrMem pa n x).halves = s.halves := rfl
@[simp] theorem wrMem_waiting (s : State) (pa n x : Nat) : (s.wrMem pa n x).waiting = s.waiting := rfl
@[simp] theorem wrMem_monitors (s : State) (pa n x : Nat) : (s.wrMem pa n x).monitors = s.monitors := rfl
@[simp] theorem wrMem_tlb (s : State) (pa n x : Nat) : (s.wrMem pa n x).tlb = s.tlb := rfl
@[simp] theorem wrMem_ctxs (s : State) (pa n x : Nat) : (s.wrMem pa n x).ctxs = s.ctxs := rfl
@[simp] theorem wrMem_tlbis (s : State) (pa n x : Nat) : (s.wrMem pa n x).tlbis = s.tlbis := rfl
@[simp] theorem wrMem_queues (s : State) (pa n x : Nat) : (s.wrMem pa n x).queues = s.queues := rfl
@[simp] theorem wrMem_entities (s : State) (pa n x : Nat) : (s.wrMem pa n x).entities = s.entities := rfl
@[simp] theorem wrMem_nextEntity (s : State) (pa n x : Nat) : (s.wrMem pa n x).nextEntity = s.nextEntity := rfl
@[simp] theorem wrMem_reserve (s : State) (pa n x : Nat) : (s.wrMem pa n x).reserve = s.reserve := rfl
@[simp] theorem wrMem_nextRec (s : State) (pa n x : Nat) : (s.wrMem pa n x).nextRec = s.nextRec := rfl
@[simp] theorem wrMem_blocks (s : State) (pa n x : Nat) : (s.wrMem pa n x).blocks = s.blocks := rfl
@[simp] theorem wrMem_nextBlock (s : State) (pa n x : Nat) : (s.wrMem pa n x).nextBlock = s.nextBlock := rfl
@[simp] theorem wrMem_groups (s : State) (pa n x : Nat) : (s.wrMem pa n x).groups = s.groups := rfl
@[simp] theorem wrMem_nextGroup (s : State) (pa n x : Nat) : (s.wrMem pa n x).nextGroup = s.nextGroup := rfl
@[simp] theorem wrMem_cores (s : State) (pa n x : Nat) : (s.wrMem pa n x).cores = s.cores := rfl
@[simp] theorem wrMem_deadDies (s : State) (pa n x : Nat) : (s.wrMem pa n x).deadDies = s.deadDies := rfl
@[simp] theorem wrMem_remap (s : State) (pa n x : Nat) : (s.wrMem pa n x).remap = s.remap := rfl
@[simp] theorem wrMem_retired (s : State) (pa n x : Nat) : (s.wrMem pa n x).retired = s.retired := rfl
@[simp] theorem wrMem_units (s : State) (pa n x : Nat) : (s.wrMem pa n x).units = s.units := rfl
@[simp] theorem wrMem_rows (s : State) (pa n x : Nat) : (s.wrMem pa n x).rows = s.rows := rfl
@[simp] theorem wrMem_excluded (s : State) (pa n x : Nat) : (s.wrMem pa n x).excluded = s.excluded := rfl
@[simp] theorem wrMem_ops (s : State) (pa n x : Nat) : (s.wrMem pa n x).ops = s.ops := rfl
@[simp] theorem wrMem_nextOp (s : State) (pa n x : Nat) : (s.wrMem pa n x).nextOp = s.nextOp := rfl
@[simp] theorem wrMem_regions (s : State) (pa n x : Nat) : (s.wrMem pa n x).regions = s.regions := rfl
@[simp] theorem wrMem_links (s : State) (pa n x : Nat) : (s.wrMem pa n x).links = s.links := rfl
@[simp] theorem wrMem_own (s : State) (pa n x : Nat) : (s.wrMem pa n x).own = s.own := rfl
@[simp] theorem wrMem_peers (s : State) (pa n x : Nat) : (s.wrMem pa n x).peers = s.peers := rfl
@[simp] theorem wrMem_preds (s : State) (pa n x : Nat) : (s.wrMem pa n x).preds = s.preds := rfl
@[simp] theorem wrMem_mirrors (s : State) (pa n x : Nat) : (s.wrMem pa n x).mirrors = s.mirrors := rfl
@[simp] theorem wrMem_mirrorCnt (s : State) (pa n x : Nat) : (s.wrMem pa n x).mirrorCnt = s.mirrorCnt := rfl
@[simp] theorem wrMem_peerWakes (s : State) (pa n x : Nat) : (s.wrMem pa n x).peerWakes = s.peerWakes := rfl
@[simp] theorem wrMem_mirrorHalts (s : State) (pa n x : Nat) : (s.wrMem pa n x).mirrorHalts = s.mirrorHalts := rfl
@[simp] theorem wrMem_capped (s : State) (pa n x : Nat) : (s.wrMem pa n x).capped = s.capped := rfl
@[simp] theorem wrMem_probe (s : State) (pa n x : Nat) : (s.wrMem pa n x).probe = s.probe := rfl
@[simp] theorem wrMem_cur (s : State) (pa n x : Nat) : (s.wrMem pa n x).cur = s.cur := rfl
@[simp] theorem wrMem_agenda (s : State) (pa n x : Nat) : (s.wrMem pa n x).agenda = s.agenda := rfl
@[simp] theorem wrMem_lease (s : State) (pa n x : Nat) : (s.wrMem pa n x).lease = s.lease := rfl
@[simp] theorem wrMem_free (s : State) (pa n x : Nat) : (s.wrMem pa n x).free = s.free := rfl
@[simp] theorem wrMem_issues (s : State) (pa n x : Nat) : (s.wrMem pa n x).issues = s.issues := rfl
@[simp] theorem wrMem_stalled (s : State) (pa n x : Nat) : (s.wrMem pa n x).stalled = s.stalled := rfl

/-! ### backInval -/

@[simp] theorem backInval_gnomon (s : State) (hs : List Nat) : (s.backInval hs).gnomon = s.gnomon := rfl
@[simp] theorem backInval_disc (s : State) (hs : List Nat) : (s.backInval hs).disc = s.disc := rfl
@[simp] theorem backInval_boot (s : State) (hs : List Nat) : (s.backInval hs).boot = s.boot := rfl
@[simp] theorem backInval_host (s : State) (hs : List Nat) : (s.backInval hs).host = s.host := rfl
@[simp] theorem backInval_mem (s : State) (hs : List Nat) : (s.backInval hs).mem = s.mem := rfl
@[simp] theorem backInval_memPoison (s : State) (hs : List Nat) : (s.backInval hs).memPoison = s.memPoison := rfl
@[simp] theorem backInval_hostMem (s : State) (hs : List Nat) : (s.backInval hs).hostMem = s.hostMem := rfl
@[simp] theorem backInval_lines (s : State) (hs : List Nat) : (s.backInval hs).lines = s.lines := rfl
@[simp] theorem backInval_floors (s : State) (hs : List Nat) : (s.backInval hs).floors = s.floors := rfl
@[simp] theorem backInval_asleep (s : State) (hs : List Nat) : (s.backInval hs).asleep = s.asleep := rfl
@[simp] theorem backInval_halves (s : State) (hs : List Nat) : (s.backInval hs).halves = hs.foldl (fun m h => m.upd h HostHalf.asked) s.halves := rfl
@[simp] theorem backInval_waiting (s : State) (hs : List Nat) : (s.backInval hs).waiting = s.waiting := rfl
@[simp] theorem backInval_monitors (s : State) (hs : List Nat) : (s.backInval hs).monitors = s.monitors := rfl
@[simp] theorem backInval_tlb (s : State) (hs : List Nat) : (s.backInval hs).tlb = s.tlb := rfl
@[simp] theorem backInval_ctxs (s : State) (hs : List Nat) : (s.backInval hs).ctxs = s.ctxs := rfl
@[simp] theorem backInval_tlbis (s : State) (hs : List Nat) : (s.backInval hs).tlbis = s.tlbis := rfl
@[simp] theorem backInval_queues (s : State) (hs : List Nat) : (s.backInval hs).queues = s.queues := rfl
@[simp] theorem backInval_entities (s : State) (hs : List Nat) : (s.backInval hs).entities = s.entities := rfl
@[simp] theorem backInval_nextEntity (s : State) (hs : List Nat) : (s.backInval hs).nextEntity = s.nextEntity := rfl
@[simp] theorem backInval_reserve (s : State) (hs : List Nat) : (s.backInval hs).reserve = s.reserve := rfl
@[simp] theorem backInval_nextRec (s : State) (hs : List Nat) : (s.backInval hs).nextRec = s.nextRec := rfl
@[simp] theorem backInval_blocks (s : State) (hs : List Nat) : (s.backInval hs).blocks = s.blocks := rfl
@[simp] theorem backInval_nextBlock (s : State) (hs : List Nat) : (s.backInval hs).nextBlock = s.nextBlock := rfl
@[simp] theorem backInval_groups (s : State) (hs : List Nat) : (s.backInval hs).groups = s.groups := rfl
@[simp] theorem backInval_nextGroup (s : State) (hs : List Nat) : (s.backInval hs).nextGroup = s.nextGroup := rfl
@[simp] theorem backInval_cores (s : State) (hs : List Nat) : (s.backInval hs).cores = s.cores := rfl
@[simp] theorem backInval_deadDies (s : State) (hs : List Nat) : (s.backInval hs).deadDies = s.deadDies := rfl
@[simp] theorem backInval_remap (s : State) (hs : List Nat) : (s.backInval hs).remap = s.remap := rfl
@[simp] theorem backInval_retired (s : State) (hs : List Nat) : (s.backInval hs).retired = s.retired := rfl
@[simp] theorem backInval_units (s : State) (hs : List Nat) : (s.backInval hs).units = s.units := rfl
@[simp] theorem backInval_rows (s : State) (hs : List Nat) : (s.backInval hs).rows = s.rows := rfl
@[simp] theorem backInval_excluded (s : State) (hs : List Nat) : (s.backInval hs).excluded = s.excluded := rfl
@[simp] theorem backInval_ops (s : State) (hs : List Nat) : (s.backInval hs).ops = s.ops := rfl
@[simp] theorem backInval_nextOp (s : State) (hs : List Nat) : (s.backInval hs).nextOp = s.nextOp := rfl
@[simp] theorem backInval_regions (s : State) (hs : List Nat) : (s.backInval hs).regions = s.regions := rfl
@[simp] theorem backInval_links (s : State) (hs : List Nat) : (s.backInval hs).links = s.links := rfl
@[simp] theorem backInval_own (s : State) (hs : List Nat) : (s.backInval hs).own = s.own := rfl
@[simp] theorem backInval_peers (s : State) (hs : List Nat) : (s.backInval hs).peers = s.peers := rfl
@[simp] theorem backInval_preds (s : State) (hs : List Nat) : (s.backInval hs).preds = s.preds := rfl
@[simp] theorem backInval_mirrors (s : State) (hs : List Nat) : (s.backInval hs).mirrors = s.mirrors := rfl
@[simp] theorem backInval_mirrorCnt (s : State) (hs : List Nat) : (s.backInval hs).mirrorCnt = s.mirrorCnt := rfl
@[simp] theorem backInval_peerWakes (s : State) (hs : List Nat) : (s.backInval hs).peerWakes = s.peerWakes := rfl
@[simp] theorem backInval_mirrorHalts (s : State) (hs : List Nat) : (s.backInval hs).mirrorHalts = s.mirrorHalts := rfl
@[simp] theorem backInval_capped (s : State) (hs : List Nat) : (s.backInval hs).capped = s.capped := rfl
@[simp] theorem backInval_probe (s : State) (hs : List Nat) : (s.backInval hs).probe = s.probe := rfl
@[simp] theorem backInval_cur (s : State) (hs : List Nat) : (s.backInval hs).cur = s.cur := rfl
@[simp] theorem backInval_agenda (s : State) (hs : List Nat) : (s.backInval hs).agenda = s.agenda := rfl
@[simp] theorem backInval_lease (s : State) (hs : List Nat) : (s.backInval hs).lease = s.lease := rfl
@[simp] theorem backInval_free (s : State) (hs : List Nat) : (s.backInval hs).free = s.free := rfl
@[simp] theorem backInval_issues (s : State) (hs : List Nat) : (s.backInval hs).issues = s.issues := rfl
@[simp] theorem backInval_stalled (s : State) (hs : List Nat) : (s.backInval hs).stalled = s.stalled := rfl

/-! ### updCore -/

@[simp] theorem updCore_gnomon (s : State) (c : Nat) (f : Core → Core) : (s.updCore c f).gnomon = s.gnomon := by
  unfold State.updCore; split <;> rfl
@[simp] theorem updCore_disc (s : State) (c : Nat) (f : Core → Core) : (s.updCore c f).disc = s.disc := by
  unfold State.updCore; split <;> rfl
@[simp] theorem updCore_boot (s : State) (c : Nat) (f : Core → Core) : (s.updCore c f).boot = s.boot := by
  unfold State.updCore; split <;> rfl
@[simp] theorem updCore_host (s : State) (c : Nat) (f : Core → Core) : (s.updCore c f).host = s.host := by
  unfold State.updCore; split <;> rfl
@[simp] theorem updCore_mem (s : State) (c : Nat) (f : Core → Core) : (s.updCore c f).mem = s.mem := by
  unfold State.updCore; split <;> rfl
@[simp] theorem updCore_memPoison (s : State) (c : Nat) (f : Core → Core) : (s.updCore c f).memPoison = s.memPoison := by
  unfold State.updCore; split <;> rfl
@[simp] theorem updCore_hostMem (s : State) (c : Nat) (f : Core → Core) : (s.updCore c f).hostMem = s.hostMem := by
  unfold State.updCore; split <;> rfl
@[simp] theorem updCore_lines (s : State) (c : Nat) (f : Core → Core) : (s.updCore c f).lines = s.lines := by
  unfold State.updCore; split <;> rfl
@[simp] theorem updCore_floors (s : State) (c : Nat) (f : Core → Core) : (s.updCore c f).floors = s.floors := by
  unfold State.updCore; split <;> rfl
@[simp] theorem updCore_asleep (s : State) (c : Nat) (f : Core → Core) : (s.updCore c f).asleep = s.asleep := by
  unfold State.updCore; split <;> rfl
@[simp] theorem updCore_halves (s : State) (c : Nat) (f : Core → Core) : (s.updCore c f).halves = s.halves := by
  unfold State.updCore; split <;> rfl
@[simp] theorem updCore_waiting (s : State) (c : Nat) (f : Core → Core) : (s.updCore c f).waiting = s.waiting := by
  unfold State.updCore; split <;> rfl
@[simp] theorem updCore_monitors (s : State) (c : Nat) (f : Core → Core) : (s.updCore c f).monitors = s.monitors := by
  unfold State.updCore; split <;> rfl
@[simp] theorem updCore_tlb (s : State) (c : Nat) (f : Core → Core) : (s.updCore c f).tlb = s.tlb := by
  unfold State.updCore; split <;> rfl
@[simp] theorem updCore_ctxs (s : State) (c : Nat) (f : Core → Core) : (s.updCore c f).ctxs = s.ctxs := by
  unfold State.updCore; split <;> rfl
@[simp] theorem updCore_tlbis (s : State) (c : Nat) (f : Core → Core) : (s.updCore c f).tlbis = s.tlbis := by
  unfold State.updCore; split <;> rfl
@[simp] theorem updCore_queues (s : State) (c : Nat) (f : Core → Core) : (s.updCore c f).queues = s.queues := by
  unfold State.updCore; split <;> rfl
@[simp] theorem updCore_entities (s : State) (c : Nat) (f : Core → Core) : (s.updCore c f).entities = s.entities := by
  unfold State.updCore; split <;> rfl
@[simp] theorem updCore_nextEntity (s : State) (c : Nat) (f : Core → Core) : (s.updCore c f).nextEntity = s.nextEntity := by
  unfold State.updCore; split <;> rfl
@[simp] theorem updCore_reserve (s : State) (c : Nat) (f : Core → Core) : (s.updCore c f).reserve = s.reserve := by
  unfold State.updCore; split <;> rfl
@[simp] theorem updCore_nextRec (s : State) (c : Nat) (f : Core → Core) : (s.updCore c f).nextRec = s.nextRec := by
  unfold State.updCore; split <;> rfl
@[simp] theorem updCore_blocks (s : State) (c : Nat) (f : Core → Core) : (s.updCore c f).blocks = s.blocks := by
  unfold State.updCore; split <;> rfl
@[simp] theorem updCore_nextBlock (s : State) (c : Nat) (f : Core → Core) : (s.updCore c f).nextBlock = s.nextBlock := by
  unfold State.updCore; split <;> rfl
@[simp] theorem updCore_groups (s : State) (c : Nat) (f : Core → Core) : (s.updCore c f).groups = s.groups := by
  unfold State.updCore; split <;> rfl
@[simp] theorem updCore_nextGroup (s : State) (c : Nat) (f : Core → Core) : (s.updCore c f).nextGroup = s.nextGroup := by
  unfold State.updCore; split <;> rfl
@[simp] theorem updCore_deadDies (s : State) (c : Nat) (f : Core → Core) : (s.updCore c f).deadDies = s.deadDies := by
  unfold State.updCore; split <;> rfl
@[simp] theorem updCore_remap (s : State) (c : Nat) (f : Core → Core) : (s.updCore c f).remap = s.remap := by
  unfold State.updCore; split <;> rfl
@[simp] theorem updCore_retired (s : State) (c : Nat) (f : Core → Core) : (s.updCore c f).retired = s.retired := by
  unfold State.updCore; split <;> rfl
@[simp] theorem updCore_units (s : State) (c : Nat) (f : Core → Core) : (s.updCore c f).units = s.units := by
  unfold State.updCore; split <;> rfl
@[simp] theorem updCore_rows (s : State) (c : Nat) (f : Core → Core) : (s.updCore c f).rows = s.rows := by
  unfold State.updCore; split <;> rfl
@[simp] theorem updCore_excluded (s : State) (c : Nat) (f : Core → Core) : (s.updCore c f).excluded = s.excluded := by
  unfold State.updCore; split <;> rfl
@[simp] theorem updCore_ops (s : State) (c : Nat) (f : Core → Core) : (s.updCore c f).ops = s.ops := by
  unfold State.updCore; split <;> rfl
@[simp] theorem updCore_nextOp (s : State) (c : Nat) (f : Core → Core) : (s.updCore c f).nextOp = s.nextOp := by
  unfold State.updCore; split <;> rfl
@[simp] theorem updCore_regions (s : State) (c : Nat) (f : Core → Core) : (s.updCore c f).regions = s.regions := by
  unfold State.updCore; split <;> rfl
@[simp] theorem updCore_links (s : State) (c : Nat) (f : Core → Core) : (s.updCore c f).links = s.links := by
  unfold State.updCore; split <;> rfl
@[simp] theorem updCore_own (s : State) (c : Nat) (f : Core → Core) : (s.updCore c f).own = s.own := by
  unfold State.updCore; split <;> rfl
@[simp] theorem updCore_peers (s : State) (c : Nat) (f : Core → Core) : (s.updCore c f).peers = s.peers := by
  unfold State.updCore; split <;> rfl
@[simp] theorem updCore_preds (s : State) (c : Nat) (f : Core → Core) : (s.updCore c f).preds = s.preds := by
  unfold State.updCore; split <;> rfl
@[simp] theorem updCore_mirrors (s : State) (c : Nat) (f : Core → Core) : (s.updCore c f).mirrors = s.mirrors := by
  unfold State.updCore; split <;> rfl
@[simp] theorem updCore_mirrorCnt (s : State) (c : Nat) (f : Core → Core) : (s.updCore c f).mirrorCnt = s.mirrorCnt := by
  unfold State.updCore; split <;> rfl
@[simp] theorem updCore_peerWakes (s : State) (c : Nat) (f : Core → Core) : (s.updCore c f).peerWakes = s.peerWakes := by
  unfold State.updCore; split <;> rfl
@[simp] theorem updCore_mirrorHalts (s : State) (c : Nat) (f : Core → Core) : (s.updCore c f).mirrorHalts = s.mirrorHalts := by
  unfold State.updCore; split <;> rfl
@[simp] theorem updCore_capped (s : State) (c : Nat) (f : Core → Core) : (s.updCore c f).capped = s.capped := by
  unfold State.updCore; split <;> rfl
@[simp] theorem updCore_probe (s : State) (c : Nat) (f : Core → Core) : (s.updCore c f).probe = s.probe := by
  unfold State.updCore; split <;> rfl
@[simp] theorem updCore_cur (s : State) (c : Nat) (f : Core → Core) : (s.updCore c f).cur = s.cur := by
  unfold State.updCore; split <;> rfl
@[simp] theorem updCore_agenda (s : State) (c : Nat) (f : Core → Core) : (s.updCore c f).agenda = s.agenda := by
  unfold State.updCore; split <;> rfl
@[simp] theorem updCore_lease (s : State) (c : Nat) (f : Core → Core) : (s.updCore c f).lease = s.lease := by
  unfold State.updCore; split <;> rfl
@[simp] theorem updCore_free (s : State) (c : Nat) (f : Core → Core) : (s.updCore c f).free = s.free := by
  unfold State.updCore; split <;> rfl
@[simp] theorem updCore_issues (s : State) (c : Nat) (f : Core → Core) : (s.updCore c f).issues = s.issues := by
  unfold State.updCore; split <;> rfl
@[simp] theorem updCore_stalled (s : State) (c : Nat) (f : Core → Core) : (s.updCore c f).stalled = s.stalled := by
  unfold State.updCore; split <;> rfl

end Sys2Proof.Machine.State
end

