-- ==== Sys2Proof/Laws/Issue.lean ====
section
/-! SUPPORT. The issue of an instruction, said once: what comes after its own effect keeps the group's registers and
everything outside the group. -/

namespace Sys2Proof.Machine

/-! ### What keeps the registers and the paths of a group -/

@[simp] theorem Group.setEntry_regs (g : Group) (q : Nat) (e : PathEntry) : (g.setEntry q e).regs = g.regs := by
  unfold Group.setEntry; split <;> rfl
@[simp] theorem Group.setEntry_hstep (g : Group) (q : Nat) (e : PathEntry) : (g.setEntry q e).hstep = g.hstep := by
  unfold Group.setEntry; split <;> rfl
@[simp] theorem Group.updEntry_regs (g : Group) (q : Nat) (f : PathEntry → PathEntry) :
    (g.updEntry q f).regs = g.regs := Group.setEntry_regs _ _ _
@[simp] theorem Group.updEntry_hstep (g : Group) (q : Nat) (f : PathEntry → PathEntry) :
    (g.updEntry q f).hstep = g.hstep := Group.setEntry_hstep _ _ _

/-- A group with the registers, the single-lane step and the paths of another. -/
def Group.Keeps (g' g : Group) : Prop := g'.regs = g.regs ∧ g'.hstep = g.hstep ∧ g'.samePaths g

theorem Group.Keeps.rfl {g : Group} : g.Keeps g := ⟨Eq.refl _, Eq.refl _, List.Perm.refl _⟩
theorem Group.Keeps.trans {a b c : Group} (h : a.Keeps b) (k : b.Keeps c) : a.Keeps c :=
  ⟨h.1.trans k.1, h.2.1.trans k.2.1, List.Perm.trans h.2.2 k.2.2⟩
theorem Group.Keeps.of_paths {g' g : Group} (h : g'.regs = g.regs) (k : g'.hstep = g.hstep) (p : g'.paths = g.paths) : g'.Keeps g :=
  ⟨h, k, by unfold Group.samePaths; rw [p]⟩

/-- The plain entries of a group. -/
theorem Group.plain_setEntry (g : Group) (q : Nat) (e : PathEntry) (h : q < 64) :
    (g.setEntry q e).paths.toList.map PathEntry.plain = (g.paths.toList.map PathEntry.plain).set q e.plain := by
  simp [Group.setEntry, h, Vector.toList, List.map_set]

theorem Group.plain_getElem (g : Group) (q : Nat) (h : q < 64) (h' : q < (g.paths.toList.map PathEntry.plain).length) :
    (g.paths.toList.map PathEntry.plain)[q] = (g.entryAt q).plain := by
  simp [Group.entryAt, h]

/-- Two entries change places, as far as the rules see. -/
theorem Group.swap_keeps (g : Group) {k q : Nat} {a b : PathEntry} (hk : k < 64) (hq : q < 64)
    (ha : a.plain = (g.entryAt q).plain) (hb : b.plain = (g.entryAt k).plain) : ((g.setEntry k a).setEntry q b).Keeps g := by
  refine ⟨by simp, by simp, ?_⟩
  have hl : (g.paths.toList.map PathEntry.plain).length = 64 := by simp
  unfold Group.samePaths
  rw [Group.plain_setEntry _ _ _ hq, Group.plain_setEntry _ _ _ hk, ha, hb,
    ← Group.plain_getElem g q hq (by omega), ← Group.plain_getElem g k hk (by omega)]
  exact List.set_set_perm (by omega) (by omega)

theorem Group.updEntry_keeps (g : Group) (q : Nat) (f : PathEntry → PathEntry)
    (h : (f (g.entryAt q)).plain = (g.entryAt q).plain) : (g.updEntry q f).Keeps g := by
  refine ⟨by simp, by simp, ?_⟩
  unfold Group.samePaths Group.updEntry
  by_cases hq : q < 64
  · rw [Group.plain_setEntry _ _ _ hq, h, ← Group.plain_getElem g q hq (by simpa using hq), List.set_getElem_self]
  · simp [Group.setEntry, hq]

theorem Group.mem_entriesWhere {g : Group} {f : Nat → PathEntry → Bool} {k : Nat} (h : k ∈ g.entriesWhere f) :
    k < 64 ∧ f k (g.entryAt k) = true := by
  unfold Group.entriesWhere at h
  exact ⟨List.mem_range.1 (List.mem_filter.1 h).1, (List.mem_filter.1 h).2⟩

/-- A choice among some entries is one of them. -/
theorem foldl_choice {f : Option Nat → Nat → Option Nat} (hf : ∀ r k, f r k = r ∨ f r k = some k) (l : List Nat) :
    ∀ r x, l.foldl f r = some x → r = some x ∨ x ∈ l := by
  induction l with
  | nil => intro r x h; exact .inl h
  | cons k l ih =>
    intro r x h
    rcases ih _ _ h with h | h
    · rcases hf r k with e | e
      · exact .inl (e ▸ h)
      · rw [e] at h; exact .inr (by simp [Option.some.inj h])
    · exact .inr (by simp [h])

theorem Group.reloadChoice_lt {g : Group} {ok : Nat → Bool} {q : Nat} (h : g.reloadChoice ok = some q) : q < 64 := by
  unfold Group.reloadChoice at h
  refine (Group.mem_entriesWhere ((foldl_choice ?_ _ _ _ h).resolve_left (by simp))).1
  intro r k
  split
  · exact .inr (Eq.refl _)
  · split
    · exact .inr (Eq.refl _)
    · exact .inl (Eq.refl _)

theorem Group.older_choice (g : Group) (r : Option Nat) (k : Nat) : g.older r k = r ∨ g.older r k = some k := by
  unfold Group.older
  split
  · exact .inr (Eq.refl _)
  · split
    · exact .inr (Eq.refl _)
    · exact .inl (Eq.refl _)

theorem Group.victim_lt {g : Group} {k q : Nat} (h : g.victim k = some q) : q < 64 := by
  unfold Group.victim at h
  refine (fun m => ?_) ((foldl_choice ?_ _ _ _ h).resolve_left (by simp))
  · have := (List.mem_filter.1 m).1
    simp at this; omega
  · intro r k
    split
    · exact .inr (Eq.refl _)
    · unfold Group.betterVictim
      dsimp only
      split
      · exact .inr (Eq.refl _)
      · exact .inl (Eq.refl _)

theorem PathEntry.plain_since (e : PathEntry) (n : Nat) : ({ e with since := n } : PathEntry).plain = e.plain := by
  unfold PathEntry.plain; split <;> simp_all

theorem Group.swapEntries_keeps (g : Group) (k q n : Nat) (hk : k < 64) (hq : q < 64) : (g.swapEntries k q n).Keeps g :=
  Group.swap_keeps g hk hq (PathEntry.plain_since _ _) (PathEntry.plain_since _ _)

theorem Group.exchange_keeps (g : Group) (n : Nat) : (g.exchange n).Keeps g := by
  unfold Group.exchange
  split
  · rename_i q k hq hk
    refine Group.swapEntries_keeps _ _ _ _ ?_ ?_
    · exact (Group.mem_entriesWhere ((foldl_choice g.older_choice _ _ _ hk).resolve_left (by simp))).1
    · exact (Group.mem_entriesWhere ((foldl_choice g.older_choice _ _ _ hq).resolve_left (by simp))).1
  · exact .rfl

theorem Group.makeRoom_keeps (g : Group) (n : Nat) : (g.makeRoom n).Keeps g := by
  unfold Group.makeRoom
  split
  · exact .rfl
  · split
    · rename_i q k hq hk
      exact Group.swapEntries_keeps _ _ _ _ (Group.victim_lt hk) (Group.reloadChoice_lt hq)
    · exact .rfl

theorem Group.reload_keeps (g : Group) (n k : Nat) : (g.reload n k).Keeps g := by
  induction k generalizing g with
  | zero => exact .rfl
  | succ k ih =>
    unfold Group.reload
    split
    · rename_i j l q hk hq
      have hj := Group.mem_entriesWhere (g := g) (k := j) (f := fun k e => decide (k < 4) && e.kind == .free)
        (by unfold Group.freeTable at hk; rw [hk]; simp)
      refine (ih _).trans (Group.swap_keeps g hj.1 (Group.reloadChoice_lt hq) (PathEntry.plain_since _ _) ?_)
      have hf : (g.entryAt j).kind = .free := by simpa using (Bool.and_eq_true_iff.1 hj.2).2
      simp [PathEntry.plain, hf]
    · exact .rfl

theorem Group.spreadPoison_keeps (g : Group) (u : Use) (a b : Mask) : (g.spreadPoison u a b).Keeps g := by
  unfold Group.spreadPoison; dsimp only; split <;> exact .of_paths (Eq.refl _) (Eq.refl _) (Eq.refl _)

theorem Group.raiseCnt_keeps (g : Group) (k : Nat) : (g.raiseCnt k).Keeps g := by
  unfold Group.raiseCnt; split <;> exact .of_paths (Eq.refl _) (Eq.refl _) (Eq.refl _)

theorem Group.dropKeptB_keeps (g : Group) (l : List Nat) : (g.dropKeptB l).Keeps g := by
  unfold Group.dropKeptB; split
  · split <;> exact .of_paths (Eq.refl _) (Eq.refl _) (Eq.refl _)
  · exact .rfl

theorem Group.noteUse_keeps (g : Group) (l : List Nat) (n : Nat) : (g.noteUse l n).Keeps g :=
  .of_paths (Eq.refl _) (Eq.refl _) (Eq.refl _)

theorem Group.fillTable_keeps (g : Group) (n : Nat) : (g.fillTable n).Keeps g :=
  (Group.makeRoom_keeps (g.reload n 4) n).trans (Group.reload_keeps g n 4)

theorem Group.noteIssue_keeps (g : Group) (q n : Nat) (y : Bool) : (g.noteIssue q n y).Keeps g := by
  unfold Group.noteIssue; split
  · refine Group.updEntry_keeps g q _ ?_
    unfold PathEntry.plain; split <;> simp_all
  · exact .rfl

theorem Group.endRound_keeps (g : Group) (q n : Nat) : (g.endRound q n).Keeps g := by
  unfold Group.endRound; split
  · exact (Group.Keeps.of_paths (Eq.refl _) (Eq.refl _) (Eq.refl _)).trans (Group.exchange_keeps g n)
  · exact .rfl

theorem Group.lastIssue_keeps (g : Group) (q n : Nat) : (g.lastIssue q n).Keeps g :=
  .of_paths (Eq.refl _) (Eq.refl _) (Eq.refl _)

theorem Group.stamp_keeps (g : Group) (q n tick : Nat) (y ends : Bool) : (g.stamp q n tick y ends).Keeps g := by
  have h : (if ends then g else g.noteIssue q n y).Keeps g := by
    split
    · exact .rfl
    · exact Group.noteIssue_keeps g q n y
  exact (Group.fillTable_keeps _ tick).trans ((Group.lastIssue_keeps _ q n).trans ((Group.endRound_keeps _ q tick).trans h))

theorem Group.afterEffect_keeps (old : Group) (c : Iss) (u : Use) (g : Group) : (old.afterEffect c u g).Keeps g := by
  unfold Group.afterEffect
  extract_lets g1
  have e1 : g1.Keeps g := by
    simp only [g1]; split
    · exact Group.spreadPoison_keeps _ _ _ _
    · exact .rfl
  split
  · split
    · exact e1
    · exact (Group.raiseCnt_keeps _ _).trans e1
  · exact e1

theorem Group.noteStep_keeps (old g : Group) (c : Iss) : (old.noteStep g c).Keeps g := by
  unfold Group.noteStep
  split
  · split
    · exact .of_paths (Eq.refl _) (Eq.refl _) (Eq.refl _)
    · exact .rfl
  · exact .rfl

theorem Group.noteSkid_keeps (g : Group) (m : Mask) : (g.noteSkid m).Keeps g := by
  unfold Group.noteSkid
  split
  · exact .of_paths (Eq.refl _) (Eq.refl _) (Eq.refl _)
  · exact .rfl

theorem Group.journaled_keeps {old g g' : Group} {vs l : List Nat} (h : old.journaled g vs l = some g') : g'.Keeps g := by
  unfold Group.journaled at h
  dsimp only at h
  split at h
  · exact absurd h (by simp)
  · exact Option.some.inj h ▸ .of_paths (Eq.refl _) (Eq.refl _) (Eq.refl _)

/-- What follows an instruction's own effect keeps the group's registers and paths (16 R386, R389; 06 R143, R144, R164). -/
theorem Group.finish_keeps {old g g' : Group} {c : Iss} {u : Use} {i n : Nat} (h : old.finish c u i n g = some g') :
    g'.Keeps g := by
  have e : (((((old.noteStep (old.afterEffect c u g) c).noteSkid c.live).dropKeptB (u.vw ++ u.later.v)).noteUse u.vs i).stamp
      c.path i c.tick u.yields u.ends).Keeps g :=
    (Group.stamp_keeps _ _ _ _ _ _).trans ((Group.noteUse_keeps _ _ _).trans ((Group.dropKeptB_keeps _ _).trans
      ((Group.noteSkid_keeps _ _).trans ((Group.noteStep_keeps _ _ _).trans (Group.afterEffect_keeps _ _ _ _)))))
  unfold Group.finish at h
  revert h
  generalize (((((old.noteStep (old.afterEffect c u g) c).noteSkid c.live).dropKeptB (u.vw ++ u.later.v)).noteUse u.vs i).stamp
      c.path i c.tick u.yields u.ends) = x at e
  intro h
  dsimp only at h
  split at h
  · exact Option.some.inj h ▸ e
  · split at h
    · exact Option.some.inj h ▸ (Group.Keeps.of_paths (Eq.refl _) (Eq.refl _) (Eq.refl _)).trans e
    · exact (Group.journaled_keeps h).trans e

/-! ### The evaluation of watch predicates -/

/-- With no predicate enabled nothing matches (19 R437). -/
theorem State.evaluate_noWatch {s : State} (h : s.noWatch) (core ctx : Nat) (f : Nat → List Sample) :
    (s.evaluate core ctx f).hits = [] := by
  unfold State.evaluate
  have key : ∀ (l : List (Fin 16)) (v : Verdict), v.hits = [] →
      (l.foldl (fun (v : Verdict) (k : Fin 16) =>
        let p : Pred := s.preds[k]
        if p.inForce ctx then
          let m := p.matching (f p.src)
          let (c, fired) := fireLanes p.thr m v.counters[k]
          { counters := v.counters.set k c
            hits := if m = 0 then v.hits else v.hits ++ [(k.val, m, if p.act = 0 then 0 else fired)] }
        else v) v).hits = [] := by
    intro l
    induction l with
    | nil => intro v hv; exact hv
    | cons k l ih =>
      intro v hv
      refine ih _ ?_
      have : Pred.inForce (s.preds[k] : Pred) ctx = false := by simp only [Pred.inForce, h k, Bool.false_and]
      simp only [this]; exact hv
  exact key _ _ rfl

theorem State.watchFlags_noWatch {s : State} (h : s.noWatch) (c : Iss) (fl : List (Fin 16 × Flags)) :
    s.watchFlags c fl = some s := by
  unfold State.watchFlags
  simp only [State.evaluate_noWatch h, List.isEmpty_nil, if_true, ite_self]

theorem State.endHstep_none {s : State} {c : Iss} {g : Group} (hg : s.groups.get? c.gid = some g) (h : g.hstep = 0) :
    s.endHstep c = s := by
  unfold State.endHstep
  simp [hg, h]

/-! ### An effect on the group alone -/

/-- An instruction whose own effect is on its group alone: the next state, the registers of the group after it, and
that nothing outside the group changes. -/
theorem issue_group {w : IWord} {u : Use} {f : Iss → Group} {fl : Iss → List (Fin 16 × Flags)} {s : State} {c : Iss}
    (h : Issues w u s c (f c)) :
    ∃ t g, issue w u (fun c s => .ok (s.setGroup c.gid (f c)) (fl c)) s = .next t ∧
      t.groups.get? c.gid = some g ∧ g.regs = (f c).regs ∧ g.samePaths (f c) ∧ s.outside c.gid t := by
  obtain ⟨hgo, hw, hn, o, ho, hf⟩ := h
  obtain ⟨g', hg'⟩ := Option.isSome_iff_exists.1 hf
  have hk := Group.finish_keeps hg'
  have ht : ∀ t : State, t = ((s.setGroup c.gid (f c)).setGroup c.gid g').counted (s.issues + 1) →
      s.retire c u (s.setGroup c.gid (f c)) (fl c) = t := by
    intro t ht
    have hw' : t.noWatch := by subst ht; exact hw
    have hg : t.groups.get? c.gid = some g' := by subst ht; simp [State.counted]
    unfold State.retire
    simp only [ho, State.setGroup_groups, AMap.get?_set_self, State.setGroup_nextOp, hg']
    rw [← ht]
    simp only [State.watchFlags_noWatch hw', State.endHstep_none hg (hk.2.1.trans hn)]
  refine ⟨((s.setGroup c.gid (f c)).setGroup c.gid g').counted (s.issues + 1), g', ?_, ?_, hk.1, hk.2.2, ?_⟩
  · simp only [issue, hgo, ht _ rfl]
  · simp [State.counted]
  · refine ⟨rfl, rfl, rfl, ?_, by simp [State.counted]⟩
    intro k hkn
    simp [State.counted, AMap.get?_set_ne _ _ hkn]

/-- An effect on the state. -/
theorem issue_state {w : IWord} {u : Use} {e : Iss → State → Eff} {s t : State} {c : Iss} {fl : List (Fin 16 × Flags)}
    {o g g' : Group} (h : preIssue w u s = .go c) (he : e c s = .ok t fl) (ho : s.groups.get? c.gid = some o)
    (hg : t.groups.get? c.gid = some g) (hf : o.finish c u (s.issues + 1) t.nextOp g = some g') {r : State}
    (hw : ((t.setGroup c.gid g').counted (s.issues + 1)).watchFlags c fl = some r) :
    issue w u e s = .next (r.endHstep c) := by
  simp only [issue, h, he, State.retire, ho, hg, hf, hw]

/-- A trap of an instruction's own check. -/
theorem issue_trap {w : IWord} {u : Use} {e : Iss → State → Eff} {s r : State} {c : Iss} {x : Trap}
    (h : preIssue w u s = .go c) (he : e c s = .trap x) (hr : s.raiseTrap c.gid c.path x = some r) :
    issue w u e s = .next r := by
  simp only [issue, h, he, hr]

/-- An effect on the group alone that may trap: when it does not. -/
theorem issue_groupOr {w : IWord} {u : Use} {f : Iss → Except Trap Group} {s : State} {c : Iss} {x : Group}
    (hf : f c = .ok x) (h : Issues w u s c x) :
    ∃ t g, issue w u (groupTrapEff f) s = .next t ∧ t.groups.get? c.gid = some g ∧ g.regs = x.regs ∧ g.samePaths x ∧ s.outside c.gid t := by
  obtain ⟨t, g, ht, hr⟩ := issue_group (f := fun _ => x) (fl := fun _ => []) h
  refine ⟨t, g, ?_, hr⟩
  simp only [issue, h.go] at ht ⊢
  simp only [groupTrapEff, hf]
  exact ht

/-- The same effect when it traps. -/
theorem issue_ownTrap {w : IWord} {u : Use} {f : Iss → Except Trap Group} {s r : State} {c : Iss} {x : Trap}
    (h : preIssue w u s = .go c) (hf : f c = .error x) (hr : s.raiseTrap c.gid c.path x = some r) :
    issue w u (groupTrapEff f) s = .next r :=
  issue_trap h (by simp only [groupTrapEff, hf]) hr

end Sys2Proof.Machine
end

