-- ==== Sys2Proof/Laws/Complete.lean ====
section
/-! SUPPORT. What an instruction's effect answers when its own conditions hold: one lemma for each shared operation that
begins an access, a copy, a matrix entry or a target operation, and the rule that an effect which answers a state completes
the instruction. -/

namespace Sys2Proof.Machine

/-! ### From an effect that answers to a next state -/

/-- An instruction whose effect answers a state under its conditions completes: with no watch predicate enabled only an
effect that raises exception flags needs the predicates kept. -/
theorem issue_completes {i : Instr} {w : IWord} {u : State → Use} {e : Iss → State → Eff} {ok : Iss → State → Prop}
    {own : Iss → State → State → Prop} (hx : ∀ s, exec i s = issue w (u s) e s)
    (h : ∀ s c, preIssue w (u s) s = .go c → s.noWatch → ok c s →
      ∃ t fl, e c s = .ok t fl ∧ (fl = [] ∨ t.preds = s.preds) ∧ own c s t) :
    Completes i w u e ok own := by
  intro s c hr hk
  obtain ⟨hgo, hw, o, g, ho, hg, hn, hf⟩ := hr
  obtain ⟨t, fl, he, hp, hown⟩ := h s c hgo hw hk
  simp only [he, Eff.stateOr] at hg hf
  obtain ⟨g', hg'⟩ := Option.isSome_iff_exists.1 hf
  have hkeep := Group.finish_keeps hg'
  have hz : ((t.setGroup c.gid g').counted (s.issues + 1)).groups.get? c.gid = some g' := by simp [State.counted]
  have hfl : ((t.setGroup c.gid g').counted (s.issues + 1)).watchFlags c fl = some ((t.setGroup c.gid g').counted (s.issues + 1)) := by
    rcases hp with rfl | hp
    · rfl
    · refine State.watchFlags_noWatch ?_ c fl
      intro k
      have : ((t.setGroup c.gid g').counted (s.issues + 1)).preds = s.preds := hp
      rw [this]; exact hw k
  refine ⟨t, fl, (t.setGroup c.gid g').counted (s.issues + 1), g, g', he, ?_, hg, hz, hkeep.1, hkeep.2.2, ?_, hown⟩
  · rw [hx, issue_state hgo he ho hg hg' hfl, State.endHstep_none hz (hkeep.2.1.trans hn)]
  · refine ⟨rfl, rfl, rfl, ?_, by simp [State.counted]⟩
    intro k hkn
    simp [State.counted, AMap.get?_set_ne _ _ hkn]

/-- The same for an effect on the group alone that may trap. -/
theorem completes_group {i : Instr} {w : IWord} {u : State → Use} {f : Iss → Except Trap Group} {ok : Iss → State → Prop}
    (hx : ∀ s, exec i s = issue w (u s) (groupTrapEff f) s)
    (h : ∀ s c, ok c s → ∃ g, f c = .ok g) : Completes i w u (groupTrapEff f) ok := by
  refine issue_completes hx fun s c _ _ hk => ?_
  obtain ⟨g, hg⟩ := h s c hk
  exact ⟨s.setGroup c.gid g, [], by simp [groupTrapEff, hg], .inl rfl, trivial⟩

/-- An instruction whose effect is a trap enters the handler when nothing stands in the way of the entry. -/
theorem enters_of {i : Instr} {w : IWord} {u : Use} {e : Iss → State → Eff} {ok : Iss → Prop} {x : Iss → Trap}
    (hx : ∀ s, exec i s = issue w u e s) (h : ∀ s c, ok c → e c s = .trap (x c)) : Enters i w u ok x := by
  intro s c g hgo hg hk hd hs
  rw [hx]
  have hr : s.raiseTrap c.gid c.path (x c) = some (s.takeTrap c.gid (g.entryAt c.path).pc (g.liveOf (g.entryAt c.path).mask) (x c)) := by
    unfold State.raiseTrap State.raiseTrapAt
    simp only [hg, hd]
    by_cases hn : s.native g = true
    · obtain ⟨a, b⟩ := hs hn
      simp [hn, a, b]
    · simp [hn]
  exact issue_trap hgo (h s c hk) hr

theorem maskOf_zero {f : Fin 16 → Bool} (h : ∀ l, f l = false) : maskOf f = 0 := by
  have : f = fun _ => false := funext h
  subst this; decide

/-- With no predicate enabled the evaluation before an access goes on (19 R437). -/
theorem State.watchPre_noWatch {s : State} (h : s.noWatch) (gid q : Nat) (e : PathEntry) (f : Nat → List Sample) (va : Fin 16 → Nat) :
    s.watchPre gid q e f va = .go s := by
  unfold State.watchPre
  split
  · rfl
  · split
    · rfl
    · simp [State.evaluate_noWatch h]

/-! ### What the beginning of accesses keeps -/

/-- Two states with the same watch predicates, the second with no fewer operations begun. -/
def State.Alike (s t : State) : Prop := t.preds = s.preds ∧ s.nextOp ≤ t.nextOp

theorem State.Alike.refl (s : State) : s.Alike s := ⟨rfl, Nat.le_refl _⟩
theorem State.Alike.trans {s t r : State} (h : s.Alike t) (k : t.Alike r) : s.Alike r := ⟨k.1.trans h.1, h.2.trans k.2⟩
theorem State.Alike.foldl {α : Type} {f : State → α → State} (h : ∀ (s : State) (x : α), s.Alike (f s x)) (l : List α) (s : State) :
    s.Alike (l.foldl f s) := by
  induction l generalizing s with
  | nil => exact .refl s
  | cons x l ih => exact (h s x).trans (ih _)

theorem State.tlbAdd_alike (s : State) (loc ctx va : Nat) (l : Leaf) : s.Alike (s.tlbAdd loc ctx va l) := by
  unfold State.tlbAdd; split <;> exact ⟨rfl, le_rfl⟩
theorem State.tlbFill_alike (s : State) (core ctx va : Nat) (l : Leaf) : s.Alike (s.tlbFill core ctx va l) :=
  (s.tlbAdd_alike _ _ _ _).trans (State.tlbAdd_alike _ _ _ _ _)

theorem State.transAcc_alike (s : State) (core ctx : Nat) (sup walk : Bool) (a : Access) :
    s.Alike (s.transAcc core ctx sup walk a).1 := by
  unfold State.transAcc
  repeat' split
  all_goals first | exact .refl s | exact s.tlbFill_alike _ _ _ _

theorem State.transAccs_alike (core ctx : Nat) (sup walk : Bool) (l : List Access) (s : State) :
    s.Alike (s.transAccs core ctx sup walk l).1 := by
  induction l generalizing s with
  | nil => exact .refl s
  | cons a l ih => unfold State.transAccs; exact (s.transAcc_alike core ctx sup walk a).trans (ih _)

theorem State.updCore_alike (s : State) (c : Nat) (f : Core → Core) : s.Alike (s.updCore c f) := by
  unfold State.updCore; split <;> exact ⟨rfl, le_rfl⟩

theorem State.wakeSlice_alike (s : State) (cum : Bool) (pa : Nat) (must : Bool) : s.Alike (s.wakeSlice cum pa must) := by
  unfold State.wakeSlice
  split
  · exact .refl s
  · dsimp only; split
    · exact ⟨rfl, le_rfl⟩
    · exact .refl s

theorem State.wakeFor_alike (s : State) (cum : Bool) (pa n : Nat) : s.Alike (s.wakeFor cum pa n) := by
  unfold State.wakeFor
  split
  · exact .refl s
  · refine State.Alike.foldl (fun s h => ?_) _ s
    split
    · exact .refl s
    · exact s.wakeSlice_alike _ _ _

theorem State.writeHolder_alike (s : State) (x : Holder) (lo hi v : Nat) : s.Alike (s.writeHolder x lo hi v) := by
  unfold State.writeHolder
  repeat' split
  · rename_i g n _ gr _
    have h : s.Alike (s.writeSavedCopies gr n lo hi v) := by
      unfold State.writeSavedCopies; repeat' split
      all_goals exact ⟨rfl, le_rfl⟩
    exact ⟨h.1, h.2⟩
  · exact ⟨rfl, le_rfl⟩
  · unfold State.updTile; repeat' split
    all_goals exact ⟨rfl, le_rfl⟩

theorem State.homeApply_alike (s : State) (pa n x : Nat) : s.Alike (s.homeApply pa n x) := by
  unfold State.homeApply
  split
  · exact ⟨rfl, Nat.le_succ _⟩
  · split
    · exact .refl s
    · refine (s.wakeFor_alike false pa n).trans (State.Alike.foldl (fun s p => ?_) _ _)
      obtain ⟨h, lo, hi, off⟩ := p
      dsimp only
      split
      · exact State.writeHolder_alike _ _ _ _ _
      · exact ⟨rfl, Nat.le_refl _⟩

theorem State.wakeMonitors_alike (s : State) (ws : List (Nat × Nat)) : s.Alike (s.wakeMonitors ws) := by
  unfold State.wakeMonitors
  extract_lets wakes s' woken
  have h : s.Alike s' := by
    refine State.Alike.foldl ?_ _ _
    intro s x; split <;> exact ⟨rfl, le_rfl⟩
  exact ⟨h.1, h.2⟩

theorem State.applyWrites_alike (s : State) (ws : List (Nat × Nat × Nat)) : s.Alike (s.applyWrites ws) := by
  unfold State.applyWrites
  refine State.Alike.trans (State.Alike.foldl (fun s w => ?_) ws s) (State.wakeMonitors_alike _ _)
  exact (s.homeApply_alike _ _ _).trans ⟨rfl, le_rfl⟩

theorem State.placeRec_alike (s : State) (ctx id : Nat) : s.Alike (s.placeRec ctx id) := by
  unfold State.placeRec
  dsimp only
  split
  · exact .refl s
  · exact ((s.applyWrites_alike _).trans (State.applyWrites_alike _ _)).trans ⟨rfl, le_rfl⟩

theorem State.postFault_alike (s : State) (ctx : Nat) (r : FaultRec) : s.Alike (s.postFault ctx r).1 := by
  unfold State.postFault
  split
  · dsimp only
    split
    · exact State.Alike.trans (t := s.updCtx _ _) ⟨rfl, le_rfl⟩ (State.applyWrites_alike _ _)
    · exact ⟨rfl, le_rfl⟩
  · dsimp only
    split
    · exact State.Alike.trans (t := ({ s with nextRec := s.nextRec + 1 } : State).updCtx _ _) ⟨rfl, le_rfl⟩ (State.placeRec_alike _ _ _)
    · exact ⟨rfl, le_rfl⟩

theorem State.parkAccs_alike (gid ctx src : Nat) (l : List Access) (s : State) : s.Alike (s.parkAccs gid ctx src l).1 := by
  induction l generalizing s with
  | nil => exact .refl s
  | cons a l ih =>
    unfold State.parkAccs
    dsimp only
    split
    · exact (s.postFault_alike _ _).trans (ih _)
    · split <;> exact ih _

theorem State.anyWatch_noWatch {s : State} (h : s.noWatch) (ctx : Nat) : s.anyWatch ctx = false := by
  unfold State.anyWatch
  rw [List.any_eq_false]
  intro p hp
  obtain ⟨k, hk, rfl⟩ := List.getElem_of_mem hp
  have : k < 16 := by simpa using hk
  simp [Pred.inForce, show Pred.en (s.preds[k]) = false from h ⟨k, this⟩]

/-- Out of precise mode the accesses of an instruction begin, whatever they meet, but for poison in compatibility mode; a native
group's as they translate. -/
theorem State.beginAccs_ok {s : State} {c : Iss} (hw : s.noWatch) (h : c.g.precise = false) {walk : Bool} {l : List Access}
    {how : Option LoadHow}
    (hc : c.clean s how l) (w : Watched) (own : State → List Access → Option Trap) :
    ∃ t m, s.beginAccs c walk l w own how = .ok t m ∧ s.Alike t ∧
      (c.native = true → m = (s.transAccs c.g.core c.g.ctx c.g.sup walk l).2) := by
  have ha := State.anyWatch_noWatch hw c.g.ctx
  have key : ∀ b, (s.transAccs c.g.core c.g.ctx c.g.sup b l).1.noWatch := fun b k => by
    rw [(State.transAccs_alike c.g.core c.g.ctx c.g.sup b l s).1]; exact hw k
  unfold State.beginAccs
  cases hn : c.native with
  | true =>
    have ho : ∀ (x : State) m, x.ownTrap c how m = none := fun x m => by simp [State.ownTrap, h, hn]
    simp only [h, ha, Bool.or_false, Bool.not_true, ho, Option.none_or, Bool.false_eq_true, if_false, Bool.true_and, if_true,
      State.watchPre_noWatch (key walk)]
    split
    all_goals exact ⟨_, _, rfl, State.transAccs_alike _ _ _ _ _ _, fun _ => rfl⟩
  | false =>
    have ho := hc hn
    simp only [h, ha, Bool.or_false, Bool.not_false, Bool.or_true, ho, Option.none_or, Bool.false_eq_true, if_false, Bool.false_and,
      State.anyWatch_noWatch (key true), Bool.and_false, State.watchPre_noWatch (key true)]
    exact ⟨_, _, rfl, (State.transAccs_alike _ _ _ _ _ _).trans (State.parkAccs_alike _ _ _ _ _), fun h => absurd h (by simp)⟩

/-- An operation added. -/
theorem State.begins_addOp {s t : State} {c : Iss} {o : Op} (ha : s.nextOp ≤ t.nextOp) (hg : o.g = c.gid) (hc : o.act = c.act) :
    (t.addOp o).1.begins s c o.kind :=
  ⟨t.nextOp, o, ha, by simp [State.addOp], hg, hc, rfl⟩

theorem State.observeAll_alike (s : State) (how : LoadHow) (ctx core : Nat) (accs : List Access) :
    s.Alike (s.observeAll how ctx core accs) := by
  unfold State.observeAll
  split
  · refine State.Alike.foldl ?_ _ _
    intro s k; exact State.updCore_alike _ _ _
  · exact .refl s

theorem State.addOpWith_alike (s : State) (o : Op) (f : State → Nat → List Access) :
    (s.addOpWith o f).1.preds = s.preds ∧ (s.addOpWith o f).1.nextOp = s.nextOp + 1 ∧ (s.addOpWith o f).1.groups = s.groups :=
  ⟨rfl, rfl, rfl⟩

theorem State.begins_addOpWith {s t : State} {c : Iss} {o : Op} {f : State → Nat → List Access} (ha : s.nextOp ≤ t.nextOp)
    (hg : o.g = c.gid) (hc : o.act = c.act) : (t.addOpWith o f).1.begins s c o.kind := by
  refine ⟨t.nextOp, { o with accs := f (t.addOp o).1 t.nextOp }, ha, ?_, hg, hc, rfl⟩
  unfold State.addOpWith State.addOp State.updOp
  dsimp only
  rw [AMap.get?_upd_self _ _ _]
  simp

/-- What a load begins. -/
theorem State.addLoad_begins {s t : State} {c : Iss} (d : BitVec 8) (r : BufRec) (how : LoadHow) (lanes : Mask)
    (ea : Fin 16 → Nat) (qs : AMap (List Nat)) (p : Bool) (accs : List Access) (g : Group) (h : s.Alike t) :
    (t.addLoad { c with g := g } d r how lanes ea qs p accs).1.begins s c (.load d.toNat r c.md how) ∧
    (t.addLoad { c with g := g } d r how lanes ea qs p accs).1.preds = s.preds := by
  have ho : s.Alike (t.observeAll how g.ctx g.core
      (if c.native = true then accs.map (t.forwarded g t.nextOp) else accs)) := h.trans (State.observeAll_alike _ _ _ _ _)
  unfold State.addLoad
  exact ⟨State.begins_addOpWith ho.2 rfl rfl, ho.1⟩

/-- A load whose operands are in order begins (07 R186). -/
theorem load_done {s : State} {c : Iss} {d : BitVec 8} {a : BitVec 4} {off : MOff} {r : BufRec} {how : LoadHow}
    (hw : s.noWatch) (h : AddressesReady (some how) a off r c s) :
    ∃ t fl, loadEff how d a off c s = .ok t fl ∧ (fl = [] ∨ t.preds = s.preds) ∧ t.begins s c (.load d.toNat r c.md how) := by
  obtain ⟨ha, hr, hp, hc, hcl⟩ := h
  unfold loadEff
  simp only [ha, if_false, hr, Option.isNone_some] at hc ⊢
  simp only [hc]
  obtain ⟨t, m, hb, hal, _⟩ := State.beginAccs_ok (walk := how.isBound) hw hp (hcl rfl) _ _
  rw [hb]
  refine ⟨_, _, rfl, .inl rfl, ?_⟩
  exact (State.addLoad_begins (c := c) d r how _ _ _ _ m _ hal).1

theorem State.begins_ops {s t : State} {c : Iss} {o : Op} {l : AMap Op} (h : t.ops = AMap.set l s.nextOp o)
    (hg : o.g = c.gid) (hc : o.act = c.act) : t.begins s c o.kind := ⟨s.nextOp, o, Nat.le_refl _, by rw [h, AMap.get?_set_self], hg, hc, rfl⟩

theorem State.begins_congr {s t r : State} {c : Iss} {k : OpKind} (h : t.begins s c k) (e : r.ops = t.ops) :
    r.begins s c k := by
  obtain ⟨id, o, i, h⟩ := h; exact ⟨id, o, i, by rw [e]; exact h⟩

theorem State.begins_updOp {s t : State} {c : Iss} {k : OpKind} {n : Nat} {f : Op → Op} (h : t.begins s c k)
    (hf : ∀ o, (f o).g = o.g ∧ (f o).act = o.act ∧ (f o).kind = o.kind) : (t.updOp n f).begins s c k := by
  obtain ⟨id, o, h0, h1, h2, h3, h4⟩ := h
  obtain ⟨a, b, d⟩ := hf o
  by_cases hn : id = n
  · subst hn; exact ⟨id, f o, h0, by simp [State.updOp, h1], a.trans h2, b.trans h3, d.trans h4⟩
  · exact ⟨id, o, h0, by simp [State.updOp, AMap.get?_upd_ne _ _ hn, h1], h2, h3, h4⟩

theorem State.addStore_begins {s t : State} {c : Iss} {o : Op} (rel : Bool) (accs : List Access) (h : s.Alike t) (hg : o.g = c.gid)
    (ha : o.act = c.act) (hk : o.kind = .store) :
    (t.addStore c rel accs o).begins s c .store ∧ (t.addStore c rel accs o).preds = s.preds := by
  have hb : (t.addOp { o with accs := accs, queued := rel || c.native }).1.begins s c .store := by
    have := State.begins_addOp (o := { o with accs := accs, queued := rel || c.native }) h.2 hg ha
    exact hk ▸ this
  exact ⟨State.begins_congr hb rfl, h.1⟩

theorem BufRec.storeData_ask (r : BufRec) (es : List Nat) (a : Access) : (r.storeData es a).ask = a.ask := rfl

theorem spanAccs_ask {l e : Nat} {ask : Ask} {nib va n : Nat} {x : Access} (h : x ∈ spanAccs l e ask nib va n) : x.ask = ask := by
  unfold spanAccs at h
  obtain ⟨y, -, rfl⟩ := List.mem_map.1 h
  rfl

theorem BufRec.laneAccs_ask {r : BufRec} {t : Ty} {l : Nat} {ask : Ask} {ea : Nat} {x : Access} (h : x ∈ r.laneAccs t l ask ea) :
    x.ask = ask := by
  unfold BufRec.laneAccs at h
  split at h
  · split at h
    · simp at h
    · obtain ⟨y, hy, rfl⟩ := List.mem_map.1 h
      exact (spanAccs_ask hy : y.ask = ask)
  · obtain ⟨j, -, h⟩ := List.mem_flatMap.1 h
    dsimp only at h
    split at h
    · split at h
      · simp at h
      · exact spanAccs_ask h
    · rcases List.mem_append.1 h with h | h
      · exact spanAccs_ask h
      · split at h
        · exact spanAccs_ask h
        · simp at h

theorem Access.under_ask (a : Access) (sup : Bool) (x : Except Nat Leaf) : (a.under sup x).ask = a.ask := by
  unfold Access.under; repeat' split
  all_goals rfl
theorem Access.home_ask (a : Access) (n : Nat) : (a.home n).ask = a.ask := by unfold Access.home; split <;> rfl

theorem State.transAcc_ask (s : State) (core ctx : Nat) (sup walk : Bool) (a : Access) :
    (s.transAcc core ctx sup walk a).2.ask = a.ask := by
  unfold State.transAcc
  repeat' split
  all_goals first | rfl | simp [Access.home_ask, Access.under_ask]

/-- The accesses of a store read nothing, so none meets poison as it issues. -/
theorem store_clean {s : State} {c : Iss} {d : BitVec 8} {a : BitVec 4} {off : MOff} {r : BufRec} {m : Mask}
    (hp : c.g.precise = false) : c.clean s none (storeAccs d a off c r m) := by
  intro hn
  have hw : ∀ x ∈ storeAccs d a off c r m, x.ask = .write := by
    intro x hx
    simp only [storeAccs, BufRec.storeLane, List.mem_flatMap, List.mem_map] at hx
    obtain ⟨l, -, y, hy, rfl⟩ := hx
    exact (BufRec.storeData_ask _ _ _).trans (BufRec.laneAccs_ask hy)
  have ht : ∀ (b : Bool) (l : List Access) (s : State), (∀ x ∈ l, x.ask = .write) →
      ∀ x ∈ (s.transAccs c.g.core c.g.ctx c.g.sup b l).2, x.ask = .write := by
    intro b l
    induction l with
    | nil => intro s _ x hx; simp [State.transAccs] at hx
    | cons a l ih =>
      intro s hl x hx
      unfold State.transAccs at hx
      rcases List.mem_cons.1 hx with rfl | hx
      · rw [State.transAcc_ask]; exact hl a (by simp)
      · exact ih _ (fun y hy => hl y (by simp [hy])) x hx
  have hf : ((s.transAccs c.g.core c.g.ctx c.g.sup true (storeAccs d a off c r m)).2.filter (·.ask.reads)) = [] := by
    rw [List.filter_eq_nil_iff]
    intro x hx
    simp [ht true _ s hw x hx, Ask.reads]
  unfold State.ownTrap
  simp only [hp, Bool.false_eq_true, if_false, hn, hf]
  rfl

/-- A store whose operands are in order begins (07 R186; 09 R234). -/
theorem st_done {s : State} {c : Iss} {d : BitVec 8} {a : BitVec 4} {off : MOff} {r : BufRec} {rel : Bool}
    (hw : s.noWatch) (h : AddressesReady none a off r c s) (hq : rel = false → c.queueRoom)
    (ht : rel = true → c.translates s (storeAccs d a off c r (c.act &&& ~~~(off.poison c.g a)))) :
    ∃ t fl, storeEff rel d a off c s = .ok t fl ∧ (fl = [] ∨ t.preds = s.preds) ∧ t.begins s c .store := by
  obtain ⟨ha, hr, hp, hc, -⟩ := h
  have h0 : (!rel && c.native && decide (8 ≤ c.g.ssq.length)) = false := by
    cases rel with
    | true => simp
    | false =>
      cases hn : c.native with
      | false => simp
      | true => have := hq rfl hn; simp; omega
  unfold storeEff
  simp only [Option.isNone_none] at hc
  simp only [h0, ha, if_false, hr, Option.isSome_none, Bool.false_eq_true, hc]
  have hcl : c.clean s none (storeAccs d a off c r (c.act &&& ~~~(off.poison c.g a))) := store_clean hp
  obtain ⟨t, m, hb, hal, hm⟩ := State.beginAccs_ok (walk := rel) hw hp hcl _ _
  have h1 : (rel && c.native && decide (faultLanes m ≠ 0)) = false := by
    cases rel with
    | false => simp
    | true =>
      cases hn : c.native with
      | false => simp
      | true => simp [hm hn, (ht rfl).2.1 hn]
  have h2 : ¬ ((rel && c.native) = true ∧ faultLanes m ≠ 0) := by
    intro hh; rw [hh.1] at h1; simp at h1; exact hh.2 h1
  rw [hb]
  dsimp only
  split
  · rename_i hh; exact absurd hh (by simpa using h1)
  · refine ⟨_, _, rfl, .inr ?_, ?_⟩
    · exact (State.addStore_begins (c := c) (t := t.setGroup _ _) rel m hal rfl rfl rfl).2
    · exact (State.addStore_begins (c := c) (t := t.setGroup _ _) rel m hal rfl rfl rfl).1

/-- A scratchpad store whose addresses are in order begins (07 R187). -/
theorem sts_done {s : State} {c : Iss} {d : BitVec 8} {a : BitVec 4} {off : MOff} (h : ScratchReady a off c s)
    (hq : c.queueRoom) :
    ∃ t fl, stsEff d a off c s = .ok t fl ∧ (fl = [] ∨ t.preds = s.preds) ∧ t.begins s c .sts := by
  have h0 : (c.native && decide (8 ≤ c.g.ssq.length)) = false := by
    cases hn : c.native with
    | false => simp
    | true => have := hq hn; simp; omega
  unfold stsEff
  simp only [h0, h.2, Bool.false_eq_true, if_false]
  have hb (o : Op) (hg : o.g = c.gid) (hc : o.act = c.act) : ((s.setGroup c.gid c.g).addOp o).1.begins s c o.kind :=
    State.begins_addOp le_rfl hg hc
  split
  · exact ⟨_, _, rfl, .inl rfl, State.begins_congr (hb _ rfl rfl) rfl⟩
  · refine ⟨_, _, rfl, .inl rfl, State.begins_updOp (s := s) ?_ fun o => ⟨rfl, rfl, rfl⟩⟩
    refine State.begins_congr (hb { c.op .sts (some 1) with
      accs := scratchAccs (c.act &&& ~~~(off.poison c.g a)) .write (off.ea c.g a) fun l => (c.g.vlane d l).toNat,
      queued := c.native } rfl rfl) ?_
    unfold State.applyScratch; split <;> rfl

theorem begins_entry {s : State} {c : Iss} (g : Group) (k : OpKind) (w : RegSet) :
    ((s.setGroup c.gid g).addEntry c k w).begins s c k :=
  State.begins_addOp le_rfl rfl rfl

/-- The accesses of a sink that translate begin, and none of them stops it (16 R388). -/
theorem accs_sink {s : State} {c : Iss} {l : List Access} (hw : s.noWatch) (h : c.translates s l) (w : Watched)
    (own : State → List Access → Option Trap) :
    ∃ t m, s.beginAccs c true l w own = .ok t m ∧ s.Alike t ∧ (c.native && decide (faultLanes m ≠ 0)) = false := by
  obtain ⟨t, m, hb, hal, hm⟩ := State.beginAccs_ok (walk := true) hw h.1 h.2.2 w own
  refine ⟨t, m, hb, hal, ?_⟩
  cases hn : c.native with
  | false => simp
  | true => simp [hm hn, h.2.1 hn]

theorem begins_add {s t : State} {c : Iss} {o : Op} (h : s.Alike t) (g : Group) (hg : o.g = c.gid) (hc : o.act = c.act) :
    ((t.setGroup c.gid g).addOp o).1.begins s c o.kind := State.begins_addOp h.2 hg hc

/-- An atomic whose operands are in order begins (09 R231). -/
theorem atom_done {s : State} {c : Iss} {op d : Nat} {e : Nat → Nat} {cas dest : Bool} {a : BitVec 4} (hw : s.noWatch)
    (h : AtomicReady cas dest d a e c s) :
    ∃ t fl, atomEff op cas dest d a e c s = .ok t fl ∧ (fl = [] ∨ t.preds = s.preds) ∧
      t.begins s c (.atom (if dest then some d else none) op cas (mdType c.md)) := by
  have h0 : (maskOf fun l => lane c.act l && atomEa c a e l % (4 * runLen (mdType c.md)) != 0) = 0 := maskOf_zero fun l => by
    have := h.1 l; cases hh : lane c.act l <;> simp_all
  unfold atomEff
  simp only [h0, ne_eq, not_true_eq_false, if_false]
  obtain ⟨t, m, hb, hal, hm⟩ := accs_sink hw h.2 _ _
  rw [hb]
  dsimp only
  split
  · rename_i hh; simp_all
  · exact ⟨_, _, rfl, .inl rfl, begins_add hal _ rfl rfl⟩

/-- A monitor whose word is in order answers (09 R236). -/
theorem mwait_done {s : State} {c : Iss} {dest : Option (BitVec 6)} {cond : Nat} {a : BitVec 4} {b : Group → Word}
    (hw : s.noWatch) (h : MonitorReady a c s) :
    ∃ t fl, mwaitEff dest cond a b c s = .ok t fl ∧ (fl = [] ∨ t.preds = s.preds) ∧ True := by
  obtain ⟨ha, he, ht⟩ := h
  unfold mwaitEff
  simp only [ha, he, ne_eq, not_true_eq_false, if_false]
  obtain ⟨t, m, hb, hal, hm⟩ := accs_sink hw ht _ _
  rw [hb]
  dsimp only
  split
  · rename_i hh; simp_all
  · exact ⟨_, _, rfl, .inl rfl, trivial⟩

theorem start_copy {s : State} {c : Iss} (x : Copy) :
    ∃ t fl, startCopy c s x = .ok t fl ∧ (fl = [] ∨ t.preds = s.preds) ∧ ∃ x, t.begins s c (.copy x) :=
  ⟨_, _, rfl, .inl rfl, x, State.begins_congr (begins_add (o := { c.op (.copy x) (some 2) with prio := s.free })
    (t := { s with free := s.free + if x.form = 4 then x.count else 0 }) ⟨rfl, le_rfl⟩ c.g rfl rfl) rfl⟩

theorem checked_copy {s : State} {c : Iss} {x : Copy} (h : x.overlaps = false) :
    ∃ t fl, checkedCopy c s x = .ok t fl ∧ (fl = [] ∨ t.preds = s.preds) ∧ ∃ x, t.begins s c (.copy x) := by
  unfold checkedCopy; simp only [h, Bool.and_false, Bool.false_eq_true, if_false]; exact start_copy x

theorem sink_target {s : State} {c : Iss} {k : OpKind} {l : List Access} (hw : s.noWatch) (h : c.translates s l) :
    ∃ t fl, sinkTarget c s k l = .ok t fl ∧ (fl = [] ∨ t.preds = s.preds) ∧ t.begins s c k := by
  obtain ⟨t, m, hb, hal, hm⟩ := accs_sink hw h {} fun _ _ => none
  unfold sinkTarget
  simp only [hb]
  split
  · rename_i hh; simp_all
  · exact ⟨_, _, rfl, .inl rfl, begins_add (o := { c.op k (some 1) with accs := m, queued := false }) hal _ rfl rfl⟩

theorem raster_done {s : State} {c : Iss} {a : BitVec 4} {z : Bool} {rs : Nat} (h : RasterReady a z rs c s) (f : Nat → Eff) :
    withRaster c s a z f = f rs := by
  unfold withRaster
  simp only [h.2.1, ne_eq, not_true_eq_false, if_false, h.2.2.1, h.2.2.2, Bool.false_eq_true]
theorem target_begins {s t : State} {c : Iss} {k : OpKind} {q : Bool} {m : List Access} {g : Group} (h : s.Alike t) :
    ((t.setGroup c.gid g).addTarget c k q m).begins s c k := by
  have hb := begins_add (o := { c.op k (some 1) with accs := m, queued := q }) h g (c := c) rfl rfl
  unfold State.addTarget
  dsimp only
  split
  · exact State.begins_congr hb rfl
  · exact hb

theorem evictLine_has (s : State) (g n k : Nat) (x : Group) (h : s.groups.get? k = some x) :
    ∃ y, (s.evictLine g n).groups.get? k = some y := by
  unfold State.evictLine
  split
  · exact ⟨x, h⟩
  · rename_i z _
    have key : ∀ t : State, t.groups = s.groups →
        ∃ y, (t.updGroup g fun g => { g with former := g.former.erase n, present := g.present &&& ~~~(1#256 <<< n) }).groups.get? k = some y := by
      intro t ht
      by_cases hk : k = g
      · subst hk; exact ⟨_, by simp only [State.updGroup, AMap.get?_upd_self, ht, h]; rfl⟩
      · exact ⟨x, by simp only [State.updGroup, AMap.get?_upd_ne _ _ hk, ht, h]⟩
    refine key _ ?_
    split
    · simp only [State.clearPoison, State.wrMem]
    · rfl

theorem evictFor_has (s : State) (core n k : Nat) (x : Group) (h : s.groups.get? k = some x) :
    ∃ y, (s.evictFor core n).groups.get? k = some y := by
  have key : ∀ (l : List (Nat × Nat)) (s : State) (x : Group), s.groups.get? k = some x →
      ∃ y, (l.foldl (fun s x => s.evictLine x.1 x.2) s).groups.get? k = some y := by
    intro l
    induction l with
    | nil => intro s x h; exact ⟨x, h⟩
    | cons a l ih =>
      intro s x h
      obtain ⟨y, hy⟩ := evictLine_has s a.1 a.2 k x h
      rw [List.foldl_cons]
      exact ih _ y hy
  unfold State.evictFor
  split
  · exact ⟨x, h⟩
  · exact key _ s x h
end Sys2Proof.Machine
end

