-- ==== Sys2Proof/Laws/Decode.lean ====
section
/-! SUPPORT. What the fields of a word and the decoder answer, said once. -/

namespace Sys2Proof

@[simp] theorem word4_byte3 (o d a b : Byte) : (word4 o d a b).extractLsb' 24 8 = o := by
  ext i; simp only [word4, BitVec.getElem_extractLsb', BitVec.getLsbD_append]; split_ifs <;> first | omega | (simp only [← BitVec.getLsbD_eq_getElem]; congr 1; omega)
@[simp] theorem word4_byte2 (o d a b : Byte) : (word4 o d a b).extractLsb' 16 8 = d := by
  ext i; simp only [word4, BitVec.getElem_extractLsb', BitVec.getLsbD_append]; split_ifs <;> first | omega | (simp only [← BitVec.getLsbD_eq_getElem]; congr 1; omega)
@[simp] theorem word4_byte1 (o d a b : Byte) : (word4 o d a b).extractLsb' 8 8 = a := by
  ext i; simp only [word4, BitVec.getElem_extractLsb', BitVec.getLsbD_append]; split_ifs <;> first | omega | (simp only [← BitVec.getLsbD_eq_getElem]; congr 1; omega)
@[simp] theorem word4_byte0 (o d a b : Byte) : (word4 o d a b).extractLsb' 0 8 = b := by
  ext i; simp only [word4, BitVec.getElem_extractLsb', BitVec.getLsbD_append]; split_ifs <;> first | omega | (simp only [← BitVec.getLsbD_eq_getElem]; congr 1; omega)

@[simp] theorem rS_setWidth (x : BitVec 6) : rS (x.setWidth 8) = some x := by
  revert x; decide
@[simp] theorem rA_setWidth (x : BitVec 4) : rA (x.setWidth 8) = some x := by
  revert x; decide
@[simp] theorem rP_setWidth (x : BitVec 3) : rP (x.setWidth 8) = some x := by
  revert x; decide
@[simp] theorem rRun2_wRun2 (x : BitVec 5) : rRun2 (wRun2 x) = some x := by
  revert x; decide
@[simp] theorem rRun4_wRun4 (x : BitVec 4) : rRun4 (wRun4 x) = some x := by
  revert x; decide

/-- A 24-bit field is the join of its bytes. -/
@[simp] theorem join24 (m : BitVec 24) : m.extractLsb' 16 8 ++ m.extractLsb' 8 8 ++ m.extractLsb' 0 8 = m := by
  apply BitVec.eq_of_getLsbD_eq
  intro i hi
  simp only [BitVec.getLsbD_append, BitVec.getLsbD_extractLsb']
  split_ifs <;> (rw [decide_eq_true (by omega), Bool.true_and]; congr 1; omega)

/-- An opcode before a 24-bit field is a word of four bytes. -/
theorem word4_join24 (o : Byte) (m : BitVec 24) :
    o ++ m = word4 o (m.extractLsb' 16 8) (m.extractLsb' 8 8) (m.extractLsb' 0 8) := by
  apply BitVec.eq_of_getLsbD_eq
  intro i hi
  simp only [word4, BitVec.getLsbD_append, BitVec.getLsbD_extractLsb']
  split_ifs <;> first
    | omega
    | (rw [decide_eq_true (by omega), Bool.true_and]; congr 1; omega)
    | rfl

/-- The three bits of a scope or of a class are one of eight values. -/
theorem bits3_cases (s : BitVec 3) : s = 0 ∨ s = 1 ∨ s = 2 ∨ s = 3 ∨ s = 4 ∨ s = 5 ∨ s = 6 ∨ s = 7 := by
  revert s; decide

/-- The fields of unpk's byte B. -/
theorem unpk_fields (k : BitVec 3) (s : BitVec 4) :
    (0#1 ++ k ++ s).getLsbD 7 = false ∧ (0#1 ++ k ++ s).extractLsb' 4 3 = k ∧ (0#1 ++ k ++ s).extractLsb' 0 4 = s := by
  revert k s; decide

/-- The mode body of the arithmetic form (R39). -/
def modeBody (g t r s f : BitVec 1) (p : BitVec 3) (e v : BitVec 1) (y : BitVec 4) (n : BitVec 3) (u z : BitVec 1) :
    BitVec 24 := 0#2 ++ g ++ t ++ r ++ s ++ f ++ p ++ e ++ v ++ y ++ n ++ u ++ z ++ 0#3

/-- A field above the right part of a join is a field of the left part. -/
theorem extract_above {k j : Nat} (a : BitVec k) (b : BitVec j) (lo len : Nat) (h : j ≤ lo) :
    (a ++ b).extractLsb' lo len = a.extractLsb' (lo - j) len := by
  ext i hi
  simp only [BitVec.getElem_extractLsb', BitVec.getLsbD_append]
  rw [if_neg (by omega)]
  congr 1; omega

/-- The right part of a join. -/
theorem extract_right {k j : Nat} (a : BitVec k) (b : BitVec j) : (a ++ b).extractLsb' 0 j = b := by
  ext i hi
  simp only [BitVec.getElem_extractLsb', BitVec.getLsbD_append]
  rw [if_pos (by omega), Nat.zero_add, BitVec.getLsbD_eq_getElem hi]

/-- Its fields are read back. -/
theorem decMode_modeBody (g t r s f : BitVec 1) (p : BitVec 3) (e v : BitVec 1) (y : BitVec 4) (n : BitVec 3)
    (u z : BitVec 1) : decMode (modeBody g t r s f p e v y n u z) = some (.modeArith g t r s f p e v y n u z) := by
  have h0 : (0#2).extractLsb' 0 2 = 0 := rfl
  simp (disch := decide) only [decMode, modeBody, extract_above, Nat.reduceSub, extract_right, h0, if_true]
  rfl

/-- The fields of the buffer form of MOD. -/
theorem modeBuf_fields (b : Byte) : (0x40#8 ++ 0#8 ++ b).extractLsb' 22 2 = 1 ∧ (0x40#8 ++ 0#8 ++ b).extractLsb' 8 14 = 0 ∧
    (0x40#8 ++ 0#8 ++ b).extractLsb' 0 8 = b := by
  revert b; decide

/-- A word's bytes are read back as the word. -/
@[simp] theorem takeWord_wordBytes (w : Word) (r : List Byte) : takeWord (wordBytes w ++ r) = some (w, r) := by
  have h : word4 (w.extractLsb' 24 8) (w.extractLsb' 16 8) (w.extractLsb' 8 8) (w.extractLsb' 0 8) = w := by
    apply BitVec.eq_of_getLsbD_eq
    intro i hi
    simp only [word4, BitVec.getLsbD_append, BitVec.getLsbD_extractLsb']
    split_ifs <;> (rw [decide_eq_true (by omega), Bool.true_and]; congr 1; omega)
  simp [takeWord, wordBytes, h]

/-- An assigned opcode decodes as the primary map says, if the fields hold no reserved code. -/
theorem decode_word4 {o d a b : Byte} {k : Word} {i : Instr} (h1 : 0 < o.toNat) (h2 : o.toNat < 0xEA)
    (h : decodeMap o.toNat d a b k = some i) (w : i.wellFormed = true) : decode (word4 o d a b) k = .ok i := by
  have h0 : ¬ (o.toNat = 0 ∨ 0xF0 ≤ o.toNat) := by omega
  have h3 : ¬ 0xEA ≤ o.toNat := by omega
  simp only [decode, word4_byte3, word4_byte2, word4_byte1, word4_byte0, if_neg h0, if_neg h3, h, w, if_true]

/-- The bytes of one word without a literal. -/
theorem decodeBytes_one {o d a b : Byte} {i : Instr} (rest : List Byte) (hl : isLit o.toNat = false)
    (h : decode (word4 o d a b) 0 = .ok i) :
    decodeBytes (wordBytes (word4 o d a b) ++ rest) = .ok (i, rest) := by
  simp only [decodeBytes, takeWord_wordBytes, word4_byte3, hl, h]; rfl

/-- The bytes of a word and its literal. -/
theorem decodeBytes_two {o d a b : Byte} {k : Word} {i : Instr} (rest : List Byte) (hl : isLit o.toNat = true)
    (h : decode (word4 o d a b) k = .ok i) :
    decodeBytes (wordBytes (word4 o d a b) ++ (wordBytes k ++ rest)) = .ok (i, rest) := by
  simp only [decodeBytes, takeWord_wordBytes, word4_byte3, hl, h]; rfl

end Sys2Proof
end

