-- ==== Sys2Proof/Laws/Mem.lean ====
section
/-! SUPPORT. The byte memories: reading after writing, and the canonical form kept. -/

namespace Sys2Proof.Machine

theorem memWfFrom_cons {lo k : Nat} {x : Byte} {m : List Host.Cell} :
    memWfFrom lo ((k, x) :: m) = true ↔ lo ≤ k ∧ x ≠ memDefault ∧ memWfFrom (k + 1) m = true := by
  simp [memWfFrom, and_assoc]

theorem memWfFrom_mono {lo lo' : Nat} {m : List Host.Cell} (h : memWfFrom lo m = true) (hl : lo' ≤ lo) :
    memWfFrom lo' m = true := by
  cases m with
  | nil => rfl
  | cons e m =>
    obtain ⟨k, x⟩ := e
    rw [memWfFrom_cons] at h ⊢
    exact ⟨by omega, h.2⟩

/-- An address below every listed one reads as the default. -/
theorem memRead_below {lo a : Nat} {m : List Host.Cell} (h : memWfFrom lo m = true) (ha : a < lo) :
    memRead m a = memDefault := by
  induction m generalizing lo with
  | nil => rfl
  | cons e m ih =>
    obtain ⟨k, x⟩ := e
    rw [memWfFrom_cons] at h
    simp only [memRead, if_neg (show k ≠ a by omega)]
    exact ih h.2.2 (by omega)

theorem memWrite_wfFrom {lo : Nat} {m : List Host.Cell} (h : memWfFrom lo m = true) {a : Nat} (ha : lo ≤ a) (b : Byte) :
    memWfFrom lo (memWrite m a b) = true := by
  induction m generalizing lo with
  | nil =>
    by_cases hb : b = memDefault
    · simp [memWrite, hb, memWfFrom]
    · simp [memWrite, hb, memWfFrom, ha]
  | cons e m ih =>
    obtain ⟨k, x⟩ := e
    have h' := memWfFrom_cons.1 h
    simp only [memWrite]
    split_ifs with h1 h2 h3 h4
    · exact h
    · exact memWfFrom_cons.2 ⟨ha, h2, memWfFrom_cons.2 ⟨h1, h'.2⟩⟩
    · exact memWfFrom_mono h'.2.2 (by omega)
    · exact memWfFrom_cons.2 ⟨ha, h4, h3 ▸ h'.2.2⟩
    · exact memWfFrom_cons.2 ⟨h'.1, h'.2.1, ih h'.2.2 (by omega)⟩

/-- A write keeps the canonical form. -/
theorem memWrite_wf {m : List Host.Cell} (h : memWf m = true) (a : Nat) (b : Byte) : memWf (memWrite m a b) = true :=
  memWrite_wfFrom h (Nat.zero_le a) b

/-- A write of n bytes keeps the canonical form. -/
theorem memWriteN_wf {m : List Host.Cell} (h : memWf m = true) (a n x : Nat) : memWf (memWriteN m a n x) = true := by
  induction n generalizing m a x with
  | zero => exact h
  | succ n ih => exact ih (memWrite_wf h _ _) _ _

/-- A byte read after a write of one byte, in a memory of canonical form. -/
theorem memRead_memWrite {lo : Nat} {m : List Host.Cell} (h : memWfFrom lo m = true) (a c : Nat) (b : Byte) :
    memRead (memWrite m a b) c = if c = a then b else memRead m c := by
  induction m generalizing lo with
  | nil =>
    by_cases hb : b = memDefault
    · simp [memWrite, hb, memRead]
    · simp only [memWrite, hb, if_false, memRead]; simp [eq_comm]
  | cons e m ih =>
    obtain ⟨k, x⟩ := e
    have h' := memWfFrom_cons.1 h
    have hlow : ∀ c, c < k + 1 → memRead m c = memDefault := fun c hc => memRead_below h'.2.2 hc
    by_cases h1 : a < k
    · by_cases h2 : b = memDefault
      · by_cases h3 : c = a
        · simp only [memWrite, if_pos h1, if_pos h2, if_pos h3, memRead, if_neg (show k ≠ c by omega)]
          rw [hlow c (by omega), h2]
        · simp only [memWrite, if_pos h1, if_pos h2, if_neg h3]
      · simp only [memWrite, if_pos h1, if_neg h2, memRead, eq_comm (a := a)]
    · by_cases h2 : k = a
      · by_cases h3 : b = memDefault
        · by_cases h4 : c = a
          · simp only [memWrite, if_neg h1, if_pos h2, if_pos h3, if_pos h4]; rw [hlow c (by omega), h3]
          · simp only [memWrite, if_neg h1, if_pos h2, if_pos h3, if_neg h4, memRead, if_neg (show k ≠ c by omega)]
        · by_cases h4 : c = a
          · simp only [memWrite, if_neg h1, if_pos h2, if_neg h3, if_pos h4, memRead, if_pos h4.symm]
          · simp only [memWrite, if_neg h1, if_pos h2, if_neg h3, if_neg h4, memRead, if_neg (Ne.symm h4),
              if_neg (show k ≠ c by omega)]
      · simp only [memWrite, if_neg h1, if_neg h2, memRead, ih h'.2.2]
        by_cases h4 : c = a
        · simp only [if_pos h4, if_neg (show k ≠ c by omega)]
        · simp only [if_neg h4]

/-- A byte read after a write of n bytes: outside them it is as before. -/
theorem memRead_memWriteN_outside {m : List Host.Cell} (h : memWf m = true) (a n x c : Nat) (hc : c < a ∨ a + n ≤ c) :
    memRead (memWriteN m a n x) c = memRead m c := by
  induction n generalizing m a x with
  | zero => rfl
  | succ n ih =>
    rw [memWriteN, ih (memWrite_wf h _ _) _ _ (by omega), memRead_memWrite h, if_neg (by omega)]

/-- Reading back n bytes that were written gives the number, below 2^(8n). -/
theorem memReadN_memWriteN {m : List Host.Cell} (h : memWf m = true) (a n x : Nat) (hx : x < 256 ^ n) :
    memReadN (memWriteN m a n x) a n = x := by
  induction n generalizing m a x with
  | zero => simp only [Nat.pow_zero] at hx; simp only [memReadN]; omega
  | succ n ih =>
    have hx' : x / 256 < 256 ^ n := by rw [Nat.pow_succ] at hx; exact Nat.div_lt_of_lt_mul (by omega)
    rw [memReadN, memWriteN, ih (memWrite_wf h _ _) _ _ hx', memRead_memWriteN_outside (memWrite_wf h _ _) _ _ _ _ (by omega),
      memRead_memWrite h, if_pos rfl, BitVec.toNat_ofNat]
    omega

/-- Reading n bytes away from those written gives what it gave before. -/
theorem memReadN_memWriteN_outside {m : List Host.Cell} (h : memWf m = true) (a n x c k : Nat)
    (hc : c + k ≤ a ∨ a + n ≤ c) : memReadN (memWriteN m a n x) c k = memReadN m c k := by
  induction k generalizing c with
  | zero => rfl
  | succ k ih =>
    rw [memReadN, memReadN, ih _ (by omega), memRead_memWriteN_outside h _ _ _ _ (by omega)]

end Sys2Proof.Machine
end

