-- ==== Sys2Proof/Laws/PerInstr.lean ====
section
/-! SUPPORT. Statements made once for each instruction: RoundTrip, that its words decode to it (02 R32 to R39). -/

namespace Sys2Proof.Laws

/-- The bytes of a well-formed instruction's words, with any bytes after them, decode to it and leave those bytes. -/
def RoundTrip.Statement (i : Instr) : Prop :=
  i.hasWords = true → i.wellFormed = true →
    ∀ rest, decodeBytes ((encode i).flatMap wordBytes ++ rest) = .ok (i, rest)

theorem RoundTrip.one {o d a b : Byte} {i : Instr} (he : encode i = [word4 o d a b]) (hl : isLit o.toNat = false)
    (h1 : 0 < o.toNat) (h2 : o.toNat < 0xEA) (h : i.wellFormed = true → decodeMap o.toNat d a b 0 = some i) :
    RoundTrip.Statement i := by
  intro _ w rest
  rw [he]
  simpa using decodeBytes_one rest hl (decode_word4 h1 h2 (h w) w)

theorem RoundTrip.two {o d a b : Byte} {k : Word} {i : Instr} (he : encode i = [word4 o d a b, k])
    (hl : isLit o.toNat = true) (h1 : 0 < o.toNat) (h2 : o.toNat < 0xEA)
    (h : i.wellFormed = true → decodeMap o.toNat d a b k = some i) : RoundTrip.Statement i := by
  intro _ w rest
  rw [he]
  simpa using decodeBytes_two rest hl (decode_word4 h1 h2 (h w) w)

theorem RoundTrip.none {i : Instr} (h : i.hasWords = false) : RoundTrip.Statement i := fun h' => by
  rw [h] at h'; cases h'

theorem RoundTrip.abs (d a) : RoundTrip.Statement (.abs d a) :=
  RoundTrip.one (o := 0x01) (d := d) (a := a) (b := 0x00) rfl rfl (by decide) (by decide)
    (by simp [decodeMap, dec0, decInt])
theorem RoundTrip.neg (d a) : RoundTrip.Statement (.neg d a) :=
  RoundTrip.one (o := 0x01) (d := d) (a := a) (b := 0x01) rfl rfl (by decide) (by decide)
    (by simp [decodeMap, dec0, decInt])
theorem RoundTrip.notB (d a) : RoundTrip.Statement (.notB d a) :=
  RoundTrip.one (o := 0x01) (d := d) (a := a) (b := 0x02) rfl rfl (by decide) (by decide)
    (by simp [decodeMap, dec0, decInt])
theorem RoundTrip.clz (d a) : RoundTrip.Statement (.clz d a) :=
  RoundTrip.one (o := 0x01) (d := d) (a := a) (b := 0x03) rfl rfl (by decide) (by decide)
    (by simp [decodeMap, dec0, decInt])
theorem RoundTrip.popc (d a) : RoundTrip.Statement (.popc d a) :=
  RoundTrip.one (o := 0x01) (d := d) (a := a) (b := 0x04) rfl rfl (by decide) (by decide)
    (by simp [decodeMap, dec0, decInt])
theorem RoundTrip.brev (d a) : RoundTrip.Statement (.brev d a) :=
  RoundTrip.one (o := 0x01) (d := d) (a := a) (b := 0x05) rfl rfl (by decide) (by decide)
    (by simp [decodeMap, dec0, decInt])
theorem RoundTrip.voteAny (d a) : RoundTrip.Statement (.voteAny d a) :=
  RoundTrip.one (o := 0x01) (d := (d.setWidth 8)) (a := (a.setWidth 8)) (b := 0x10) rfl rfl (by decide) (by decide)
    (by simp [decodeMap, dec0, decInt])
theorem RoundTrip.voteAll (d a) : RoundTrip.Statement (.voteAll d a) :=
  RoundTrip.one (o := 0x01) (d := (d.setWidth 8)) (a := (a.setWidth 8)) (b := 0x11) rfl rfl (by decide) (by decide)
    (by simp [decodeMap, dec0, decInt])
theorem RoundTrip.ballot (d a) : RoundTrip.Statement (.ballot d a) :=
  RoundTrip.one (o := 0x01) (d := (d.setWidth 8)) (a := (a.setWidth 8)) (b := 0x12) rfl rfl (by decide) (by decide)
    (by simp [decodeMap, dec0, decInt])
theorem RoundTrip.lredAdd (d a) : RoundTrip.Statement (.lredAdd d a) :=
  RoundTrip.one (o := 0x01) (d := (d.setWidth 8)) (a := a) (b := 0x13) rfl rfl (by decide) (by decide)
    (by simp [decodeMap, dec0, decInt])
theorem RoundTrip.lredMin (d a) : RoundTrip.Statement (.lredMin d a) :=
  RoundTrip.one (o := 0x01) (d := (d.setWidth 8)) (a := a) (b := 0x14) rfl rfl (by decide) (by decide)
    (by simp [decodeMap, dec0, decInt])
theorem RoundTrip.lredMax (d a) : RoundTrip.Statement (.lredMax d a) :=
  RoundTrip.one (o := 0x01) (d := (d.setWidth 8)) (a := a) (b := 0x15) rfl rfl (by decide) (by decide)
    (by simp [decodeMap, dec0, decInt])
theorem RoundTrip.lid (d) : RoundTrip.Statement (.lid d) :=
  RoundTrip.one (o := 0x01) (d := d) (a := 0x00) (b := 0x16) rfl rfl (by decide) (by decide)
    (by simp [decodeMap, dec0, decInt])
theorem RoundTrip.rng (d c) : RoundTrip.Statement (.rng d c) :=
  RoundTrip.one (o := 0x01) (d := d) (a := c) (b := 0x20) rfl rfl (by decide) (by decide)
    (by simp [decodeMap, dec0, decInt])
theorem RoundTrip.rngs (c a) : RoundTrip.Statement (.rngs c a) :=
  RoundTrip.one (o := 0x01) (d := c) (a := a) (b := 0x21) rfl rfl (by decide) (by decide)
    (by simp [decodeMap, dec0, decInt])
theorem RoundTrip.fabs (d a) : RoundTrip.Statement (.fabs d a) :=
  RoundTrip.one (o := 0x02) (d := d) (a := a) (b := 0x00) rfl rfl (by decide) (by decide)
    (by simp [decodeMap, dec0, decFp])
theorem RoundTrip.fneg (d a) : RoundTrip.Statement (.fneg d a) :=
  RoundTrip.one (o := 0x02) (d := d) (a := a) (b := 0x01) rfl rfl (by decide) (by decide)
    (by simp [decodeMap, dec0, decFp])
theorem RoundTrip.frcp (d a) : RoundTrip.Statement (.frcp d a) :=
  RoundTrip.one (o := 0x02) (d := d) (a := a) (b := 0x02) rfl rfl (by decide) (by decide)
    (by simp [decodeMap, dec0, decFp])
theorem RoundTrip.frsq (d a) : RoundTrip.Statement (.frsq d a) :=
  RoundTrip.one (o := 0x02) (d := d) (a := a) (b := 0x03) rfl rfl (by decide) (by decide)
    (by simp [decodeMap, dec0, decFp])
theorem RoundTrip.fsqrt (d a) : RoundTrip.Statement (.fsqrt d a) :=
  RoundTrip.one (o := 0x02) (d := d) (a := a) (b := 0x04) rfl rfl (by decide) (by decide)
    (by simp [decodeMap, dec0, decFp])
theorem RoundTrip.fex2 (d a) : RoundTrip.Statement (.fex2 d a) :=
  RoundTrip.one (o := 0x02) (d := d) (a := a) (b := 0x05) rfl rfl (by decide) (by decide)
    (by simp [decodeMap, dec0, decFp])
theorem RoundTrip.flg2 (d a) : RoundTrip.Statement (.flg2 d a) :=
  RoundTrip.one (o := 0x02) (d := d) (a := a) (b := 0x06) rfl rfl (by decide) (by decide)
    (by simp [decodeMap, dec0, decFp])
theorem RoundTrip.fsin (d a) : RoundTrip.Statement (.fsin d a) :=
  RoundTrip.one (o := 0x02) (d := d) (a := a) (b := 0x07) rfl rfl (by decide) (by decide)
    (by simp [decodeMap, dec0, decFp])
theorem RoundTrip.fcos (d a) : RoundTrip.Statement (.fcos d a) :=
  RoundTrip.one (o := 0x02) (d := d) (a := a) (b := 0x08) rfl rfl (by decide) (by decide)
    (by simp [decodeMap, dec0, decFp])
theorem RoundTrip.frnd (d a) : RoundTrip.Statement (.frnd d a) :=
  RoundTrip.one (o := 0x02) (d := d) (a := a) (b := 0x09) rfl rfl (by decide) (by decide)
    (by simp [decodeMap, dec0, decFp])
theorem RoundTrip.nop : RoundTrip.Statement (.nop) :=
  RoundTrip.one (o := 0x03) (d := 0x00) (a := 0x00) (b := 0x00) rfl rfl (by decide) (by decide)
    (by simp [decodeMap, dec0, decCtl])
theorem RoundTrip.exit : RoundTrip.Statement (.exit) :=
  RoundTrip.one (o := 0x03) (d := 0x00) (a := 0x00) (b := 0x01) rfl rfl (by decide) (by decide)
    (by simp [decodeMap, dec0, decCtl])
theorem RoundTrip.yield : RoundTrip.Statement (.yield) :=
  RoundTrip.one (o := 0x03) (d := 0x00) (a := 0x00) (b := 0x02) rfl rfl (by decide) (by decide)
    (by simp [decodeMap, dec0, decCtl])
theorem RoundTrip.brk : RoundTrip.Statement (.brk) :=
  RoundTrip.one (o := 0x03) (d := 0x00) (a := 0x00) (b := 0x03) rfl rfl (by decide) (by decide)
    (by simp [decodeMap, dec0, decCtl])
theorem RoundTrip.merge : RoundTrip.Statement (.merge) :=
  RoundTrip.one (o := 0x03) (d := 0x00) (a := 0x00) (b := 0x04) rfl rfl (by decide) (by decide)
    (by simp [decodeMap, dec0, decCtl])
theorem RoundTrip.ret : RoundTrip.Statement (.ret) :=
  RoundTrip.one (o := 0x03) (d := 0x00) (a := 0x00) (b := 0x05) rfl rfl (by decide) (by decide)
    (by simp [decodeMap, dec0, decCtl])
theorem RoundTrip.lbrkLc0 : RoundTrip.Statement (.lbrkLc0) :=
  RoundTrip.one (o := 0x03) (d := 0x00) (a := 0x00) (b := 0x06) rfl rfl (by decide) (by decide)
    (by simp [decodeMap, dec0, decCtl])
theorem RoundTrip.lbrkLc1 : RoundTrip.Statement (.lbrkLc1) :=
  RoundTrip.one (o := 0x03) (d := 0x00) (a := 0x00) (b := 0x07) rfl rfl (by decide) (by decide)
    (by simp [decodeMap, dec0, decCtl])
theorem RoundTrip.rdmd (d) : RoundTrip.Statement (.rdmd d) :=
  RoundTrip.one (o := 0x03) (d := (d.setWidth 8)) (a := 0x00) (b := 0x08) rfl rfl (by decide) (by decide)
    (by simp [decodeMap, dec0, decCtl])
theorem RoundTrip.wrmd (a) : RoundTrip.Statement (.wrmd a) :=
  RoundTrip.one (o := 0x03) (d := 0x00) (a := (a.setWidth 8)) (b := 0x09) rfl rfl (by decide) (by decide)
    (by simp [decodeMap, dec0, decCtl])
theorem RoundTrip.tret : RoundTrip.Statement (.tret) :=
  RoundTrip.one (o := 0x03) (d := 0x00) (a := 0x00) (b := 0x10) rfl rfl (by decide) (by decide)
    (by simp [decodeMap, dec0, decCtl])
theorem RoundTrip.ecall (a) : RoundTrip.Statement (.ecall a) :=
  RoundTrip.one (o := 0x03) (d := 0x00) (a := (a.setWidth 8)) (b := 0x11) rfl rfl (by decide) (by decide)
    (by simp [decodeMap, dec0, decCtl])
theorem RoundTrip.sleep (a) : RoundTrip.Statement (.sleep a) :=
  RoundTrip.one (o := 0x03) (d := 0x00) (a := (a.setWidth 8)) (b := 0x12) rfl rfl (by decide) (by decide)
    (by simp [decodeMap, dec0, decCtl])
theorem RoundTrip.tlbiVa (a) : RoundTrip.Statement (.tlbiVa a) :=
  RoundTrip.one (o := 0x03) (d := 0x00) (a := (a.setWidth 8)) (b := 0x18) rfl rfl (by decide) (by decide)
    (by simp [decodeMap, dec0, decCtl])
theorem RoundTrip.tlbiCtx : RoundTrip.Statement (.tlbiCtx) :=
  RoundTrip.one (o := 0x03) (d := 0x00) (a := 0x00) (b := 0x19) rfl rfl (by decide) (by decide)
    (by simp [decodeMap, dec0, decCtl])
theorem RoundTrip.tlbiAll : RoundTrip.Statement (.tlbiAll) :=
  RoundTrip.one (o := 0x03) (d := 0x00) (a := 0x00) (b := 0x1A) rfl rfl (by decide) (by decide)
    (by simp [decodeMap, dec0, decCtl])
theorem RoundTrip.hstep (d a) : RoundTrip.Statement (.hstep d a) :=
  RoundTrip.one (o := 0x03) (d := (d.setWidth 8)) (a := (a.setWidth 8)) (b := 0x20) rfl rfl (by decide) (by decide)
    (by simp [decodeMap, dec0, decCtl])
theorem RoundTrip.hres (d a) : RoundTrip.Statement (.hres d a) :=
  RoundTrip.one (o := 0x03) (d := (d.setWidth 8)) (a := (a.setWidth 8)) (b := 0x21) rfl rfl (by decide) (by decide)
    (by simp [decodeMap, dec0, decCtl])
theorem RoundTrip.wcpin (d a) : RoundTrip.Statement (.wcpin d a) :=
  RoundTrip.one (o := 0x03) (d := (d.setWidth 8)) (a := (a.setWidth 8)) (b := 0x28) rfl rfl (by decide) (by decide)
    (by simp [decodeMap, dec0, decCtl])
theorem RoundTrip.wcunp (a) : RoundTrip.Statement (.wcunp a) :=
  RoundTrip.one (o := 0x03) (d := 0x00) (a := (a.setWidth 8)) (b := 0x29) rfl rfl (by decide) (by decide)
    (by simp [decodeMap, dec0, decCtl])
theorem RoundTrip.wcinv (a) : RoundTrip.Statement (.wcinv a) :=
  RoundTrip.one (o := 0x03) (d := 0x00) (a := (a.setWidth 8)) (b := 0x2A) rfl rfl (by decide) (by decide)
    (by simp [decodeMap, dec0, decCtl])
theorem RoundTrip.wcinvAll : RoundTrip.Statement (.wcinvAll) :=
  RoundTrip.one (o := 0x03) (d := 0x01) (a := 0x00) (b := 0x2A) rfl rfl (by decide) (by decide)
    (by simp [decodeMap, dec0, decCtl])
theorem RoundTrip.rtgen (a) : RoundTrip.Statement (.rtgen a) :=
  RoundTrip.one (o := 0x03) (d := 0x00) (a := (a.setWidth 8)) (b := 0x30) rfl rfl (by decide) (by decide)
    (by simp [decodeMap, dec0, decCtl])
theorem RoundTrip.rtinv (a) : RoundTrip.Statement (.rtinv a) :=
  RoundTrip.one (o := 0x03) (d := 0x00) (a := (a.setWidth 8)) (b := 0x31) rfl rfl (by decide) (by decide)
    (by simp [decodeMap, dec0, decCtl])
theorem RoundTrip.rtinvAll : RoundTrip.Statement (.rtinvAll) :=
  RoundTrip.one (o := 0x03) (d := 0x01) (a := 0x00) (b := 0x31) rfl rfl (by decide) (by decide)
    (by simp [decodeMap, dec0, decCtl])
theorem RoundTrip.cwait (d a) : RoundTrip.Statement (.cwait d a) :=
  RoundTrip.one (o := 0x03) (d := (d.setWidth 8)) (a := (a.setWidth 8)) (b := 0x38) rfl rfl (by decide) (by decide)
    (by simp [decodeMap, dec0, decCtl])
theorem RoundTrip.cncl (d a) : RoundTrip.Statement (.cncl d a) :=
  RoundTrip.one (o := 0x03) (d := (d.setWidth 8)) (a := (a.setWidth 8)) (b := 0x39) rfl rfl (by decide) (by decide)
    (by simp [decodeMap, dec0, decCtl])
theorem RoundTrip.rdtm (d) : RoundTrip.Statement (.rdtm d) :=
  RoundTrip.one (o := 0x03) (d := (d.setWidth 8)) (a := 0x00) (b := 0x40) rfl rfl (by decide) (by decide)
    (by simp [decodeMap, dec0, decCtl])
theorem RoundTrip.wtm (a) : RoundTrip.Statement (.wtm a) :=
  RoundTrip.one (o := 0x03) (d := 0x00) (a := (a.setWidth 8)) (b := 0x41) rfl rfl (by decide) (by decide)
    (by simp [decodeMap, dec0, decCtl])
theorem RoundTrip.wret (a c) : RoundTrip.Statement (.wret a c) :=
  RoundTrip.one (o := 0x04) (d := 0) (a := (a.setWidth 8)) (b := (c.setWidth 8)) rfl rfl (by decide) (by decide)
    (by intro _; have h : c.toNat % 256 < 8 := by omega
        simp [decodeMap, dec0, decOrd, h])
theorem RoundTrip.bar : RoundTrip.Statement (.bar) :=
  RoundTrip.one (o := 0x04) (d := 0x00) (a := 0x00) (b := 0x10) rfl rfl (by decide) (by decide)
    (by simp [decodeMap, dec0, decOrd])
theorem RoundTrip.barw (a) : RoundTrip.Statement (.barw a) :=
  RoundTrip.one (o := 0x04) (d := 0x00) (a := (a.setWidth 8)) (b := 0x11) rfl rfl (by decide) (by decide)
    (by simp [decodeMap, dec0, decOrd])
theorem RoundTrip.gbar : RoundTrip.Statement (.gbar) :=
  RoundTrip.one (o := 0x04) (d := 0x00) (a := 0x00) (b := 0x12) rfl rfl (by decide) (by decide)
    (by simp [decodeMap, dec0, decOrd])
theorem RoundTrip.rend : RoundTrip.Statement (.rend) :=
  RoundTrip.one (o := 0x04) (d := 0x00) (a := 0x00) (b := 0x18) rfl rfl (by decide) (by decide)
    (by simp [decodeMap, dec0, decOrd])
theorem RoundTrip.fenceAcq (s) : RoundTrip.Statement (.fenceAcq s) :=
  RoundTrip.one (o := 0x04) (d := 0) (a := 0) (b := (0xA#5 ++ s)) rfl rfl (by decide) (by decide)
    (by intro _; rcases bits3_cases s with rfl | rfl | rfl | rfl | rfl | rfl | rfl | rfl <;> rfl)
theorem RoundTrip.fenceRel (s) : RoundTrip.Statement (.fenceRel s) :=
  RoundTrip.one (o := 0x04) (d := 0) (a := 0) (b := (0xC#5 ++ s)) rfl rfl (by decide) (by decide)
    (by intro _; rcases bits3_cases s with rfl | rfl | rfl | rfl | rfl | rfl | rfl | rfl <;> rfl)
theorem RoundTrip.fenceAr (s) : RoundTrip.Statement (.fenceAr s) :=
  RoundTrip.one (o := 0x04) (d := 0) (a := 0) (b := (0xE#5 ++ s)) rfl rfl (by decide) (by decide)
    (by intro _; rcases bits3_cases s with rfl | rfl | rfl | rfl | rfl | rfl | rfl | rfl <;> rfl)
theorem RoundTrip.atom (d a o) : RoundTrip.Statement (.atom d a o) :=
  RoundTrip.one (o := 0x05) (d := d) (a := (a.setWidth 8)) (b := (o.setWidth 8)) rfl rfl (by decide) (by decide)
    (by simp [decodeMap, dec0])
theorem RoundTrip.red (d a o) : RoundTrip.Statement (.red d a o) :=
  RoundTrip.one (o := 0x06) (d := d) (a := (a.setWidth 8)) (b := (o.setWidth 8)) rfl rfl (by decide) (by decide)
    (by simp [decodeMap, dec0])
theorem RoundTrip.cas (d a b) : RoundTrip.Statement (.cas d a b) :=
  RoundTrip.one (o := 0x07) (d := d) (a := (a.setWidth 8)) (b := b) rfl rfl (by decide) (by decide)
    (by simp [decodeMap, dec0])
theorem RoundTrip.trap (k) : RoundTrip.Statement (.trap k) :=
  RoundTrip.two (o := 0x08) (d := 0x00) (a := 0x00) (b := 0x00) (k := k) rfl rfl (by decide) (by decide)
    (by simp [decodeMap, dec0])
theorem RoundTrip.cvt (d a s) : RoundTrip.Statement (.cvt d a s) :=
  RoundTrip.one (o := 0x09) (d := d) (a := a) (b := (s.setWidth 8)) rfl rfl (by decide) (by decide)
    (by simp [decodeMap, dec0])
theorem RoundTrip.pack2 (d a b) : RoundTrip.Statement (.pack2 d a b) :=
  RoundTrip.one (o := 0x0A) (d := d) (a := a) (b := b) rfl rfl (by decide) (by decide)
    (by simp [decodeMap, dec0])
theorem RoundTrip.unpk (d a k s) : RoundTrip.Statement (.unpk d a k s) :=
  RoundTrip.one (o := 0x0B) (d := d) (a := a) (b := (0#1 ++ k ++ s)) rfl rfl (by decide) (by decide)
    (by intro _; obtain ⟨h1, h2, h3⟩ := unpk_fields k s
        simp only [decodeMap, dec0, h1, h2, h3]; rfl)
theorem RoundTrip.pand (d a b) : RoundTrip.Statement (.pand d a b) :=
  RoundTrip.one (o := 0x0C) (d := (d.setWidth 8)) (a := (a.setWidth 8)) (b := (b.setWidth 8)) rfl rfl (by decide) (by decide)
    (by simp [decodeMap, dec0])
theorem RoundTrip.por (d a b) : RoundTrip.Statement (.por d a b) :=
  RoundTrip.one (o := 0x0D) (d := (d.setWidth 8)) (a := (a.setWidth 8)) (b := (b.setWidth 8)) rfl rfl (by decide) (by decide)
    (by simp [decodeMap, dec0])
theorem RoundTrip.pxor (d a b) : RoundTrip.Statement (.pxor d a b) :=
  RoundTrip.one (o := 0x0E) (d := (d.setWidth 8)) (a := (a.setWidth 8)) (b := (b.setWidth 8)) rfl rfl (by decide) (by decide)
    (by simp [decodeMap, dec0])
theorem RoundTrip.pnot (d a) : RoundTrip.Statement (.pnot d a) :=
  RoundTrip.one (o := 0x0F) (d := (d.setWidth 8)) (a := (a.setWidth 8)) (b := 0x00) rfl rfl (by decide) (by decide)
    (by simp [decodeMap, dec0])
theorem RoundTrip.addReg (d a b) : RoundTrip.Statement (.addReg d a b) :=
  RoundTrip.one (o := 0x10) (d := d) (a := a) (b := b) rfl rfl (by decide) (by decide)
    (by simp [decodeMap, dec1])
theorem RoundTrip.addScb (d a b) : RoundTrip.Statement (.addScb d a b) :=
  RoundTrip.one (o := 0x11) (d := d) (a := a) (b := (b.setWidth 8)) rfl rfl (by decide) (by decide)
    (by simp [decodeMap, dec1])
theorem RoundTrip.addLit (d a k) : RoundTrip.Statement (.addLit d a k) :=
  RoundTrip.two (o := 0x12) (d := d) (a := a) (b := 0x00) (k := k) rfl rfl (by decide) (by decide)
    (by simp [decodeMap, dec1])
theorem RoundTrip.subReg (d a b) : RoundTrip.Statement (.subReg d a b) :=
  RoundTrip.one (o := 0x13) (d := d) (a := a) (b := b) rfl rfl (by decide) (by decide)
    (by simp [decodeMap, dec1])
theorem RoundTrip.subScb (d a b) : RoundTrip.Statement (.subScb d a b) :=
  RoundTrip.one (o := 0x14) (d := d) (a := a) (b := (b.setWidth 8)) rfl rfl (by decide) (by decide)
    (by simp [decodeMap, dec1])
theorem RoundTrip.subLit (d a k) : RoundTrip.Statement (.subLit d a k) :=
  RoundTrip.two (o := 0x15) (d := d) (a := a) (b := 0x00) (k := k) rfl rfl (by decide) (by decide)
    (by simp [decodeMap, dec1])
theorem RoundTrip.addcReg (d a b) : RoundTrip.Statement (.addcReg d a b) :=
  RoundTrip.one (o := 0x16) (d := d) (a := a) (b := b) rfl rfl (by decide) (by decide)
    (by simp [decodeMap, dec1])
theorem RoundTrip.addcScb (d a b) : RoundTrip.Statement (.addcScb d a b) :=
  RoundTrip.one (o := 0x17) (d := d) (a := a) (b := (b.setWidth 8)) rfl rfl (by decide) (by decide)
    (by simp [decodeMap, dec1])
theorem RoundTrip.addcLit (d a k) : RoundTrip.Statement (.addcLit d a k) :=
  RoundTrip.two (o := 0x18) (d := d) (a := a) (b := 0x00) (k := k) rfl rfl (by decide) (by decide)
    (by simp [decodeMap, dec1])
theorem RoundTrip.subbReg (d a b) : RoundTrip.Statement (.subbReg d a b) :=
  RoundTrip.one (o := 0x19) (d := d) (a := a) (b := b) rfl rfl (by decide) (by decide)
    (by simp [decodeMap, dec1])
theorem RoundTrip.subbScb (d a b) : RoundTrip.Statement (.subbScb d a b) :=
  RoundTrip.one (o := 0x1A) (d := d) (a := a) (b := (b.setWidth 8)) rfl rfl (by decide) (by decide)
    (by simp [decodeMap, dec1])
theorem RoundTrip.subbLit (d a k) : RoundTrip.Statement (.subbLit d a k) :=
  RoundTrip.two (o := 0x1B) (d := d) (a := a) (b := 0x00) (k := k) rfl rfl (by decide) (by decide)
    (by simp [decodeMap, dec1])
theorem RoundTrip.mulReg (d a b) : RoundTrip.Statement (.mulReg d a b) :=
  RoundTrip.one (o := 0x1C) (d := d) (a := a) (b := b) rfl rfl (by decide) (by decide)
    (by simp [decodeMap, dec1])
theorem RoundTrip.mulScb (d a b) : RoundTrip.Statement (.mulScb d a b) :=
  RoundTrip.one (o := 0x1D) (d := d) (a := a) (b := (b.setWidth 8)) rfl rfl (by decide) (by decide)
    (by simp [decodeMap, dec1])
theorem RoundTrip.mulLit (d a k) : RoundTrip.Statement (.mulLit d a k) :=
  RoundTrip.two (o := 0x1E) (d := d) (a := a) (b := 0x00) (k := k) rfl rfl (by decide) (by decide)
    (by simp [decodeMap, dec1])
theorem RoundTrip.mulhReg (d a b) : RoundTrip.Statement (.mulhReg d a b) :=
  RoundTrip.one (o := 0x1F) (d := d) (a := a) (b := b) rfl rfl (by decide) (by decide)
    (by simp [decodeMap, dec1])
theorem RoundTrip.mulhScb (d a b) : RoundTrip.Statement (.mulhScb d a b) :=
  RoundTrip.one (o := 0x20) (d := d) (a := a) (b := (b.setWidth 8)) rfl rfl (by decide) (by decide)
    (by simp [decodeMap, dec2])
theorem RoundTrip.mulhLit (d a k) : RoundTrip.Statement (.mulhLit d a k) :=
  RoundTrip.two (o := 0x21) (d := d) (a := a) (b := 0x00) (k := k) rfl rfl (by decide) (by decide)
    (by simp [decodeMap, dec2])
theorem RoundTrip.madReg (d a b) : RoundTrip.Statement (.madReg d a b) :=
  RoundTrip.one (o := 0x22) (d := d) (a := a) (b := b) rfl rfl (by decide) (by decide)
    (by simp [decodeMap, dec2])
theorem RoundTrip.madScb (d a b) : RoundTrip.Statement (.madScb d a b) :=
  RoundTrip.one (o := 0x23) (d := d) (a := a) (b := (b.setWidth 8)) rfl rfl (by decide) (by decide)
    (by simp [decodeMap, dec2])
theorem RoundTrip.madLit (d a k) : RoundTrip.Statement (.madLit d a k) :=
  RoundTrip.two (o := 0x24) (d := d) (a := a) (b := 0x00) (k := k) rfl rfl (by decide) (by decide)
    (by simp [decodeMap, dec2])
theorem RoundTrip.minReg (d a b) : RoundTrip.Statement (.minReg d a b) :=
  RoundTrip.one (o := 0x25) (d := d) (a := a) (b := b) rfl rfl (by decide) (by decide)
    (by simp [decodeMap, dec2])
theorem RoundTrip.minScb (d a b) : RoundTrip.Statement (.minScb d a b) :=
  RoundTrip.one (o := 0x26) (d := d) (a := a) (b := (b.setWidth 8)) rfl rfl (by decide) (by decide)
    (by simp [decodeMap, dec2])
theorem RoundTrip.minLit (d a k) : RoundTrip.Statement (.minLit d a k) :=
  RoundTrip.two (o := 0x27) (d := d) (a := a) (b := 0x00) (k := k) rfl rfl (by decide) (by decide)
    (by simp [decodeMap, dec2])
theorem RoundTrip.maxReg (d a b) : RoundTrip.Statement (.maxReg d a b) :=
  RoundTrip.one (o := 0x28) (d := d) (a := a) (b := b) rfl rfl (by decide) (by decide)
    (by simp [decodeMap, dec2])
theorem RoundTrip.maxScb (d a b) : RoundTrip.Statement (.maxScb d a b) :=
  RoundTrip.one (o := 0x29) (d := d) (a := a) (b := (b.setWidth 8)) rfl rfl (by decide) (by decide)
    (by simp [decodeMap, dec2])
theorem RoundTrip.maxLit (d a k) : RoundTrip.Statement (.maxLit d a k) :=
  RoundTrip.two (o := 0x2A) (d := d) (a := a) (b := 0x00) (k := k) rfl rfl (by decide) (by decide)
    (by simp [decodeMap, dec2])
theorem RoundTrip.andReg (d a b) : RoundTrip.Statement (.andReg d a b) :=
  RoundTrip.one (o := 0x2B) (d := d) (a := a) (b := b) rfl rfl (by decide) (by decide)
    (by simp [decodeMap, dec2])
theorem RoundTrip.andScb (d a b) : RoundTrip.Statement (.andScb d a b) :=
  RoundTrip.one (o := 0x2C) (d := d) (a := a) (b := (b.setWidth 8)) rfl rfl (by decide) (by decide)
    (by simp [decodeMap, dec2])
theorem RoundTrip.andLit (d a k) : RoundTrip.Statement (.andLit d a k) :=
  RoundTrip.two (o := 0x2D) (d := d) (a := a) (b := 0x00) (k := k) rfl rfl (by decide) (by decide)
    (by simp [decodeMap, dec2])
theorem RoundTrip.orReg (d a b) : RoundTrip.Statement (.orReg d a b) :=
  RoundTrip.one (o := 0x2E) (d := d) (a := a) (b := b) rfl rfl (by decide) (by decide)
    (by simp [decodeMap, dec2])
theorem RoundTrip.orScb (d a b) : RoundTrip.Statement (.orScb d a b) :=
  RoundTrip.one (o := 0x2F) (d := d) (a := a) (b := (b.setWidth 8)) rfl rfl (by decide) (by decide)
    (by simp [decodeMap, dec2])
theorem RoundTrip.orLit (d a k) : RoundTrip.Statement (.orLit d a k) :=
  RoundTrip.two (o := 0x30) (d := d) (a := a) (b := 0x00) (k := k) rfl rfl (by decide) (by decide)
    (by simp [decodeMap, dec3])
theorem RoundTrip.xorReg (d a b) : RoundTrip.Statement (.xorReg d a b) :=
  RoundTrip.one (o := 0x31) (d := d) (a := a) (b := b) rfl rfl (by decide) (by decide)
    (by simp [decodeMap, dec3])
theorem RoundTrip.xorScb (d a b) : RoundTrip.Statement (.xorScb d a b) :=
  RoundTrip.one (o := 0x32) (d := d) (a := a) (b := (b.setWidth 8)) rfl rfl (by decide) (by decide)
    (by simp [decodeMap, dec3])
theorem RoundTrip.xorLit (d a k) : RoundTrip.Statement (.xorLit d a k) :=
  RoundTrip.two (o := 0x33) (d := d) (a := a) (b := 0x00) (k := k) rfl rfl (by decide) (by decide)
    (by simp [decodeMap, dec3])
theorem RoundTrip.andnReg (d a b) : RoundTrip.Statement (.andnReg d a b) :=
  RoundTrip.one (o := 0x34) (d := d) (a := a) (b := b) rfl rfl (by decide) (by decide)
    (by simp [decodeMap, dec3])
theorem RoundTrip.andnScb (d a b) : RoundTrip.Statement (.andnScb d a b) :=
  RoundTrip.one (o := 0x35) (d := d) (a := a) (b := (b.setWidth 8)) rfl rfl (by decide) (by decide)
    (by simp [decodeMap, dec3])
theorem RoundTrip.andnLit (d a k) : RoundTrip.Statement (.andnLit d a k) :=
  RoundTrip.two (o := 0x36) (d := d) (a := a) (b := 0x00) (k := k) rfl rfl (by decide) (by decide)
    (by simp [decodeMap, dec3])
theorem RoundTrip.shlReg (d a b) : RoundTrip.Statement (.shlReg d a b) :=
  RoundTrip.one (o := 0x37) (d := d) (a := a) (b := b) rfl rfl (by decide) (by decide)
    (by simp [decodeMap, dec3])
theorem RoundTrip.shlScb (d a b) : RoundTrip.Statement (.shlScb d a b) :=
  RoundTrip.one (o := 0x38) (d := d) (a := a) (b := (b.setWidth 8)) rfl rfl (by decide) (by decide)
    (by simp [decodeMap, dec3])
theorem RoundTrip.shlLit (d a k) : RoundTrip.Statement (.shlLit d a k) :=
  RoundTrip.two (o := 0x39) (d := d) (a := a) (b := 0x00) (k := k) rfl rfl (by decide) (by decide)
    (by simp [decodeMap, dec3])
theorem RoundTrip.shrReg (d a b) : RoundTrip.Statement (.shrReg d a b) :=
  RoundTrip.one (o := 0x3A) (d := d) (a := a) (b := b) rfl rfl (by decide) (by decide)
    (by simp [decodeMap, dec3])
theorem RoundTrip.shrScb (d a b) : RoundTrip.Statement (.shrScb d a b) :=
  RoundTrip.one (o := 0x3B) (d := d) (a := a) (b := (b.setWidth 8)) rfl rfl (by decide) (by decide)
    (by simp [decodeMap, dec3])
theorem RoundTrip.shrLit (d a k) : RoundTrip.Statement (.shrLit d a k) :=
  RoundTrip.two (o := 0x3C) (d := d) (a := a) (b := 0x00) (k := k) rfl rfl (by decide) (by decide)
    (by simp [decodeMap, dec3])
theorem RoundTrip.sraReg (d a b) : RoundTrip.Statement (.sraReg d a b) :=
  RoundTrip.one (o := 0x3D) (d := d) (a := a) (b := b) rfl rfl (by decide) (by decide)
    (by simp [decodeMap, dec3])
theorem RoundTrip.sraScb (d a b) : RoundTrip.Statement (.sraScb d a b) :=
  RoundTrip.one (o := 0x3E) (d := d) (a := a) (b := (b.setWidth 8)) rfl rfl (by decide) (by decide)
    (by simp [decodeMap, dec3])
theorem RoundTrip.sraLit (d a k) : RoundTrip.Statement (.sraLit d a k) :=
  RoundTrip.two (o := 0x3F) (d := d) (a := a) (b := 0x00) (k := k) rfl rfl (by decide) (by decide)
    (by simp [decodeMap, dec3])
theorem RoundTrip.rotlReg (d a b) : RoundTrip.Statement (.rotlReg d a b) :=
  RoundTrip.one (o := 0x40) (d := d) (a := a) (b := b) rfl rfl (by decide) (by decide)
    (by simp [decodeMap, dec4])
theorem RoundTrip.rotlScb (d a b) : RoundTrip.Statement (.rotlScb d a b) :=
  RoundTrip.one (o := 0x41) (d := d) (a := a) (b := (b.setWidth 8)) rfl rfl (by decide) (by decide)
    (by simp [decodeMap, dec4])
theorem RoundTrip.rotlLit (d a k) : RoundTrip.Statement (.rotlLit d a k) :=
  RoundTrip.two (o := 0x42) (d := d) (a := a) (b := 0x00) (k := k) rfl rfl (by decide) (by decide)
    (by simp [decodeMap, dec4])
theorem RoundTrip.bfxReg (d a b) : RoundTrip.Statement (.bfxReg d a b) :=
  RoundTrip.one (o := 0x43) (d := d) (a := a) (b := b) rfl rfl (by decide) (by decide)
    (by simp [decodeMap, dec4])
theorem RoundTrip.bfxScb (d a b) : RoundTrip.Statement (.bfxScb d a b) :=
  RoundTrip.one (o := 0x44) (d := d) (a := a) (b := (b.setWidth 8)) rfl rfl (by decide) (by decide)
    (by simp [decodeMap, dec4])
theorem RoundTrip.bfxLit (d a k) : RoundTrip.Statement (.bfxLit d a k) :=
  RoundTrip.two (o := 0x45) (d := d) (a := a) (b := 0x00) (k := k) rfl rfl (by decide) (by decide)
    (by simp [decodeMap, dec4])
theorem RoundTrip.bfiReg (d a b) : RoundTrip.Statement (.bfiReg d a b) :=
  RoundTrip.one (o := 0x46) (d := d) (a := a) (b := b) rfl rfl (by decide) (by decide)
    (by simp [decodeMap, dec4])
theorem RoundTrip.bfiScb (d a b) : RoundTrip.Statement (.bfiScb d a b) :=
  RoundTrip.one (o := 0x47) (d := d) (a := a) (b := (b.setWidth 8)) rfl rfl (by decide) (by decide)
    (by simp [decodeMap, dec4])
theorem RoundTrip.bfiLit (d a k) : RoundTrip.Statement (.bfiLit d a k) :=
  RoundTrip.two (o := 0x48) (d := d) (a := a) (b := 0x00) (k := k) rfl rfl (by decide) (by decide)
    (by simp [decodeMap, dec4])
theorem RoundTrip.selReg (d a b) : RoundTrip.Statement (.selReg d a b) :=
  RoundTrip.one (o := 0x49) (d := d) (a := a) (b := b) rfl rfl (by decide) (by decide)
    (by simp [decodeMap, dec4])
theorem RoundTrip.selScb (d a b) : RoundTrip.Statement (.selScb d a b) :=
  RoundTrip.one (o := 0x4A) (d := d) (a := a) (b := (b.setWidth 8)) rfl rfl (by decide) (by decide)
    (by simp [decodeMap, dec4])
theorem RoundTrip.selLit (d a k) : RoundTrip.Statement (.selLit d a k) :=
  RoundTrip.two (o := 0x4B) (d := d) (a := a) (b := 0x00) (k := k) rfl rfl (by decide) (by decide)
    (by simp [decodeMap, dec4])
theorem RoundTrip.cmpEqReg (d a b) : RoundTrip.Statement (.cmpEqReg d a b) :=
  RoundTrip.one (o := 0x4C) (d := (d.setWidth 8)) (a := a) (b := b) rfl rfl (by decide) (by decide)
    (by simp [decodeMap, dec4])
theorem RoundTrip.cmpEqScb (d a b) : RoundTrip.Statement (.cmpEqScb d a b) :=
  RoundTrip.one (o := 0x4D) (d := (d.setWidth 8)) (a := a) (b := (b.setWidth 8)) rfl rfl (by decide) (by decide)
    (by simp [decodeMap, dec4])
theorem RoundTrip.cmpEqLit (d a k) : RoundTrip.Statement (.cmpEqLit d a k) :=
  RoundTrip.two (o := 0x4E) (d := (d.setWidth 8)) (a := a) (b := 0x00) (k := k) rfl rfl (by decide) (by decide)
    (by simp [decodeMap, dec4])
theorem RoundTrip.cmpLtReg (d a b) : RoundTrip.Statement (.cmpLtReg d a b) :=
  RoundTrip.one (o := 0x4F) (d := (d.setWidth 8)) (a := a) (b := b) rfl rfl (by decide) (by decide)
    (by simp [decodeMap, dec4])
theorem RoundTrip.cmpLtScb (d a b) : RoundTrip.Statement (.cmpLtScb d a b) :=
  RoundTrip.one (o := 0x50) (d := (d.setWidth 8)) (a := a) (b := (b.setWidth 8)) rfl rfl (by decide) (by decide)
    (by simp [decodeMap, dec5])
theorem RoundTrip.cmpLtLit (d a k) : RoundTrip.Statement (.cmpLtLit d a k) :=
  RoundTrip.two (o := 0x51) (d := (d.setWidth 8)) (a := a) (b := 0x00) (k := k) rfl rfl (by decide) (by decide)
    (by simp [decodeMap, dec5])
theorem RoundTrip.faddReg (d a b) : RoundTrip.Statement (.faddReg d a b) :=
  RoundTrip.one (o := 0x52) (d := d) (a := a) (b := b) rfl rfl (by decide) (by decide)
    (by simp [decodeMap, dec5])
theorem RoundTrip.faddScb (d a b) : RoundTrip.Statement (.faddScb d a b) :=
  RoundTrip.one (o := 0x53) (d := d) (a := a) (b := (b.setWidth 8)) rfl rfl (by decide) (by decide)
    (by simp [decodeMap, dec5])
theorem RoundTrip.faddLit (d a k) : RoundTrip.Statement (.faddLit d a k) :=
  RoundTrip.two (o := 0x54) (d := d) (a := a) (b := 0x00) (k := k) rfl rfl (by decide) (by decide)
    (by simp [decodeMap, dec5])
theorem RoundTrip.fsubReg (d a b) : RoundTrip.Statement (.fsubReg d a b) :=
  RoundTrip.one (o := 0x55) (d := d) (a := a) (b := b) rfl rfl (by decide) (by decide)
    (by simp [decodeMap, dec5])
theorem RoundTrip.fsubScb (d a b) : RoundTrip.Statement (.fsubScb d a b) :=
  RoundTrip.one (o := 0x56) (d := d) (a := a) (b := (b.setWidth 8)) rfl rfl (by decide) (by decide)
    (by simp [decodeMap, dec5])
theorem RoundTrip.fsubLit (d a k) : RoundTrip.Statement (.fsubLit d a k) :=
  RoundTrip.two (o := 0x57) (d := d) (a := a) (b := 0x00) (k := k) rfl rfl (by decide) (by decide)
    (by simp [decodeMap, dec5])
theorem RoundTrip.fmulReg (d a b) : RoundTrip.Statement (.fmulReg d a b) :=
  RoundTrip.one (o := 0x58) (d := d) (a := a) (b := b) rfl rfl (by decide) (by decide)
    (by simp [decodeMap, dec5])
theorem RoundTrip.fmulScb (d a b) : RoundTrip.Statement (.fmulScb d a b) :=
  RoundTrip.one (o := 0x59) (d := d) (a := a) (b := (b.setWidth 8)) rfl rfl (by decide) (by decide)
    (by simp [decodeMap, dec5])
theorem RoundTrip.fmulLit (d a k) : RoundTrip.Statement (.fmulLit d a k) :=
  RoundTrip.two (o := 0x5A) (d := d) (a := a) (b := 0x00) (k := k) rfl rfl (by decide) (by decide)
    (by simp [decodeMap, dec5])
theorem RoundTrip.fmaReg (d a b) : RoundTrip.Statement (.fmaReg d a b) :=
  RoundTrip.one (o := 0x5B) (d := d) (a := a) (b := b) rfl rfl (by decide) (by decide)
    (by simp [decodeMap, dec5])
theorem RoundTrip.fmaScb (d a b) : RoundTrip.Statement (.fmaScb d a b) :=
  RoundTrip.one (o := 0x5C) (d := d) (a := a) (b := (b.setWidth 8)) rfl rfl (by decide) (by decide)
    (by simp [decodeMap, dec5])
theorem RoundTrip.fmaLit (d a k) : RoundTrip.Statement (.fmaLit d a k) :=
  RoundTrip.two (o := 0x5D) (d := d) (a := a) (b := 0x00) (k := k) rfl rfl (by decide) (by decide)
    (by simp [decodeMap, dec5])
theorem RoundTrip.fminReg (d a b) : RoundTrip.Statement (.fminReg d a b) :=
  RoundTrip.one (o := 0x5E) (d := d) (a := a) (b := b) rfl rfl (by decide) (by decide)
    (by simp [decodeMap, dec5])
theorem RoundTrip.fminScb (d a b) : RoundTrip.Statement (.fminScb d a b) :=
  RoundTrip.one (o := 0x5F) (d := d) (a := a) (b := (b.setWidth 8)) rfl rfl (by decide) (by decide)
    (by simp [decodeMap, dec5])
theorem RoundTrip.fminLit (d a k) : RoundTrip.Statement (.fminLit d a k) :=
  RoundTrip.two (o := 0x60) (d := d) (a := a) (b := 0x00) (k := k) rfl rfl (by decide) (by decide)
    (by simp [decodeMap, dec6])
theorem RoundTrip.fmaxReg (d a b) : RoundTrip.Statement (.fmaxReg d a b) :=
  RoundTrip.one (o := 0x61) (d := d) (a := a) (b := b) rfl rfl (by decide) (by decide)
    (by simp [decodeMap, dec6])
theorem RoundTrip.fmaxScb (d a b) : RoundTrip.Statement (.fmaxScb d a b) :=
  RoundTrip.one (o := 0x62) (d := d) (a := a) (b := (b.setWidth 8)) rfl rfl (by decide) (by decide)
    (by simp [decodeMap, dec6])
theorem RoundTrip.fmaxLit (d a k) : RoundTrip.Statement (.fmaxLit d a k) :=
  RoundTrip.two (o := 0x63) (d := d) (a := a) (b := 0x00) (k := k) rfl rfl (by decide) (by decide)
    (by simp [decodeMap, dec6])
theorem RoundTrip.fclsReg (d a b) : RoundTrip.Statement (.fclsReg d a b) :=
  RoundTrip.one (o := 0x64) (d := (d.setWidth 8)) (a := a) (b := b) rfl rfl (by decide) (by decide)
    (by simp [decodeMap, dec6])
theorem RoundTrip.fclsScb (d a b) : RoundTrip.Statement (.fclsScb d a b) :=
  RoundTrip.one (o := 0x65) (d := (d.setWidth 8)) (a := a) (b := (b.setWidth 8)) rfl rfl (by decide) (by decide)
    (by simp [decodeMap, dec6])
theorem RoundTrip.fclsLit (d a k) : RoundTrip.Statement (.fclsLit d a k) :=
  RoundTrip.two (o := 0x66) (d := (d.setWidth 8)) (a := a) (b := 0x00) (k := k) rfl rfl (by decide) (by decide)
    (by simp [decodeMap, dec6])
theorem RoundTrip.fcmpEqReg (d a b) : RoundTrip.Statement (.fcmpEqReg d a b) :=
  RoundTrip.one (o := 0x67) (d := (d.setWidth 8)) (a := a) (b := b) rfl rfl (by decide) (by decide)
    (by simp [decodeMap, dec6])
theorem RoundTrip.fcmpEqScb (d a b) : RoundTrip.Statement (.fcmpEqScb d a b) :=
  RoundTrip.one (o := 0x68) (d := (d.setWidth 8)) (a := a) (b := (b.setWidth 8)) rfl rfl (by decide) (by decide)
    (by simp [decodeMap, dec6])
theorem RoundTrip.fcmpEqLit (d a k) : RoundTrip.Statement (.fcmpEqLit d a k) :=
  RoundTrip.two (o := 0x69) (d := (d.setWidth 8)) (a := a) (b := 0x00) (k := k) rfl rfl (by decide) (by decide)
    (by simp [decodeMap, dec6])
theorem RoundTrip.fcmpLtReg (d a b) : RoundTrip.Statement (.fcmpLtReg d a b) :=
  RoundTrip.one (o := 0x6A) (d := (d.setWidth 8)) (a := a) (b := b) rfl rfl (by decide) (by decide)
    (by simp [decodeMap, dec6])
theorem RoundTrip.fcmpLtScb (d a b) : RoundTrip.Statement (.fcmpLtScb d a b) :=
  RoundTrip.one (o := 0x6B) (d := (d.setWidth 8)) (a := a) (b := (b.setWidth 8)) rfl rfl (by decide) (by decide)
    (by simp [decodeMap, dec6])
theorem RoundTrip.fcmpLtLit (d a k) : RoundTrip.Statement (.fcmpLtLit d a k) :=
  RoundTrip.two (o := 0x6C) (d := (d.setWidth 8)) (a := a) (b := 0x00) (k := k) rfl rfl (by decide) (by decide)
    (by simp [decodeMap, dec6])
theorem RoundTrip.fcmpLeReg (d a b) : RoundTrip.Statement (.fcmpLeReg d a b) :=
  RoundTrip.one (o := 0x6D) (d := (d.setWidth 8)) (a := a) (b := b) rfl rfl (by decide) (by decide)
    (by simp [decodeMap, dec6])
theorem RoundTrip.fcmpLeScb (d a b) : RoundTrip.Statement (.fcmpLeScb d a b) :=
  RoundTrip.one (o := 0x6E) (d := (d.setWidth 8)) (a := a) (b := (b.setWidth 8)) rfl rfl (by decide) (by decide)
    (by simp [decodeMap, dec6])
theorem RoundTrip.fcmpLeLit (d a k) : RoundTrip.Statement (.fcmpLeLit d a k) :=
  RoundTrip.two (o := 0x6F) (d := (d.setWidth 8)) (a := a) (b := 0x00) (k := k) rfl rfl (by decide) (by decide)
    (by simp [decodeMap, dec6])
theorem RoundTrip.dot4Reg (d a b) : RoundTrip.Statement (.dot4Reg d a b) :=
  RoundTrip.one (o := 0x70) (d := d) (a := a) (b := b) rfl rfl (by decide) (by decide)
    (by simp [decodeMap, dec7])
theorem RoundTrip.dot4Scb (d a b) : RoundTrip.Statement (.dot4Scb d a b) :=
  RoundTrip.one (o := 0x71) (d := d) (a := a) (b := (b.setWidth 8)) rfl rfl (by decide) (by decide)
    (by simp [decodeMap, dec7])
theorem RoundTrip.dot4Lit (d a k) : RoundTrip.Statement (.dot4Lit d a k) :=
  RoundTrip.two (o := 0x72) (d := d) (a := a) (b := 0x00) (k := k) rfl rfl (by decide) (by decide)
    (by simp [decodeMap, dec7])
theorem RoundTrip.fdot2Reg (d a b) : RoundTrip.Statement (.fdot2Reg d a b) :=
  RoundTrip.one (o := 0x73) (d := d) (a := a) (b := b) rfl rfl (by decide) (by decide)
    (by simp [decodeMap, dec7])
theorem RoundTrip.fdot2Scb (d a b) : RoundTrip.Statement (.fdot2Scb d a b) :=
  RoundTrip.one (o := 0x74) (d := d) (a := a) (b := (b.setWidth 8)) rfl rfl (by decide) (by decide)
    (by simp [decodeMap, dec7])
theorem RoundTrip.fdot2Lit (d a k) : RoundTrip.Statement (.fdot2Lit d a k) :=
  RoundTrip.two (o := 0x75) (d := d) (a := a) (b := 0x00) (k := k) rfl rfl (by decide) (by decide)
    (by simp [decodeMap, dec7])
theorem RoundTrip.pmov (d a) : RoundTrip.Statement (.pmov d a) :=
  RoundTrip.one (o := 0x76) (d := (d.setWidth 8)) (a := (a.setWidth 8)) (b := 0x00) rfl rfl (by decide) (by decide)
    (by simp [decodeMap, dec7])
theorem RoundTrip.movReg (d b) : RoundTrip.Statement (.movReg d b) :=
  RoundTrip.one (o := 0x77) (d := d) (a := 0x00) (b := b) rfl rfl (by decide) (by decide)
    (by simp [decodeMap, dec7])
theorem RoundTrip.movScb (d b) : RoundTrip.Statement (.movScb d b) :=
  RoundTrip.one (o := 0x78) (d := d) (a := 0x00) (b := (b.setWidth 8)) rfl rfl (by decide) (by decide)
    (by simp [decodeMap, dec7])
theorem RoundTrip.movLit (d k) : RoundTrip.Statement (.movLit d k) :=
  RoundTrip.two (o := 0x79) (d := d) (a := 0x00) (b := 0x00) (k := k) rfl rfl (by decide) (by decide)
    (by simp [decodeMap, dec7])
theorem RoundTrip.bcast (d a k) : RoundTrip.Statement (.bcast d a k) :=
  RoundTrip.two (o := 0x7A) (d := d) (a := a) (b := 0x00) (k := k) rfl rfl (by decide) (by decide)
    (by simp [decodeMap, dec7])
theorem RoundTrip.shflIdxReg (d a b) : RoundTrip.Statement (.shflIdxReg d a b) :=
  RoundTrip.one (o := 0x7B) (d := d) (a := a) (b := b) rfl rfl (by decide) (by decide)
    (by simp [decodeMap, dec7])
theorem RoundTrip.shflIdxLit (d a k) : RoundTrip.Statement (.shflIdxLit d a k) :=
  RoundTrip.two (o := 0x7C) (d := d) (a := a) (b := 0x00) (k := k) rfl rfl (by decide) (by decide)
    (by simp [decodeMap, dec7])
theorem RoundTrip.shflUp (d a k) : RoundTrip.Statement (.shflUp d a k) :=
  RoundTrip.two (o := 0x7D) (d := d) (a := a) (b := 0x00) (k := k) rfl rfl (by decide) (by decide)
    (by simp [decodeMap, dec7])
theorem RoundTrip.shflDn (d a k) : RoundTrip.Statement (.shflDn d a k) :=
  RoundTrip.two (o := 0x7E) (d := d) (a := a) (b := 0x00) (k := k) rfl rfl (by decide) (by decide)
    (by simp [decodeMap, dec7])
theorem RoundTrip.shflXor (d a k) : RoundTrip.Statement (.shflXor d a k) :=
  RoundTrip.two (o := 0x7F) (d := d) (a := a) (b := 0x00) (k := k) rfl rfl (by decide) (by decide)
    (by simp [decodeMap, dec7])
theorem RoundTrip.br (o) : RoundTrip.Statement (.br o) :=
  RoundTrip.one (o := 0x80) (d := (o.extractLsb' 16 8)) (a := (o.extractLsb' 8 8)) (b := (o.extractLsb' 0 8)) rfl rfl (by decide) (by decide)
    (by simp [decodeMap, dec8])
theorem RoundTrip.jmp (o) : RoundTrip.Statement (.jmp o) :=
  RoundTrip.one (o := 0x81) (d := (o.extractLsb' 16 8)) (a := (o.extractLsb' 8 8)) (b := (o.extractLsb' 0 8)) rfl rfl (by decide) (by decide)
    (by simp [decodeMap, dec8])
theorem RoundTrip.call (o) : RoundTrip.Statement (.call o) :=
  RoundTrip.one (o := 0x82) (d := (o.extractLsb' 16 8)) (a := (o.extractLsb' 8 8)) (b := (o.extractLsb' 0 8)) rfl rfl (by decide) (by decide)
    (by simp [decodeMap, dec8])
theorem RoundTrip.split (o) : RoundTrip.Statement (.split o) :=
  RoundTrip.one (o := 0x83) (d := (o.extractLsb' 16 8)) (a := (o.extractLsb' 8 8)) (b := (o.extractLsb' 0 8)) rfl rfl (by decide) (by decide)
    (by simp [decodeMap, dec8])
theorem RoundTrip.loopLc0 (o) : RoundTrip.Statement (.loopLc0 o) :=
  RoundTrip.one (o := 0x84) (d := (o.extractLsb' 16 8)) (a := (o.extractLsb' 8 8)) (b := (o.extractLsb' 0 8)) rfl rfl (by decide) (by decide)
    (by simp [decodeMap, dec8])
theorem RoundTrip.loopLc1 (o) : RoundTrip.Statement (.loopLc1 o) :=
  RoundTrip.one (o := 0x85) (d := (o.extractLsb' 16 8)) (a := (o.extractLsb' 8 8)) (b := (o.extractLsb' 0 8)) rfl rfl (by decide) (by decide)
    (by simp [decodeMap, dec8])
theorem RoundTrip.rdlnScb (d a b) : RoundTrip.Statement (.rdlnScb d a b) :=
  RoundTrip.one (o := 0x86) (d := (d.setWidth 8)) (a := a) (b := (b.setWidth 8)) rfl rfl (by decide) (by decide)
    (by simp [decodeMap, dec8])
theorem RoundTrip.rdlnLit (d a k) : RoundTrip.Statement (.rdlnLit d a k) :=
  RoundTrip.two (o := 0x87) (d := (d.setWidth 8)) (a := a) (b := 0x00) (k := k) rfl rfl (by decide) (by decide)
    (by simp [decodeMap, dec8])
theorem RoundTrip.wrlnScb (d a b) : RoundTrip.Statement (.wrlnScb d a b) :=
  RoundTrip.one (o := 0x88) (d := d) (a := (a.setWidth 8)) (b := (b.setWidth 8)) rfl rfl (by decide) (by decide)
    (by simp [decodeMap, dec8])
theorem RoundTrip.wrlnLit (d a k) : RoundTrip.Statement (.wrlnLit d a k) :=
  RoundTrip.two (o := 0x89) (d := d) (a := (a.setWidth 8)) (b := 0x00) (k := k) rfl rfl (by decide) (by decide)
    (by simp [decodeMap, dec8])
theorem RoundTrip.saddScb (d a b) : RoundTrip.Statement (.saddScb d a b) :=
  RoundTrip.one (o := 0x8A) (d := (d.setWidth 8)) (a := (a.setWidth 8)) (b := (b.setWidth 8)) rfl rfl (by decide) (by decide)
    (by simp [decodeMap, dec8])
theorem RoundTrip.saddLit (d a k) : RoundTrip.Statement (.saddLit d a k) :=
  RoundTrip.two (o := 0x8B) (d := (d.setWidth 8)) (a := (a.setWidth 8)) (b := 0x00) (k := k) rfl rfl (by decide) (by decide)
    (by simp [decodeMap, dec8])
theorem RoundTrip.ssubScb (d a b) : RoundTrip.Statement (.ssubScb d a b) :=
  RoundTrip.one (o := 0x8C) (d := (d.setWidth 8)) (a := (a.setWidth 8)) (b := (b.setWidth 8)) rfl rfl (by decide) (by decide)
    (by simp [decodeMap, dec8])
theorem RoundTrip.ssubLit (d a k) : RoundTrip.Statement (.ssubLit d a k) :=
  RoundTrip.two (o := 0x8D) (d := (d.setWidth 8)) (a := (a.setWidth 8)) (b := 0x00) (k := k) rfl rfl (by decide) (by decide)
    (by simp [decodeMap, dec8])
theorem RoundTrip.smulScb (d a b) : RoundTrip.Statement (.smulScb d a b) :=
  RoundTrip.one (o := 0x8E) (d := (d.setWidth 8)) (a := (a.setWidth 8)) (b := (b.setWidth 8)) rfl rfl (by decide) (by decide)
    (by simp [decodeMap, dec8])
theorem RoundTrip.smulLit (d a k) : RoundTrip.Statement (.smulLit d a k) :=
  RoundTrip.two (o := 0x8F) (d := (d.setWidth 8)) (a := (a.setWidth 8)) (b := 0x00) (k := k) rfl rfl (by decide) (by decide)
    (by simp [decodeMap, dec8])
theorem RoundTrip.sandScb (d a b) : RoundTrip.Statement (.sandScb d a b) :=
  RoundTrip.one (o := 0x90) (d := (d.setWidth 8)) (a := (a.setWidth 8)) (b := (b.setWidth 8)) rfl rfl (by decide) (by decide)
    (by simp [decodeMap, dec9])
theorem RoundTrip.sandLit (d a k) : RoundTrip.Statement (.sandLit d a k) :=
  RoundTrip.two (o := 0x91) (d := (d.setWidth 8)) (a := (a.setWidth 8)) (b := 0x00) (k := k) rfl rfl (by decide) (by decide)
    (by simp [decodeMap, dec9])
theorem RoundTrip.sorScb (d a b) : RoundTrip.Statement (.sorScb d a b) :=
  RoundTrip.one (o := 0x92) (d := (d.setWidth 8)) (a := (a.setWidth 8)) (b := (b.setWidth 8)) rfl rfl (by decide) (by decide)
    (by simp [decodeMap, dec9])
theorem RoundTrip.sorLit (d a k) : RoundTrip.Statement (.sorLit d a k) :=
  RoundTrip.two (o := 0x93) (d := (d.setWidth 8)) (a := (a.setWidth 8)) (b := 0x00) (k := k) rfl rfl (by decide) (by decide)
    (by simp [decodeMap, dec9])
theorem RoundTrip.sxorScb (d a b) : RoundTrip.Statement (.sxorScb d a b) :=
  RoundTrip.one (o := 0x94) (d := (d.setWidth 8)) (a := (a.setWidth 8)) (b := (b.setWidth 8)) rfl rfl (by decide) (by decide)
    (by simp [decodeMap, dec9])
theorem RoundTrip.sxorLit (d a k) : RoundTrip.Statement (.sxorLit d a k) :=
  RoundTrip.two (o := 0x95) (d := (d.setWidth 8)) (a := (a.setWidth 8)) (b := 0x00) (k := k) rfl rfl (by decide) (by decide)
    (by simp [decodeMap, dec9])
theorem RoundTrip.sshlScb (d a b) : RoundTrip.Statement (.sshlScb d a b) :=
  RoundTrip.one (o := 0x96) (d := (d.setWidth 8)) (a := (a.setWidth 8)) (b := (b.setWidth 8)) rfl rfl (by decide) (by decide)
    (by simp [decodeMap, dec9])
theorem RoundTrip.sshlLit (d a k) : RoundTrip.Statement (.sshlLit d a k) :=
  RoundTrip.two (o := 0x97) (d := (d.setWidth 8)) (a := (a.setWidth 8)) (b := 0x00) (k := k) rfl rfl (by decide) (by decide)
    (by simp [decodeMap, dec9])
theorem RoundTrip.sshrScb (d a b) : RoundTrip.Statement (.sshrScb d a b) :=
  RoundTrip.one (o := 0x98) (d := (d.setWidth 8)) (a := (a.setWidth 8)) (b := (b.setWidth 8)) rfl rfl (by decide) (by decide)
    (by simp [decodeMap, dec9])
theorem RoundTrip.sshrLit (d a k) : RoundTrip.Statement (.sshrLit d a k) :=
  RoundTrip.two (o := 0x99) (d := (d.setWidth 8)) (a := (a.setWidth 8)) (b := 0x00) (k := k) rfl rfl (by decide) (by decide)
    (by simp [decodeMap, dec9])
theorem RoundTrip.ssraScb (d a b) : RoundTrip.Statement (.ssraScb d a b) :=
  RoundTrip.one (o := 0x9A) (d := (d.setWidth 8)) (a := (a.setWidth 8)) (b := (b.setWidth 8)) rfl rfl (by decide) (by decide)
    (by simp [decodeMap, dec9])
theorem RoundTrip.ssraLit (d a k) : RoundTrip.Statement (.ssraLit d a k) :=
  RoundTrip.two (o := 0x9B) (d := (d.setWidth 8)) (a := (a.setWidth 8)) (b := 0x00) (k := k) rfl rfl (by decide) (by decide)
    (by simp [decodeMap, dec9])
theorem RoundTrip.sminScb (d a b) : RoundTrip.Statement (.sminScb d a b) :=
  RoundTrip.one (o := 0x9C) (d := (d.setWidth 8)) (a := (a.setWidth 8)) (b := (b.setWidth 8)) rfl rfl (by decide) (by decide)
    (by simp [decodeMap, dec9])
theorem RoundTrip.sminLit (d a k) : RoundTrip.Statement (.sminLit d a k) :=
  RoundTrip.two (o := 0x9D) (d := (d.setWidth 8)) (a := (a.setWidth 8)) (b := 0x00) (k := k) rfl rfl (by decide) (by decide)
    (by simp [decodeMap, dec9])
theorem RoundTrip.smaxScb (d a b) : RoundTrip.Statement (.smaxScb d a b) :=
  RoundTrip.one (o := 0x9E) (d := (d.setWidth 8)) (a := (a.setWidth 8)) (b := (b.setWidth 8)) rfl rfl (by decide) (by decide)
    (by simp [decodeMap, dec9])
theorem RoundTrip.smaxLit (d a k) : RoundTrip.Statement (.smaxLit d a k) :=
  RoundTrip.two (o := 0x9F) (d := (d.setWidth 8)) (a := (a.setWidth 8)) (b := 0x00) (k := k) rfl rfl (by decide) (by decide)
    (by simp [decodeMap, dec9])
theorem RoundTrip.modeArith (g t r s f p e v y n u z) : RoundTrip.Statement (.modeArith g t r s f p e v y n u z) :=
  by
  intro _ w rest
  have he : encode (.modeArith g t r s f p e v y n u z) = [0xA0#8 ++ modeBody g t r s f p e v y n u z] := by
    rfl
  rw [he, word4_join24]
  have h : decodeMap (0xA0#8).toNat ((modeBody g t r s f p e v y n u z).extractLsb' 16 8)
      ((modeBody g t r s f p e v y n u z).extractLsb' 8 8) ((modeBody g t r s f p e v y n u z).extractLsb' 0 8) 0 =
      some (.modeArith g t r s f p e v y n u z) := by
    show decMode _ = _
    rw [join24, decMode_modeBody]
  simpa using decodeBytes_one (o := 0xA0) rest rfl (decode_word4 (by decide) (by decide) h w)
theorem RoundTrip.modeBuf (b) : RoundTrip.Statement (.modeBuf b) :=
  RoundTrip.one (o := 0xA0) (d := 0x40) (a := 0) (b := b) rfl rfl (by decide) (by decide)
    (by intro _; show decMode (0x40#8 ++ 0#8 ++ b) = _
        obtain ⟨h1, h2, h3⟩ := modeBuf_fields b
        simp only [decMode, h1, h2, h3]; rfl)
theorem RoundTrip.scmpEqScb (d a b) : RoundTrip.Statement (.scmpEqScb d a b) :=
  RoundTrip.one (o := 0xA1) (d := (d.setWidth 8)) (a := (a.setWidth 8)) (b := (b.setWidth 8)) rfl rfl (by decide) (by decide)
    (by simp [decodeMap, decA])
theorem RoundTrip.scmpEqLit (d a k) : RoundTrip.Statement (.scmpEqLit d a k) :=
  RoundTrip.two (o := 0xA2) (d := (d.setWidth 8)) (a := (a.setWidth 8)) (b := 0x00) (k := k) rfl rfl (by decide) (by decide)
    (by simp [decodeMap, decA])
theorem RoundTrip.scmpLtScb (d a b) : RoundTrip.Statement (.scmpLtScb d a b) :=
  RoundTrip.one (o := 0xA3) (d := (d.setWidth 8)) (a := (a.setWidth 8)) (b := (b.setWidth 8)) rfl rfl (by decide) (by decide)
    (by simp [decodeMap, decA])
theorem RoundTrip.scmpLtLit (d a k) : RoundTrip.Statement (.scmpLtLit d a k) :=
  RoundTrip.two (o := 0xA4) (d := (d.setWidth 8)) (a := (a.setWidth 8)) (b := 0x00) (k := k) rfl rfl (by decide) (by decide)
    (by simp [decodeMap, decA])
theorem RoundTrip.smov (d b) : RoundTrip.Statement (.smov d b) :=
  RoundTrip.one (o := 0xA5) (d := (d.setWidth 8)) (a := 0x00) (b := (b.setWidth 8)) rfl rfl (by decide) (by decide)
    (by simp [decodeMap, decA])
theorem RoundTrip.smovAlo (d b) : RoundTrip.Statement (.smovAlo d b) :=
  RoundTrip.one (o := 0xA5) (d := (d.setWidth 8)) (a := 0x01) (b := (b.setWidth 8)) rfl rfl (by decide) (by decide)
    (by simp [decodeMap, decA])
theorem RoundTrip.smovAhi (d b) : RoundTrip.Statement (.smovAhi d b) :=
  RoundTrip.one (o := 0xA5) (d := (d.setWidth 8)) (a := 0x02) (b := (b.setWidth 8)) rfl rfl (by decide) (by decide)
    (by simp [decodeMap, decA])
theorem RoundTrip.sli (d k) : RoundTrip.Statement (.sli d k) :=
  RoundTrip.two (o := 0xA6) (d := (d.setWidth 8)) (a := 0x00) (b := 0x00) (k := k) rfl rfl (by decide) (by decide)
    (by simp [decodeMap, decA])
theorem RoundTrip.aaddScb (d a b) : RoundTrip.Statement (.aaddScb d a b) :=
  RoundTrip.one (o := 0xA7) (d := (d.setWidth 8)) (a := (a.setWidth 8)) (b := (b.setWidth 8)) rfl rfl (by decide) (by decide)
    (by simp [decodeMap, decA])
theorem RoundTrip.aaddLit (d a k) : RoundTrip.Statement (.aaddLit d a k) :=
  RoundTrip.two (o := 0xA8) (d := (d.setWidth 8)) (a := (a.setWidth 8)) (b := 0x00) (k := k) rfl rfl (by decide) (by decide)
    (by simp [decodeMap, decA])
theorem RoundTrip.amov (d a b) : RoundTrip.Statement (.amov d a b) :=
  RoundTrip.one (o := 0xA9) (d := (d.setWidth 8)) (a := (a.setWidth 8)) (b := (b.setWidth 8)) rfl rfl (by decide) (by decide)
    (by simp [decodeMap, decA])
theorem RoundTrip.ldReg (d a b) : RoundTrip.Statement (.ldReg d a b) :=
  RoundTrip.one (o := 0xAA) (d := d) (a := (a.setWidth 8)) (b := b) rfl rfl (by decide) (by decide)
    (by simp [decodeMap, decA])
theorem RoundTrip.ldScb (d a b) : RoundTrip.Statement (.ldScb d a b) :=
  RoundTrip.one (o := 0xAB) (d := d) (a := (a.setWidth 8)) (b := (b.setWidth 8)) rfl rfl (by decide) (by decide)
    (by simp [decodeMap, decA])
theorem RoundTrip.ldLit (d a k) : RoundTrip.Statement (.ldLit d a k) :=
  RoundTrip.two (o := 0xAC) (d := d) (a := (a.setWidth 8)) (b := 0x00) (k := k) rfl rfl (by decide) (by decide)
    (by simp [decodeMap, decA])
theorem RoundTrip.stReg (d a b) : RoundTrip.Statement (.stReg d a b) :=
  RoundTrip.one (o := 0xAD) (d := d) (a := (a.setWidth 8)) (b := b) rfl rfl (by decide) (by decide)
    (by simp [decodeMap, decA])
theorem RoundTrip.stScb (d a b) : RoundTrip.Statement (.stScb d a b) :=
  RoundTrip.one (o := 0xAE) (d := d) (a := (a.setWidth 8)) (b := (b.setWidth 8)) rfl rfl (by decide) (by decide)
    (by simp [decodeMap, decA])
theorem RoundTrip.stLit (d a k) : RoundTrip.Statement (.stLit d a k) :=
  RoundTrip.two (o := 0xAF) (d := d) (a := (a.setWidth 8)) (b := 0x00) (k := k) rfl rfl (by decide) (by decide)
    (by simp [decodeMap, decA])
theorem RoundTrip.ldsReg (d a b) : RoundTrip.Statement (.ldsReg d a b) :=
  RoundTrip.one (o := 0xB0) (d := d) (a := (a.setWidth 8)) (b := b) rfl rfl (by decide) (by decide)
    (by simp [decodeMap, decB])
theorem RoundTrip.ldsLit (d a k) : RoundTrip.Statement (.ldsLit d a k) :=
  RoundTrip.two (o := 0xB1) (d := d) (a := (a.setWidth 8)) (b := 0x00) (k := k) rfl rfl (by decide) (by decide)
    (by simp [decodeMap, decB])
theorem RoundTrip.stsReg (d a b) : RoundTrip.Statement (.stsReg d a b) :=
  RoundTrip.one (o := 0xB2) (d := d) (a := (a.setWidth 8)) (b := b) rfl rfl (by decide) (by decide)
    (by simp [decodeMap, decB])
theorem RoundTrip.stsLit (d a k) : RoundTrip.Statement (.stsLit d a k) :=
  RoundTrip.two (o := 0xB3) (d := d) (a := (a.setWidth 8)) (b := 0x00) (k := k) rfl rfl (by decide) (by decide)
    (by simp [decodeMap, decB])
theorem RoundTrip.ldcReg (d a b) : RoundTrip.Statement (.ldcReg d a b) :=
  RoundTrip.one (o := 0xB4) (d := d) (a := (a.setWidth 8)) (b := b) rfl rfl (by decide) (by decide)
    (by simp [decodeMap, decB])
theorem RoundTrip.ldcLit (d a k) : RoundTrip.Statement (.ldcLit d a k) :=
  RoundTrip.two (o := 0xB5) (d := d) (a := (a.setWidth 8)) (b := 0x00) (k := k) rfl rfl (by decide) (by decide)
    (by simp [decodeMap, decB])
theorem RoundTrip.ldaReg (d a b) : RoundTrip.Statement (.ldaReg d a b) :=
  RoundTrip.one (o := 0xB6) (d := d) (a := (a.setWidth 8)) (b := b) rfl rfl (by decide) (by decide)
    (by simp [decodeMap, decB])
theorem RoundTrip.ldaLit (d a k) : RoundTrip.Statement (.ldaLit d a k) :=
  RoundTrip.two (o := 0xB7) (d := d) (a := (a.setWidth 8)) (b := 0x00) (k := k) rfl rfl (by decide) (by decide)
    (by simp [decodeMap, decB])
theorem RoundTrip.strReg (d a b) : RoundTrip.Statement (.strReg d a b) :=
  RoundTrip.one (o := 0xB8) (d := d) (a := (a.setWidth 8)) (b := b) rfl rfl (by decide) (by decide)
    (by simp [decodeMap, decB])
theorem RoundTrip.strLit (d a k) : RoundTrip.Statement (.strLit d a k) :=
  RoundTrip.two (o := 0xB9) (d := d) (a := (a.setWidth 8)) (b := 0x00) (k := k) rfl rfl (by decide) (by decide)
    (by simp [decodeMap, decB])
theorem RoundTrip.prefReg (a b) : RoundTrip.Statement (.prefReg a b) :=
  RoundTrip.one (o := 0xBA) (d := 0x00) (a := (a.setWidth 8)) (b := b) rfl rfl (by decide) (by decide)
    (by simp [decodeMap, decB])
theorem RoundTrip.prefLit (a k) : RoundTrip.Statement (.prefLit a k) :=
  RoundTrip.two (o := 0xBB) (d := 0x00) (a := (a.setWidth 8)) (b := 0x00) (k := k) rfl rfl (by decide) (by decide)
    (by simp [decodeMap, decB])
theorem RoundTrip.cp (d a b) : RoundTrip.Statement (.cp d a b) :=
  RoundTrip.one (o := 0xBC) (d := (d.setWidth 8)) (a := (a.setWidth 8)) (b := (wRun2 b)) rfl rfl (by decide) (by decide)
    (by simp [decodeMap, decB])
theorem RoundTrip.cp2d (d a b) : RoundTrip.Statement (.cp2d d a b) :=
  RoundTrip.one (o := 0xBD) (d := (d.setWidth 8)) (a := (a.setWidth 8)) (b := (wRun4 b)) rfl rfl (by decide) (by decide)
    (by simp [decodeMap, decB])
theorem RoundTrip.cpr (d a b) : RoundTrip.Statement (.cpr d a b) :=
  RoundTrip.one (o := 0xBE) (d := (d.setWidth 8)) (a := (a.setWidth 8)) (b := (wRun2 b)) rfl rfl (by decide) (by decide)
    (by simp [decodeMap, decB])
theorem RoundTrip.barv (d a b) : RoundTrip.Statement (.barv d a b) :=
  RoundTrip.one (o := 0xBF) (d := (d.setWidth 8)) (a := (a.setWidth 8)) (b := (b.setWidth 8)) rfl rfl (by decide) (by decide)
    (by simp [decodeMap, decB])
theorem RoundTrip.mwait (c a b) : RoundTrip.Statement (.mwait c a b) :=
  RoundTrip.one (o := 0xC0) (d := (c.setWidth 8)) (a := (a.setWidth 8)) (b := (b.setWidth 8)) rfl rfl (by decide) (by decide)
    (by simp [decodeMap, decC])
theorem RoundTrip.mma (d a b) : RoundTrip.Statement (.mma d a b) :=
  RoundTrip.one (o := 0xC1) (d := d) (a := a) (b := b) rfl rfl (by decide) (by decide)
    (by simp [decodeMap, decC])
theorem RoundTrip.mmakb (d a b) : RoundTrip.Statement (.mmakb d a b) :=
  RoundTrip.one (o := 0xC2) (d := d) (a := a) (b := b) rfl rfl (by decide) (by decide)
    (by simp [decodeMap, decC])
theorem RoundTrip.accq (d) : RoundTrip.Statement (.accq d) :=
  RoundTrip.one (o := 0xC3) (d := d) (a := 0x00) (b := 0x00) rfl rfl (by decide) (by decide)
    (by simp [decodeMap, decC])
theorem RoundTrip.accr (d) : RoundTrip.Statement (.accr d) :=
  RoundTrip.one (o := 0xC4) (d := d) (a := 0x00) (b := 0x00) rfl rfl (by decide) (by decide)
    (by simp [decodeMap, decC])
theorem RoundTrip.accld (d a) : RoundTrip.Statement (.accld d a) :=
  RoundTrip.one (o := 0xC5) (d := d) (a := a) (b := 0x00) rfl rfl (by decide) (by decide)
    (by simp [decodeMap, decC])
theorem RoundTrip.accst (d a) : RoundTrip.Statement (.accst d a) :=
  RoundTrip.one (o := 0xC6) (d := d) (a := a) (b := 0x00) rfl rfl (by decide) (by decide)
    (by simp [decodeMap, decC])
theorem RoundTrip.acczr (d) : RoundTrip.Statement (.acczr d) :=
  RoundTrip.one (o := 0xC7) (d := d) (a := 0x00) (b := 0x00) rfl rfl (by decide) (by decide)
    (by simp [decodeMap, decC])
theorem RoundTrip.mprio (a) : RoundTrip.Statement (.mprio a) :=
  RoundTrip.one (o := 0xC8) (d := 0x00) (a := (a.setWidth 8)) (b := 0x00) rfl rfl (by decide) (by decide)
    (by simp [decodeMap, decC])
theorem RoundTrip.smp (d a b) : RoundTrip.Statement (.smp d a b) :=
  RoundTrip.one (o := 0xC9) (d := d) (a := (a.setWidth 8)) (b := b) rfl rfl (by decide) (by decide)
    (by simp [decodeMap, decC])
theorem RoundTrip.smpg (d a b) : RoundTrip.Statement (.smpg d a b) :=
  RoundTrip.one (o := 0xCA) (d := d) (a := (a.setWidth 8)) (b := b) rfl rfl (by decide) (by decide)
    (by simp [decodeMap, decC])
theorem RoundTrip.smpl (d a b) : RoundTrip.Statement (.smpl d a b) :=
  RoundTrip.one (o := 0xCB) (d := d) (a := (a.setWidth 8)) (b := b) rfl rfl (by decide) (by decide)
    (by simp [decodeMap, decC])
theorem RoundTrip.txf (d a b) : RoundTrip.Statement (.txf d a b) :=
  RoundTrip.one (o := 0xCC) (d := d) (a := (a.setWidth 8)) (b := b) rfl rfl (by decide) (by decide)
    (by simp [decodeMap, decC])
theorem RoundTrip.rtrc (d a b) : RoundTrip.Statement (.rtrc d a b) :=
  RoundTrip.one (o := 0xCD) (d := d) (a := (a.setWidth 8)) (b := b) rfl rfl (by decide) (by decide)
    (by simp [decodeMap, decC])
theorem RoundTrip.rtnx (d a b) : RoundTrip.Statement (.rtnx d a b) :=
  RoundTrip.one (o := 0xCE) (d := d) (a := (a.setWidth 8)) (b := b) rfl rfl (by decide) (by decide)
    (by simp [decodeMap, decC])
theorem RoundTrip.rtrs (d) : RoundTrip.Statement (.rtrs d) :=
  RoundTrip.one (o := 0xCF) (d := d) (a := 0x00) (b := 0x00) rfl rfl (by decide) (by decide)
    (by simp [decodeMap, decC])
theorem RoundTrip.rthit (d a b) : RoundTrip.Statement (.rthit d a b) :=
  RoundTrip.one (o := 0xD0) (d := d) (a := (a.setWidth 8)) (b := b) rfl rfl (by decide) (by decide)
    (by simp [decodeMap, decD])
theorem RoundTrip.rtri (d a b) : RoundTrip.Statement (.rtri d a b) :=
  RoundTrip.one (o := 0xD1) (d := d) (a := (a.setWidth 8)) (b := b) rfl rfl (by decide) (by decide)
    (by simp [decodeMap, decD])
theorem RoundTrip.rtw (d a b) : RoundTrip.Statement (.rtw d a b) :=
  RoundTrip.one (o := 0xD2) (d := d) (a := (a.setWidth 8)) (b := b) rfl rfl (by decide) (by decide)
    (by simp [decodeMap, decD])
theorem RoundTrip.rclr (a b) : RoundTrip.Statement (.rclr a b) :=
  RoundTrip.one (o := 0xD3) (d := 0x00) (a := (a.setWidth 8)) (b := (b.setWidth 8)) rfl rfl (by decide) (by decide)
    (by simp [decodeMap, decD])
theorem RoundTrip.zts (d a b) : RoundTrip.Statement (.zts d a b) :=
  RoundTrip.one (o := 0xD4) (d := (d.setWidth 8)) (a := (a.setWidth 8)) (b := b) rfl rfl (by decide) (by decide)
    (by simp [decodeMap, decD])
theorem RoundTrip.launch (d a b) : RoundTrip.Statement (.launch d a b) :=
  RoundTrip.one (o := 0xD5) (d := (d.setWidth 8)) (a := (a.setWidth 8)) (b := b) rfl rfl (by decide) (by decide)
    (by simp [decodeMap, decD])
theorem RoundTrip.rdparam (d a) : RoundTrip.Statement (.rdparam d a) :=
  RoundTrip.one (o := 0xD6) (d := (d.setWidth 8)) (a := (a.setWidth 8)) (b := 0x00) rfl rfl (by decide) (by decide)
    (by simp [decodeMap, decD])
theorem RoundTrip.wpw (d a b) : RoundTrip.Statement (.wpw d a b) :=
  RoundTrip.one (o := 0xD7) (d := (d.setWidth 8)) (a := (a.setWidth 8)) (b := (wRun4 b)) rfl rfl (by decide) (by decide)
    (by simp [decodeMap, decD])
theorem RoundTrip.wpr (d a) : RoundTrip.Statement (.wpr d a) :=
  RoundTrip.one (o := 0xD8) (d := (d.setWidth 8)) (a := (a.setWidth 8)) (b := 0x00) rfl rfl (by decide) (by decide)
    (by simp [decodeMap, decD])
theorem RoundTrip.hrd (d a b) : RoundTrip.Statement (.hrd d a b) :=
  RoundTrip.one (o := 0xD9) (d := (d.setWidth 8)) (a := (a.setWidth 8)) (b := (b.setWidth 8)) rfl rfl (by decide) (by decide)
    (by simp [decodeMap, decD])
theorem RoundTrip.hwr (d a b) : RoundTrip.Statement (.hwr d a b) :=
  RoundTrip.one (o := 0xDA) (d := (d.setWidth 8)) (a := (a.setWidth 8)) (b := (b.setWidth 8)) rfl rfl (by decide) (by decide)
    (by simp [decodeMap, decD])
theorem RoundTrip.csrr (d k) : RoundTrip.Statement (.csrr d k) :=
  RoundTrip.two (o := 0xDB) (d := (d.setWidth 8)) (a := 0x00) (b := 0x00) (k := k) rfl rfl (by decide) (by decide)
    (by simp [decodeMap, decD])
theorem RoundTrip.csrw (a k) : RoundTrip.Statement (.csrw a k) :=
  RoundTrip.two (o := 0xDC) (d := 0x00) (a := (a.setWidth 8)) (b := 0x00) (k := k) rfl rfl (by decide) (by decide)
    (by simp [decodeMap, decD])
theorem RoundTrip.grow (k) : RoundTrip.Statement (.grow k) :=
  RoundTrip.two (o := 0xDD) (d := 0x00) (a := 0x00) (b := 0x00) (k := k) rfl rfl (by decide) (by decide)
    (by simp [decodeMap, decD])
theorem RoundTrip.growTry (d k) : RoundTrip.Statement (.growTry d k) :=
  RoundTrip.two (o := 0xDE) (d := (d.setWidth 8)) (a := 0x00) (b := 0x00) (k := k) rfl rfl (by decide) (by decide)
    (by simp [decodeMap, decD])
theorem RoundTrip.shrink (k) : RoundTrip.Statement (.shrink k) :=
  RoundTrip.two (o := 0xDF) (d := 0x00) (a := 0x00) (b := 0x00) (k := k) rfl rfl (by decide) (by decide)
    (by simp [decodeMap, decD])
theorem RoundTrip.mxscl (d a) : RoundTrip.Statement (.mxscl d a) :=
  RoundTrip.one (o := 0xE0) (d := (d.setWidth 8)) (a := a) (b := 0x00) rfl rfl (by decide) (by decide)
    (by simp [decodeMap, decE])
theorem RoundTrip.mxq (d a b) : RoundTrip.Statement (.mxq d a b) :=
  RoundTrip.one (o := 0xE1) (d := d) (a := a) (b := (b.setWidth 8)) rfl rfl (by decide) (by decide)
    (by simp [decodeMap, decE])
theorem RoundTrip.cpdec (d a b) : RoundTrip.Statement (.cpdec d a b) :=
  RoundTrip.one (o := 0xE2) (d := (d.setWidth 8)) (a := (a.setWidth 8)) (b := (wRun2 b)) rfl rfl (by decide) (by decide)
    (by simp [decodeMap, decE])
theorem RoundTrip.ldbReg (d a b) : RoundTrip.Statement (.ldbReg d a b) :=
  RoundTrip.one (o := 0xE3) (d := d) (a := (a.setWidth 8)) (b := b) rfl rfl (by decide) (by decide)
    (by simp [decodeMap, decE])
theorem RoundTrip.ldbLit (d a k) : RoundTrip.Statement (.ldbLit d a k) :=
  RoundTrip.two (o := 0xE4) (d := d) (a := (a.setWidth 8)) (b := 0x00) (k := k) rfl rfl (by decide) (by decide)
    (by simp [decodeMap, decE])
theorem RoundTrip.radv (s a) : RoundTrip.Statement (.radv s a) :=
  RoundTrip.one (o := 0xE5) (d := (s.setWidth 8)) (a := (a.setWidth 8)) (b := 0x00) rfl rfl (by decide) (by decide)
    (by simp [decodeMap, decE])
theorem RoundTrip.rrd (d a) : RoundTrip.Statement (.rrd d a) :=
  RoundTrip.one (o := 0xE6) (d := (d.setWidth 8)) (a := (a.setWidth 8)) (b := 0x00) rfl rfl (by decide) (by decide)
    (by simp [decodeMap, decE])
theorem RoundTrip.rrdObs (d a) : RoundTrip.Statement (.rrdObs d a) :=
  RoundTrip.one (o := 0xE6) (d := (d.setWidth 8)) (a := (a.setWidth 8)) (b := 0x01) rfl rfl (by decide) (by decide)
    (by simp [decodeMap, decE])
theorem RoundTrip.rdcmp (a b) : RoundTrip.Statement (.rdcmp a b) :=
  RoundTrip.one (o := 0xE7) (d := 0x00) (a := (a.setWidth 8)) (b := (b.setWidth 8)) rfl rfl (by decide) (by decide)
    (by simp [decodeMap, decE])
theorem RoundTrip.smpn (d a b) : RoundTrip.Statement (.smpn d a b) :=
  RoundTrip.one (o := 0xE8) (d := d) (a := (a.setWidth 8)) (b := b) rfl rfl (by decide) (by decide)
    (by simp [decodeMap, decE])
theorem RoundTrip.xmma (d a b) : RoundTrip.Statement (.xmma d a b) :=
  RoundTrip.one (o := 0xE9) (d := d) (a := a) (b := b) rfl rfl (by decide) (by decide)
    (by simp [decodeMap, decE])
theorem RoundTrip.xmaskWrite (a) : RoundTrip.Statement (.xmaskWrite a) :=
  RoundTrip.none rfl
theorem RoundTrip.almapWrite (hi a) : RoundTrip.Statement (.almapWrite hi a) :=
  RoundTrip.none rfl
theorem RoundTrip.orcmdRegister (g) : RoundTrip.Statement (.orcmdRegister g) :=
  RoundTrip.none rfl
theorem RoundTrip.orcmdDrop (g) : RoundTrip.Statement (.orcmdDrop g) :=
  RoundTrip.none rfl
theorem RoundTrip.orcmdNoOp (g) : RoundTrip.Statement (.orcmdNoOp g) :=
  RoundTrip.none rfl
theorem RoundTrip.trctlReset (a) : RoundTrip.Statement (.trctlReset a) :=
  RoundTrip.none rfl
theorem RoundTrip.instrFetchReturn (g path) : RoundTrip.Statement (.instrFetchReturn g path) :=
  RoundTrip.none rfl
theorem RoundTrip.mergeJoin (g q) : RoundTrip.Statement (.mergeJoin g q) :=
  RoundTrip.none rfl
theorem RoundTrip.stepTrap (g) : RoundTrip.Statement (.stepTrap g) :=
  RoundTrip.none rfl
theorem RoundTrip.registerLineFill (g line) : RoundTrip.Statement (.registerLineFill g line) :=
  RoundTrip.none rfl
theorem RoundTrip.growGrant (g path) : RoundTrip.Statement (.growGrant g path) :=
  RoundTrip.none rfl
theorem RoundTrip.homeRead (op acc lease) : RoundTrip.Statement (.homeRead op acc lease) :=
  RoundTrip.none rfl
theorem RoundTrip.fillArrival (op acc) : RoundTrip.Statement (.fillArrival op acc) :=
  RoundTrip.none rfl
theorem RoundTrip.dataReturn (op) : RoundTrip.Statement (.dataReturn op) :=
  RoundTrip.none rfl
theorem RoundTrip.homeWrite (op acc) : RoundTrip.Statement (.homeWrite op acc) :=
  RoundTrip.none rfl
theorem RoundTrip.completionTimeReturn (op) : RoundTrip.Statement (.completionTimeReturn op) :=
  RoundTrip.none rfl
theorem RoundTrip.homeAtomic (op acc) : RoundTrip.Statement (.homeAtomic op acc) :=
  RoundTrip.none rfl
theorem RoundTrip.monitorCheck (op) : RoundTrip.Statement (.monitorCheck op) :=
  RoundTrip.none rfl
theorem RoundTrip.mwaitReply (op) : RoundTrip.Statement (.mwaitReply op) :=
  RoundTrip.none rfl
theorem RoundTrip.holderAccess (op acc) : RoundTrip.Statement (.holderAccess op acc) :=
  RoundTrip.none rfl
theorem RoundTrip.windowAccess (op acc) : RoundTrip.Statement (.windowAccess op acc) :=
  RoundTrip.none rfl
theorem RoundTrip.leaseExpiry (core line) : RoundTrip.Statement (.leaseExpiry core line) :=
  RoundTrip.none rfl
theorem RoundTrip.releaseEnd (g) : RoundTrip.Statement (.releaseEnd g) :=
  RoundTrip.none rfl
theorem RoundTrip.acquireEnd (g) : RoundTrip.Statement (.acquireEnd g) :=
  RoundTrip.none rfl
theorem RoundTrip.beacon (core region) : RoundTrip.Statement (.beacon core region) :=
  RoundTrip.none rfl
theorem RoundTrip.hostRead (pa n) : RoundTrip.Statement (.hostRead pa n) :=
  RoundTrip.none rfl
theorem RoundTrip.hostWrite (pa bytes) : RoundTrip.Statement (.hostWrite pa bytes) :=
  RoundTrip.none rfl
theorem RoundTrip.backInvalidateAnswer (half modified) : RoundTrip.Statement (.backInvalidateAnswer half modified) :=
  RoundTrip.none rfl
theorem RoundTrip.hostWriteBack (half bytes) : RoundTrip.Statement (.hostWriteBack half bytes) :=
  RoundTrip.none rfl
theorem RoundTrip.hostMemoryCompletion (op acc ok) : RoundTrip.Statement (.hostMemoryCompletion op acc ok) :=
  RoundTrip.none rfl
theorem RoundTrip.retentionEnter (slice) : RoundTrip.Statement (.retentionEnter slice) :=
  RoundTrip.none rfl
theorem RoundTrip.retentionWake (slice) : RoundTrip.Statement (.retentionWake slice) :=
  RoundTrip.none rfl
theorem RoundTrip.barGenerationComplete (blk barrier) : RoundTrip.Statement (.barGenerationComplete blk barrier) :=
  RoundTrip.none rfl
theorem RoundTrip.gridCounterAssign (launch) : RoundTrip.Statement (.gridCounterAssign launch) :=
  RoundTrip.none rfl
theorem RoundTrip.gbarGenerationComplete (launch) : RoundTrip.Statement (.gbarGenerationComplete launch) :=
  RoundTrip.none rfl
theorem RoundTrip.copyAccept (op) : RoundTrip.Statement (.copyAccept op) :=
  RoundTrip.none rfl
theorem RoundTrip.copyChunk (op) : RoundTrip.Statement (.copyChunk op) :=
  RoundTrip.none rfl
theorem RoundTrip.copyEnd (op) : RoundTrip.Statement (.copyEnd op) :=
  RoundTrip.none rfl
theorem RoundTrip.groupEndRelease (g) : RoundTrip.Statement (.groupEndRelease g) :=
  RoundTrip.none rfl
theorem RoundTrip.tileEntryBegin (core engine entry) : RoundTrip.Statement (.tileEntryBegin core engine entry) :=
  RoundTrip.none rfl
theorem RoundTrip.kstepBoundary (core engine) : RoundTrip.Statement (.kstepBoundary core engine) :=
  RoundTrip.none rfl
theorem RoundTrip.tileEntryEnd (core engine) : RoundTrip.Statement (.tileEntryEnd core engine) :=
  RoundTrip.none rfl
theorem RoundTrip.tokenGrant (op) : RoundTrip.Statement (.tokenGrant op) :=
  RoundTrip.none rfl
theorem RoundTrip.accMoveDone (op) : RoundTrip.Statement (.accMoveDone op) :=
  RoundTrip.none rfl
theorem RoundTrip.entryAging (op) : RoundTrip.Statement (.entryAging op) :=
  RoundTrip.none rfl
theorem RoundTrip.sampleReturn (op) : RoundTrip.Statement (.sampleReturn op) :=
  RoundTrip.none rfl
theorem RoundTrip.weightFill (op) : RoundTrip.Statement (.weightFill op) :=
  RoundTrip.none rfl
theorem RoundTrip.wcinvDone (op) : RoundTrip.Statement (.wcinvDone op) :=
  RoundTrip.none rfl
theorem RoundTrip.lendingStepBegin (core array entry) : RoundTrip.Statement (.lendingStepBegin core array entry) :=
  RoundTrip.none rfl
theorem RoundTrip.lendingStepEnd (core array) : RoundTrip.Statement (.lendingStepEnd core array) :=
  RoundTrip.none rfl
theorem RoundTrip.lendingTimer (core array) : RoundTrip.Statement (.lendingTimer core array) :=
  RoundTrip.none rfl
theorem RoundTrip.rayResult (op) : RoundTrip.Statement (.rayResult op) :=
  RoundTrip.none rfl
theorem RoundTrip.rasterStamp (core) : RoundTrip.Statement (.rasterStamp core) :=
  RoundTrip.none rfl
theorem RoundTrip.depthTest (core) : RoundTrip.Statement (.depthTest core) :=
  RoundTrip.none rfl
theorem RoundTrip.pixelGroupSpawn (core target) : RoundTrip.Statement (.pixelGroupSpawn core target) :=
  RoundTrip.none rfl
theorem RoundTrip.tileUpdate (op acc) : RoundTrip.Statement (.tileUpdate op acc) :=
  RoundTrip.none rfl
theorem RoundTrip.passEnd (blk) : RoundTrip.Statement (.passEnd blk) :=
  RoundTrip.none rfl
theorem RoundTrip.wptrWake (queue) : RoundTrip.Statement (.wptrWake queue) :=
  RoundTrip.none rfl
theorem RoundTrip.jobStart (queue) : RoundTrip.Statement (.jobStart queue) :=
  RoundTrip.none rfl
theorem RoundTrip.phaseStart (entity) : RoundTrip.Statement (.phaseStart entity) :=
  RoundTrip.none rfl
theorem RoundTrip.graphStart (entity) : RoundTrip.Statement (.graphStart entity) :=
  RoundTrip.none rfl
theorem RoundTrip.notBeforePass (entity) : RoundTrip.Statement (.notBeforePass entity) :=
  RoundTrip.none rfl
theorem RoundTrip.launchReady (entity) : RoundTrip.Statement (.launchReady entity) :=
  RoundTrip.none rfl
theorem RoundTrip.launchAging (entity) : RoundTrip.Statement (.launchAging entity) :=
  RoundTrip.none rfl
theorem RoundTrip.aggregatorDispatch (entity) : RoundTrip.Statement (.aggregatorDispatch entity) :=
  RoundTrip.none rfl
theorem RoundTrip.blockPlace (entity core) : RoundTrip.Statement (.blockPlace entity core) :=
  RoundTrip.none rfl
theorem RoundTrip.preemptBlock (blk) : RoundTrip.Statement (.preemptBlock blk) :=
  RoundTrip.none rfl
theorem RoundTrip.blockComplete (blk) : RoundTrip.Statement (.blockComplete blk) :=
  RoundTrip.none rfl
theorem RoundTrip.entityEnd (entity) : RoundTrip.Statement (.entityEnd entity) :=
  RoundTrip.none rfl
theorem RoundTrip.jobEnd (queue) : RoundTrip.Statement (.jobEnd queue) :=
  RoundTrip.none rfl
theorem RoundTrip.walkComplete (op acc) : RoundTrip.Statement (.walkComplete op acc) :=
  RoundTrip.none rfl
theorem RoundTrip.faultReply (ctx) : RoundTrip.Statement (.faultReply ctx) :=
  RoundTrip.none rfl
theorem RoundTrip.groupReplay (g) : RoundTrip.Statement (.groupReplay g) :=
  RoundTrip.none rfl
theorem RoundTrip.ssqDrain (g) : RoundTrip.Statement (.ssqDrain g) :=
  RoundTrip.none rfl
theorem RoundTrip.tlbiEnd (g) : RoundTrip.Statement (.tlbiEnd g) :=
  RoundTrip.none rfl
theorem RoundTrip.groupSave (g) : RoundTrip.Statement (.groupSave g) :=
  RoundTrip.none rfl
theorem RoundTrip.blockSaved (blk) : RoundTrip.Statement (.blockSaved blk) :=
  RoundTrip.none rfl
theorem RoundTrip.groupResume (g core) : RoundTrip.Statement (.groupResume g core) :=
  RoundTrip.none rfl
theorem RoundTrip.sleepExpire (g) : RoundTrip.Statement (.sleepExpire g) :=
  RoundTrip.none rfl
theorem RoundTrip.wtmExpire (g path) : RoundTrip.Statement (.wtmExpire g path) :=
  RoundTrip.none rfl
theorem RoundTrip.ptpExchange (offset) : RoundTrip.Statement (.ptpExchange offset) :=
  RoundTrip.none rfl
theorem RoundTrip.linkTimingExchange (link offset) : RoundTrip.Statement (.linkTimingExchange link offset) :=
  RoundTrip.none rfl
theorem RoundTrip.lockTimeout : RoundTrip.Statement (.lockTimeout) :=
  RoundTrip.none rfl
theorem RoundTrip.linkTraining (link lanes roundTrip sigma peerLocked) : RoundTrip.Statement (.linkTraining link lanes roundTrip sigma peerLocked) :=
  RoundTrip.none rfl
theorem RoundTrip.linkFailure (link) : RoundTrip.Statement (.linkFailure link) :=
  RoundTrip.none rfl
theorem RoundTrip.flitReceive (link head payload checkOk) : RoundTrip.Statement (.flitReceive link head payload checkOk) :=
  RoundTrip.none rfl
theorem RoundTrip.flitPause (link vc) : RoundTrip.Statement (.flitPause link vc) :=
  RoundTrip.none rfl
theorem RoundTrip.flitResume (link vc) : RoundTrip.Statement (.flitResume link vc) :=
  RoundTrip.none rfl
theorem RoundTrip.peerRequest (peer pa n write lease) : RoundTrip.Statement (.peerRequest peer pa n write lease) :=
  RoundTrip.none rfl
theorem RoundTrip.peerResponse (op acc data poison cd0 cd1 cf) : RoundTrip.Statement (.peerResponse op acc data poison cd0 cd1 cf) :=
  RoundTrip.none rfl
theorem RoundTrip.hostLinkTrainDown (lanes) : RoundTrip.Statement (.hostLinkTrainDown lanes) :=
  RoundTrip.none rfl
theorem RoundTrip.haltPropagation (g) : RoundTrip.Statement (.haltPropagation g) :=
  RoundTrip.none rfl
theorem RoundTrip.mirrorHalt (g) : RoundTrip.Statement (.mirrorHalt g) :=
  RoundTrip.none rfl
theorem RoundTrip.pcSample (core sched) : RoundTrip.Statement (.pcSample core sched) :=
  RoundTrip.none rfl
theorem RoundTrip.traceRecordWrite (ctx) : RoundTrip.Statement (.traceRecordWrite ctx) :=
  RoundTrip.none rfl
theorem RoundTrip.scrub (pa uncorrectable) : RoundTrip.Statement (.scrub pa uncorrectable) :=
  RoundTrip.none rfl
theorem RoundTrip.dieLoss (die) : RoundTrip.Statement (.dieLoss die) :=
  RoundTrip.none rfl
theorem RoundTrip.spareActivation (failing spare) : RoundTrip.Statement (.spareActivation failing spare) :=
  RoundTrip.none rfl
theorem RoundTrip.sliceRetirement (die slice) : RoundTrip.Statement (.sliceRetirement die slice) :=
  RoundTrip.none rfl
theorem RoundTrip.rowRepair (lo hi) : RoundTrip.Statement (.rowRepair lo hi) :=
  RoundTrip.none rfl
theorem RoundTrip.channelRetirement (ctx va newPa movable) : RoundTrip.Statement (.channelRetirement ctx va newPa movable) :=
  RoundTrip.none rfl
theorem RoundTrip.powerOnReset : RoundTrip.Statement (.powerOnReset) :=
  RoundTrip.none rfl
theorem RoundTrip.hostLinkUp : RoundTrip.Statement (.hostLinkUp) :=
  RoundTrip.none rfl
theorem RoundTrip.firmwareVerified (bank0 bank1) : RoundTrip.Statement (.firmwareVerified bank0 bank1) :=
  RoundTrip.none rfl
theorem RoundTrip.imageVerified (bank0 bank1) : RoundTrip.Statement (.imageVerified bank0 bank1) :=
  RoundTrip.none rfl
theorem RoundTrip.applyComplete (trained source sigma time records badRecord) : RoundTrip.Statement (.applyComplete trained source sigma time records badRecord) :=
  RoundTrip.none rfl
theorem RoundTrip.qtbWrite (v) : RoundTrip.Statement (.qtbWrite v) :=
  RoundTrip.none rfl
theorem RoundTrip.pcapWrite (v) : RoundTrip.Statement (.pcapWrite v) :=
  RoundTrip.none rfl
theorem RoundTrip.hostRegWrite (offset v) : RoundTrip.Statement (.hostRegWrite offset v) :=
  RoundTrip.none rfl
theorem RoundTrip.hcmdInvalidate : RoundTrip.Statement (.hcmdInvalidate) :=
  RoundTrip.none rfl
theorem RoundTrip.hcmdInvalidateCtx : RoundTrip.Statement (.hcmdInvalidateCtx) :=
  RoundTrip.none rfl
theorem RoundTrip.hcmdMigrate : RoundTrip.Statement (.hcmdMigrate) :=
  RoundTrip.none rfl
theorem RoundTrip.hcmdSaveCtx : RoundTrip.Statement (.hcmdSaveCtx) :=
  RoundTrip.none rfl
theorem RoundTrip.hcmdReleaseCtx : RoundTrip.Statement (.hcmdReleaseCtx) :=
  RoundTrip.none rfl
theorem RoundTrip.hcmdAttest : RoundTrip.Statement (.hcmdAttest) :=
  RoundTrip.none rfl
theorem RoundTrip.hcmdUnassigned (code) : RoundTrip.Statement (.hcmdUnassigned code) :=
  RoundTrip.none rfl
theorem RoundTrip.powerCapCheck (watts) : RoundTrip.Statement (.powerCapCheck watts) :=
  RoundTrip.none rfl
theorem RoundTrip.corePowerGate (core) : RoundTrip.Statement (.corePowerGate core) :=
  RoundTrip.none rfl
theorem RoundTrip.illegalInstruction (w) : RoundTrip.Statement (.illegalInstruction w) :=
  RoundTrip.none rfl
theorem RoundTrip.illegalEncoding (w k) : RoundTrip.Statement (.illegalEncoding w k) :=
  RoundTrip.none rfl
theorem RoundTrip.noGroupExtension (w k) : RoundTrip.Statement (.noGroupExtension w k) :=
  RoundTrip.none rfl
theorem RoundTrip.tileLineFill (blk member line) : RoundTrip.Statement (.tileLineFill blk member line) :=
  RoundTrip.none rfl
theorem RoundTrip.flashWriteComplete : RoundTrip.Statement (.flashWriteComplete) :=
  RoundTrip.none rfl
theorem RoundTrip.powerLoss : RoundTrip.Statement (.powerLoss) :=
  RoundTrip.none rfl

end Sys2Proof.Laws
end

