-- ==== Sys2Proof/Tests/Slice0.lean ====
section
/-! SUPPORT. Small tests of the model, with the source of each expected value in its comment, and a witness of the
hypotheses of each statement. -/

namespace Sys2Proof.Tests

set_option Elab.async false

open Sys2Proof.Machine

/-! ### Ill-formed terms (one for each check of WellFormed) -/

/-- A mode value whose mask bit is 0 is not zero (02 R39). -/
theorem test_wf_mode_guard : (Instr.modeArith 0 1 0 0 0 3 0 0 0 0 0 0).wellFormed = false := by decide
/-- No mask bit is 1 (02 R39). -/
theorem test_wf_mode_none : (Instr.modeArith 0 0 0 0 0 0 0 0 0 0 0 0).wellFormed = false := by decide
/-- Class 6 of wret is unassigned (03 R61). -/
theorem test_wf_wret : (Instr.wret 0 6).wellFormed = false := by decide
/-- Scopes 6 and 7 of the fences are unassigned (03 R61). -/
theorem test_wf_fence : (Instr.fenceAcq 6).wellFormed = false ∧ (Instr.fenceRel 7).wellFormed = false ∧
    (Instr.fenceAr 6).wellFormed = false := by decide
/-- Operation 9 of atom is unassigned (03 R62). -/
theorem test_wf_atom : (Instr.atom 0 0 9).wellFormed = false := by decide
/-- red has no .exch (03 R62). -/
theorem test_wf_red : (Instr.red 0 0 6).wellFormed = false := by decide
/-- Part code 7 of the random state is unassigned (05 R132). -/
theorem test_wf_rng : (Instr.rng 0 7).wellFormed = false ∧ (Instr.rngs 7 0).wellFormed = false := by decide
/-- unpk of an s8 source has elements 0 to 3 (05 R119). -/
theorem test_wf_unpk : (Instr.unpk 0 0 4 4).wellFormed = false := by decide
/-- Scope codes 6 and 7 of radv are unassigned (09 R249). -/
theorem test_wf_radv : (Instr.radv 6 0).wellFormed = false := by decide

/-! ### Decoding -/

/-- cons 0x38 of the worked program in 09: br with offset -2. -/
theorem test_decode_br : decode 0x80FFFFFE 0 = .ok (.br 0xFFFFFE) := by decide
/-- A word of zeros (02 R43). -/
theorem test_decode_zero : decode 0 0 = .error .illegalInstruction := by decide
/-- 0xEA is an extension code of no group (03 R66). -/
theorem test_decode_no_group : decode 0xEA000000 0 = .error .noGroup := by decide
/-- A scalar field with bits [7:6] not zero (01 R17). -/
theorem test_decode_reserved : decode 0x11010243 0 = .error .illegalEncoding := by decide
/-- The literal format takes its trailing word (02 R36). -/
theorem test_decode_literal :
    decodeBytes (wordBytes 0x12010200 ++ (wordBytes 0x89ABCDEF ++ [7])) = .ok (.addLit 1 2 0x89ABCDEF, [7]) := by decide

/-! ### Values -/

/-- add of s8 saturates at 127 (04 R74, 05 R104). -/
theorem test_add_saturates : intEl .add .s8 true 0x7F 0x01 0 = 0x7F := by decide
/-- add of s8 wraps to -128 (04 R74, 05 R104). -/
theorem test_add_wraps : intEl .add .s8 false 0x7F 0x01 0 = 0x80 := by decide
/-- sra fills with the sign, the count taken modulo the width (05 R104). -/
theorem test_sra : intEl .sra .s16 false 0x8000 0x11 0 = 0xC000 := by decide
/-- mulh of unsigned halves of the range: floor(2^31 · 2^31 ÷ 2^32) (05 R104). -/
theorem test_mulh : intEl .mulh .n32 false 0x80000000 0x80000000 0 = 0x40000000 := by decide
/-- addc carries out of bit 31 and subb borrows (05 R106). -/
theorem test_carry : carryLane false 0xFFFFFFFF 0 true = 0x100000000 ∧ (carryLane true 0 0 true).testBit 63 = true := by decide
/-- bfx of a signed field of length 0 gives 0 and a field of 4 bits at 4 is widened (05 R107). -/
theorem test_bfx : bfxLane true 0xF0 0x0000 = 0 ∧ bfxLane true 0xF0 0x0404 = 0xFFFFFFFF ∧ bfxLane false 0xF0 0x0404 = 0xF := by
  decide
/-- clz of 0 is 32 and of 1 is 31 (05 R110). -/
theorem test_clz : clzLane 0 = 32 ∧ clzLane 1 = 31 := by decide
/-- A branch with offset -2 goes back two words (02 R38). -/
theorem test_jump : jumpTarget 0x38 0xFFFFFE = 0x30 := by decide
/-- A loop with one iteration left falls through and one with two goes back (06 R156). -/
theorem test_loop : ({ le0 := 16, ls0 := 4, lc0 := 1 } : LoopRegs).count 16 [0] = (16, { le0 := 16, ls0 := 4, lc0 := 0 }) ∧
    ({ le0 := 16, ls0 := 4, lc0 := 2 } : LoopRegs).count 16 [0] = (4, { le0 := 16, ls0 := 4, lc0 := 1 }) := by decide
/-- TCAUSE is detail :: cause (06 R161). -/
theorem test_tcause : tcauseOf 0x03 1 = 0x0103 := by decide
/-- A write of two bytes little-endian, and that writing the default again leaves nothing listed (00 R7). -/
theorem test_memory : memReadN (memWriteN [] 5 2 0x1234) 5 1 = 0x34 ∧ memWriteN (memWriteN [] 5 2 0x1234) 5 2 0 = [] := by
  decide

/-- The first bytes of SHAKE256 of the empty message (FIPS 202, SHAKE256 test vector; 22 R483). -/
theorem test_shake256 : (shake256 []).take 4 = [0x46, 0xB9, 0xDD, 0x2B] := by decide +kernel
/-- The mode body of the worked kernel at 0x28 in 05: type 2 and sat 1 (02 R40). -/
theorem test_mode : modeArithMd 0 1 0 1 0 0 0 0 2 0 1 0 0x20 = 0x1040 := by decide
/-- 460.0 rounds to 448 in e4m3, 500.0 overflows to the NaN or, saturating, to 448 (04 R80). -/
theorem test_round : roundTo .e4m3 0 0 false ⟨false, 460, 1, 0⟩ = (0x7E, fInexact) ∧
    (roundTo .e4m3 0 0 false ⟨false, 500, 1, 0⟩).1 = 0x7F ∧ (roundTo .e4m3 0 0 true ⟨false, 500, 1, 0⟩).1 = 0x7E := by decide +kernel
/-- The fdot2 example of 04 R92 gives +0. -/
theorem test_fdot2 : (fdot2Lane .bf16 false 0x3F804B80 0x3F803F80 0xCB800000).1 = 0 := by decide +kernel

/-! ### Witnesses: a small state -/

/-- The module with one group of one path placed, whose turn it is. -/
def s0 : State := { State.reset.placeBare with cur := some (0, 0) }
/-- The same with the group at supervisor level. -/
def s0sup : State := s0.updGroup 0 fun g => { g with sup := true }
/-- The same with a handler. -/
def s0trap : State := s0.updCtx 0 fun c => { c with tvec := 0x2000 }

/-- The issue of an instruction that goes on to its effect. -/
def issOf (w : IWord) (u : Use) (s : State) : Option Iss := match preIssue w u s with | .go c => some c | _ => none

theorem issOf_go {w : IWord} {u : Use} {s : State} {c : Iss} (h : issOf w u s = some c) : preIssue w u s = .go c := by
  unfold issOf at h
  split at h
  · rename_i c' hp; cases h; exact hp
  · exact absurd h (by simp)

/-- Whether the hypotheses of a statement about an effect in the group hold of a state. -/
def issues (w : IWord) (u : Use) (s : State) (f : Iss → Group) : Bool :=
  match issOf w u s with
  | none => false
  | some c => (f c).hstep == 0 && match s.groups.get? c.gid with
    | none => false
    | some o => (o.finish c u (s.issues + 1) s.nextOp (f c)).isSome

theorem issues_spec {w : IWord} {u : Use} {s : State} {f : Iss → Group} (h : issues w u s f = true) (hw : s.noWatch) :
    ∃ c, Issues w u s c (f c) := by
  unfold issues at h
  split at h
  · exact absurd h (by simp)
  · rename_i c hc
    simp only [Bool.and_eq_true, beq_iff_eq] at h
    obtain ⟨h1, h2⟩ := h
    split at h2
    · exact absurd h2 (by simp)
    · rename_i o ho
      exact ⟨c, issOf_go hc, hw, h1, o, ho, h2⟩

/-- Whether the hypotheses of a statement about an effect on the state hold of a state. -/
def runs (w : IWord) (u : Use) (s : State) (e : Iss → State → Eff) : Bool :=
  match issOf w u s with
  | none => false
  | some c => match e c s with
    | .ok t _ => match s.groups.get? c.gid, t.groups.get? c.gid with
      | some o, some g => (o.finish c u (s.issues + 1) t.nextOp g).isSome
      | _, _ => false
    | _ => false

theorem runs_spec {w : IWord} {u : Use} {s : State} {e : Iss → State → Eff} (h : runs w u s e = true) :
    ∃ c t fl o g g', preIssue w u s = .go c ∧ e c s = .ok t fl ∧ s.groups.get? c.gid = some o ∧
      t.groups.get? c.gid = some g ∧ o.finish c u (s.issues + 1) t.nextOp g = some g' := by
  unfold runs at h
  split at h
  · exact absurd h (by simp)
  · rename_i c hc
    split at h
    · rename_i t fl he
      split at h
      · rename_i o g ho hg
        obtain ⟨g', hg'⟩ := Option.isSome_iff_exists.1 h
        exact ⟨c, t, fl, o, g, g', issOf_go hc, he, ho, hg, hg'⟩
      · exact absurd h (by simp)
    · exact absurd h (by simp)

/-- Whether the hypotheses of a completion statement hold of a state, ok apart or with it. -/
def ready (w : IWord) (u : Use) (s : State) (e : Iss → State → Eff) (ok : Iss → Bool) : Bool :=
  match issOf w u s with
  | none => false
  | some c => ok c && match s.groups.get? c.gid, ((e c s).stateOr s).groups.get? c.gid with
    | some o, some g => g.hstep == 0 && (o.finish c u (s.issues + 1) ((e c s).stateOr s).nextOp g).isSome
    | _, _ => false

theorem ready_spec {w : IWord} {u : Use} {s : State} {e : Iss → State → Eff} {ok : Iss → Bool} (h : ready w u s e ok = true)
    (hw : s.noWatch) : ∃ c, Ready w u e s c ∧ ok c = true := by
  unfold ready at h
  split at h
  · exact absurd h (by simp)
  · rename_i c hc
    simp only [Bool.and_eq_true] at h
    obtain ⟨hk, h⟩ := h
    split at h
    · rename_i o g ho hg
      simp only [Bool.and_eq_true, beq_iff_eq] at h
      exact ⟨c, ⟨issOf_go hc, hw, o, g, ho, hg, h.1, h.2⟩, hk⟩
    · exact absurd h (by simp)

theorem s0_noWatch : s0.noWatch := by unfold State.noWatch; decide

/-- An issue of no particular instruction. -/
def iss0 : Iss :=
  { gid := 0, path := 0, e := barePath, pc := 0x100000, next := 0x100004, md := 0, live := 0xFFFF, act := 0x00FF, word := 0,
    len := 4, tick := 0, mark := 1, native := 0 == 0, g := bareGroup }

/-- The same with MD.type f32. -/
def s0f : State := s0.updGroup 0 fun g => g.updEntry 0 fun e => { e with md := 6 <<< 5 }

theorem wit_DecodeOfEncode : (Instr.addReg 1 2 3).hasWords = true ∧ (Instr.addReg 1 2 3).wellFormed = true := by decide
theorem wit_EncodeOfDecode : decode 0x10010203 0 = .ok (.addReg 1 2 3) := by decide
theorem wit_ReservedOpcodes : ((0xF0000000 : Word).extractLsb' 24 8).toNat = 0xF0 ∧ s0.cur = some (0, 0) ∧
    s0.groups.get? 0 = some bareGroup ∧ bareGroup.mayTurn 0 = true ∧
    s0.mayIssue 0 bareGroup (bareGroup.entryAt 0) { guard := false } = true ∧
    (s0.raiseTrap 0 0 { cause := 0x01, val := 0xF0000000, lanes := bareGroup.liveOf (bareGroup.entryAt 0).mask }).isSome = true :=
  ⟨by decide, rfl, rfl, by decide +kernel, by decide +kernel, by decide +kernel⟩
theorem wit_DecodeFailures :
    (s0.raiseTrap 0 0 (encodingTrap 0x11010243 0 bareGroup (bareGroup.liveOf (bareGroup.entryAt 0).mask))).isSome = true ∧
    (s0.raiseTrap 0 0 (emulation 0xEA000000 0 (isLit (opcodeOf 0xEA000000)) true bareGroup.sup 0
      (bareGroup.liveOf (bareGroup.entryAt 0).mask))).isSome = true := by
  decide +kernel
theorem wit_ResetState : State.reset.boot.stage ≠ 4 := by decide
theorem wit_TrapEntry_em : bareGroup.steps 0xFFFF = false ∧ (emulation 0xEA000000 7 true true false 0 1).em.isSome = true ∧
    ({ cause := 1, val := 0, lanes := 1 } : Trap).em = none ∧ (5 : Nat) < 16 := by decide +kernel
theorem wit_TrapEntry : s0trap.groups.get? 0 = some bareGroup ∧ bareGroup.trap.tstat.getLsbD 0 = false ∧
    (s0trap.ctx bareGroup.ctx).tvec ≠ 0 := ⟨rfl, by decide, by decide +kernel⟩
/-- A group with lane 0 alone, outside a handler and in one. -/
def soloGroup : Group := bareGroup.updEntry 0 fun e => { e with mask := 1 }
def soloTrapped : Group := soloGroup.enterHandler 0x9000 0x1004 1 { cause := 1, val := 0, lanes := 1 } 5
theorem wit_TrapEntry_frame : lane soloGroup.saveFrame.frameMask 5 = false ∧ soloGroup.noRoom 0 = false ∧
    (∀ k : Fin 4, (soloGroup.entryAt k).kind = .free ∨ (soloGroup.entryAt k).kind = .path) := by decide +kernel
theorem wit_TrapReturn_frame : (soloTrapped.entryAt 4).kind = .saved ∧ lane (soloTrapped.entryAt 4).mask 0 = true ∧
    (∀ j : Fin 64, (soloTrapped.entryAt j).kind = .saved → lane (soloTrapped.entryAt j).mask 0 = true → j.val = 4) ∧
    lane soloTrapped.frameMask 5 = false ∧ soloTrapped.manyPaths = false ∧ soloTrapped.trap.tstat.getLsbD 0 = true ∧
    (∀ k : Fin 4, (soloTrapped.entryAt k).kind = .free ∨ (soloTrapped.entryAt k).kind = .path) ∧
    (∀ k : Fin 64, (soloTrapped.entryAt k).kind = .path → (soloTrapped.entryAt k).rcd = 0) := by decide +kernel
theorem wit_TrapInHandler : s0.groups.get? 0 = some bareGroup ∧ (s0.ctx bareGroup.ctx).tvec = 0 := ⟨rfl, by decide +kernel⟩
theorem wit_TrapReturn : iss0.g.trap.tstat.getLsbD 0 = false ∧
    ({ iss0.g with trap := { iss0.g.trap with tstat := 1 } } : Group).manyPaths = false ∧
    ((iss0.g.updEntry 1 fun _ => barePath)).manyPaths = true := by decide +kernel
theorem wit_Privilege : s0.mayIssue 0 bareGroup (bareGroup.entryAt 0) { sup := true, guard := false } = true ∧
    bareGroup.sup = false ∧
    (s0.raiseTrap 0 0 { cause := 0x03, val := W.tlbiAll.word, lanes := bareGroup.liveOf (bareGroup.entryAt 0).mask }).isSome = true := by
  decide +kernel
/-- CheckOrder: a feature group that is off; one that is on with a supervisor instruction at user level, a register at the
boundary of the allocation, a type that is not legal. -/
theorem wit_CheckOrder : ({ bareGroup with xmask := 0 } : Group).xmask.getLsbD 5 = false ∧ bareGroup.xmask.getLsbD 5 = true ∧
    bareGroup.sup = false ∧ 16 * bareGroup.valloc ≤ 256 ∧ (255 : Nat) < 16 * bareGroup.valloc ∧
    mdType 0 ∉ [Ty.f32] ∧ mdType 0 ∈ [Ty.s32] := by decide
/-- LoopCount: no live loop, one of each that ends at 16, both with the greater start first and on a tie. -/
theorem wit_LoopCount : ({ le0 := 16, lc0 := 1, le1 := 20, lc1 := 1 } : LoopRegs).ending 16 = [0] ∧
    ({ le0 := 16, lc0 := 1, ls0 := 4, le1 := 16, lc1 := 1, ls1 := 4 } : LoopRegs).ending 16 = [1, 0] ∧
    ({ le0 := 16, lc0 := 1, ls0 := 8, le1 := 16, lc1 := 1, ls1 := 4 } : LoopRegs).ending 16 = [0, 1] ∧
    ({} : LoopRegs).ending 16 = [] := by decide
theorem wit_BitwiseLanes : lane iss0.act 7 = true ∧ lane iss0.act 8 = false := by decide
theorem wit_CarryLanes : lane iss0.act 0 = true ∧ lane iss0.act 15 = false := by decide
theorem wit_SelLanes : lane iss0.live 15 = true ∧ lane ({ iss0 with live := 1 } : Iss).live 15 = false := by decide
theorem wit_BitFieldLanes : (31 : Nat) < 32 ∧ lane iss0.act 7 = true ∧ lane iss0.act 8 = false := by decide
theorem wit_CompareLanes_n32 : lane iss0.act 0 = true ∧ mdType ({ iss0 with md := 1 <<< 5 } : Iss).md = .n32 ∧ lane iss0.act 15 = false := by decide
theorem wit_CompareLanes_s32 : mdType ({ iss0 with md := 0 } : Iss).md = .s32 := by decide
theorem wit_UnaryLanes : (0x80000000 : Word) ≠ 0 ∧ mdType ({ iss0 with md := 14 <<< 5 } : Iss).md = .s64 ∧ (2 : BitVec 8).toNat % 2 = 0 ∧
    mdSat ({ iss0 with md := 0x1080 } : Iss).md = true ∧ mdType ({ iss0 with md := 0x1080 } : Iss).md = .s8 ∧ lane iss0.act 0 = true ∧
    lane iss0.act 15 = false := by decide
theorem wit_ExchangeLanes : lane iss0.act 7 = true ∧ lane iss0.act 8 = false := by decide
theorem wit_UniformWithoutLane : ({ iss0 with act := 0 } : Iss).act = 0 := by decide
theorem wit_IntElements : Ty.s64 ∈ allInt ∧ (255 : Nat) < 2 ^ Ty.n8.width ∧ Ty.n8 ∈ IntOp.rotl.types ∧
    mdType ({ iss0 with md := 14 <<< 5 } : Iss).md ∈ IntOp.shl.types ∧ (2 : BitVec 8).toNat % 2 = 0 ∧ lane iss0.act 0 = true ∧
    lane iss0.act 15 = false := by decide
theorem wit_CallPushes_link : (0x1004 : DWord) + 4 - ({ bareGroup with entry := 0x1010 } : Group).entry = 4 * (-2 : Word).signExtend 64 := by decide
theorem wit_CallPushes : iss0.g.rd[0] < 8 ∧
    8 ≤ ({ iss0.g with rd := Vector.replicate 16 8 } : Group).rd[0] ∧ lane iss0.act 0 = true := by decide
/-- An access of four bytes on its way to its home. -/
def acc0 (ask : Ask) : Access :=
  { elem := wholeLane, va := 0x100000, len := 4, ask := ask, st := .ready, pa := 0x400000, data := 5 }
/-- An operation of that access. -/
def op0 (kind : OpKind) (ask : Ask) : Op :=
  { g := 0, ctx := 0, core := 0, pc := 0, word := 0, path := 0, act := 1, live := 1, sup := false, kind := kind, tick := 0, accs := [acc0 ask] }
/-- The small state with that operation in flight. -/
def s0op (kind : OpKind) (ask : Ask) : State := { s0 with ops := [(1, op0 kind ask)], nextOp := 2 }
theorem served0 (kind : OpKind) (ask : Ask) (h : (s0op kind ask).atHome 1 (op0 kind ask) (acc0 ask) = true)
    (hf : (s0op kind ask).isHeld (acc0 ask) = false ∧ (s0op kind ask).lost (acc0 ask).pa = false) :
    ServedHere (s0op kind ask) 1 0 (op0 kind ask) (acc0 ask) :=
  have wf : memWf s0.mem = true := by decide +kernel
  ⟨rfl, h, ⟨rfl, rfl, rfl, (by decide : 0 < 4), (by decide : 0x400000 % 128 + 4 ≤ 128)⟩, hf, wf⟩
theorem wit_HomeWriteFrame : memWf (s0op .store .write).mem = true ∧ ((s0op .store .write).acc? 1 0).isSome = true ∧
    (∀ e ∈ (s0op .store .write).ops, ∀ b ∈ e.2.accs, b.cum = false ∧ b.pa % 128 + b.len ≤ 128) ∧
    (match exec (.homeWrite 1 0) (s0op .store .write) with | .next t => memRead t.mem 0x400000 == 5 | _ => false) = true := by
  decide +kernel
theorem wit_MemoryBytes_store : ServedHere (s0op .store .write) 1 0 (op0 .store .write) (acc0 .write) ∧
    (op0 .store .write).wholeAccs ∧ (s0op .store .write).refused (op0 .store .write) (acc0 .write) = false :=
  ⟨served0 _ _ (by decide +kernel) (by decide +kernel), ⟨by decide +kernel, by decide +kernel⟩, by decide +kernel⟩
theorem wit_MemoryBytes_load :
    ServedHere (s0op (.load 1 (plainRec .n32) 0x20 .l1) .read) 1 0 (op0 (.load 1 (plainRec .n32) 0x20 .l1) .read) (acc0 .read) ∧
    ((s0op (.load 1 (plainRec .n32) 0x20 .l1) .read).core 0).l1.get? (lineAt (acc0 .read).pa) = none ∧
    inAperture (acc0 .read).pa = false ∧ (∀ h ∈ halvesOf (acc0 .read).pa 4, s0.held h = none) :=
  ⟨served0 _ _ (by decide +kernel) (by decide +kernel), by decide +kernel, by decide +kernel, by decide +kernel⟩
theorem wit_MemoryBytes_lane : mdType 0x20 ∈ memTypes ∧ mdType (14 <<< 5) ∈ memTypes ∧ (2 ^ 64 - 8 : Nat) % 8 = 0 ∧ (acc0 .write).len = 4 ∧
    (op0 .store .write).accs.filter (fun b => b.lane == 0 && b.elem == wholeLane) = [acc0 .write] ∧ memWf bareBlock.scratch = true ∧
    s0.blocks.get? bareGroup.block = some bareBlock ∧ bareGroup.ssq = [] := 
  ⟨by decide, by decide, by decide, by decide, by decide, by decide, rfl, rfl⟩
/-- A record under element addressing whose elements stay in their lines. -/
def elemRec : BufRec := { stype := .f16, emode := true, limit := 64 }
theorem wit_MemoryBytes_element : mdType 0x20 ∈ memTypes ∧ elemRec.emode = true ∧ 8 ≤ elemRec.sw ∧ elemRec.stype.scaled = false ∧
    (∀ j : Fin (mdType 0x20).count, (elemRec.base + elemRec.pos ((63 + j.val) % 2 ^ 64) * (elemRec.sw / 8)) % 2 ^ 64 % 128 + elemRec.sw / 8 ≤ 128) := by
  decide +kernel
/-- The small state with a copy of the access's line in the L1, leased until tick 600. -/
def s0copy : State := (s0op (.load 1 (plainRec .n32) 0x20 .l1) .read).updCore 0 fun c =>
  { c with l1 := [(lineAt (acc0 .read).pa, { data := 77, rho := 0, expiry := 600 })] }
theorem wit_MemoryBytes_copy : s0copy.inOrder 1 (op0 (.load 1 (plainRec .n32) 0x20 .l1) .read) (acc0 .read) = true ∧
    (op0 (.load 1 (plainRec .n32) 0x20 .l1) .read).otherParts (acc0 .read) = [] ∧
    ((s0copy.core 0).l1.get? (lineAt (acc0 .read).pa)).any (fun c => c.hasBytes ((acc0 .read).pa % 128) 4 && decide (s0copy.gnomon < c.expiry)) = true ∧
    ((s0copy.core 0).l1.get? (lineAt (acc0 .read).pa)).any (fun c => decide (c.expiry ≤ ({ s0copy with gnomon := 600 } : State).gnomon)) = true := by
  decide +kernel
/-- A read of a vector register of the group by address, and a read of a half that the host holds. -/
def heldAcc : Access := { acc0 .read with pa := bareGroup.ribPa + 72 }
def s0held : State := { s0 with ops := [(1, { op0 (.load 1 (plainRec .n32) 0x20 .l1) .read with accs := [heldAcc] })], nextOp := 2 }
theorem wit_MemoryBytes_held : (s0held.acc? 1 0).any (fun x => s0held.atHome 1 x.1 x.2 && s0held.isHeld x.2 && s0held.ownLineLanded 1 x.1 x.2.pa 4) = true ∧
    s0held.held (bareGroup.ribPa / 64 + 1) = some (.reg 0 1) ∧ inAperture (bareGroup.ribPa + 64) = false := by decide +kernel
theorem wit_MemoryBytes_host : (let s := { s0held with halves := [((bareGroup.ribPa + 72) / 64, .p)] }
    (s.acc? 1 0).any (fun x => s.hostHolds x.2)) = true := by decide +kernel
theorem wit_AtomicWord :
    ServedHere (s0op (.atom (some 1) 0 false .s32) .atomic) 1 0 (op0 (.atom (some 1) 0 false .s32) .atomic) (acc0 .atomic) ∧
    (op0 (.atom (some 1) 0 false .s32) .atomic).lowerApplied 0 (acc0 .atomic) = true ∧
    (s0op (.atom (some 1) 0 false .s32) .atomic).homePoison (acc0 .atomic).pa 4 = none ∧ (0xFFFFFFFF : Nat) < 2 ^ Ty.s32.width :=
  ⟨served0 _ _ (by decide +kernel) (by decide +kernel), by decide +kernel, by decide +kernel, by decide⟩
theorem wit_ModeAndPc : (issOf (W.modeBuf 3) { guard := false } s0).isSome = true ∧ bareGroup.loops.lc0 = 0 ∧ bareGroup.loops.lc1 = 0 ∧
    iss0.path < 64 ∧ (31 : Nat) < 32 := by decide +kernel
theorem iss0_onePath : OnePath iss0 := ⟨by decide, by decide, by decide, by decide, by decide, by decide, by decide⟩
/-- A path with its lanes in two parts, and one that returns. -/
theorem wit_PathTargets : OnePath iss0 ∧ (∀ l : Fin 16, lane iss0.live l = true → iss0.g.nc[l] < 255) ∧ iss0.g.noRoom 2 = false ∧
    OnePath { iss0 with g := { iss0.g with rd := Vector.replicate 16 1 } } ∧
    (∀ l : Fin 16, lane iss0.live l = true → ({ iss0.g with rd := Vector.replicate 16 1 } : Group).rd[l] ≠ 0) ∧
    (retPcs { iss0 with g := { iss0.g with rd := Vector.replicate 16 1 } }).length - 1 ≤ iss0.g.freeTable.length :=
  ⟨iss0_onePath, by decide, by decide +kernel, ⟨by decide, by decide, by decide, by decide, by decide, by decide, by decide⟩, by decide,
    by decide +kernel⟩
/-- No room for a division, and none for the paths of a return to two addresses. -/
def fullGroup : Group := { bareGroup with
  rd := Vector.replicate 16 1
  stack := Vector.ofFn fun l => Vector.replicate 8 (BitVec.ofNat 32 l.val)
  paths := Vector.ofFn fun k => if k.val < 4 then { barePath with mask := 0xFFFF } else { kind := .record } }
theorem wit_PathTargets_traps : 255 ≤ ({ iss0.g with nc := Vector.replicate 16 255 } : Group).nc[0] ∧ fullGroup.noRoom 2 = true ∧
    lane iss0.live 0 = true ∧ iss0.g.rd[0] = 0 ∧ fullGroup.rd[3] ≠ 0 ∧
    fullGroup.noRoom ((retPcs { iss0 with g := fullGroup }).length - 1 - fullGroup.freeTable.length) = true ∧
    fullGroup.freeTable.length < (retPcs { iss0 with g := fullGroup }).length - 1 := by decide +kernel
/-- A group whose one path waits at a merge of the record at 10. -/
def mergeGroup : Group :=
  (bareGroup.setEntry 10 { kind := .record, mask := 0xFFFF }).setEntry 0 { barePath with level := 1, rcd := 10, hold := .merge }
theorem wit_PathWaits : (iss0.g.entryAt 0).level = 0 ∧ (mergeGroup.entryAt 0).level ≠ 0 ∧ mergeGroup.joinReady 10 = true ∧
    mergeGroup.hlm = 0 ∧ (∀ k : Fin 64, (mergeGroup.entryAt k).kind ≠ .free → (mergeGroup.entryAt k).rcd = 10 →
      mergeGroup.atMerge 10 (mergeGroup.entryAt k) = true) ∧
    (∀ k : Fin 4, (mergeGroup.entryAt k).kind = .free ∨ (mergeGroup.entryAt k).kind = .path) ∧
    (mergeGroup.entryAt 10).hold = .none ∧
    ((mergeGroup.updEntry 10 fun e => { e with hold := .merge }).entryAt 10).hold ≠ .none ∧ iss0.g.manyPaths = false ∧
    (2 : Int) ≤ (2 : BitVec 24).toInt ∧ (1 : BitVec 24).toInt < 2 ∧ OnePath iss0 ∧ iss0.act ≠ 0 ∧ iss0.act ≠ iss0.live :=
  ⟨rfl, by decide +kernel, by decide +kernel, by decide +kernel, by decide +kernel, by decide +kernel, rfl, by decide +kernel, rfl,
    by decide, by decide, iss0_onePath, by decide⟩
theorem wit_CsrReadWrite : iss0.act ≠ 0 ∧ s0.ctxs.get? iss0.g.ctx = some bareCtx ∧ (iss0.g.sreg 1).getLsbD 30 = false ∧
    csrMask 0x124 true ≠ 0 ∧ csrMask 0x125 true = 0 ∧ csrHalf (s0.csr iss0.g false 0x124) false &&& ~~~csrMask 0x124 false = 0 ∧
    iss0.g.valloc ≤ 16 ∧ s0.memberVal iss0.g (·.aslots) < 256 ∧ iss0.g.ctx < 2 ^ 16 ∧ s0.disc.src < 8 ∧ s0.disc.sigma < 2 ^ 32 :=
  ⟨by decide, rfl, by decide, by decide, by decide, by decide +kernel, by decide, by decide +kernel, by decide, by decide +kernel, by decide +kernel⟩
/-- Finite values, an infinity of each sign, a NaN, a subnormal number. -/
theorem wit_FpElements : Ty.f32 ∈ fpTypes ∧ (fval .f32 0x3F800000).finite = true ∧ fval .f32 0x7F800000 = .inf false ∧
    fval .f32 0xFF800000 = .inf true ∧ fval .f32 0x7FC00000 = .nan ∧ (fval .f32 0x80000000).finite = true ∧
    isSubnormal .f32 1 = true ∧ (0xFFFFFFFF : Nat) < 2 ^ 32 ∧ mdType ({ iss0 with md := 6 <<< 5 } : Iss).md ∈ fpTypes ∧
    (0 : Nat) < Ty.f32.count ∧ lane iss0.act 0 = true ∧ lane iss0.act 15 = false := by decide +kernel
theorem wit_FpElements_inf : (fval .f32 0x7F800000).sign = false ∧ (fval .f16 0xFC00) = .inf true ∧ fval .f16 0x7E00 = .nan := by decide +kernel
theorem wit_UnaryLanes_values : Ty.bf16 ∈ fpTypes ∧ (31 : Nat) < Ty.f32.width ∧ fval .f32 0x7FC00000 = .nan ∧ fval .f32 0xFF800000 = .inf true ∧
    (fval .f32 1).finite = true := by decide +kernel
theorem wit_UnaryLanes_turns : (fval .f32 0x40400000).rat = (3 : Int) ∧ 4 * (fval .f32 0x40400000).rat = (12 : Int) ∧ |(3 : Int)| < 256 ∧
    (fval .f32 0x3F000000).rat = (2 : ℚ) ^ (-1 : Int) ∧ (fval .f32 0xBF000000).rat < 0 ∧ 0 < (fval .f32 0x3F000000).rat := by
  have h : fval .f32 0x40400000 = .fin false 0xC00000 (-22) := by decide +kernel
  have k : fval .f32 0x3F000000 = .fin false 0x800000 (-24) := by decide +kernel
  have m : fval .f32 0xBF000000 = .fin true 0x800000 (-24) := by decide +kernel
  simp only [h, k, m, FV.rat]; norm_num
theorem wit_FpElements_zero : (fval .f32 0).rat = 0 := by
  have h : fval .f32 0 = .fin false 0 (-149) := by decide +kernel
  simp [h, FV.rat]
theorem wit_Rounding : Ty.f32.isFloat = true ∧ 0 < (⟨false, 1, 3, 0⟩ : Exact).n ∧ 0 < (⟨false, 1, 3, 0⟩ : Exact).d ∧
    (roundTo .f32 0 0 false ⟨false, 1, 3, 0⟩).2 &&& fOverflow = 0 ∧ (fval .f32 1).finite = true := by decide +kernel
theorem wit_DotAndConvert : (fval .f32 0x3F800000).finite = true ∧ (fval .bf16 0x4B80).finite = true ∧
    (fval .f32 (roundTo .f32 0 0 false ⟨false, 1, 1, 0⟩).1).finite = true ∧ Ty.s8 ∈ allInt ∧ Ty.f16.isFloat = true ∧
    fval .f16 0x7E00 = .nan := by decide +kernel
theorem wit_DotAndConvert_special : fval .f32 0xFF800000 = .inf true ∧ Ty.e5m2 ∈ [Ty.f32, .f16, .bf16, .e5m2] ∧ (fval .e4m3 0x7E).finite = true ∧
    (254 : Nat) < 0xFF ∧ fval .f32 (roundTo .f32 0 0 false ⟨false, 2 ^ 200, 1, 0⟩).1 = .inf false := by decide +kernel
theorem wit_DotAndConvert_pack : mdType ({ iss0 with md := 6 <<< 5 } : Iss).md ∈ [Ty.s32, .n32, .f32] ∧
    mdType ({ iss0 with md := 9 <<< 5 } : Iss).md ∈ [Ty.f16, .bf16, .e4m3, .e5m2, .s16, .n16, .s8, .n8] ∧ Ty.e4m3.width = 8 ∧ Ty.n16.width = 16 ∧
    mdType ({ iss0 with md := 12 <<< 5 } : Iss).md = .mx8 ∧ ({ iss0 with act := 0xFFFF } : Iss).act = 0xFFFF := by decide
theorem wit_DotAndConvert_block : (fval .f32 0x3F800000).rat ≠ 0 ∧ |(fval .f32 0).rat| ≤ |(fval .f32 0x3F800000).rat| := by
  have h : fval .f32 0x3F800000 = .fin false 0x800000 (-23) := by decide +kernel
  have k : fval .f32 0 = .fin false 0 (-149) := by decide +kernel
  simp only [h, k, FV.rat]; norm_num
theorem wit_LaneQueries : iss0.act ≠ 0 ∧ mdType iss0.md ≠ .f32 ∧ ([3] : List Nat) ≠ [] ∧ (fval .f32 0x3F800000).finite = true ∧
    ((5 : Fin 16).val = (SOp.val (.lit 0x15) iss0.g).toNat % 16) := by decide +kernel
theorem wit_ScalarValues : (1 : BitVec 3) ≠ 2 ∧ ({ iss0 with act := 0 } : Iss).act = 0 := by decide
/-- The module with an addition placed where the next step fetches. -/
def s0step : State := State.reset.placeBare.withFetchWord 32 0x10010203
theorem wit_StepKeepsMemories : s0step.memsWf ∧ (match step s0step with | .next _ => true | _ => false) = true := by
  refine ⟨⟨?_, ?_, ?_⟩, ?_⟩ <;> decide +kernel
theorem wit_StepRunsDecoded_agenda : ∃ x, s0step.groups.get? 0 = some x ∧ x.mayTurn 0 = true ∧
    s0step.fetch x (x.entryAt 0).pc.toNat = .words 0x10010203 0 ∧ s0step.agenda = [.issue 0 0] := by
  exact ⟨bareGroup, rfl, by decide +kernel, by decide +kernel, rfl⟩
theorem wit_StepRunsDecoded_held : s0step.halves = [] ∧ s0step.peers = [] := by decide +kernel
theorem wit_StepRunsDecoded_free : nextEvent ({ s0step with agenda := [] } : State) = none ∧
    ({ s0step with agenda := [] } : State).candidates = [(0, 0)] ∧
    (match exec (.addReg 1 2 3) ({ s0step with agenda := [], cur := some (0, 0), stalled := false } : State) with
      | .next t => !t.stalled | _ => false) = true := by
  decide +kernel

/-! The completion statements: a state and operands for a clause of each shape. -/

/-- The small state with a[2] in the mapped page, and s[1] greater than s[2]. -/
def s0page : State := s0.updGroup 0 fun g => (g.setA 2 0x100000).setS 1 5

theorem s0page_noWatch : s0page.noWatch := by unfold State.noWatch; decide

theorem wit_ScalarComplete : ready (W.wrmd 1) { sr := [1], guard := false } s0 (groupTrapEff (wrmdEff 1))
    (fun c => mdLegal (c.g.sreg 1)) = true := by decide +kernel
theorem wit_ControlComplete : ready (W.br 4) { ({} : Use) with ctl := true } s0 (groupTrapEff (brEff 4))
    (fun c => c.act == c.live) = true := by decide +kernel
theorem wit_ControlComplete_divide : ready (W.split 4) { ({} : Use) with ctl := true } s0
    (groupTrapEff fun c => divideEff (jumpTarget c.pc 4) c)
    (fun c => (List.finRange 16).all (fun l => decide (c.g.nc[l] < 255)) && !c.g.noRoom 2) = true := by decide +kernel
theorem wit_ControlComplete_enters : (issOf W.brk { ({ guard := false } : Use) with ctl := true } s0).isSome = true ∧
    s0.groups.get? 0 = some bareGroup ∧ bareGroup.deferred = none ∧ s0.settled 0 = true ∧ s0.pending 0 bareGroup = false :=
  ⟨by decide +kernel, rfl, rfl, by decide +kernel, by decide +kernel⟩
theorem wit_SystemComplete : ready (W.csrr 1 0x11B) { sw := [1], uniform := true } s0 (csrrEff 1 0x11B) (fun _ => true) = true := by
  decide +kernel
theorem wit_AccessComplete : ready (W.ldReg 1 2 3) (useLoad s0page.curTy 1 2 (.vec 3)) s0page (loadEff .l1 1 2 (.vec 3))
    (fun c => c.act != 0 && c.native && !c.g.precise && match s0page.curRec c with
      | .ok r none => (accessChecks c r false c.act ((MOff.vec 3).ea c.g 2)).isNone
      | _ => false) = true := by decide +kernel
theorem wit_AccessComplete_scratch : ready (W.ldsReg 1 2 3)
    { (MOff.vec 3).use 2 with later := { v := [1] }, cls := some 0, ownPoison := true } s0 (ldsEff 1 2 (.vec 3))
    (fun c => !c.g.precise && (scratchChecks c (((s0.blocks.get? c.g.block).map (·.ssize)).getD 0) c.act
      ((MOff.vec 3).ea c.g 2)).isNone) = true := by decide +kernel
theorem wit_AccessComplete_grow : ready (W.grow 16) { uniform := true, stop := true } s0 (growEff 16)
    (fun c => c.act != 0 && decide (growTarget 16 ≤ c.g.valloc)) = true := by decide +kernel
theorem wit_SyncComplete : ready (W.atom 1 2 0) (useAtom s0page.curTy 0 false true 1 2 2) s0page
    (atomEff 0 false true 1 2 (1 + ·))
    (fun c => (List.finRange 16).all (fun l => atomEa c 2 (1 + ·) l % (4 * runLen (mdType c.md)) == 0) && !c.g.precise && c.native &&
      faultLanes (s0page.transAccs c.g.core c.g.ctx c.g.sup true (atomAccs c false true 1 2 (1 + ·))).2 == 0) = true := by
  decide +kernel
theorem wit_EnginesComplete : ready (W.cp 1 2 2) (useCopy [1, 2] [] 4 2 none) s0
    (fun c s => copyEff c s 0 { form := 0, n := 0, dst := (c.g.areg 1).toNat, src := (c.g.areg 2).toNat, sp := (c.g.sAt 6).toInt, dp := (c.g.sAt 7).toInt } (c.g.sAt 4) (c.g.sAt 5))
    (fun c => !(c.g.sAt 5).getLsbD 8 && c.act != 0 && !ctlBad 0 (c.g.sAt 5)) = true := by decide +kernel
theorem wit_EnginesComplete_sample : ready (W.smp 1 2 3) (useSample 0 s0f.curTy 1 2 3) s0f (sampleEff 0 1 2 3)
    (fun c => !c.g.precise) = true := by decide +kernel
theorem wit_RasterAndWorkComplete : ready (W.rclr 2 1)
    { ar := [2], sr := [1, 2, 3], range := false, cls := some 1, uniform := true, sink := true } s0page (rclrEff 2 1)
    (fun c => c.act != 0 && c.native && !c.g.precise && match s0page.readRec c (c.g.areg 2).toNat 64 with
      | .ok (rs, none) => !rsBad (c.g.areg 2).toNat rs false && (rclrTiles rs 5 0 (min 0 (rsW rs - 1)) (min 0 (rsH rs - 1))).isEmpty
      | _ => false) = true := by decide +kernel
theorem wit_RasterAndWorkComplete_launch : ready (W.launch 1 2 4)
    { vr := [4, 5], ar := [2], later := { p := [1] }, pairs := [4], sink := true, ownPoison := true } s0page (launchEff 1 2 4)
    (fun c => c.act != 0 && (c.g.areg 2).toNat % 64 == 0) = true := by decide +kernel

/-- IntegerInstructions: addReg. -/
theorem wit_IntegerInstructions : issues (W.addReg (1 : BitVec 8) (2 : BitVec 8) (3 : BitVec 8)) (IntOp.add.use s0.curTy (1 : BitVec 8) (2 : BitVec 8) (BOp.vec (3 : BitVec 8))) s0 ((IntOp.add.eff (1 : BitVec 8) (2 : BitVec 8) (BOp.vec (3 : BitVec 8)))) = true := by decide +kernel
/-- IntegerInstructions_unary: clz. -/
theorem wit_IntegerInstructions_unary : issues (W.clz (1 : BitVec 8) (2 : BitVec 8)) (useV .n32 (1 : BitVec 8) [(2 : BitVec 8)] (.lit 0)) s0 ((unary32Eff clzLane (1 : BitVec 8) (2 : BitVec 8))) = true := by decide +kernel
/-- FloatInstructions: faddReg. -/
theorem wit_FloatInstructions : issues (W.faddReg (1 : BitVec 8) (2 : BitVec 8) (3 : BitVec 8)) (FpOp.add.use (1 : BitVec 8) (2 : BitVec 8) (BOp.vec (3 : BitVec 8))) s0f (fun c => ((FpOp.add.eff (1 : BitVec 8) (2 : BitVec 8) (BOp.vec (3 : BitVec 8))) c).1) = true := by decide +kernel
/-- FloatInstructions_cmp: fcmpLtReg. -/
theorem wit_FloatInstructions_cmp : issues (W.fcmpLtReg (1 : BitVec 3) (2 : BitVec 8) (3 : BitVec 8)) { useCmp .f32 (1 : BitVec 3) (2 : BitVec 8) (BOp.vec (3 : BitVec 8)) with types := some [.f32] } s0f (fun c => ((fcmpEff FCmp.lt (1 : BitVec 3) (2 : BitVec 8) (BOp.vec (3 : BitVec 8))) c).1) = true := by decide +kernel
/-- Conversions: cvt. -/
theorem wit_Conversions : issues (W.cvt (1 : BitVec 8) (2 : BitVec 8) (6 : BitVec 4)) (useCvt (Ty.ofCode (6 : BitVec 4).toNat) s0.curTy (1 : BitVec 8) (2 : BitVec 8)) s0 (fun c => ((cvtEff (Ty.ofCode (6 : BitVec 4).toNat) (1 : BitVec 8) (2 : BitVec 8)) c).1) = true := by decide +kernel
/-- LaneInstructions: shflXor. -/
theorem wit_LaneInstructions : issues (W.shflXor (1 : BitVec 8) (2 : BitVec 8) (4 : BitVec 32)) { useV .n32 (1 : BitVec 8) [(2 : BitVec 8)] (match (Exch.xor (4 : BitVec 32)) with | .idxReg b => .vec b | _ => .lit 0) with ownPoison := true } s0 ((exchEff (Exch.xor (4 : BitVec 32)) (1 : BitVec 8) (2 : BitVec 8))) = true := by decide +kernel
/-- ScalarInstructions: saddLit. -/
theorem wit_ScalarInstructions : issues (W.saddLit (1 : BitVec 6) (2 : BitVec 6) (7 : BitVec 32)) { sr := (2 : BitVec 6).toNat :: (SOp.lit (7 : BitVec 32)).srs, sw := [(1 : BitVec 6).toNat], uniform := true } s0 ((uniformEff fun c => c.g.setS (1 : BitVec 6) (scalarOp ScOp.add (c.g.sreg (2 : BitVec 6)) ((SOp.lit (7 : BitVec 32)).val c.g)))) = true := by decide +kernel
/-- ControlInstructions: br. -/
theorem wit_ControlInstructions : runs (W.br (4 : BitVec 24)) { ({} : Use) with ctl := true } s0 (groupTrapEff (brEff (4 : BitVec 24))) = true := by decide +kernel
/-- SystemInstructions: rdtm. -/
theorem wit_SystemInstructions : issues (W.rdtm (1 : BitVec 4)) { aw := [(1 : BitVec 4).toNat], uniform := true } s0 ((rdtmEff (1 : BitVec 4))) = true := by decide +kernel
/-- MemoryInstructions: ldReg. -/
theorem wit_MemoryInstructions : runs (W.ldReg (1 : BitVec 8) (2 : BitVec 4) (3 : BitVec 8)) (useLoad s0.curTy (1 : BitVec 8) (2 : BitVec 4) (MOff.vec (3 : BitVec 8))) s0 (loadEff LoadHow.l1 (1 : BitVec 8) (2 : BitVec 4) (MOff.vec (3 : BitVec 8))) = true := by decide +kernel
/-- SyncInstructions: fenceAcq. -/
theorem wit_SyncInstructions : runs (W.fenceAcq (1 : BitVec 3)) { guard := false } s0 (fun c s => .ok (fenceAcqEff (1 : BitVec 3).toNat c s) []) = true := by decide +kernel
/-- CopyAndMatrixInstructions: cp. -/
theorem wit_CopyAndMatrixInstructions : runs (W.cp (1 : BitVec 4) (2 : BitVec 4) (2 : BitVec 5)) (useCopy [(1 : BitVec 4).toNat, (2 : BitVec 4).toNat] [] (2 * (2 : BitVec 5).toNat) 2 none) s0 (fun c s => copyEff c s 0 { form := 0, n := 0, dst := (c.g.areg (1 : BitVec 4)).toNat, src := (c.g.areg (2 : BitVec 4)).toNat, sp := (c.g.sAt ((2 * (2 : BitVec 5).toNat) + 2)).toInt, dp := (c.g.sAt ((2 * (2 : BitVec 5).toNat) + 3)).toInt } (c.g.sAt (2 * (2 : BitVec 5).toNat)) (c.g.sAt ((2 * (2 : BitVec 5).toNat) + 1))) = true := by decide +kernel
/-- CopyAndMatrixInstructions_mprio: mprio. -/
theorem wit_CopyAndMatrixInstructions_mprio : issues (W.mprio (1 : BitVec 6)) { sr := [(1 : BitVec 6).toNat], uniform := true } s0 ((mprioEff (1 : BitVec 6))) = true := by decide +kernel
/-- TextureAndRayInstructions: rtrs. -/
theorem wit_TextureAndRayInstructions : issues (W.rtrs (1 : BitVec 8)) (useRtrs (1 : BitVec 8)) s0 ((rtrsEff (1 : BitVec 8))) = true := by decide +kernel
/-- RasterAndLaunchInstructions: rend. -/
theorem wit_RasterAndLaunchInstructions : issues W.rend { guard := false, sink := true } s0 (rendEff) = true := by decide +kernel
/-- SystemInstructions_reticle: wpr. -/
theorem wit_SystemInstructions_reticle : runs (W.wpr (1 : BitVec 6) (2 : BitVec 6)) { sr := [(2 : BitVec 6).toNat], sw := [(1 : BitVec 6).toNat], sup := true, uniform := true } s0sup (wprEff (1 : BitVec 6) (2 : BitVec 6)) = true := by decide +kernel

end Sys2Proof.Tests
end

section
/-! PROOFS. MemoryBytes is refuted: its store clause asks only of the accesses that begin in the written line that they end there.
An access of a lower lane that begins in the line before and ends in this one, ready as well, holds the home's write back (07 R186),
so that the home writes nothing, and the statement says that it writes. HomeWriteFrame has the missing bound, for every access of the
operation. -/

namespace Sys2Proof.Machine

/-! ### A write behind an overlapping access of a lower lane -/

/-- A ready write whose overlapping writes of lower lanes are not all applied is held back. -/
theorem partsReady_eq_false {s : State} {id k : Nat} {o : Op} {a : Access} (here : o.accs[k]? = some a) (ready : a.st = .ready)
    (lower : o.lowerApplied k a = false) : s.partsReady id o a = false := by
  have mem : (a, k) ∈ o.accs.zipIdx := List.mk_mem_zipIdx_iff_getElem?.2 here
  refine List.all_eq_false.2 ⟨(a, k), mem, ?_⟩
  simp [lower, ready]

/-! ### The counterexample: eight bytes across the end of a line, and four bytes after it -/

/-- Lane 0's write of 8 bytes, 4 in the line that ends at 0x400080 and 4 in the next. -/
def acrossLine : Access :=
  { elem := wholeLane, va := 0x40007C, len := 8, ask := .write, st := .ready, pa := 0x40007C }

/-- Lane 1's write of the word 5 at 0x400080, which the write of lane 0 meets. -/
def afterLine : Access :=
  { lane := 1, elem := wholeLane, va := 0x400080, len := 4, ask := .write, st := .ready, pa := 0x400080, data := 5 }

/-- A store of those two lanes. -/
def twoLaneStore : Op :=
  { g := 0, ctx := 0, core := 0, pc := 0, word := 0, path := 0, act := 3, live := 3, sup := false, kind := .store, tick := 0,
    accs := [acrossLine, afterLine] }

/-- The module at reset with that store in flight. -/
def twoLaneState : State := { State.reset with ops := [(1, twoLaneStore)], nextOp := 2 }

theorem twoLaneState_servedHere : ServedHere twoLaneState 1 1 twoLaneStore afterLine where
  here := rfl
  home := by decide
  plain := by decide
  free := by decide
  wf := rfl

theorem twoLaneStore_wholeAccs : twoLaneStore.wholeAccs := ⟨by decide, by decide⟩

/-- Lane 1's write is the only one that begins in its line. -/
theorem eq_afterLine_of_lineAt {j : Nat} {b : Access} (hb : twoLaneStore.accs[j]? = some b)
    (line : lineAt b.pa = lineAt afterLine.pa) : j = 1 ∧ b = afterLine := by
  match j, hb with
  | 0, hb => cases hb; exact absurd line (by decide)
  | 1, hb => cases hb; exact ⟨rfl, rfl⟩

/-- The home writes nothing: lane 0 does not begin in the line, and lane 1 waits for lane 0. -/
theorem homeWriteStep_twoLaneState : twoLaneState.homeWriteStep 1 1 = twoLaneState := by
  have here : twoLaneState.acc? 1 1 = some (twoLaneStore, afterLine) := rfl
  have across : twoLaneState.acc? 1 0 = some (twoLaneStore, acrossLine) := rfl
  have otherLine : lineAt acrossLine.pa ≠ lineAt afterLine.pa := by decide
  have whole : twoLaneStore.otherParts acrossLine = [] := twoLaneStore_wholeAccs.2 _ (by decide)
  have waits : twoLaneState.partsReady 1 twoLaneStore afterLine = false := partsReady_eq_false (k := 1) rfl rfl (by decide)
  have two : List.range twoLaneStore.accs.length = [0, 1] := rfl
  simp [State.homeWriteStep, here, across, otherLine, whole, waits, two]

/-- Refutes O30, in its clause about stores: of a store with 8 bytes across the end of a line and, in a higher lane, the word 5 at the
start of the next line, the home applies nothing to that line, and its byte 0x400080 stays 0. -/
theorem not_memoryBytes : ¬ Obligations.MemoryBytes := by
  unfold Obligations.MemoryBytes
  rintro ⟨stores, -⟩
  obtain ⟨t, ht, -, -, written⟩ := stores twoLaneState 1 1 twoLaneStore afterLine twoLaneState_servedHere rfl twoLaneStore_wholeAccs
    (by decide) fun j b hb line => by
      obtain ⟨rfl, rfl⟩ := eq_afterLine_of_lineAt hb line
      exact ⟨twoLaneState_servedHere, rfl, by decide⟩
  have same : t = twoLaneState := by
    have step : exec (.homeWrite 1 1) twoLaneState = .next (twoLaneState.homeWriteStep 1 1) := rfl
    rw [step, homeWriteStep_twoLaneState] at ht
    exact (Host.Outcome.next.inj ht).symm
  subst same
  exact absurd (written 0x400080) (by decide)

end Sys2Proof.Machine
end

section
/-! PROOFS. What the issue of an instruction leaves of its group, what `mode`, `wrmd` and `rdmd` make of MD, which lanes are
active, and the completion of the scalar, predicate, mode and conversion instructions. -/

namespace Sys2Proof.Machine

/-! ### Path entries, registers and lanes -/

theorem Group.entryAt_setEntry_self (g : Group) {q : Nat} (e : PathEntry) (h : q < 64) : (g.setEntry q e).entryAt q = e := by
  simp [Group.entryAt, Group.setEntry, h]

theorem Group.onlyEntry_setEntry (g : Group) (q : Nat) (e : PathEntry) : g.onlyEntry (g.setEntry q e) q := by
  intro k ne
  by_cases hq : q < 64 <;> simp [Group.entryAt, Group.setEntry, hq, Vector.getElem_set_ne _ _ (Ne.symm ne)]

theorem Group.entryAt_updEntry_self (g : Group) {q : Nat} (f : PathEntry → PathEntry) (h : q < 64) :
    (g.updEntry q f).entryAt q = f (g.entryAt q) := g.entryAt_setEntry_self _ h

theorem Group.onlyEntry_updEntry (g : Group) (q : Nat) (f : PathEntry → PathEntry) : g.onlyEntry (g.updEntry q f) q :=
  g.onlyEntry_setEntry _ _

theorem Group.sreg_setS (g : Group) (d r : BitVec 6) (x : Word) : (g.setS d x).sreg r = if r = d then x else g.sreg r := by
  simp [Group.sreg, Group.setS, Vector.getElem_set, BitVec.toNat_inj, eq_comm]

theorem lane_and (m n : Mask) (l : Fin 16) : lane (m &&& n) l = (lane m l && lane n l) := BitVec.getLsbD_and

theorem lane_not (m : Mask) (l : Fin 16) : lane (~~~m) l = !lane m l := by simp [lane]

theorem lane_allOnes (l : Fin 16) : lane (BitVec.allOnes 16) l = true := by
  simp only [lane, BitVec.getLsbD_allOnes, l.isLt, decide_true]

/-- The guard of 01 R21. -/
theorem Group.lane_passing (g : Group) (md : Word) (l : Fin 16) :
    lane (g.passing md) l = (!mdGe md || (lane (g.pred (mdGp md)) l != mdGs md)) := by
  unfold Group.passing
  cases mdGe md
  · exact lane_allOnes l
  · cases mdGs md <;> simp [lane_not]

/-- Settles O17: the guard is `Group.lane_passing`, and live(P) leaves out the halted lanes (06 R133). -/
theorem activeLanes : Obligations.ActiveLanes := fun g m md l =>
  ⟨g.lane_passing md l, by rw [Group.activeOf, Group.liveOf, lane_and, lane_and, lane_not]⟩

/-! ### What issues -/

/-- The instruction that path q of group g issues, as it goes to its effect (01 R22; 06 R133, R156). -/
def State.issAt (s : State) (w : IWord) (u : Use) (gid q : Nat) (g : Group) : Iss :=
  let e := g.entryAt q
  let x := e.pc + BitVec.ofNat 64 w.len
  let n := g.loops.count x (g.loops.ending x)
  let live := g.liveOf e.mask
  { gid := gid, path := q, e := e, pc := e.pc, next := n.1, md := e.md, live := live,
    act := if u.guard then g.activeOf e.mask e.md else live, word := w.word, len := w.len, tick := s.gnomon, mark := s.nextOp,
    seq := s.issues + 1, native := s.native g, loops := g.loops,
    g := { g with loops := n.2 }.updEntry q fun e => { e with pc := n.1 } }

/-- An instruction that issues is the one of the path that has the turn. -/
theorem preIssue_go {w : IWord} {u : Use} {s : State} {c : Iss} (h : preIssue w u s = .go c) :
    ∃ gid q g, s.cur = some (gid, q) ∧ s.groups.get? gid = some g ∧ g.mayTurn q = true ∧ c = s.issAt w u gid q g := by
  unfold preIssue at h
  split at h
  · cases h
  next gid q hcur =>
  split at h
  · cases h
  next g hg =>
  split at h
  · cases h
  next turn =>
  simp only at h
  split at h
  · cases h
  -- checks 2 to 6, the traps of the end action and the trap of poison each raise or wait
  split at h
  · split at h <;> cases h
  split at h
  · split at h <;> cases h
  split at h
  · split at h <;> cases h
  split at h
  · cases h
  · cases h
  · exact ⟨gid, q, g, hcur, hg, by simpa using turn, (Pre.go.inj h).symm⟩

theorem Group.lt_four_of_mayTurn {g : Group} {q : Nat} (h : g.mayTurn q = true) : q < 4 := by
  simp only [Group.mayTurn, Bool.and_eq_true, decide_eq_true_eq] at h
  obtain ⟨⟨⟨-, place⟩, -⟩, -⟩ := h
  exact place

/-- No live loop ends at the address. -/
theorem LoopRegs.ending_eq_nil {r : LoopRegs} {x : DWord} (h0 : r.lc0 = 0 ∨ r.le0 ≠ x) (h1 : r.lc1 = 0 ∨ r.le1 ≠ x) :
    r.ending x = [] := by
  have l0 : (r.lc0 != 0 && r.le0 == x) = false := by rcases h0 with h | h <;> simp [h]
  have l1 : (r.lc1 != 0 && r.le1 == x) = false := by rcases h1 with h | h <;> simp [h]
  simp only [LoopRegs.ending, l0, l1, Bool.and_self, Bool.false_eq_true, if_false]

theorem IWord.ofNat_len (w : IWord) : BitVec.ofNat 64 w.len = if w.lit then 8 else 4 := by
  unfold IWord.len; cases w.lit <;> rfl

/-! ### The fields of MD -/

/-- A word with bits lo to lo + n - 1 replaced. -/
def withField {n : Nat} (lo : Nat) (x : BitVec n) (md : Word) : Word :=
  (md &&& ~~~((BitVec.allOnes n).setWidth 32 <<< lo)) ||| (x.setWidth 32 <<< lo)

theorem getLsbD_withField {n lo k : Nat} (x : BitVec n) (md : Word) (hk : k < 32) :
    (withField lo x md).getLsbD k = if lo ≤ k ∧ k < lo + n then x.getLsbD (k - lo) else md.getLsbD k := by
  have inWord : k - lo < 32 := by omega
  by_cases below : k < lo
  · have outside : ¬(lo ≤ k ∧ k < lo + n) := by omega
    simp [withField, hk, below, outside]
  · by_cases inside : k < lo + n
    · have inField : k - lo < n := by omega
      have bounds : lo ≤ k ∧ k < lo + n := by omega
      simp [withField, hk, below, bounds, inField]
    · have beyond : n ≤ k - lo := by omega
      have outside : ¬(lo ≤ k ∧ k < lo + n) := by omega
      simp [withField, hk, below, outside, Nat.not_lt.2 beyond, BitVec.getLsbD_of_ge x _ beyond]

/-- A field of an arithmetic mode body, replaced when its mask bit m is 1 (02 R40). -/
def maskedField {n : Nat} (m : BitVec 1) (lo : Nat) (x : BitVec n) (md : Word) : Word := if m = 1 then withField lo x md else md

theorem getLsbD_maskedField {n lo k : Nat} (m : BitVec 1) (x : BitVec n) (md : Word) (hk : k < 32) :
    (maskedField m lo x md).getLsbD k =
      if lo ≤ k ∧ k < lo + n then (if m = 1 then x.getLsbD (k - lo) else md.getLsbD k) else md.getLsbD k := by
  unfold maskedField
  split
  · exact getLsbD_withField x md hk
  · exact (ite_self _).symm

theorem modeArithMd_eq (g t r sm f : BitVec 1) (p : BitVec 3) (e v : BitVec 1) (y : BitVec 4) (n : BitVec 3) (u z : BitVec 1) (md : Word) :
    modeArithMd g t r sm f p e v y n u z md =
      maskedField f 13 z (maskedField sm 12 u (maskedField r 9 n (maskedField t 5 y (maskedField g 0 (v ++ e ++ p) md)))) := by
  have guard : withField 0 (v ++ e ++ p) = fun md => (md &&& ~~~0x1F) ||| (v ++ e ++ p).setWidth 32 := by
    funext md; simp [withField]
  simp only [maskedField, guard]
  rfl

theorem modeBufMd_eq (b : BitVec 8) (md : Word) : modeBufMd b md = withField 16 b md := rfl

/-- The guard fields gp, ge and gs of MD (01 R20). -/
theorem getLsbD_guardFields (p : BitVec 3) (e v : BitVec 1) (k : Nat) :
    (v ++ e ++ p).getLsbD k = if k < 3 then p.getLsbD k else if k = 3 then e.getLsbD 0 else v.getLsbD (k - 4) := by
  rw [BitVec.getLsbD_append, BitVec.getLsbD_append]
  grind

/-- The fields lie apart (01 R20), so that each bit of MD is that of at most one of them. -/
theorem getLsbD_modeArithMd (g t r sm f : BitVec 1) (p : BitVec 3) (e v : BitVec 1) (y : BitVec 4) (n : BitVec 3) (u z : BitVec 1)
    (md : Word) {k : Nat} (hk : k < 32) :
    (modeArithMd g t r sm f p e v y n u z md).getLsbD k =
      (if k < 3 then (if g = 1 then p.getLsbD k else md.getLsbD k)
      else if k = 3 then (if g = 1 then e.getLsbD 0 else md.getLsbD k)
      else if k = 4 then (if g = 1 then v.getLsbD 0 else md.getLsbD k)
      else if k < 9 then (if t = 1 then y.getLsbD (k - 5) else md.getLsbD k)
      else if k < 12 then (if r = 1 then n.getLsbD (k - 9) else md.getLsbD k)
      else if k = 12 then (if sm = 1 then u.getLsbD 0 else md.getLsbD k)
      else if k = 13 then (if f = 1 then z.getLsbD 0 else md.getLsbD k)
      else md.getLsbD k) := by
  simp only [modeArithMd_eq, getLsbD_maskedField _ _ _ hk, getLsbD_guardFields]
  grind

/-! ### The path and MD of an instruction that issues -/

theorem setMdEff_entry (f : Iss → Word) (c : Iss) (h : c.path < 64) :
    (setMdEff f c).entryAt c.path = { c.g.entryAt c.path with md := f c } ∧ c.g.onlyEntry (setMdEff f c) c.path ∧
      (setMdEff f c).regs = c.g.regs :=
  ⟨c.g.entryAt_updEntry_self _ h, c.g.onlyEntry_updEntry _ _, c.g.updEntry_regs _ _⟩

theorem Group.updEntry_loops (g : Group) (q : Nat) (f : PathEntry → PathEntry) : (g.updEntry q f).loops = g.loops :=
  congrArg Regs.loops (g.updEntry_regs q f)

section
variable (s : State) (w : IWord) (u : Use) (gid q : Nat) (g : Group)

/-- The next PC and the loop registers are those of the end action after the instruction's words (06 R156). -/
theorem State.issAt_count :
    ((s.issAt w u gid q g).next, (s.issAt w u gid q g).g.loops) =
      g.loops.count ((g.entryAt q).pc + if w.lit then 8 else 4) (g.loops.ending ((g.entryAt q).pc + if w.lit then 8 else 4)) := by
  rw [← IWord.ofNat_len]
  exact Prod.ext rfl (Group.updEntry_loops _ _ _)

theorem State.issAt_entry (h : q < 64) :
    (s.issAt w u gid q g).g.entryAt q = { g.entryAt q with pc := (s.issAt w u gid q g).next } :=
  Group.entryAt_updEntry_self _ _ h

theorem State.issAt_onlyEntry : g.onlyEntry (s.issAt w u gid q g).g q := Group.onlyEntry_updEntry { g with loops := _ } q _

theorem State.issAt_regs : { (s.issAt w u gid q g).g.regs with loops := g.loops } = g.regs :=
  congrArg (fun r => ({ r with loops := g.loops } : Regs)) (Group.updEntry_regs { g with loops := _ } q _)

end

/-- Settles O27: an instruction that issues is `State.issAt`, whose entry, registers and end action are said above, and each bit of
MD lies in one field of the mode body. -/
theorem modeAndPc : Obligations.ModeAndPc := by
  refine ⟨fun w u s c go => ?_, fun g t r sm f p e v y n u z md k hk => getLsbD_modeArithMd g t r sm f p e v y n u z md hk,
    fun b md k hk => ?_, setMdEff_entry, fun a c => ?_, fun d r g x => ⟨g.sreg_setS d r x, rfl, rfl⟩⟩
  · obtain ⟨gid, q, g, cur, here, turn, rfl⟩ := preIssue_go go
    have place : q < 4 := Group.lt_four_of_mayTurn turn
    have count := s.issAt_count w u gid q g
    refine ⟨g, here, cur, place, rfl, rfl, rfl, rfl, s.issAt_entry w u gid q g (by omega), s.issAt_onlyEntry w u gid q g,
      s.issAt_regs w u gid q g, fun no0 no1 => ?_, count⟩
    have straight := LoopRegs.ending_eq_nil no0 no1
    exact Prod.ext_iff.1 (count.trans (congrArg (g.loops.count _) straight))
  · rw [modeBufMd_eq, getLsbD_withField b md hk]
  · simp only [wrmdEff, mdLegal, beq_iff_eq]

/-! ### Completion -/

/-- An instruction that issues with an effect on its group alone has that effect. -/
theorem onGroup_of_exec {i : Instr} {w : IWord} {u : State → Use} {f : Iss → Group}
    (hx : ∀ s, exec i s = issue w (u s) (groupEff f) s) : OnGroup i w u f := fun s _ h =>
  hx s ▸ issue_group h

/-- The same of an effect with exception flags. -/
theorem onGroup_of_execF {i : Instr} {w : IWord} {u : State → Use} {f : Iss → Group × List (Fin 16 × Flags)}
    (hx : ∀ s, exec i s = issue w (u s) (groupEffF f) s) : OnGroup i w u fun c => (f c).1 := fun s _ h =>
  hx s ▸ issue_group h

theorem onGroupOr_of_exec {i : Instr} {w : IWord} {u : State → Use} {f : Iss → Except Trap Group}
    (hx : ∀ s, exec i s = issue w (u s) (groupTrapEff f) s) : OnGroupOr i w u f := fun s _ _ ok h =>
  hx s ▸ issue_groupOr ok h

theorem ownTrap_of_exec {i : Instr} {w : IWord} {u : State → Use} {f : Iss → Except Trap Group}
    (hx : ∀ s, exec i s = issue w (u s) (groupTrapEff f) s) : OwnTrap i w u f := fun s _ _ _ go trap raise =>
  hx s ▸ issue_ownTrap go trap raise

/-- wrmd of a value with no reserved bit writes it (01 R23). -/
theorem wrmdEff_of_legal {a : BitVec 6} {c : Iss} (h : mdLegal (c.g.sreg a) = true) :
    wrmdEff a c = .ok (setMdEff (fun c => c.g.sreg a) c) := if_pos h

/-- mxscl with all 16 lanes active raises no trap (05 R121). -/
theorem mxsclEff_of_full (d : BitVec 6) (a : BitVec 8) {c : Iss} (h : c.act = 0xFFFF) : ∃ g, mxsclEff d a c = .ok g :=
  ⟨_, if_neg (not_not.2 h)⟩

theorem mxqEff_of_full (d a : BitVec 8) (b : BitVec 6) {c : Iss} (h : c.act = 0xFFFF) (s : State) :
    mxqEff d a b c s = groupEffF (mxqGroup d a b) c s := if_neg (not_not.2 h)

/-- Settles O42: `exec` issues each of the instructions with an effect on its group alone, and wrmd with one that may trap. -/
theorem scalarInstructions : Obligations.ScalarInstructions := by
  unfold Obligations.ScalarInstructions
  refine ⟨fun d => onGroup_of_exec fun _ => rfl, fun a => onGroupOr_of_exec fun _ => rfl, fun a => ownTrap_of_exec fun _ => rfl, ?_⟩
  and_intros
  all_goals intros; exact onGroup_of_exec fun _ => rfl

/-- Settles O54: wrmd, mxscl and mxq answer under their conditions, the conversions have effects with flags, and the other
instructions are those of O42. -/
theorem scalarComplete : Obligations.ScalarComplete := by
  obtain ⟨rdmd, -, -, pand, por, pxor, pnot, pmov, saddScb, saddLit, ssubScb, ssubLit, smulScb, smulLit, sandScb, sandLit, sorScb,
    sorLit, sxorScb, sxorLit, sshlScb, sshlLit, sshrScb, sshrLit, ssraScb, ssraLit, sminScb, sminLit, smaxScb, smaxLit,
    modeArith, modeBuf, scmpEqScb, scmpEqLit, scmpLtScb, scmpLtLit, smov, smovAlo, smovAhi, sli, aaddScb, aaddLit, amov⟩ := scalarInstructions
  exact ⟨rdmd, fun a => completes_group (fun _ => rfl) fun _ _ legal => ⟨_, wrmdEff_of_legal legal⟩,
    pand, por, pxor, pnot, pmov, saddScb, saddLit, ssubScb, ssubLit, smulScb, smulLit, sandScb, sandLit, sorScb, sorLit, sxorScb,
    sxorLit, sshlScb, sshlLit, sshrScb, sshrLit, ssraScb, ssraLit, sminScb, sminLit, smaxScb, smaxLit, modeArith, modeBuf,
    scmpEqScb, scmpEqLit, scmpLtScb, scmpLtLit, smov, smovAlo, smovAhi, sli, aaddScb, aaddLit, amov,
    fun d a f => onGroup_of_execF fun _ => rfl, fun d a b => onGroup_of_execF fun _ => rfl, fun d a k f => onGroup_of_execF fun _ => rfl,
    fun d a => completes_group (fun _ => rfl) fun _ _ full => mxsclEff_of_full d a full,
    fun d a b => issue_completes (fun _ => rfl) fun s c _ _ full => ⟨_, _, mxqEff_of_full d a b full s, .inr rfl, trivial⟩⟩

end Sys2Proof.Machine
end


section
/-! PROOFS. The decoder and the encoder: every opcode's row answers an instruction whose words are the word decoded, and every
instruction's words decode to it. -/

namespace Sys2Proof

/-! ### The fields of a word -/

theorem setWidth_setWidth_byte {x : Byte} {n : Nat} (h : x.toNat < 2 ^ n) : (x.setWidth n).setWidth 8 = x := by
  apply BitVec.eq_of_toNat_eq
  rw [BitVec.toNat_setWidth, BitVec.toNat_setWidth, Nat.mod_eq_of_lt h, Nat.mod_eq_of_lt x.isLt]

/-- A byte that names a register of n bits has its other bits 0 (01 R17). -/
theorem field_eq_some {n : Nat} (h : n ≤ 8) {x : Byte} {b : BitVec n} :
    (if x.toNat < 2 ^ n then some (x.setWidth n) else none) = some b ↔ x = b.setWidth 8 := by
  rw [Option.ite_none_right_eq_some, Option.some.injEq]
  refine ⟨fun ⟨lt, eq⟩ => by rw [← eq, setWidth_setWidth_byte lt], fun eq => ⟨?_, ?_⟩⟩
  · rw [eq, BitVec.toNat_setWidth]
    exact Nat.lt_of_le_of_lt (Nat.mod_le ..) b.isLt
  · rw [eq, BitVec.setWidth_setWidth_of_le b h, BitVec.setWidth_eq]

theorem rS_eq_some {x : Byte} {b : BitVec 6} : rS x = some b ↔ x = b.setWidth 8 := field_eq_some (n := 6) (by decide)
theorem rA_eq_some {x : Byte} {b : BitVec 4} : rA x = some b ↔ x = b.setWidth 8 := field_eq_some (n := 4) (by decide)
theorem rP_eq_some {x : Byte} {b : BitVec 3} : rP x = some b ↔ x = b.setWidth 8 := field_eq_some (n := 3) (by decide)

theorem rRun2_eq_some {x : Byte} {b : BitVec 5} : rRun2 x = some b ↔ x = wRun2 b := by
  have read : ∀ x : Byte, ∀ b ∈ rRun2 x, x = wRun2 b := by decide
  exact ⟨read x b, fun h => h ▸ rRun2_wRun2 b⟩

theorem rRun4_eq_some {x : Byte} {b : BitVec 4} : rRun4 x = some b ↔ x = wRun4 b := by
  have read : ∀ x : Byte, ∀ b ∈ rRun4 x, x = wRun4 b := by decide
  exact ⟨read x b, fun h => h ▸ rRun4_wRun4 b⟩

theorem eq_ofNat_of_toNat {x : Byte} {n : Nat} (h : x.toNat = n) : x = BitVec.ofNat 8 n := by
  rw [← h, BitVec.ofNat_toNat, BitVec.setWidth_eq]

/-- Neighbouring fields of a word join to the field that holds both. -/
theorem join_fields {n : Nat} (m : BitVec n) (lo a b : Nat) :
    m.extractLsb' (lo + a) b ++ m.extractLsb' lo a = m.extractLsb' lo (b + a) :=
  BitVec.extractLsb'_append_extractLsb'_eq_extractLsb' rfl

theorem word4_bytes (w : Word) :
    word4 (w.extractLsb' 24 8) (w.extractLsb' 16 8) (w.extractLsb' 8 8) (w.extractLsb' 0 8) = w := by
  rw [word4, join_fields w 16 8 8, join_fields w 8 8 16, join_fields w 0 8 24]
  exact BitVec.extractLsb'_eq_self

/-- A word whose 24-bit field is the join of three bytes (02 R38). -/
theorem word4_fields_join (o D A B : Byte) : word4 o ((D ++ A ++ B).extractLsb' 16 8) ((D ++ A ++ B).extractLsb' 8 8)
    ((D ++ A ++ B).extractLsb' 0 8) = word4 o D A B := by
  rw [extract_above _ _ 16 8 (by decide), extract_above _ _ _ 8 (by decide), extract_above _ _ 8 8 (by decide), extract_right,
    extract_right]
  exact congrArg (word4 o · A B) BitVec.extractLsb'_eq_self

theorem join_word4 (o D A B : Byte) : o ++ (D ++ A ++ B) = word4 o D A B := by
  rw [word4_join24, word4_fields_join]

/-- The fields of an arithmetic mode body make it up, with its two zero fields (02 R39). -/
theorem modeBody_fields {m : BitVec 24} (form : m.extractLsb' 22 2 = 0) (low : m.extractLsb' 0 3 = 0) :
    modeBody (m.extractLsb' 21 1) (m.extractLsb' 20 1) (m.extractLsb' 19 1) (m.extractLsb' 18 1) (m.extractLsb' 17 1)
      (m.extractLsb' 14 3) (m.extractLsb' 13 1) (m.extractLsb' 12 1) (m.extractLsb' 8 4) (m.extractLsb' 5 3)
      (m.extractLsb' 4 1) (m.extractLsb' 3 1) = m := by
  have form' : 0#2 = m.extractLsb' 22 2 := form.symm
  have low' : 0#3 = m.extractLsb' 0 3 := low.symm
  rw [modeBody, form', low', join_fields m 21 1 2, join_fields m 20 1 3, join_fields m 19 1 4, join_fields m 18 1 5,
    join_fields m 17 1 6, join_fields m 14 3 7, join_fields m 13 1 10, join_fields m 12 1 11, join_fields m 8 4 12,
    join_fields m 5 3 16, join_fields m 4 1 19, join_fields m 3 1 20, join_fields m 0 3 21]
  exact BitVec.extractLsb'_eq_self

/-- The body of the buffer form of MOD, from its fields (02 R39). -/
theorem modeBuf_body {m : BitVec 24} (form : m.extractLsb' 22 2 = 1) (zero : m.extractLsb' 8 14 = 0) :
    0x40#8 ++ 0#8 ++ m.extractLsb' 0 8 = m := by
  have high : m.extractLsb' 8 16 = 0x40#8 ++ 0#8 := by
    rw [← join_fields m 8 14 2, form, zero]; rfl
  rw [← high, join_fields m 0 8 16]
  exact BitVec.extractLsb'_eq_self

/-- The fields of unpk make up its byte B (05 R119). -/
theorem unpk_byte {B : Byte} (h : B.getLsbD 7 = false) : 0#1 ++ B.extractLsb' 4 3 ++ B.extractLsb' 0 4 = B := by
  revert B; decide

/-- The function code of a fence: the order above a zero bit and the scope (03 R61). -/
theorem fence_byte {B : Byte} (h : B.getLsbD 3 = false) : BitVec.ofNat 5 (2 * (B.toNat / 16)) ++ B.extractLsb' 0 3 = B := by
  revert B; decide

/-! ### The rows of the opcode map -/

/-- What a row of the opcode map answers for the fields of a word is an instruction with words, and its words are this word,
with the trailing word when the opcode o has the literal format (02 R33, R36). -/
def Faithful (o : Nat) (D A B : Byte) (k : Word) (x : Option Instr) : Prop :=
  ∀ i, x = some i → i.hasWords = true ∧
    encode i = if isLit o then [word4 (BitVec.ofNat 8 o) D A B, k] else [word4 (BitVec.ofNat 8 o) D A B]

section
variable {o : Nat} {D A B : Byte} {k : Word}

theorem faithful_none : Faithful o D A B k none ↔ True := by simp [Faithful]

theorem faithful_some {i : Instr} : Faithful o D A B k (some i) ↔ i.hasWords = true ∧
    encode i = if isLit o then [word4 (BitVec.ofNat 8 o) D A B, k] else [word4 (BitVec.ofNat 8 o) D A B] := by
  simp [Faithful]

theorem faithful_ite {c : Prop} [Decidable c] {x y : Option Instr} :
    Faithful o D A B k (if c then x else y) ↔ (c → Faithful o D A B k x) ∧ (¬c → Faithful o D A B k y) := by
  split <;> simp [*]

theorem faithful_bind {α : Type} {x : Option α} {f : α → Option Instr} :
    Faithful o D A B k (x >>= f) ↔ ∀ b, x = some b → Faithful o D A B k (f b) := by
  cases x <;> simp [Faithful]

theorem faithful_orElse {x y : Option Instr} (hx : Faithful o D A B k x) (hy : Faithful o D A B k y) :
    Faithful o D A B k (x <|> y) := by
  cases x
  · exact hy
  · exact hx

/-- A branch word holds the 24 bits of its offset (02 R38). -/
theorem faithful_branch {f : BitVec 24 → Instr} (hw : (f (D ++ A ++ B)).hasWords = true) (hl : isLit o = false)
    (he : ∀ m, encode (f m) = [word4 (BitVec.ofNat 8 o) (m.extractLsb' 16 8) (m.extractLsb' 8 8) (m.extractLsb' 0 8)]) :
    Faithful o D A B k (some (f (D ++ A ++ B))) := by
  rw [faithful_some, he, word4_fields_join, hl]
  exact ⟨hw, rfl⟩

/-- The MOD format (02 R39). -/
theorem faithful_decMode : Faithful 0xA0 D A B k (decMode (D ++ A ++ B)) := by
  have word := join_word4 0xA0#8 D A B
  unfold decMode
  generalize D ++ A ++ B = m at word
  simp only [faithful_none, faithful_some, faithful_ite, implies_true, and_true, and_imp]
  refine ⟨fun form low => ⟨rfl, ?_⟩, fun _ form zero => ⟨rfl, ?_⟩⟩
  · have body := congrArg (fun m => [0xA0#8 ++ m]) (modeBody_fields form low)
    rwa [word] at body
  · have body := congrArg (fun m => [0xA0#8 ++ m]) (modeBuf_body form zero)
    rwa [word, join_word4] at body

/-- The unary and the control families: byte B is the function code (03 R59, R60). -/
theorem faithful_families : Faithful 0x01 D A B k (decInt D A B) ∧ Faithful 0x02 D A B k (decFp D A B) ∧
    Faithful 0x03 D A B k (decCtl D A B) := by
  generalize code : B.toNat = m
  obtain rfl := eq_ofNat_of_toNat code
  refine ⟨?_, ?_, ?_⟩
  all_goals simp only [decInt, decFp, decCtl, code]
  all_goals split
  any_goals apply faithful_orElse
  all_goals simp only [faithful_none, faithful_some, faithful_bind, faithful_ite, rS_eq_some, rA_eq_some, rP_eq_some, implies_true,
    and_true, and_imp]
  all_goals intros; subst_vars; exact ⟨rfl, rfl⟩

/-- The ordering family (03 R61). -/
theorem faithful_decOrd : Faithful 0x04 D A B k (decOrd D A B) := by
  unfold decOrd
  refine faithful_ite.2 ⟨fun wret => ?wret, fun _ => faithful_ite.2 ⟨fun code => ?bar, fun _ => faithful_ite.2 ⟨fun code => ?barw,
    fun _ => faithful_ite.2 ⟨fun code => ?gbar, fun _ => faithful_ite.2 ⟨fun code => ?rend, fun _ =>
      faithful_ite.2 ⟨fun _ => faithful_none.2 trivial, fun zero => ?fence⟩⟩⟩⟩⟩⟩
  case wret =>
    have code := setWidth_setWidth_byte (n := 3) wret
    refine faithful_bind.2 fun a hA => faithful_ite.2 ⟨fun hD => faithful_some.2 ⟨rfl, ?_⟩, fun _ => faithful_none.2 trivial⟩
    rw [rS_eq_some.1 hA, hD]
    exact congrArg (fun b => [word4 0x04 0 (a.setWidth 8) b]) code
  case bar | barw | gbar | rend =>
    obtain rfl := eq_ofNat_of_toNat code
    simp only [faithful_none, faithful_some, faithful_bind, faithful_ite, rS_eq_some, implies_true, and_true, and_imp]
    intros
    subst_vars
    exact ⟨rfl, rfl⟩
  case fence =>
    obtain ⟨hD, hA, bit⟩ : D = 0 ∧ A = 0 ∧ B.getLsbD 3 = false := by simpa [not_or] using zero
    have code := fence_byte bit
    subst hD hA
    split_ifs with acq rel ar
    · rw [acq] at code
      exact faithful_some.2 ⟨rfl, congrArg (fun b => [word4 0x04 0 0 b]) code⟩
    · rw [rel] at code
      exact faithful_some.2 ⟨rfl, congrArg (fun b => [word4 0x04 0 0 b]) code⟩
    · rw [ar] at code
      exact faithful_some.2 ⟨rfl, congrArg (fun b => [word4 0x04 0 0 b]) code⟩
    · exact faithful_none.2 trivial

theorem faithful_dec0 (n : Nat) : Faithful n D A B k (dec0 n D A B k) := by
  obtain ⟨int, fp, ctl⟩ := faithful_families (D := D) (A := A) (B := B) (k := k)
  unfold dec0
  split
  · exact int
  · exact fp
  · exact ctl
  · exact faithful_decOrd
  case h_11 =>
    split_ifs with reserved
    · exact faithful_none.2 trivial
    · have byte : 0#1 ++ B.extractLsb' 4 3 ++ B.extractLsb' 0 4 = B := unpk_byte (by simpa using reserved)
      exact faithful_some.2 ⟨rfl, congrArg (fun b => [word4 0x0B D A b]) byte⟩
  all_goals simp only [faithful_none, faithful_some, faithful_bind, faithful_ite, rA_eq_some, rP_eq_some, implies_true, and_true,
    and_imp]
  all_goals intros; subst_vars; exact ⟨rfl, rfl⟩

theorem faithful_dec8 (n : Nat) : Faithful n D A B k (dec8 n D A B k) := by
  unfold dec8
  split
  iterate 6
    · exact faithful_branch rfl rfl fun _ => rfl
  all_goals simp only [faithful_none, faithful_some, faithful_bind, faithful_ite, rS_eq_some, implies_true, and_true]
  all_goals intros; subst_vars; exact ⟨rfl, rfl⟩

theorem faithful_decA (n : Nat) : Faithful n D A B k (decA n D A B k) := by
  unfold decA
  split
  · exact faithful_decMode
  any_goals repeat' apply faithful_orElse
  all_goals simp only [faithful_none, faithful_some, faithful_bind, faithful_ite, rS_eq_some, rA_eq_some, rP_eq_some, implies_true,
    and_true, and_imp]
  all_goals intros; subst_vars; exact ⟨rfl, rfl⟩

theorem faithful_decodeMap (n : Nat) : Faithful n D A B k (decodeMap n D A B k) := by
  unfold decodeMap
  split
  · exact faithful_dec0 n
  case h_9 => exact faithful_dec8 n
  case h_11 => exact faithful_decA n
  case h_16 => exact faithful_none.2 trivial
  all_goals simp only [dec1, dec2, dec3, dec4, dec5, dec6, dec7, dec9, decB, decC, decD, decE]
  all_goals split
  any_goals apply faithful_orElse
  all_goals simp only [faithful_none, faithful_some, faithful_bind, faithful_ite, rS_eq_some, rA_eq_some, rP_eq_some, rRun2_eq_some,
    rRun4_eq_some, implies_true, and_true, and_imp]
  all_goals intros; subst_vars; exact ⟨rfl, rfl⟩
end

/-! ### The obligations about decoding -/

/-- What `decode` answers is well formed, and is the answer of the word's row of the opcode map (02 R41 checks 2 and 3). -/
theorem decode_ok {w k : Word} {i : Instr} (h : decode w k = .ok i) : i.wellFormed = true ∧
    decodeMap (w.extractLsb' 24 8).toNat (w.extractLsb' 16 8) (w.extractLsb' 8 8) (w.extractLsb' 0 8) k = some i := by
  unfold decode at h
  dsimp only at h
  split at h
  · cases h
  split at h
  · cases h
  split at h
  · next j row =>
    split at h
    · next wf =>
      cases h
      exact ⟨wf, row⟩
    · cases h
  · cases h

/-- Settles O3: the row of the word's opcode is faithful to the word. -/
theorem encodeOfDecode : Obligations.EncodeOfDecode := by
  intro w k i h
  obtain ⟨wf, row⟩ := decode_ok h
  obtain ⟨words, code⟩ := faithful_decodeMap _ i row
  rw [BitVec.ofNat_toNat, BitVec.setWidth_eq, word4_bytes] at code
  exact ⟨wf, words, code⟩

/-- Settles O1: each word is computed. -/
theorem decodeWords : Obligations.DecodeWords := by
  unfold Obligations.DecodeWords
  decide

end Sys2Proof

namespace Sys2Proof.Laws.RoundTrip

/-- Every instruction, by its own law of Laws/PerInstr: the rows of the primary map decode to it, and an event has no words. -/
theorem of_instr : ∀ i, Statement i :=
  @Instr.rec Statement
    abs neg notB clz popc brev voteAny voteAll ballot lredAdd lredMin lredMax lid rng rngs fabs fneg frcp frsq fsqrt fex2 flg2 fsin
    fcos frnd nop exit yield brk merge ret lbrkLc0 lbrkLc1 rdmd wrmd tret ecall sleep tlbiVa tlbiCtx tlbiAll hstep hres wcpin wcunp
    wcinv wcinvAll rtgen rtinv rtinvAll cwait cncl rdtm wtm wret bar barw gbar rend fenceAcq fenceRel fenceAr atom red cas trap cvt
    pack2 unpk pand por pxor pnot addReg addScb addLit subReg subScb subLit addcReg addcScb addcLit subbReg subbScb subbLit mulReg
    mulScb mulLit mulhReg mulhScb mulhLit madReg madScb madLit minReg minScb minLit maxReg maxScb maxLit andReg andScb andLit orReg
    orScb orLit xorReg xorScb xorLit andnReg andnScb andnLit shlReg shlScb shlLit shrReg shrScb shrLit sraReg sraScb sraLit rotlReg
    rotlScb rotlLit bfxReg bfxScb bfxLit bfiReg bfiScb bfiLit selReg selScb selLit cmpEqReg cmpEqScb cmpEqLit cmpLtReg cmpLtScb
    cmpLtLit faddReg faddScb faddLit fsubReg fsubScb fsubLit fmulReg fmulScb fmulLit fmaReg fmaScb fmaLit fminReg fminScb fminLit
    fmaxReg fmaxScb fmaxLit fclsReg fclsScb fclsLit fcmpEqReg fcmpEqScb fcmpEqLit fcmpLtReg fcmpLtScb fcmpLtLit fcmpLeReg fcmpLeScb
    fcmpLeLit dot4Reg dot4Scb dot4Lit fdot2Reg fdot2Scb fdot2Lit pmov movReg movScb movLit bcast shflIdxReg shflIdxLit shflUp shflDn
    shflXor br jmp call split loopLc0 loopLc1 rdlnScb rdlnLit wrlnScb wrlnLit saddScb saddLit ssubScb ssubLit smulScb smulLit
    sandScb sandLit sorScb sorLit sxorScb sxorLit sshlScb sshlLit sshrScb sshrLit ssraScb ssraLit sminScb sminLit smaxScb smaxLit
    modeArith modeBuf scmpEqScb scmpEqLit scmpLtScb scmpLtLit smov smovAlo smovAhi sli aaddScb aaddLit amov ldReg ldScb ldLit stReg
    stScb stLit ldsReg ldsLit stsReg stsLit ldcReg ldcLit ldaReg ldaLit strReg strLit prefReg prefLit cp cp2d cpr barv mwait mma
    mmakb accq accr accld accst acczr mprio smp smpg smpl txf rtrc rtnx rtrs rthit rtri rtw rclr zts launch rdparam wpw wpr hrd hwr
    csrr csrw grow growTry shrink mxscl mxq cpdec ldbReg ldbLit radv rrd rrdObs rdcmp smpn xmma xmaskWrite almapWrite orcmdRegister
    orcmdDrop orcmdNoOp trctlReset instrFetchReturn mergeJoin stepTrap registerLineFill growGrant homeRead fillArrival dataReturn
    homeWrite completionTimeReturn homeAtomic monitorCheck mwaitReply holderAccess windowAccess leaseExpiry releaseEnd acquireEnd
    beacon hostRead hostWrite backInvalidateAnswer hostWriteBack hostMemoryCompletion retentionEnter retentionWake
    barGenerationComplete gridCounterAssign gbarGenerationComplete copyAccept copyChunk copyEnd groupEndRelease tileEntryBegin
    kstepBoundary tileEntryEnd tokenGrant accMoveDone entryAging sampleReturn weightFill wcinvDone lendingStepBegin lendingStepEnd
    lendingTimer rayResult rasterStamp depthTest pixelGroupSpawn tileUpdate passEnd wptrWake jobStart phaseStart graphStart
    notBeforePass launchReady launchAging aggregatorDispatch blockPlace preemptBlock blockComplete entityEnd jobEnd walkComplete
    faultReply groupReplay ssqDrain tlbiEnd groupSave blockSaved groupResume sleepExpire wtmExpire ptpExchange linkTimingExchange
    lockTimeout linkTraining linkFailure flitReceive flitPause flitResume peerRequest peerResponse hostLinkTrainDown haltPropagation
    mirrorHalt pcSample traceRecordWrite scrub dieLoss spareActivation sliceRetirement rowRepair channelRetirement powerOnReset
    hostLinkUp firmwareVerified imageVerified applyComplete qtbWrite pcapWrite hostRegWrite hcmdInvalidate hcmdInvalidateCtx
    hcmdMigrate hcmdSaveCtx hcmdReleaseCtx hcmdAttest hcmdUnassigned powerCapCheck corePowerGate illegalInstruction illegalEncoding
    noGroupExtension tileLineFill flashWriteComplete powerLoss

end Sys2Proof.Laws.RoundTrip

namespace Sys2Proof

/-- Settles O2, instruction by instruction. -/
theorem decodeOfEncode : Obligations.DecodeOfEncode := Laws.RoundTrip.of_instr

end Sys2Proof
end

section
/-! PROOFS. The checks before an instruction has any effect, and the traps of the words that decode to no instruction. -/

namespace Sys2Proof.Machine

/-! ### Words that decode to no instruction -/

theorem decode_reserved {w : Word} (k : Word) (h : (w.extractLsb' 24 8).toNat = 0 ∨ 0xF0 ≤ (w.extractLsb' 24 8).toNat) :
    decode w k = .error .illegalInstruction := if_pos h

theorem instrOf_reserved {w : Word} (k : Word) (h : (w.extractLsb' 24 8).toNat = 0 ∨ 0xF0 ≤ (w.extractLsb' 24 8).toNat) :
    instrOf w k = .illegalInstruction w := by
  rw [instrOf, decode_reserved k h]

/-- A path whose word decodes to no instruction takes its trap t, when it may issue and a trap can be taken (02 R41). -/
theorem decodeTrap_next {t : Group → Mask → Trap} {s r : State} {g q : Nat} {x : Group} (cur : s.cur = some (g, q))
    (here : s.groups.get? g = some x) (turn : x.mayTurn q = true)
    (may : s.mayIssue g x (x.entryAt q) { guard := false } = true)
    (raise : s.raiseTrap g q (t x (x.liveOf (x.entryAt q).mask)) = some r) : decodeTrap t s = .next r := by
  simp only [decodeTrap, cur, here, turn, may, raise, Bool.not_true, Bool.false_eq_true, if_false]

/-- Settles O4: the opcode is none of the map's, and the word's step is `decodeTrap`. -/
theorem reservedOpcodes : Obligations.ReservedOpcodes := fun w k reserved =>
  ⟨decode_reserved k reserved, instrOf_reserved k reserved, fun _ _ _ _ _ cur here turn may raise =>
    decodeTrap_next (t := fun _ live => { cause := 0x01, val := w, lanes := live }) cur here turn may raise⟩

/-- Settles O5: each of the three steps is `decodeTrap` with its own trap. -/
theorem decodeFailures : Obligations.DecodeFailures := fun w k _ _ _ _ _ cur here turn may =>
  ⟨decodeTrap_next (t := fun _ live => { cause := 0x01, val := w, lanes := live }) cur here turn may,
    decodeTrap_next (t := encodingTrap w k) cur here turn may,
    decodeTrap_next (t := fun g live => emulation w k (isLit (opcodeOf w)) true g.sup 0 live) cur here turn may⟩

/-! ### The checks in their order -/

section
variable {g : Group} {md : Word} {live : Mask} {w k : Word} {len8 : Bool} {u : Use}

/-- Check 2 passes: the feature group, if any, is enabled (03 R66). -/
theorem ext_any_eq_false (on : ∀ n, u.ext = some n → g.xmask.getLsbD n = true) :
    (u.ext.any fun n => !g.xmask.getLsbD n) = false := by
  cases hu : u.ext with
  | none => rfl
  | some n => simpa using on n hu

theorem checkFails_of_disabled {n : Nat} (ext : u.ext = some n) (off : g.xmask.getLsbD n = false) :
    checkFails g md live w k len8 u = some (emulation w k len8 false g.sup n live) := by
  simp [checkFails, ext, off]

theorem checkFails_of_user (on : ∀ n, u.ext = some n → g.xmask.getLsbD n = true) (sup : u.sup = true) (user : g.sup = false) :
    checkFails g md live w k len8 u = some { cause := 0x03, val := w, lanes := live } := by
  simp [checkFails, ext_any_eq_false on, sup, user]

/-- What check 5 refuses (01 R18). -/
theorem registers_refused : (u.range || u.vs.any (fun n => 16 * g.valloc ≤ n) || u.pairs.any (fun n => n % 2 == 1)) = true ↔
    (∃ n ∈ u.vs, 16 * g.valloc ≤ n) ∨ (∃ n ∈ u.pairs, n % 2 = 1) ∨ u.range = true := by
  simp only [Bool.or_eq_true, List.any_eq_true, decide_eq_true_eq, beq_iff_eq, or_assoc, or_left_comm (a := u.range = true)]
  exact or_congr_right or_comm

/-- What check 6 refuses (01 R23). -/
theorem mode_refused : (u.types.any (fun l => !l.contains (mdType md)) || (u.rounds && 6 ≤ mdRnd md)) = true ↔
    (∃ l, u.types = some l ∧ mdType md ∉ l) ∨ (u.rounds = true ∧ 6 ≤ mdRnd md) := by
  cases u.types <;> simp

/-- With checks 2 and 4 passed, checks 5 and 6 decide. -/
theorem checkFails_of_level (on : ∀ n, u.ext = some n → g.xmask.getLsbD n = true) (level : u.sup = true → g.sup = true) :
    checkFails g md live w k len8 u =
      if u.range || u.vs.any (fun n => 16 * g.valloc ≤ n) || u.pairs.any (fun n => n % 2 == 1) then
        some { cause := 0x04, val := w, lanes := live }
      else if u.types.any (fun l => !l.contains (mdType md)) || (u.rounds && 6 ≤ mdRnd md) then
        some { cause := 0x05, val := md, lanes := live }
      else none := by
  have allowed : (u.sup && !g.sup) = false := by
    cases hu : u.sup
    · rfl
    · simp [level hu]
  simp [checkFails, ext_any_eq_false on, allowed]

end

/-- Settles O12, check by check. -/
theorem checkOrder : Obligations.CheckOrder := by
  intro g md live w k len8 u
  refine ⟨fun n => checkFails_of_disabled, fun on => ⟨checkFails_of_user on, fun level => ?_⟩⟩
  rw [checkFails_of_level on level]
  refine ⟨fun bad => if_pos (registers_refused.2 bad), fun inside even noRange => ?_⟩
  have registers := mt registers_refused.1 (by
    rintro (⟨n, mem, out⟩ | ⟨n, mem, odd⟩ | range)
    · exact absurd (inside n mem) (Nat.not_lt.2 out)
    · exact absurd (even n mem) (by omega)
    · simp [noRange] at range)
  rw [if_neg registers]
  refine ⟨fun bad => if_pos (mode_refused.2 bad), fun legal rounding => if_neg (mt mode_refused.1 ?_)⟩
  rintro (⟨l, types, notIn⟩ | ⟨rounds, high⟩)
  · exact notIn (legal l types)
  · exact absurd (rounding rounds) (Nat.not_lt.2 high)

/-! ### Supervisor instructions at user level -/

/-- An instruction that fails one of checks 2, 4, 5 and 6 takes its trap, and its effect never runs. -/
theorem issue_of_checkFails {w : IWord} {u : Use} {eff : Iss → State → Eff} {s r : State} {gid q : Nat} {g : Group} {t : Trap}
    (cur : s.cur = some (gid, q)) (here : s.groups.get? gid = some g) (turn : g.mayTurn q = true)
    (may : s.mayIssue gid g (g.entryAt q) u = true)
    (fails : checkFails g (g.entryAt q).md (g.liveOf (g.entryAt q).mask) w.word w.k w.lit u = some t)
    (raise : s.raiseTrap gid q t = some r) : issue w u eff s = .next r := by
  have pre : preIssue w u s = .ended r := by
    simp only [preIssue, cur, here, turn, may, fails, raise, Bool.not_true, Bool.false_eq_true, if_false]
  simp only [issue, pre]

theorem userTraps_of_exec {i : Instr} {w : IWord} {u : Use} {eff : Iss → State → Eff} (sup : u.sup = true)
    (hx : ∀ s, exec i s = issue w u eff s) : UserTraps i w u := fun s _ _ _ _ cur here turn may on user raise =>
  hx s ▸ issue_of_checkFails cur here turn may (checkFails_of_user on sup user) raise

/-- Settles O11: each of the eleven is an issue that only a supervisor may make. -/
theorem privilege : Obligations.Privilege := by
  refine ⟨userTraps_of_exec rfl fun _ => rfl, fun _ => userTraps_of_exec (eff := groupEff _) rfl fun _ => rfl,
    fun _ => userTraps_of_exec (eff := groupEff _) rfl fun _ => rfl, userTraps_of_exec (eff := groupEff _) rfl fun _ => rfl,
    userTraps_of_exec (eff := groupEff _) rfl fun _ => rfl, ?_, ?_, ?_, ?_, ?_, ?_⟩
  all_goals intros; exact userTraps_of_exec rfl fun _ => rfl

end Sys2Proof.Machine
end

section
/-! PROOFS. A step of a path that has the turn is its fetched instruction, executed (log 1, log 2). -/

namespace Sys2Proof.Machine

theorem instrOf_of_decode {w k : Word} {i : Instr} (h : decode w k = .ok i) : instrOf w k = i := by
  rw [instrOf, h]

/-! ### A move and what it notes of sleeping slices and of what waits -/

/-- The turn of a path executes the instruction that its words decode to (02 R41). -/
theorem State.issueTurn_of_decode {s : State} {g q : Nat} {x : Group} {w k : Word} {i : Instr} (here : s.groups.get? g = some x)
    (words : s.fetch x (x.entryAt q).pc.toNat = .words w k) (code : decode w k = .ok i) :
    s.issueTurn g q = exec i { s with cur := some (g, q), stalled := false } := by
  simp only [State.issueTurn, here, words, instrOf_of_decode code]

/-- Some of the sleeping slices wake, and none when none sleeps (08 R226). -/
theorem State.wakeMet_next {s r : State} {f : State → Host.Outcome State Fault Refusal} (h : f s = .next r) :
    ∃ A, s.wakeMet f = .next { r with asleep := A } ∧ (∀ k ∈ A, k ∈ r.asleep) ∧ (s.asleep = [] → A = r.asleep) := by
  refine ⟨_, by rw [State.wakeMet, h], fun k mem => List.mem_of_mem_filter mem, fun none => ?_⟩
  exact List.filter_eq_self.2 fun k _ => by simp [none]

/-- A move that has been made changes what waits for halves alone, and nothing when there are none (18 R429). -/
theorem State.moved_waiting (s : State) (m : Mover) (t : State) :
    ∃ W, s.moved m t = { t with waiting := W } ∧ (s.halves = [] → W = t.waiting) := by
  unfold State.moved State.awaits
  dsimp only
  split_ifs with none asked same
  · exact ⟨_, rfl, fun _ => rfl⟩
  all_goals refine ⟨_, rfl, fun nil => absurd (by rw [nil]; rfl) none⟩

/-- The turn of a path that need not wait is its instruction's step. -/
theorem State.turnOf_next {s r : State} {g q : Nat} {x : Group} {w k : Word} {i : Instr} (here : s.groups.get? g = some x)
    (words : s.fetch x (x.entryAt q).pc.toNat = .words w k) (code : decode w k = .ok i)
    (free : s.heldUp (.turn (.issue g q)) (fun s => s.wakeMet (·.issueTurn g q)) = none)
    (run : exec i { s with cur := some (g, q), stalled := false } = .next r) :
    ∃ A W, s.turnOf g q = .next { r with asleep := A, waiting := W } ∧
      (∀ k ∈ A, k ∈ r.asleep) ∧ (s.asleep = [] → A = r.asleep) ∧ (s.halves = [] → W = r.waiting) := by
  rw [← State.issueTurn_of_decode here words code] at run
  obtain ⟨A, wake, sub, all⟩ := State.wakeMet_next (f := (·.issueTurn g q)) run
  obtain ⟨W, moved, same⟩ := s.moved_waiting (.turn (.issue g q)) { r with asleep := A }
  refine ⟨A, W, ?_, sub, all, same⟩
  simp only [State.turnOf, State.perform, free, wake, moved]

/-- The fault or the refusal of a turn's instruction is that of the turn. -/
theorem State.turnOf_stop {s : State} {g q : Nat} {x : Group} {w k : Word} {i : Instr} {o : Host.Outcome State Fault Refusal}
    (here : s.groups.get? g = some x)
    (words : s.fetch x (x.entryAt q).pc.toNat = .words w k) (code : decode w k = .ok i)
    (free : s.heldUp (.turn (.issue g q)) (fun s => s.wakeMet (·.issueTurn g q)) = none)
    (run : exec i { s with cur := some (g, q), stalled := false } = o) (stop : ∀ r, o ≠ .next r) : s.turnOf g q = o := by
  rw [← State.issueTurn_of_decode here words code] at run
  cases o with
  | next r => exact absurd rfl (stop r)
  | fault e => rw [State.turnOf, State.perform, free]; simp only [State.wakeMet, run]
  | refused e => rw [State.turnOf, State.perform, free]; simp only [State.wakeMet, run]

/-- A move waits for nothing while there are no half-lines and no peers (18 R420, R429). -/
theorem State.heldUp_none {s : State} (halves : s.halves = []) (peers : s.peers = []) (m : Mover)
    (f : State → Host.Outcome State Fault Refusal) : s.heldUp m f = none := by
  simp [State.heldUp, halves, State.closedPeers, peers]

/-! ### The step -/

/-- The agenda's first turn, a path's, is the step's move (log 1). -/
theorem State.move_issue {s : State} {g q : Nat} {x : Group} {l : List Turn} (agenda : s.agenda = .issue g q :: l)
    (here : s.groups.get? g = some x) (turn : x.mayTurn q = true) : s.move = ({ s with agenda := l } : State).turnOf g q := by
  have noWait : ({ s with agenda := l } : State).turnWaits (.issue g q) = false := rfl
  simp only [State.move, agenda, noWait, State.runTurn, here, turn, Bool.false_eq_true, if_false, if_true]

theorem step_of_move {s t : State} (h : s.move = .next t) : step s = .next t.tick := by
  rw [step, h]

/-- Settles O6: the turn of the agenda, or of the first candidate, is `State.turnOf` of the path. -/
theorem stepRunsDecoded : Obligations.StepRunsDecoded := by
  intro s g q x w k i here turn words code
  refine ⟨fun l agenda => ?_, fun l r agenda quiet first free run going => ?_, fun halves peers => State.heldUp_none halves peers⟩
  · extract_lets u
    intro free
    have move : s.move = u.turnOf g q := State.move_issue agenda here turn
    split
    · next r run =>
      obtain ⟨A, W, made, sub, all, same⟩ := State.turnOf_next (s := u) here words code free run
      exact ⟨A, W, step_of_move (move.trans made), sub, all, same⟩
    · next e run =>
      have stop := State.turnOf_stop (s := u) here words code free run (by simp)
      rw [step, move, stop]
    · next e run =>
      have stop := State.turnOf_stop (s := u) here words code free run (by simp)
      rw [step, move, stop]
  · obtain ⟨A, W, made, sub, all, same⟩ := State.turnOf_next here words code free run
    refine ⟨A, W, step_of_move ?_, sub, all, same⟩
    simp only [State.move, agenda, State.unscheduled, quiet, first, State.firstIssue, made, going, Bool.false_eq_true, if_false]

end Sys2Proof.Machine
end

section
/-! PROOFS. The paths after a transfer of control (06 R139, R147 to R150): what a group lists of its paths and records when an entry
is written, when new paths come into being, with or without a spill (06 R143), and so after a division and a return. -/

namespace Sys2Proof.Machine

/-! ### Lanes of a mask -/

theorem lane_maskOf (f : Fin 16 → Bool) (l : Fin 16) : lane (maskOf f) l = f l := by
  simp [lane, maskOf]

theorem ne_zero_of_lane {m : Mask} {l : Fin 16} (h : lane m l = true) : m ≠ 0 := by
  rintro rfl
  simp [lane] at h

theorem maskOf_ne_zero {f : Fin 16 → Bool} {l : Fin 16} (h : f l = true) : maskOf f ≠ 0 :=
  ne_zero_of_lane ((lane_maskOf f l).trans h)

/-- The trap masks of a division and of a return are 0 when every live lane passes. -/
theorem maskOf_and_eq_zero {m : Mask} {p : Fin 16 → Prop} [DecidablePred p] (h : ∀ l, lane m l = true → ¬p l) :
    (maskOf fun l => lane m l && decide (p l)) = 0 := maskOf_zero fun l => by
  cases here : lane m l
  · rfl
  · exact decide_eq_false (h l here)

theorem exists_lane_of_ne_zero {m : Mask} (h : m ≠ 0) : ∃ l : Fin 16, lane m l = true := by
  by_contra no
  push Not at no
  refine h (BitVec.eq_of_getLsbD_eq fun i lt => ?_)
  simpa [lane] using no ⟨i, lt⟩

theorem getElem_of_eq_ofFn {α : Type} {v : Vector α 16} {f : Fin 16 → α} (h : v = Vector.ofFn f) (l : Fin 16) : v[l] = f l := by
  subst h
  simp

/-! ### The entries of a group as a list -/

/-- What an entry adds to the list of paths and records. -/
def PathEntry.shown (e : PathEntry) : List PathEntry := if e.kind = .free then [] else [e.plain]

theorem PathEntry.shown_of_free {e : PathEntry} (h : e.kind = .free) : e.shown = [] := if_pos h
theorem PathEntry.shown_of_used {e : PathEntry} (h : e.kind ≠ .free) : e.shown = [e.plain] := if_neg h

theorem Group.entries_eq (g : Group) : g.paths.toList = (List.range 64).map g.entryAt := by
  apply List.ext_getElem
  · simp
  · intro k hk _
    have lt : k < 64 := by simpa using hk
    simp [Group.entryAt, lt]

theorem Group.listed_eq (g : Group) : g.listed = g.paths.toList.flatMap PathEntry.shown := by
  unfold Group.listed
  induction g.paths.toList with
  | nil => rfl
  | cons e l ih =>
    by_cases free : e.kind = .free
    · simp [List.flatMap_cons, PathEntry.shown_of_free free, free, ih]
    · simp [List.flatMap_cons, PathEntry.shown_of_used free, free, ih]

/-- A written entry takes the place of the old one in the list. -/
theorem Group.listed_setEntry (g : Group) {q : Nat} (e : PathEntry) (h : q < 64) :
    ((g.setEntry q e).listed ++ (g.entryAt q).shown).Perm (g.listed ++ e.shown) := by
  have len : q < g.paths.toList.length := by simpa using h
  have old : g.entryAt q = g.paths.toList[q] := by simp [Group.entryAt, h]
  have new : (g.setEntry q e).paths.toList = g.paths.toList.set q e := by simp [Group.setEntry, h, Vector.toList]
  rw [Group.listed_eq, Group.listed_eq, old, new, List.set_eq_take_append_cons_drop, if_pos len]
  conv_rhs => rw [← List.take_append_drop q g.paths.toList, List.drop_eq_getElem_cons len]
  simp only [List.flatMap_append, List.flatMap_cons, List.append_assoc]
  refine List.Perm.append_left _ ?_
  rw [List.perm_iff_count]
  intro a
  simp only [List.count_append]
  omega

/-- The list, the free entries of the table and those of the overflow area make up the 64 entries. -/
theorem Group.length_listed (g : Group) : g.listed.length + (g.freeTable.length + g.freeOver.length) = 64 := by
  unfold Group.listed Group.freeTable Group.freeOver Group.entriesWhere
  rw [Group.entries_eq, List.length_map, List.filter_map, List.length_map]
  have count : ∀ l : List Nat, (l.filter ((fun e : PathEntry => e.kind != .free) ∘ g.entryAt)).length +
      ((l.filter fun k => decide (k < 4) && (g.entryAt k).kind == .free).length +
        (l.filter fun k => decide (4 ≤ k) && (g.entryAt k).kind == .free).length) = l.length := by
    intro l
    induction l with
    | nil => rfl
    | cons k l ih =>
      rcases Nat.lt_or_ge k 4 with table | above <;> by_cases free : (g.entryAt k).kind = .free
      · simp [free, table, Nat.not_le.2 table]; omega
      · simp [free]; omega
      · simp [free, above, Nat.not_lt.2 above]; omega
      · simp [free]; omega
  exact (count (List.range 64)).trans List.length_range

theorem Group.entryAt_setEntry_of_ne (g : Group) {q k : Nat} (e : PathEntry) (h : k ≠ q) : (g.setEntry q e).entryAt k = g.entryAt k :=
  g.onlyEntry_setEntry q e k h

theorem Group.listed_setEntry_of_free (g : Group) {q : Nat} {e : PathEntry} (h : q < 64) (free : (g.entryAt q).kind = .free)
    (used : e.kind ≠ .free) : (g.setEntry q e).listed.Perm (g.listed ++ [e.plain]) := by
  have perm := g.listed_setEntry e h
  rwa [PathEntry.shown_of_free free, List.append_nil, PathEntry.shown_of_used used] at perm

theorem Group.listed_setEntry_free (g : Group) {q : Nat} (h : q < 64) (used : (g.entryAt q).kind ≠ .free) :
    ((g.setEntry q {}).listed ++ [(g.entryAt q).plain]).Perm g.listed := by
  have perm := g.listed_setEntry {} h
  rwa [PathEntry.shown_of_used used, PathEntry.shown_of_free (e := {}) rfl, List.append_nil] at perm

theorem Group.listed_setEntry_erase (g : Group) {q : Nat} (h : q < 64) (used : (g.entryAt q).kind ≠ .free) :
    (g.setEntry q {}).listed.Perm (g.listed.erase (g.entryAt q).plain) := by
  have perm := ((List.perm_append_singleton ..).symm.trans (g.listed_setEntry_free h used)).erase (g.entryAt q).plain
  rwa [List.erase_cons_head] at perm

/-! ### New paths -/

/-- The table holds paths alone (06 R135). -/
def Group.TablePaths (g : Group) : Prop := ∀ k, k < 4 → (g.entryAt k).kind = .free ∨ (g.entryAt k).kind = .path

theorem Group.TablePaths.setEntry {g : Group} (t : g.TablePaths) {q : Nat} {e : PathEntry}
    (h : 4 ≤ q ∨ e.kind = .free ∨ e.kind = .path) : (g.setEntry q e).TablePaths := by
  intro k lt
  by_cases same : k = q
  · subst same
    rw [g.entryAt_setEntry_self e (by omega)]
    exact h.resolve_left (by omega)
  · rw [g.entryAt_setEntry_of_ne e same]
    exact t k lt

/-- The overflow entries in use stay where they are. -/
def Group.KeepsAbove (g h : Group) : Prop := ∀ r, 4 ≤ r → (g.entryAt r).kind ≠ .free → h.entryAt r = g.entryAt r

theorem Group.KeepsAbove.trans {f g h : Group} (a : f.KeepsAbove g) (b : g.KeepsAbove h) : f.KeepsAbove h := fun r above used =>
  have same := a r above used
  (b r above (same ▸ used)).trans same

theorem Group.KeepsAbove.setEntry {g : Group} {q : Nat} {e : PathEntry} (h : q < 4 ∨ (g.entryAt q).kind = .free) :
    g.KeepsAbove (g.setEntry q e) := by
  intro r above used
  refine g.entryAt_setEntry_of_ne e ?_
  rintro rfl
  exact h.elim (fun lt => by omega) used

theorem Group.betterVictim_lt {g : Group} {a b n : Nat} (ha : a < n) (hb : b < n) : g.betterVictim a b < n := by
  unfold Group.betterVictim
  dsimp only
  split_ifs <;> assumption

/-- A full table of paths has a victim (06 R143). -/
theorem Group.victim_of_full {g : Group} (full : ∀ k, k < 4 → (g.entryAt k).kind = .path) : ∃ k, k < 4 ∧ g.victim 64 = some k := by
  refine ⟨g.betterVictim (g.betterVictim (g.betterVictim 0 1) 2) 3, ?_, ?_⟩
  · exact betterVictim_lt (betterVictim_lt (betterVictim_lt (by decide) (by decide)) (by decide)) (by decide)
  · simp [Group.victim, full]

theorem Group.mem_freeTable {g : Group} {k : Nat} (h : k ∈ g.freeTable) : k < 4 ∧ (g.entryAt k).kind = .free := by
  have found := (Group.mem_entriesWhere h).2
  simpa using found

theorem Group.mem_freeOver {g : Group} {k : Nat} (h : k ∈ g.freeOver) : k < 64 ∧ 4 ≤ k ∧ (g.entryAt k).kind = .free := by
  obtain ⟨lt, found⟩ := Group.mem_entriesWhere h
  exact ⟨lt, by simpa using found⟩

theorem Group.full_of_freeTable {g : Group} (t : g.TablePaths) (none : g.freeTable = []) : ∀ k, k < 4 → (g.entryAt k).kind = .path := by
  intro k lt
  refine (t k lt).resolve_left fun free => ?_
  have mem : k ∈ g.freeTable := by
    unfold Group.freeTable Group.entriesWhere
    simp [free, lt, show k < 64 by omega]
  rw [none] at mem
  cases mem

/-- What the coming of new paths es leaves of a group: it lists them too, with its other entries and its registers. -/
structure Group.Adds (g h : Group) (es : List PathEntry) : Prop where
  listed : h.listed.Perm (g.listed ++ es)
  table : h.TablePaths
  above : g.KeepsAbove h
  regs : h.regs = g.regs

/-- A path moves to the overflow area (06 R143). -/
theorem Group.spill_keeps {g : Group} (t : g.TablePaths) {k : Nat} (lt : k < 4) (path : (g.entryAt k).kind = .path)
    (room : g.freeOver ≠ []) (tick : Nat) : g.Adds (g.spill k tick) [] ∧ ((g.spill k tick).entryAt k).kind = .free := by
  obtain ⟨j, l, above⟩ := List.exists_cons_of_ne_nil room
  obtain ⟨ltj, gej, freej⟩ := g.mem_freeOver (k := j) (by rw [above]; exact List.mem_cons_self)
  have moved : ({ g.entryAt k with since := tick } : PathEntry).kind ≠ .free := by simp [path]
  have eq : g.spill k tick = (g.setEntry j { g.entryAt k with since := tick }).setEntry k {} := by rw [Group.spill, above]
  have there := g.entryAt_setEntry_of_ne { g.entryAt k with since := tick } (show k ≠ j by omega)
  rw [eq]
  refine ⟨⟨?_, ?_, ?_, ?_⟩, ?_⟩
  · have out := (g.setEntry j { g.entryAt k with since := tick }).listed_setEntry_free (q := k) (by omega) (by rw [there, path]; decide)
    rw [there] at out
    have perm := out.trans (g.listed_setEntry_of_free ltj freej moved)
    rw [PathEntry.plain_since (g.entryAt k) tick] at perm
    rw [List.append_nil]
    exact (List.perm_append_right_iff _).1 perm
  · exact (t.setEntry (.inl gej)).setEntry (.inr (.inl rfl))
  · exact (Group.KeepsAbove.setEntry (.inr freej)).trans (Group.KeepsAbove.setEntry (.inl lt))
  · rw [Group.setEntry_regs, Group.setEntry_regs]
  · rw [Group.entryAt_setEntry_self _ _ (by omega)]

theorem Group.Adds.trans {f g h : Group} {a b : List PathEntry} (x : f.Adds g a) (y : g.Adds h b) : f.Adds h (a ++ b) :=
  ⟨y.listed.trans (by rw [← List.append_assoc]; exact x.listed.append_right b), y.table, x.above.trans y.above, y.regs.trans x.regs⟩

/-- A path in a free table entry. -/
theorem Group.setEntry_adds {g : Group} (t : g.TablePaths) {k : Nat} {e : PathEntry} (lt : k < 4) (free : (g.entryAt k).kind = .free)
    (path : e.kind = .path) : g.Adds (g.setEntry k e) [e.plain] :=
  ⟨g.listed_setEntry_of_free (by omega) free (by rw [path]; decide), t.setEntry (.inr (.inr path)), Group.KeepsAbove.setEntry (.inl lt),
    g.setEntry_regs _ _⟩

/-- What the rules see of an entry that comes into being as a path. -/
def PathEntry.asPath (e : PathEntry) : PathEntry := ({ e with kind := .path } : PathEntry).plain

/-- A new path with a live lane comes into being while an entry is free (06 R143). -/
theorem Group.addPath_adds {g : Group} (t : g.TablePaths) {e : PathEntry} (live : g.liveOf e.mask ≠ 0) (room : g.listed.length < 64)
    (tick : Nat) : g.Adds (g.addPath e tick).1 [e.asPath] := by
  have shows : ({ e with kind := .path, since := tick } : PathEntry).plain = e.asPath :=
    PathEntry.plain_since { e with kind := .path } tick
  rw [← shows]
  unfold Group.addPath
  dsimp only
  split
  next k l table =>
    obtain ⟨lt, free⟩ := g.mem_freeTable (k := k) (by rw [table]; exact List.mem_cons_self)
    exact Group.setEntry_adds t lt free rfl
  next table =>
    have full := Group.full_of_freeTable t table
    obtain ⟨k, lt, victim⟩ := Group.victim_of_full full
    have above : g.freeOver ≠ [] := by
      intro none
      have len := g.length_listed
      rw [table, none] at len
      simp at len
      omega
    obtain ⟨spilled, free⟩ := Group.spill_keeps t lt (full k lt) above tick
    rw [if_neg live]
    simp only [victim]
    exact spilled.trans (Group.setEntry_adds spilled.table lt free rfl)

/-- New paths, one after another. -/
def Group.addPaths (g : Group) (es : List PathEntry) (tick : Nat) : Group := es.foldl (fun g e => (g.addPath e tick).1) g

theorem Group.liveOf_of_hlm {g h : Group} (same : h.hlm = g.hlm) (m : Mask) : h.liveOf m = g.liveOf m := by
  rw [Group.liveOf, same, Group.liveOf]

theorem Group.addPaths_adds {es : List PathEntry} {tick : Nat} : ∀ {g : Group}, g.TablePaths → (∀ e ∈ es, g.liveOf e.mask ≠ 0) →
    g.listed.length + es.length ≤ 64 →
    g.Adds (g.addPaths es tick) (es.map PathEntry.asPath) := by
  induction es with
  | nil => exact fun t _ _ => ⟨by simp [Group.addPaths], t, fun _ _ _ => rfl, rfl⟩
  | cons e es ih =>
    intro g t live room
    rw [List.length_cons] at room
    have first := Group.addPath_adds t (live e List.mem_cons_self) (by omega) tick
    have len := first.listed.length_eq
    rw [List.length_append, List.length_singleton] at len
    refine first.trans (ih first.table (fun x mem => ?_) (by omega))
    rw [Group.liveOf_of_hlm (congrArg Regs.hlm first.regs)]
    exact live x (List.mem_cons_of_mem e mem)

/-! ### Division and return -/

theorem Iss.goto_entry (c : Iss) (pc : DWord) (h : c.path < 64) : (c.goto pc).entryAt c.path = { c.g.entryAt c.path with pc := pc } ∧
    c.g.onlyEntry (c.goto pc) c.path ∧ (c.goto pc).regs = c.g.regs :=
  ⟨c.g.entryAt_updEntry_self _ h, c.g.onlyEntry_updEntry _ _, c.g.updEntry_regs _ _⟩

theorem jumpTarget_eq (pc : DWord) (o : BitVec 24) : jumpTarget pc o = BitVec.ofInt 64 ((pc.toNat : Int) + 4 * o.toInt) := by
  rw [BitVec.ofInt_add, BitVec.ofInt_mul, BitVec.ofInt_natCast, BitVec.ofNat_toNat, BitVec.setWidth_eq]
  rfl

theorem Group.le_freeOver_of_room {g : Group} {n : Nat} (h : g.noRoom n = false) : n ≤ g.freeOver.length := by
  have free := of_decide_eq_false h
  omega

theorem Group.noRoom_iff (g : Group) (n : Nat) : g.noRoom n = true ↔
    ((List.range 64).filter fun k => decide (4 ≤ k) && (g.entryAt k).kind == .free).length < n + if g.trap.tstat.getLsbD 0 then 0 else 4 :=
  decide_eq_true_iff

/-- The path of an instruction whose lanes are all live leaves its entry (06 R139). -/
theorem Group.leaveHalted_of_live {g : Group} {q : Nat} (h : g.liveOf (g.entryAt q).mask = (g.entryAt q).mask) :
    g.leaveHalted q = g.setEntry q {} := by
  unfold Group.leaveHalted
  dsimp only
  rw [if_pos (.inl h)]

section
variable {c : Iss}

theorem OnePath.liveOf_mask (one : OnePath c) : c.g.liveOf (c.g.entryAt c.path).mask = (c.g.entryAt c.path).mask := by
  rw [← one.live]
  exact one.noHalt

/-- A mask of live lanes with some lane has a live lane. -/
theorem OnePath.liveOf_ne_zero (one : OnePath c) {m : Mask} (some : m ≠ 0) (sub : ∀ l, lane m l = true → lane c.live l = true) :
    c.g.liveOf m ≠ 0 := by
  obtain ⟨l, here⟩ := exists_lane_of_ne_zero some
  have live : lane (c.g.liveOf c.live) l = true := by rw [one.noHalt]; exact sub l here
  rw [Group.liveOf, lane_and, sub l here, Bool.true_and] at live
  refine ne_zero_of_lane (l := l) ?_
  rw [Group.liveOf, lane_and, here, live]
  rfl

end

/-- The record of a division (06 R139). -/
def Iss.divRecord (c : Iss) : PathEntry :=
  let e := c.g.entryAt c.path
  { kind := .record, level := e.level, mask := c.live, md := e.md, rcd := e.rcd }

/-- The paths of a division under record r (06 R139). -/
def Iss.divPaths (c : Iss) (r : Nat) (target : DWord) : List PathEntry :=
  let e := c.g.entryAt c.path
  let new (pc : DWord) (m : Mask) : List PathEntry := if m = 0 then [] else
    [{ level := e.level + 1, mask := m, pc := pc, md := e.md, rcd := r, issued := c.g.issued + 1 }]
  new target c.act ++ new (c.pc + 4) (c.live &&& ~~~c.act)

@[simp] theorem Group.setNc_entryAt (g : Group) (m : Mask) (n k : Nat) : (g.setNc m n).entryAt k = g.entryAt k := by
  simp only [Group.entryAt, Group.setNc]
@[simp] theorem Group.setNc_listed (g : Group) (m : Mask) (n : Nat) : (g.setNc m n).listed = g.listed := by
  simp only [Group.listed, Group.setNc]
@[simp] theorem Group.setNc_issued (g : Group) (m : Mask) (n : Nat) : (g.setNc m n).issued = g.issued := by
  simp only [Group.setNc]
@[simp] theorem Group.setNc_hlm (g : Group) (m : Mask) (n : Nat) : (g.setNc m n).hlm = g.hlm := by
  simp only [Group.setNc]
theorem Group.setNc_regs (g : Group) (m : Mask) (n : Nat) : (g.setNc m n).regs =
    { g.regs with nc := Vector.ofFn fun l => if lane m l then n else g.nc[l] } := rfl

@[simp] theorem Group.setEntry_issued (g : Group) (q : Nat) (e : PathEntry) : (g.setEntry q e).issued = g.issued := by
  unfold Group.setEntry
  split <;> rfl
@[simp] theorem Group.setEntry_hlm (g : Group) (q : Nat) (e : PathEntry) : (g.setEntry q e).hlm = g.hlm :=
  congrArg Regs.hlm (g.setEntry_regs q e)
@[simp] theorem Group.setEntry_nc (g : Group) (q : Nat) (e : PathEntry) : (g.setEntry q e).nc = g.nc :=
  congrArg Regs.nc (g.setEntry_regs q e)

/-- The group in a division when its record stands in entry r and the counters are set (06 R139). -/
def Iss.marked (c : Iss) (r : Nat) : Group := (c.g.setEntry r c.divRecord).setNc c.live ((c.g.entryAt c.path).level + 1)

section
variable (c : Iss)

theorem Iss.marked_record {r : Nat} (h : r < 64) : (c.marked r).entryAt r = c.divRecord := by
  rw [Iss.marked, Group.setNc_entryAt, Group.entryAt_setEntry_self _ _ h]

theorem Iss.marked_entry {r k : Nat} (h : k ≠ r) : (c.marked r).entryAt k = c.g.entryAt k := by
  rw [Iss.marked, Group.setNc_entryAt, Group.entryAt_setEntry_of_ne _ _ h]

theorem Iss.marked_listed {r : Nat} (h : r < 64) (free : (c.g.entryAt r).kind = .free) :
    (c.marked r).listed.Perm (c.g.listed ++ [c.divRecord.plain]) := by
  rw [Iss.marked, Group.setNc_listed]
  exact c.g.listed_setEntry_of_free h free (show PKind.record ≠ .free by decide)

theorem Iss.marked_regs (r : Nat) : (c.marked r).regs =
    { c.g.regs with nc := Vector.ofFn fun l => if lane c.live l then (c.g.entryAt c.path).level + 1 else c.g.nc[l] } := by
  rw [Iss.marked, Group.setNc_regs, Group.setEntry_regs, Group.setEntry_nc]

theorem Iss.marked_hlm (r : Nat) : (c.marked r).hlm = c.g.hlm := by
  rw [Iss.marked, Group.setNc_hlm, Group.setEntry_hlm]

theorem Iss.marked_issued (r : Nat) : (c.marked r).issued = c.g.issued := by
  rw [Iss.marked, Group.setNc_issued, Group.setEntry_issued]

end

/-- The group of a division before its paths come into being: the path that divides has left its entry (06 R139). -/
def Iss.divided (c : Iss) (r : Nat) : Group := (c.marked r).setEntry c.path {}

theorem OnePath.used {c : Iss} (one : OnePath c) : (c.g.entryAt c.path).kind ≠ .free := by
  rw [one.path]; decide

/-- The path that issues is listed. -/
theorem OnePath.mem_listed {c : Iss} (one : OnePath c) : (c.g.entryAt c.path).plain ∈ c.g.listed := by
  have place := one.place
  exact (c.g.listed_setEntry_free (by omega) one.used).subset (List.mem_append_right _ List.mem_cons_self)

section
variable {c : Iss} (one : OnePath c) {r : Nat} (above : 4 ≤ r)
include one above

theorem OnePath.marked_path : (c.marked r).entryAt c.path = c.g.entryAt c.path :=
  c.marked_entry (by have := one.place; omega)

theorem OnePath.leaveHalted_marked : (c.marked r).leaveHalted c.path = c.divided r := by
  refine Group.leaveHalted_of_live ?_
  rw [one.marked_path above, Group.liveOf_of_hlm (c.marked_hlm r), one.liveOf_mask]

theorem OnePath.divided_listed (free : (c.g.entryAt r).kind = .free) (lt : r < 64) :
    (c.divided r).listed.Perm (c.g.listed.erase (c.g.entryAt c.path).plain ++ [c.divRecord.plain]) := by
  have place := one.place
  have same := one.marked_path above
  have out := (c.marked r).listed_setEntry_erase (q := c.path) (by omega) (by rw [same]; exact one.used)
  rw [same] at out
  rw [← List.erase_append_left _ one.mem_listed]
  exact out.trans ((c.marked_listed lt free).erase _)

theorem OnePath.divided_record (lt : r < 64) : (c.divided r).entryAt r = c.divRecord := by
  have place := one.place
  rw [Iss.divided, Group.entryAt_setEntry_of_ne _ _ (by omega), c.marked_record lt]

theorem OnePath.divided_table : (c.divided r).TablePaths := by
  have marked : (c.marked r).TablePaths := fun k table => by
    rw [c.marked_entry (by omega)]
    exact one.table k table
  exact marked.setEntry (.inr (.inl rfl))

end

theorem Iss.divided_hlm (c : Iss) (r : Nat) : (c.divided r).hlm = c.g.hlm := by
  rw [Iss.divided, Group.setEntry_hlm, c.marked_hlm]

/-- Each path of a division has a live lane. -/
theorem OnePath.divPaths_live {c : Iss} (one : OnePath c) (r : Nat) (target : DWord) :
    ∀ e ∈ c.divPaths r target, c.g.liveOf e.mask ≠ 0 := by
  have active : ∀ l, lane c.act l = true → lane c.live l = true := by
    intro l act
    have out : lane (c.act &&& ~~~c.live) l = false := by simp [one.act, lane]
    simpa [lane_and, lane_not, act] using out
  intro e mem
  unfold Iss.divPaths at mem
  dsimp only at mem
  rcases List.mem_append.1 mem with mem | mem <;> split_ifs at mem with zero
  · cases mem
  · obtain rfl := List.mem_singleton.1 mem
    exact one.liveOf_ne_zero zero active
  · cases mem
  · obtain rfl := List.mem_singleton.1 mem
    exact one.liveOf_ne_zero zero fun l rest => by
      rw [lane_and, Bool.and_eq_true] at rest
      exact rest.1

theorem Iss.asPath_divPaths (c : Iss) (r : Nat) (target : DWord) : (c.divPaths r target).map PathEntry.asPath =
    let new (pc : DWord) (m : Mask) : List PathEntry := if m = 0 then [] else
      [{ kind := .path, level := (c.g.entryAt c.path).level + 1, mask := m, pc := pc, md := (c.g.entryAt c.path).md, rcd := r }]
    new target c.act ++ new (c.pc + 4) (c.live &&& ~~~c.act) := by
  unfold Iss.divPaths
  dsimp only
  split_ifs <;> rfl

theorem Iss.length_divPaths (c : Iss) (r : Nat) (target : DWord) : (c.divPaths r target).length ≤ 2 := by
  unfold Iss.divPaths
  dsimp only
  split_ifs <;> simp

/-- A division without halted lanes puts a record and two paths in place of the one that divides (06 R139). -/
theorem OnePath.divide_eq {c : Iss} (one : OnePath c) {r : Nat} {l : List Nat} (free : c.g.freeOver = r :: l) (target : DWord) :
    c.g.divide c.path c.act target (c.pc + 4) c.tick = (c.divided r).addPaths (c.divPaths r target) c.tick := by
  obtain ⟨-, above, -⟩ := c.g.mem_freeOver (k := r) (by rw [free]; exact List.mem_cons_self)
  have L : c.g.liveOf (c.g.entryAt c.path).mask = c.live := one.liveOf_mask.trans one.live.symm
  have leave := one.leaveHalted_marked above
  have issued : (c.divided r).issued = c.g.issued := by rw [Iss.divided, Group.setEntry_issued, c.marked_issued]
  unfold Iss.marked Iss.divRecord at leave
  unfold Group.divide
  simp only [free, L, leave, issued, Group.addPaths, Iss.divPaths, List.foldl_append, ne_eq, ite_not]
  split_ifs <;> rfl

/-- A division has its record and its two paths in place of the path that divides (06 R139). -/
theorem OnePath.divide_spec {c : Iss} (one : OnePath c) (room : 2 ≤ c.g.freeOver.length) (target : DWord) :
    let h := c.g.divide c.path c.act target (c.pc + 4) c.tick
    ∃ r, 4 ≤ r ∧ r < 64 ∧ (c.g.entryAt r).kind = .free ∧ h.entryAt r = c.divRecord ∧
      h.listed.Perm (c.g.listed.erase (c.g.entryAt c.path).plain ++ [c.divRecord.plain] ++
        (c.divPaths r target).map PathEntry.asPath) ∧
      h.regs = (c.marked r).regs := by
  intro h
  obtain ⟨r, l, free⟩ := List.exists_cons_of_length_pos (show 0 < c.g.freeOver.length by omega)
  obtain ⟨lt, above, freeR⟩ := c.g.mem_freeOver (k := r) (by rw [free]; exact List.mem_cons_self)
  have gone := one.divided_listed above freeR lt
  have live : ∀ e ∈ c.divPaths r target, (c.divided r).liveOf e.mask ≠ 0 := fun e mem => by
    rw [Group.liveOf_of_hlm (c.divided_hlm r)]
    exact one.divPaths_live r target e mem
  have fits : (c.divided r).listed.length + (c.divPaths r target).length ≤ 64 := by
    have all := c.g.length_listed
    have some := List.length_pos_of_mem one.mem_listed
    have two := c.length_divPaths r target
    rw [gone.length_eq, List.length_append, List.length_erase_of_mem one.mem_listed, List.length_singleton]
    omega
  have adds := Group.addPaths_adds (tick := c.tick) (one.divided_table above) live fits
  rw [← one.divide_eq free target] at adds
  have record := one.divided_record above lt
  refine ⟨r, above, lt, freeR, ?_, adds.listed.trans (gone.append_right _), adds.regs.trans (Group.setEntry_regs ..)⟩
  have kept := adds.above r above (by rw [record]; show PKind.record ≠ .free; decide)
  exact kept.trans record

/-- The path that returns has left its entry and the live lanes have popped (06 R150). -/
def Iss.popped (c : Iss) : Group := (c.g.pop c.live).setEntry c.path {}

/-- The paths of a return, one for each address (06 R150). -/
def Iss.retPaths (c : Iss) : List PathEntry := (retPcs c).map fun pc =>
  { c.g.entryAt c.path with
    pc := pc, mask := maskOf fun l => lane c.live l && c.g.retAddr l == pc, issued := c.g.issued + 1, yielded := false }

/-- When no live lane is at depth 0, a return traps for want of room alone (06 R150). -/
theorem retEff_of_deep {c : Iss} (deep : ∀ l : Fin 16, lane c.live l = true → c.g.rd[l] ≠ 0) :
    retEff c =
      if c.g.noRoom ((retPcs c).length - 1 - c.g.freeTable.length) && decide (c.g.freeTable.length < (retPcs c).length - 1) then
        .error (wordTrap c 0x08 1)
      else .ok ((retPcs c).foldl (fun g pc => (g.addPath ({ c.g.entryAt c.path with
        pc := pc, mask := maskOf fun l => lane c.live l && c.g.retAddr l == pc, issued := c.g.issued + 1, yielded := false }) c.tick).1)
        ((c.g.pop c.live).leaveHalted c.path)) :=
  if_neg (not_not.2 (maskOf_and_eq_zero deep))

theorem mem_retPcs {c : Iss} {pc : DWord} : pc ∈ retPcs c ↔ ∃ l : Fin 16, lane c.live l = true ∧ c.g.retAddr l = pc := by
  simp [retPcs, laneList]

theorem Group.pop_entryAt (g : Group) (m : Mask) (k : Nat) : (g.pop m).entryAt k = g.entryAt k := by
  simp only [Group.entryAt, Group.pop]
theorem Group.pop_listed (g : Group) (m : Mask) : (g.pop m).listed = g.listed := by
  simp only [Group.listed, Group.pop]
theorem Group.pop_hlm (g : Group) (m : Mask) : (g.pop m).hlm = g.hlm := by
  simp only [Group.pop]
theorem Group.pop_regs (g : Group) (m : Mask) : (g.pop m).regs =
    { g.regs with rd := Vector.ofFn fun l => if lane m l then g.rd[l] - 1 else g.rd[l] } := rfl

theorem Iss.popped_regs (c : Iss) : c.popped.regs =
    { c.g.regs with rd := Vector.ofFn fun l => if lane c.live l then c.g.rd[l] - 1 else c.g.rd[l] } := by
  rw [Iss.popped, Group.setEntry_regs, Group.pop_regs]

theorem Iss.popped_hlm (c : Iss) : c.popped.hlm = c.g.hlm := by
  rw [Iss.popped, Group.setEntry_hlm, Group.pop_hlm]

section
variable {c : Iss} (one : OnePath c)
include one

theorem OnePath.popped_eq : (c.g.pop c.live).leaveHalted c.path = c.popped := by
  refine Group.leaveHalted_of_live ?_
  rw [Group.pop_entryAt, Group.liveOf_of_hlm (c.g.pop_hlm _), one.liveOf_mask]

theorem OnePath.popped_listed : c.popped.listed.Perm (c.g.listed.erase (c.g.entryAt c.path).plain) := by
  have place := one.place
  have out := (c.g.pop c.live).listed_setEntry_erase (q := c.path) (by omega) (by rw [Group.pop_entryAt]; exact one.used)
  rwa [Group.pop_entryAt, Group.pop_listed] at out

theorem OnePath.popped_table : c.popped.TablePaths := by
  have pop : (c.g.pop c.live).TablePaths := fun k table => by
    rw [Group.pop_entryAt]
    exact one.table k table
  exact pop.setEntry (.inr (.inl rfl))

/-- Each path of a return has a live lane: one that has its address. -/
theorem OnePath.retPaths_live : ∀ e ∈ c.retPaths, c.popped.liveOf e.mask ≠ 0 := by
  intro e mem
  obtain ⟨pc, here, rfl⟩ := List.mem_map.1 mem
  obtain ⟨l, live, rfl⟩ := mem_retPcs.1 here
  rw [Group.liveOf_of_hlm c.popped_hlm]
  dsimp only
  refine one.liveOf_ne_zero (maskOf_ne_zero (l := l) (by simp [live])) fun k lane => ?_
  rw [lane_maskOf, Bool.and_eq_true] at lane
  exact lane.1

theorem OnePath.asPath_retPaths : c.retPaths.map PathEntry.asPath = (retPcs c).map fun pc => ({ c.g.entryAt c.path with
    pc := pc, mask := maskOf fun l => lane c.live l && c.g.retAddr l == pc } : PathEntry).plain := by
  rw [Iss.retPaths, List.map_map]
  refine List.map_congr_left fun pc _ => ?_
  simp [PathEntry.asPath, PathEntry.plain, one.path]

/-- The paths of a return fit when those that find no free table entry have room in the overflow area (06 R136, R150). -/
theorem OnePath.retPaths_fit
    (room : c.g.noRoom ((retPcs c).length - 1 - c.g.freeTable.length) = false ∨ (retPcs c).length - 1 ≤ c.g.freeTable.length) :
    c.popped.listed.length + c.retPaths.length ≤ 64 := by
  have all := c.g.length_listed
  have some := List.length_pos_of_mem one.mem_listed
  have enough : (retPcs c).length - 1 ≤ c.g.freeTable.length + c.g.freeOver.length := by
    rcases room with room | room
    · have free := Group.le_freeOver_of_room room
      omega
    · omega
  rw [one.popped_listed.length_eq, List.length_erase_of_mem one.mem_listed, Iss.retPaths, List.length_map]
  omega

/-- A return with room has one path for each return address in place of the path that returns (06 R150). -/
theorem OnePath.retEff_eq (deep : ∀ l : Fin 16, lane c.live l = true → c.g.rd[l] ≠ 0)
    (room : c.g.noRoom ((retPcs c).length - 1 - c.g.freeTable.length) = false ∨ (retPcs c).length - 1 ≤ c.g.freeTable.length) :
    retEff c = .ok (c.popped.addPaths c.retPaths c.tick) := by
  have fits : ¬(c.g.noRoom ((retPcs c).length - 1 - c.g.freeTable.length) &&
      decide (c.g.freeTable.length < (retPcs c).length - 1)) = true := by
    rcases room with room | room
    · simp [room]
    · simp [Nat.not_lt.2 room]
  rw [retEff_of_deep deep, if_neg fits, one.popped_eq, Group.addPaths, Iss.retPaths, List.foldl_map]

end

/-! ### Where a division and a return trap -/

/-- A live lane at count 255 cannot nest deeper (06 R139). -/
theorem divideEff_of_deep {c : Iss} {l : Fin 16} (live : lane c.live l = true) (deep : 255 ≤ c.g.nc[l]) (target : DWord) :
    divideEff target c = .error (wordTrap c 0x08 0 (maskOf fun l => lane c.live l && decide (255 ≤ c.g.nc[l]))) :=
  if_pos (maskOf_ne_zero (Bool.and_eq_true_iff.2 ⟨live, decide_eq_true deep⟩))

theorem divideEff_of_shallow {c : Iss} (shallow : ∀ l : Fin 16, lane c.live l = true → c.g.nc[l] < 255) (target : DWord) :
    divideEff target c = if c.g.noRoom 2 then .error (wordTrap c 0x08 1) else .ok (c.g.divide c.path c.act target (c.pc + 4) c.tick) :=
  if_neg (not_not.2 (maskOf_and_eq_zero fun l live => Nat.not_le.2 (shallow l live)))

theorem retEff_of_empty {c : Iss} {l : Fin 16} (live : lane c.live l = true) (empty : c.g.rd[l] = 0) :
    retEff c = .error (wordTrap c 0x0B 0 (maskOf fun l => lane c.live l && decide (c.g.rd[l] = 0))) :=
  if_pos (maskOf_ne_zero (Bool.and_eq_true_iff.2 ⟨live, decide_eq_true empty⟩))

theorem retEff_of_noRoom {c : Iss} (deep : ∀ l : Fin 16, lane c.live l = true → c.g.rd[l] ≠ 0)
    (noRoom : c.g.noRoom ((retPcs c).length - 1 - c.g.freeTable.length) = true) (spills : c.g.freeTable.length < (retPcs c).length - 1) :
    retEff c = .error (wordTrap c 0x08 1) := by
  rw [retEff_of_deep deep, if_pos (by simp [noRoom, spills])]

/-- Settles O28: a division and a return free the path's entry, and every path that they bring into being is listed beside what the
group lists already (`Group.addPaths_adds`), whichever of them spills another. -/
theorem pathTargets : Obligations.PathTargets := by
  refine ⟨jumpTarget_eq, Iss.goto_entry, fun o c => ⟨?_, ?_, ?_⟩, fun target c one shallow room => ?_, Group.noRoom_iff,
    fun target c => ⟨?_, ?_⟩, fun c => ⟨?_, ?_⟩, fun _ _ => rfl, fun c one deep room => ?_⟩
  · exact fun all => if_pos all
  · exact fun some none => (if_neg some).trans (if_pos none)
  · exact fun some any => (if_neg some).trans (if_neg any)
  · obtain ⟨r, above, lt, free, record, listed, regs⟩ := one.divide_spec (Group.le_freeOver_of_room room) target
    refine ⟨_, r, (divideEff_of_shallow shallow target).trans (if_neg (by simp [room])), above, lt, free, record, ?_, ?_, ?_⟩
    · rw [c.asPath_divPaths, ← List.append_assoc] at listed
      rwa [record]
    · exact getElem_of_eq_ofFn (congrArg Regs.nc (regs.trans (c.marked_regs r)))
    · rw [regs, c.marked_regs]
      rfl
  · rintro ⟨l, live, deep⟩
    exact ⟨_, divideEff_of_deep live deep target, lane_maskOf _⟩
  · exact fun shallow room => (divideEff_of_shallow shallow target).trans (if_pos room)
  · rintro ⟨l, live, empty⟩
    exact ⟨_, retEff_of_empty live empty, lane_maskOf _⟩
  · exact fun deep noRoom spills => retEff_of_noRoom deep noRoom spills
  · have adds := Group.addPaths_adds (tick := c.tick) one.popped_table one.retPaths_live (one.retPaths_fit room)
    refine ⟨_, retPcs c, one.retEff_eq deep room, List.nodup_dedup _, fun pc => mem_retPcs, ?_, ?_, ?_⟩
    · refine (adds.listed.trans (one.popped_listed.append_right _)).trans (List.Perm.of_eq ?_)
      rw [one.asPath_retPaths]
    · exact getElem_of_eq_ofFn (congrArg Regs.rd (adds.regs.trans c.popped_regs))
    · rw [adds.regs, c.popped_regs]
      rfl

end Sys2Proof.Machine
end

section
/-! PROOFS. The completion of the system and Reticle instructions (16 R383, R401 to R403; 18 R421, R422; 19 R450 to R456). -/

namespace Sys2Proof.Machine

/-- An instruction that issues with an effect on the state has that effect. -/
theorem onState_of_exec {i : Instr} {w : IWord} {u : State → Use} {e : Iss → State → Eff}
    (hx : ∀ s, exec i s = issue w (u s) e s) : OnState i w u e := fun s _ _ _ _ _ _ _ go ok old new fin flags =>
  hx s ▸ issue_state go ok old new fin flags

/-- An instruction whose effect always answers a state and raises no exception flags completes. -/
theorem completes_of_answers {i : Instr} {w : IWord} {u : State → Use} {e : Iss → State → Eff} {ok : Iss → State → Prop}
    (hx : ∀ s, exec i s = issue w (u s) e s) (answers : ∀ c s, ok c s → ∃ t, e c s = .ok t []) : Completes i w u e ok :=
  issue_completes hx fun s c _ _ here =>
    have ⟨t, eq⟩ := answers c s here
    ⟨t, [], eq, .inl rfl, trivial⟩

/-- Settles O44: `exec` issues each of the instructions with the effect that the statement names. -/
theorem systemInstructions : Obligations.SystemInstructions := by
  unfold Obligations.SystemInstructions
  refine ⟨fun a => onState_of_exec fun _ => rfl, fun a => onGroup_of_exec fun _ => rfl, fun a => onGroup_of_exec fun _ => rfl,
    onGroup_of_exec fun _ => rfl, onGroup_of_exec fun _ => rfl, fun d => onGroup_of_exec fun _ => rfl,
    fun a => onGroup_of_exec fun _ => rfl, ?_⟩
  and_intros
  all_goals intros; exact onState_of_exec fun _ => rfl

/-! ### What the effects answer -/

theorem csrwEff_answers (a : BitVec 6) (k : Word) (c : Iss) (s : State) : ∃ t, csrwEff a k c s = .ok t [] := by
  unfold csrwEff
  dsimp only
  split_ifs <;> exact ⟨_, rfl⟩

theorem wpwEff_answers (d : BitVec 3) (a : BitVec 6) (b : BitVec 4) (c : Iss) (s : State) : ∃ t, wpwEff d a b c s = .ok t [] := by
  unfold wpwEff
  dsimp only
  split_ifs <;> exact ⟨_, rfl⟩

theorem wprEff_answers (d a : BitVec 6) (c : Iss) (s : State) : ∃ t, wprEff d a c s = .ok t [] := by
  unfold wprEff
  dsimp only
  split_ifs <;> exact ⟨_, rfl⟩

theorem hrdEff_answers (d : BitVec 6) (a : BitVec 4) (b : BitVec 6) (c : Iss) (s : State) : ∃ t, hrdEff d a b c s = .ok t [] := by
  unfold hrdEff
  dsimp only
  split_ifs <;> exact ⟨_, rfl⟩

/-- A target that is there, takes the change and need not settle first takes it (19 R450). -/
theorem State.onTarget_answers {s : State} {c : Iss} {rib : Nat} {paths : Bool} {f : Group → Option Group}
    (ready : TargetReady rib paths f c s) : ∃ t, s.onTarget c rib paths f = .ok t [] := by
  obtain ⟨-, t, g, new, target, here, takes, settled⟩ := ready
  have goes : ¬(paths && (s.setGroup c.gid c.g).mustSettle t g) = true := by
    cases paths
    · simp
    · simp [settled rfl]
  unfold State.onTarget
  simp only [target, here, Option.bind_some, Option.map_some, takes, if_neg goes]
  exact ⟨_, rfl⟩

theorem hwrEff_answers {d : BitVec 6} {a : BitVec 4} {b : BitVec 6} {c : Iss} {s : State}
    (ready : TargetReady (c.g.areg a).toNat (bits (c.g.sreg b).toNat 31 28 == 4)
      (fun g => g.hwrItem (c.g.sreg b) (c.g.sreg d) c.tick) c s) : ∃ t, hwrEff d a b c s = .ok t [] := by
  rw [hwrEff, if_neg ready.1]
  exact State.onTarget_answers ready

theorem hstepEff_answers {d : BitVec 6} {a : BitVec 4} {c : Iss} {s : State}
    (ready : TargetReady (c.g.areg a).toNat true (fun g => g.startStep (Fin.ofNat 16 (c.g.sreg d).toNat) c.tick) c s) :
    ∃ t, hstepEff d a c s = .ok t [] := by
  rw [hstepEff, if_neg ready.1]
  exact State.onTarget_answers ready

theorem hresEff_answers {d : BitVec 6} {a : BitVec 4} {c : Iss} {s : State}
    (ready : TargetReady (c.g.areg a).toNat true (fun g => g.resumeLanes ((c.g.sreg d).setWidth 16) c.tick) c s) :
    ∃ t, hresEff d a c s = .ok t [] := by
  obtain ⟨t, takes⟩ := State.onTarget_answers ready
  rw [hresEff, if_neg ready.1]
  simp only [takes]
  exact ⟨_, rfl⟩

/-- Settles O56: the forms with an effect on the group are those of O44, and the effect of every other form answers a state. -/
theorem systemComplete : Obligations.SystemComplete := by
  obtain ⟨-, sleep, tlbiVa, tlbiCtx, tlbiAll, rdtm, wtm, -⟩ := systemInstructions
  exact ⟨sleep, tlbiVa, tlbiCtx, tlbiAll, rdtm, wtm,
    fun d k => completes_of_answers (fun _ => rfl) fun _ _ _ => ⟨_, rfl⟩,
    fun a k => completes_of_answers (fun _ => rfl) fun c s _ => csrwEff_answers a k c s,
    fun a => completes_of_answers (fun _ => rfl) fun c s _ => csrwEff_answers a _ c s,
    fun hi a => completes_of_answers (fun _ => rfl) fun c s _ => csrwEff_answers a _ c s,
    fun a => completes_of_answers (fun _ => rfl) fun c s _ => csrwEff_answers a _ c s,
    fun d a => completes_of_answers (fun _ => rfl) fun _ _ ready => hstepEff_answers ready,
    fun d a => completes_of_answers (fun _ => rfl) fun _ _ ready => hresEff_answers ready,
    fun d a b => completes_of_answers (fun _ => rfl) fun c s _ => wpwEff_answers d a b c s,
    fun d a => completes_of_answers (fun _ => rfl) fun c s _ => wprEff_answers d a c s,
    fun d a b => completes_of_answers (fun _ => rfl) fun c s _ => hrdEff_answers d a b c s,
    fun d a b => completes_of_answers (fun _ => rfl) fun _ _ ready => hwrEff_answers ready⟩

end Sys2Proof.Machine
end

section
/-! PROOFS. The entry to the trap handler (06 R161): what the trap frame keeps of the group's paths, and the registers and the path of
the handler. -/

namespace Sys2Proof.Machine

/-! ### A change of every entry -/

/-- The group with every path entry changed. -/
def Group.mapEntries (g : Group) (f : PathEntry → PathEntry) : Group := { g with paths := g.paths.map f }

/-- A change of an entry that neither its kind nor its lanes notice, and that leaves a free entry free. -/
structure PathEntry.KeepsShape (f : PathEntry → PathEntry) : Prop where
  free : f {} = {}
  kind : ∀ e, (f e).kind = e.kind
  mask : ∀ e, (f e).mask = e.mask
  saved : ∀ e : PathEntry, f { e with kind := .saved } = { f e with kind := .saved }

theorem Group.mapEntries_regs (g : Group) (f : PathEntry → PathEntry) : (g.mapEntries f).regs = g.regs := rfl

theorem Group.entryAt_mapEntries (g : Group) {f : PathEntry → PathEntry} (free : f {} = {}) (k : Nat) :
    (g.mapEntries f).entryAt k = f (g.entryAt k) := by
  unfold Group.entryAt
  split_ifs
  · simp [Group.mapEntries]
  · exact free.symm

theorem Group.mapEntries_setEntry (g : Group) (f : PathEntry → PathEntry) (q : Nat) (e : PathEntry) :
    (g.setEntry q e).mapEntries f = (g.mapEntries f).setEntry q (f e) := by
  unfold Group.setEntry
  split_ifs
  · simp [Group.mapEntries, Vector.map_set]
  · rfl

theorem Group.freeOver_mapEntries (g : Group) {f : PathEntry → PathEntry} (keeps : PathEntry.KeepsShape f) :
    (g.mapEntries f).freeOver = g.freeOver := by
  simp only [Group.freeOver, Group.entriesWhere, g.entryAt_mapEntries keeps.free, keeps.kind]

theorem Group.frameMask_mapEntries (g : Group) {f : PathEntry → PathEntry} (keeps : PathEntry.KeepsShape f) :
    (g.mapEntries f).frameMask = g.frameMask := by
  simp only [Group.frameMask, Group.mapEntries, Vector.toList_map, List.foldl_map, keeps.kind, keeps.mask]

theorem Group.TablePaths.mapEntries {g : Group} (t : g.TablePaths) {f : PathEntry → PathEntry} (keeps : PathEntry.KeepsShape f) :
    (g.mapEntries f).TablePaths := fun k lt => by
  rw [g.entryAt_mapEntries keeps.free, keeps.kind]
  exact t k lt

/-- An entry of these lanes written anew, without the poison of its word (21 R467). -/
def PathEntry.healed (live : Mask) (e : PathEntry) : PathEntry := if e.mask &&& live = 0 then e else { e with bad := false }

theorem PathEntry.keepsShape_healed (live : Mask) : PathEntry.KeepsShape (PathEntry.healed live) where
  free := by simp [PathEntry.healed]
  kind e := by unfold PathEntry.healed; split_ifs <;> rfl
  mask e := by unfold PathEntry.healed; split_ifs <;> rfl
  saved e := by unfold PathEntry.healed; split_ifs <;> rfl

theorem Group.with_paths (g : Group) {p q : Vector PathEntry 64} (h : p = q) :
    ({ g with paths := p } : Group) = { g with paths := q } := by
  rw [h]

/-- The poison of a word of the path table is no part of an entry's shape (21 R467). -/
theorem Group.clearBad_eq_mapEntries (g : Group) (live : Mask) : ∃ f, PathEntry.KeepsShape f ∧ g.clearBad live = g.mapEntries f := by
  unfold Group.clearBad
  split_ifs
  · exact ⟨_, PathEntry.keepsShape_healed live, g.with_paths (by ext i : 1; simp [PathEntry.healed])⟩
  · exact ⟨id, ⟨rfl, fun _ => rfl, fun _ => rfl, fun _ => rfl⟩, g.with_paths (by simp)⟩

/-! ### The trap frame -/

/-- A path as its entry in the trap frame; any other entry as it is (06 R136). -/
def PathEntry.framed (e : PathEntry) : PathEntry := if e.kind = .path then { e with kind := .saved } else e

theorem PathEntry.framed_plain (e : PathEntry) : e.framed.plain = e.plain.framed := by
  rcases e with ⟨kind⟩
  cases kind <;> rfl

theorem PathEntry.framed_kind_free (e : PathEntry) : e.framed.kind = .free ↔ e.kind = .free := by
  rcases e with ⟨kind⟩
  cases kind <;> simp [PathEntry.framed]

/-- A path of table entry k moves to a free overflow entry, as one of the trap frame (06 R136). -/
def Group.toFrame (g : Group) (k : Nat) : Group :=
  if (g.entryAt k).kind = .path then
    match g.freeOver with
    | j :: _ => (g.setEntry j { g.entryAt k with kind := .saved }).setEntry k {}
    | [] => g
  else g

theorem Group.saveFrame_eq (g : Group) : g.saveFrame = ([0, 1, 2, 3].foldl Group.toFrame g).mapEntries PathEntry.framed := by
  have each (h : Group) : { h with paths := Vector.ofFn fun i =>
      if h.paths[i].kind = .path then { h.paths[i] with kind := .saved } else h.paths[i] } = h.mapEntries PathEntry.framed :=
    h.with_paths (by ext i : 1; simp [PathEntry.framed])
  exact each _

theorem Group.toFrame_regs (g : Group) (k : Nat) : (g.toFrame k).regs = g.regs := by
  unfold Group.toFrame
  split_ifs
  · split
    · rw [Group.setEntry_regs, Group.setEntry_regs]
    · rfl
  · rfl

theorem Group.saveFrame_regs (g : Group) : g.saveFrame.regs = g.regs := by
  simp only [Group.saveFrame_eq, Group.mapEntries_regs, List.foldl_cons, List.foldl_nil, Group.toFrame_regs]

theorem PathEntry.KeepsShape.framed {f : PathEntry → PathEntry} (keeps : PathEntry.KeepsShape f) (e : PathEntry) :
    f e.framed = (f e).framed := by
  unfold PathEntry.framed
  rw [keeps.kind]
  split_ifs
  · exact keeps.saved e
  · rfl

theorem Group.toFrame_mapEntries (g : Group) {f : PathEntry → PathEntry} (keeps : PathEntry.KeepsShape f) (k : Nat) :
    (g.mapEntries f).toFrame k = (g.toFrame k).mapEntries f := by
  unfold Group.toFrame
  rw [g.freeOver_mapEntries keeps, g.entryAt_mapEntries keeps.free, keeps.kind]
  split_ifs
  · cases g.freeOver with
    | nil => rfl
    | cons j l =>
      dsimp only
      rw [Group.mapEntries_setEntry, Group.mapEntries_setEntry, keeps.saved, keeps.free]
  · rfl

theorem Group.saveFrame_mapEntries (g : Group) {f : PathEntry → PathEntry} (keeps : PathEntry.KeepsShape f) :
    (g.mapEntries f).saveFrame = g.saveFrame.mapEntries f := by
  have swap (h : Group) : (h.mapEntries f).mapEntries PathEntry.framed = (h.mapEntries PathEntry.framed).mapEntries f := by
    simp only [Group.mapEntries, Vector.map_map]
    exact h.with_paths (congrArg (Vector.map · h.paths) (funext fun e => (keeps.framed e).symm))
  simp only [Group.saveFrame_eq, List.foldl_cons, List.foldl_nil, Group.toFrame_mapEntries _ keeps, swap]

theorem Group.frameMask_clearBad (g : Group) (live : Mask) : (g.clearBad live).saveFrame.frameMask = g.saveFrame.frameMask := by
  obtain ⟨f, keeps, eq⟩ := g.clearBad_eq_mapEntries live
  rw [eq, g.saveFrame_mapEntries keeps, Group.frameMask_mapEntries _ keeps]

theorem Group.clearBad_regs (g : Group) (live : Mask) : (g.clearBad live).regs = g.regs := by
  obtain ⟨f, -, eq⟩ := g.clearBad_eq_mapEntries live
  rw [eq, Group.mapEntries_regs]

/-! ### What the trap frame lists -/

theorem Group.listed_framed (g : Group) : (g.mapEntries PathEntry.framed).listed = g.listed.map PathEntry.framed := by
  unfold Group.listed Group.mapEntries
  rw [Vector.toList_map]
  induction g.paths.toList with
  | nil => rfl
  | cons e l ih =>
    by_cases free : e.kind = .free
    · simpa [free, e.framed_kind_free] using ih
    · simpa [free, e.framed_kind_free, e.framed_plain] using ih

theorem Group.mem_freeOver_iff {g : Group} {k : Nat} : k ∈ g.freeOver ↔ k < 64 ∧ 4 ≤ k ∧ (g.entryAt k).kind = .free := by
  simp [Group.freeOver, Group.entriesWhere]

/-- What the move of table paths to the trap frame leaves: the same paths, as paths of the frame or still to be moved. -/
structure Group.Frames (g h : Group) : Prop where
  table : h.TablePaths
  listed : (h.listed.map PathEntry.framed).Perm (g.listed.map PathEntry.framed)
  free : ∀ j, j < 4 → (g.entryAt j).kind = .free → (h.entryAt j).kind = .free

section
variable {g : Group} {k j : Nat} {l : List Nat} (lt : k < 4) (path : (g.entryAt k).kind = .path) (room : g.freeOver = j :: l)
include path room

theorem Group.toFrame_of_path : g.toFrame k = (g.setEntry j { g.entryAt k with kind := .saved }).setEntry k {} := by
  rw [Group.toFrame, if_pos path, room]

theorem Group.entryAt_toFrame_of_ne {i : Nat} (hj : i ≠ j) (hk : i ≠ k) : (g.toFrame k).entryAt i = g.entryAt i := by
  rw [Group.toFrame_of_path path room, Group.entryAt_setEntry_of_ne _ _ hk, Group.entryAt_setEntry_of_ne _ _ hj]

include lt

theorem Group.entryAt_toFrame_self : ((g.toFrame k).entryAt k).kind = .free := by
  rw [Group.toFrame_of_path path room, Group.entryAt_setEntry_self _ _ (by omega)]

/-- The path that moves stands in the list as one of the frame. -/
theorem Group.toFrame_listed : ((g.toFrame k).listed.map PathEntry.framed).Perm (g.listed.map PathEntry.framed) := by
  obtain ⟨ltj, gej, freej⟩ := g.mem_freeOver (k := j) (by rw [room]; exact List.mem_cons_self)
  have there := g.entryAt_setEntry_of_ne { g.entryAt k with kind := .saved } (show k ≠ j by omega)
  have out := (g.setEntry j { g.entryAt k with kind := .saved }).listed_setEntry_free (q := k) (by omega) (by rw [there, path]; decide)
  rw [there, ← Group.toFrame_of_path path room] at out
  have perm := (out.trans (g.listed_setEntry_of_free ltj freej (show PKind.saved ≠ .free by decide))).map PathEntry.framed
  have same : ({ g.entryAt k with kind := .saved } : PathEntry).plain.framed = (g.entryAt k).plain.framed := by
    rw [← PathEntry.framed_plain, ← PathEntry.framed_plain]
    simp [PathEntry.framed, path]
  rw [List.map_append, List.map_append, List.map_singleton, List.map_singleton, same] at perm
  exact (List.perm_append_right_iff _).1 perm

/-- One overflow entry is used. -/
theorem Group.length_le_freeOver_toFrame : l.length ≤ (g.toFrame k).freeOver.length := by
  have nodup : (j :: l).Nodup := room ▸ List.nodup_range.filter _
  obtain ⟨fresh, rest⟩ := List.nodup_cons.1 nodup
  refine (rest.subperm fun i mem => ?_).length_le
  obtain ⟨lti, gei, freei⟩ := g.mem_freeOver (k := i) (by rw [room]; exact List.mem_cons_of_mem j mem)
  refine Group.mem_freeOver_iff.2 ⟨lti, gei, ?_⟩
  rw [Group.entryAt_toFrame_of_ne path room (fun here => fresh (here ▸ mem)) (by omega)]
  exact freei

end

/-- A table path moves while an overflow entry is free (06 R136). -/
theorem Group.toFrame_frames {g : Group} (t : g.TablePaths) {k j : Nat} {l : List Nat} (lt : k < 4) (room : g.freeOver = j :: l) :
    g.Frames (g.toFrame k) ∧ ((g.toFrame k).entryAt k).kind = .free ∧ l.length ≤ (g.toFrame k).freeOver.length := by
  by_cases path : (g.entryAt k).kind = .path
  · obtain ⟨-, above, -⟩ := g.mem_freeOver (k := j) (by rw [room]; exact List.mem_cons_self)
    have gone := Group.entryAt_toFrame_self lt path room
    refine ⟨⟨?_, Group.toFrame_listed lt path room, fun i lti free => ?_⟩, gone, Group.length_le_freeOver_toFrame lt path room⟩
    · rw [Group.toFrame_of_path path room]
      exact (t.setEntry (.inl above)).setEntry (.inr (.inl rfl))
    · by_cases same : i = k
      · rw [same]
        exact gone
      · rw [Group.entryAt_toFrame_of_ne path room (by omega) same]
        exact free
  · rw [Group.toFrame, if_neg path]
    refine ⟨⟨t, .refl _, fun _ _ free => free⟩, (t k lt).resolve_right path, ?_⟩
    rw [room, List.length_cons]
    omega

theorem Group.foldl_toFrame_frames {ks : List Nat} : ∀ {g : Group}, g.TablePaths → (∀ k ∈ ks, k < 4) → ks.length ≤ g.freeOver.length →
    g.Frames (ks.foldl Group.toFrame g) ∧ ∀ k ∈ ks, ((ks.foldl Group.toFrame g).entryAt k).kind = .free := by
  induction ks with
  | nil => exact fun t _ _ => ⟨⟨t, .refl _, fun _ _ free => free⟩, fun _ mem => nomatch mem⟩
  | cons k ks ih =>
    intro g t table room
    rw [List.length_cons] at room
    obtain ⟨j, l, cons⟩ := List.exists_cons_of_length_pos (show 0 < g.freeOver.length by omega)
    have lt := table k List.mem_cons_self
    obtain ⟨first, gone, enough⟩ := Group.toFrame_frames t lt cons
    rw [cons, List.length_cons] at room
    obtain ⟨rest, free⟩ := ih first.table (fun i mem => table i (List.mem_cons_of_mem k mem)) (by omega)
    refine ⟨⟨rest.table, rest.listed.trans first.listed, fun i lti here => rest.free i lti (first.free i lti here)⟩, ?_⟩
    rw [List.forall_mem_cons]
    exact ⟨rest.free k lt gone, free⟩

/-- With the kept entries free the trap frame holds every path of the group, and the table is free (06 R136, R161). -/
theorem Group.saveFrame_listed {g : Group} (t : g.TablePaths) (room : 4 ≤ g.freeOver.length) :
    g.saveFrame.listed.Perm (g.listed.map PathEntry.framed) ∧ (g.saveFrame.entryAt 0).kind = .free := by
  obtain ⟨frames, free⟩ := Group.foldl_toFrame_frames (ks := [0, 1, 2, 3]) t (by decide) room
  rw [g.saveFrame_eq, Group.listed_framed, Group.entryAt_mapEntries _ rfl, PathEntry.framed_kind_free]
  exact ⟨frames.listed, free 0 (by decide)⟩

/-! ### The handler -/

/-- The trap registers after the entry to the handler (06 R161; 03 R70). -/
def Trap.savedIn (t : Trap) (T : TrapRegs) (sup : Bool) (pc : DWord) (live : Mask) : TrapRegs :=
  { T with
    flm := t.lanes
    tpc := pc
    tmsk := live
    tcause := tcauseOf t.cause t.detail
    tval := t.val
    tstat := 0#1 ++ (if sup then 1#1 else 0#1) ++ 1#1
    faddr := t.addr.getD T.faddr
    emiw := t.em.elim T.emiw fun e : Word × Word × BitVec 7 => e.1
    emtw := t.em.elim T.emtw fun e : Word × Word × BitVec 7 => e.2.1
    eminf := t.em.elim T.eminf fun e : Word × Word × BitVec 7 => e.2.2 }

/-- A group with its trap registers saved, at supervisor level (06 R161). -/
def Group.withSaved (g : Group) (pc : DWord) (live : Mask) (t : Trap) : Group :=
  { g with sup := true, trap := t.savedIn g.trap g.sup pc live, step := none, keptB := none }

/-- TSTAT in the handler: inh, the level that trapped, and no step (06 R160). -/
theorem Trap.savedIn_tstat (t : Trap) (T : TrapRegs) (sup : Bool) (pc : DWord) (live : Mask) :
    (t.savedIn T sup pc live).tstat.getLsbD 0 = true ∧ (t.savedIn T sup pc live).tstat.getLsbD 1 = sup ∧
      (t.savedIn T sup pc live).tstat.getLsbD 2 = false := by
  unfold Trap.savedIn
  dsimp only
  cases sup <;> decide

/-- Outside a handler the kept entries are four (06 R136). -/
theorem Group.four_le_freeOver (g : Group) (out : g.trap.tstat.getLsbD 0 = false) (room : g.noRoom 0 = false) :
    4 ≤ g.freeOver.length := by
  have kept : g.reserve = 4 := by rw [Group.reserve, out]; rfl
  have free := of_decide_eq_false room
  omega

/-- The path of the handler (06 R161). -/
def Group.handlerPath (g : Group) (tvec : DWord) (tick : Nat) : PathEntry :=
  { kind := .path, mask := g.saveFrame.frameMask, pc := tvec, since := tick }

theorem Group.handlerPath_mask (g : Group) (tvec : DWord) (tick : Nat) : (g.handlerPath tvec tick).mask = g.saveFrame.frameMask := by
  simp only [Group.handlerPath]

section
variable (g : Group) (tvec pc : DWord) (live : Mask) (t : Trap) (tick : Nat)

theorem Group.withSaved_regs : (g.withSaved pc live t).regs = { g.regs with sup := true, trap := t.savedIn g.trap g.sup pc live } := rfl

theorem Group.withSaved_entryAt (k : Nat) : (g.withSaved pc live t).entryAt k = g.entryAt k := by
  simp only [Group.entryAt, Group.withSaved]

theorem Group.withSaved_listed : (g.withSaved pc live t).listed = g.listed := by
  simp only [Group.listed, Group.withSaved]

theorem Group.enterHandler_eq : g.enterHandler tvec pc live t tick =
    (((g.clearBad live).saveFrame.withSaved pc live t).setEntry 0 (g.handlerPath tvec tick)).setNc g.saveFrame.frameMask 0 := by
  unfold Group.enterHandler Group.handlerPath
  rw [← g.frameMask_clearBad live]
  generalize (g.clearBad live).saveFrame = f
  rfl

theorem Group.enterHandler_regs : (g.enterHandler tvec pc live t tick).regs =
    { g.regs with
      sup := true
      trap := t.savedIn g.trap g.sup pc live
      nc := Vector.ofFn fun l => if lane g.saveFrame.frameMask l then 0 else g.nc[l] } := by
  have kept : (g.clearBad live).saveFrame.regs = g.regs := (Group.saveFrame_regs _).trans (g.clearBad_regs live)
  rw [Group.enterHandler_eq, Group.setNc_regs, Group.setEntry_regs, Group.setEntry_nc]
  generalize (g.clearBad live).saveFrame = f at kept
  have trap : f.trap = g.trap := congrArg Regs.trap kept
  have sup : f.sup = g.sup := congrArg Regs.sup kept
  have nc : (f.withSaved pc live t).nc = g.nc := congrArg Regs.nc kept
  rw [f.withSaved_regs, kept, trap, sup, nc]

theorem Group.enterHandler_entry : (g.enterHandler tvec pc live t tick).entryAt 0 = g.handlerPath tvec tick := by
  rw [Group.enterHandler_eq, Group.setNc_entryAt, Group.entryAt_setEntry_self _ _ (by decide)]

/-- With the kept entries free the handler's path stands beside the trap frame, which holds every path (06 R136, R161). -/
theorem Group.enterHandler_perm (table : g.TablePaths) (room : 4 ≤ g.freeOver.length) :
    (g.enterHandler tvec pc live t tick).listed.Perm
      ((g.handlerPath tvec tick).plain :: (g.clearBad live).listed.map PathEntry.framed) := by
  obtain ⟨f, keeps, eq⟩ := g.clearBad_eq_mapEntries live
  obtain ⟨frame, free⟩ := Group.saveFrame_listed (g := g.clearBad live) (by rw [eq]; exact table.mapEntries keeps)
    (by rw [eq, g.freeOver_mapEntries keeps]; exact room)
  rw [← Group.withSaved_listed _ pc live t] at frame
  rw [← Group.withSaved_entryAt _ pc live t] at free
  rw [Group.enterHandler_eq, Group.setNc_listed]
  refine (Group.listed_setEntry_of_free _ (by decide) free (show PKind.path ≠ .free by decide)).trans ?_
  exact (List.perm_append_singleton ..).trans (frame.cons _)

end

theorem State.outside_setGroup (s : State) (gid : Nat) (g : Group) : s.outside gid (s.setGroup gid g) :=
  ⟨rfl, rfl, rfl, fun _ ne => AMap.get?_set_ne _ _ ne, by simp⟩

/-- The group in the handler, at a new replay point (06 R161; 16 R389). -/
def State.trapped (s : State) (g : Group) (pc : DWord) (live : Mask) (t : Trap) : Group :=
  (g.enterHandler (s.ctx g.ctx).tvec pc live t s.gnomon).newReplayPoint (s.ctx g.ctx).tvec s.nextOp

section
variable (s : State) (g : Group) (pc : DWord) (live : Mask) (t : Trap)

theorem Group.newReplayPoint_regs (mark : Nat) : (g.newReplayPoint pc mark).regs = g.regs := rfl

theorem State.trapped_regs : (s.trapped g pc live t).regs =
    { g.regs with
      sup := true
      trap := t.savedIn g.trap g.sup pc live
      nc := Vector.ofFn fun l => if lane g.saveFrame.frameMask l then 0 else g.nc[l] } :=
  (Group.newReplayPoint_regs _ _ _).trans (g.enterHandler_regs ..)

theorem State.trapped_entry : (s.trapped g pc live t).entryAt 0 = g.handlerPath (s.ctx g.ctx).tvec s.gnomon := by
  rw [← g.enterHandler_entry _ pc live t]
  simp only [State.trapped, Group.newReplayPoint, Group.entryAt]

theorem State.trapped_listed : (s.trapped g pc live t).listed = (g.enterHandler (s.ctx g.ctx).tvec pc live t s.gnomon).listed := by
  simp only [State.trapped, Group.newReplayPoint, Group.listed]

end

/-- Outside a handler, in a context that has one, a trap enters it, and ends the single-lane step of its lane (06 R161; log 69). -/
theorem State.takeTrap_eq {s : State} {gid : Nat} {g : Group} (here : s.groups.get? gid = some g) (out : g.trap.tstat.getLsbD 0 = false)
    (vec : (s.ctx g.ctx).tvec ≠ 0) (pc : DWord) (live : Mask) (t : Trap) :
    s.takeTrap gid pc live t =
      if g.steps live then s.stepEnds gid (s.trapped g pc live t) live pc else s.setGroup gid (s.trapped g pc live t) := by
  have enters : ¬(g.trap.tstat.getLsbD 0 = true ∨ (s.ctx g.ctx).tvec = 0) := not_or_intro (by rw [out]; decide) vec
  simp only [State.takeTrap, here, if_neg enters, State.trapped]

/-- EMINF holds the group number, the length, the level and the bit for no group (03 R70). -/
theorem eminfOf_fields (ng sup len8 : Bool) {n : Nat} (h : n < 16) :
    (eminfOf ng sup len8 n).getLsbD 6 = ng ∧ (eminfOf ng sup len8 n).getLsbD 5 = sup ∧ (eminfOf ng sup len8 n).getLsbD 4 = len8 ∧
      (eminfOf ng sup len8 n).toNat % 16 = n := by
  interval_cases n <;> revert ng sup len8 <;> decide

/-- Settles O8: a trap makes the group `State.trapped`, whose registers, handler's path and frame are said above. -/
theorem trapEntry : Obligations.TrapEntry := by
  unfold Obligations.TrapEntry
  refine ⟨fun s gid g pc live t here out vec => ?_, fun w k len8 ng sup n live small => ?_⟩
  · refine ⟨s.trapped g pc live t, ?_⟩
    have take := State.takeTrap_eq here out vec pc live t
    have regs := s.trapped_regs g pc live t
    have entry := s.trapped_entry g pc live t
    have perm (table : g.TablePaths) (room : g.noRoom 0 = false) : (s.trapped g pc live t).listed.Perm
        (((s.trapped g pc live t).entryAt 0).plain :: (g.clearBad live).listed.map PathEntry.framed) := by
      rw [s.trapped_listed, entry]
      exact g.enterHandler_perm _ pc live t _ table (g.four_le_freeOver out room)
    generalize s.trapped g pc live t = h at take regs entry perm ⊢
    have trap : h.trap = t.savedIn g.trap g.sup pc live := congrArg Regs.trap regs
    have nc (l : Fin 16) : h.nc[l] = if lane g.saveFrame.frameMask l then 0 else g.nc[l] :=
      getElem_of_eq_ofFn (congrArg Regs.nc regs) l
    rw [trap, entry]
    refine ⟨fun free => ?_, fun steps => by rw [take, if_pos steps], rfl, rfl, rfl, rfl, rfl, ?_, ?_, ?_, congrArg Regs.sup regs,
      fun none => ?_, fun e some => ?_, rfl, rfl, rfl, rfl, rfl, g.handlerPath_mask _ _, fun l here => ?_, congrArg Regs.v regs, congrArg Regs.s regs,
      congrArg Regs.a regs, congrArg Regs.p regs, congrArg Regs.loops regs, congrArg Regs.rng regs, congrArg Regs.rd regs,
      congrArg Regs.stack regs, congrArg Regs.hlm regs, congrArg Regs.valloc regs, fun l gone => ?_, ?_⟩
    · have eq : s.takeTrap gid pc live t = s.setGroup gid h := by rw [take, if_neg (by simp [free])]
      exact ⟨eq, eq ▸ s.outside_setGroup gid h⟩
    · exact (t.savedIn_tstat ..).1
    · exact (t.savedIn_tstat ..).2.1
    · exact (t.savedIn_tstat ..).2.2
    · simp [Trap.savedIn, none]
    · simp [Trap.savedIn, some]
    · rw [Group.handlerPath_mask] at here
      rw [nc, if_pos here]
    · rw [nc, if_neg (by simp [gone])]
    · exact fun table room => entry ▸ perm table room
  · have small' : (if ng then 0 else n) < 16 := by split_ifs <;> omega
    obtain ⟨none, level, len, group⟩ := eminfOf_fields ng sup len8 small'
    exact ⟨_, rfl, rfl, rfl, none, level, len, group⟩

end Sys2Proof.Machine
end

section
/-! PROOFS. The CSRs (16 R400, R401): what each reads as after a write of one of them, and where a write goes. -/

namespace Sys2Proof.Machine

/-! ### A write, register by register -/

/-- The loop registers after a write of CSR n (06 R154). -/
def LoopRegs.written (L : LoopRegs) (n : Nat) (hi : Bool) (w : Word) : LoopRegs where
  ls0 := if n = 0x120 then withHalf L.ls0 hi w 2 else L.ls0
  le0 := if n = 0x121 then withHalf L.le0 hi w 2 else L.le0
  lc0 := if n = 0x122 ∧ hi = false then w else L.lc0
  ls1 := if n = 0x123 then withHalf L.ls1 hi w 2 else L.ls1
  le1 := if n = 0x124 then withHalf L.le1 hi w 2 else L.le1
  lc1 := if n = 0x125 ∧ hi = false then w else L.lc1

/-- The trap registers after a write of CSR n at supervisor level (06 R160). -/
def TrapRegs.written (T : TrapRegs) (n : Nat) (hi : Bool) (w : Word) : TrapRegs :=
  { T with
    tpc := if n = 0x111 then withHalf T.tpc hi w 2 else T.tpc
    tcause := if n = 0x112 ∧ hi = false then w &&& 0xFFFF else T.tcause
    tval := if n = 0x113 ∧ hi = false then w else T.tval
    tstat := if n = 0x114 ∧ hi = false then w.setWidth 3 else T.tstat }

/-- A context's CSRs after a write of CSR n that begins no trace session (03 R67; 17 R407; 18 R425; 19 R457). -/
def Ctx.written (C : Ctx) (n : Nat) (hi : Bool) (w : Word) : Ctx :=
  { C with
    xmask := if n = 0x102 ∧ hi = false then w.setWidth 16 else C.xmask
    tvec := if n = 0x110 then withHalf C.tvec hi w 2 else C.tvec
    almap := if n = 0x140 then withHalf C.almap hi w 0 else C.almap
    ortb := if n = 0x152 then withHalf C.ortb hi w 12 else C.ortb
    trace := { C.trace with
      base := if n = 0x160 then withHalf C.trace.base hi w 5 else C.trace.base
      ctl := if n = 0x161 ∧ hi = false then w &&& 0xB81FFFFF else C.trace.ctl
      wp := if n = 0x162 then withHalf C.trace.wp hi w 2 else C.trace.wp
      rp := if n = 0x163 then withHalf C.trace.rp hi w 2 else C.trace.rp } }

theorem LoopRegs.written_of_ne {L : LoopRegs} {n : Nat} {hi : Bool} {w : Word} (h0 : n ≠ 0x120) (h1 : n ≠ 0x121) (h2 : n ≠ 0x122)
    (h3 : n ≠ 0x123) (h4 : n ≠ 0x124) (h5 : n ≠ 0x125) : L.written n hi w = L := by
  simp [LoopRegs.written, h0, h1, h2, h3, h4, h5]

theorem TrapRegs.written_of_ne {T : TrapRegs} {n : Nat} {hi : Bool} {w : Word} (h0 : n ≠ 0x111) (h1 : n ≠ 0x112) (h2 : n ≠ 0x113)
    (h3 : n ≠ 0x114) : T.written n hi w = T := by
  simp [TrapRegs.written, h0, h1, h2, h3]

theorem Ctx.written_of_ne {C : Ctx} {n : Nat} {hi : Bool} {w : Word} (h0 : n ≠ 0x102) (h1 : n ≠ 0x110) (h2 : n ≠ 0x140)
    (h3 : n ≠ 0x152) (h4 : n ≠ 0x160) (h5 : n ≠ 0x161) (h6 : n ≠ 0x162) (h7 : n ≠ 0x163) : C.written n hi w = C := by
  simp [Ctx.written, h0, h1, h2, h3, h4, h5, h6, h7]

/-- The loop registers are written at any level, the trap registers at supervisor level (06 R154, R160). -/
theorem Group.csrw_eq (g : Group) (n : Nat) (hi : Bool) (w : Word) : g.csrw n hi w = { g with
    loops := g.loops.written n hi w
    trap := if g.sup then g.trap.written n hi w else g.trap } := by
  unfold Group.csrw
  dsimp only
  split
  case h_7 _ l0 l1 l2 l3 l4 l5 =>
    rw [LoopRegs.written_of_ne l0 l1 l2 l3 l4 l5]
    by_cases level : g.sup = true
    · rw [if_pos level, if_neg (by simp [level])]
      split
      case h_5 _ t0 t1 t2 t3 => rw [TrapRegs.written_of_ne t0 t1 t2 t3]
      all_goals cases hi <;> rfl
    · rw [if_neg level, if_pos (by simp [level])]
  all_goals
    rw [TrapRegs.written_of_ne (by decide) (by decide) (by decide) (by decide), ite_self]
    cases hi <;> rfl

/-- A write of a context's CSR changes the contexts alone, and of the writer's context what `Ctx.written` says. -/
theorem State.csrwCtx_eq (s : State) (ctx n : Nat) (hi : Bool) (w : Word) : ∃ cs, s.csrwCtx ctx n hi w = { s with ctxs := cs } ∧
    ∀ C, s.ctxs.get? ctx = some C → (n = 0x161 → w.getLsbD 30 = false) → cs.getD ctx {} = C.written n hi w := by
  have made (f : Ctx → Ctx) (writes : ∀ C, f C = C.written n hi w) :
      ∃ cs, s.updCtx ctx f = { s with ctxs := cs } ∧
        ∀ C, s.ctxs.get? ctx = some C → (n = 0x161 → w.getLsbD 30 = false) → cs.getD ctx {} = C.written n hi w :=
    ⟨_, rfl, fun C here _ => by simp [AMap.getD, here, writes C]⟩
  have kept (none : ∀ C : Ctx, C.written n hi w = C) : ∃ cs, s = { s with ctxs := cs } ∧
      ∀ C, s.ctxs.get? ctx = some C → (n = 0x161 → w.getLsbD 30 = false) → cs.getD ctx {} = C.written n hi w :=
    ⟨s.ctxs, rfl, fun C here _ => by simp [AMap.getD, here, none C]⟩
  unfold State.csrwCtx
  split
  case h_1 =>
    cases hi
    · exact made _ fun C => by simp [Ctx.written]
    · exact kept fun C => by simp [Ctx.written]
  case h_6 =>
    cases hi
    · rw [if_neg (by decide), State.writeTrctl]
      dsimp only
      split_ifs with reset
      · exact ⟨_, rfl, fun C _ noReset => absurd (reset.symm.trans (noReset rfl)) (by decide)⟩
      · exact made _ fun C => by simp [Ctx.written]
    · exact kept fun C => by simp [Ctx.written]
  case h_9 _ a b c d e f i j => exact kept fun C => Ctx.written_of_ne a b c d e f i j
  all_goals exact made _ fun C => by simp [Ctx.written]

theorem ne_of_csrMask {n q : Nat} {hi : Bool} (h : csrMask n hi = 0) (writable : ∀ hi, csrMask q hi ≠ 0) : n ≠ q :=
  fun eq => writable hi (eq ▸ h)

theorem not_low_of_csrMask {n q : Nat} {hi : Bool} (h : csrMask n hi = 0) (writable : csrMask q false ≠ 0) : ¬(n = q ∧ hi = false) := by
  rintro ⟨rfl, rfl⟩
  exact writable h

/-- A write of a read-only or unassigned CSR, or of a half without writable bits, writes no register. -/
theorem LoopRegs.written_of_readOnly {L : LoopRegs} {n : Nat} {hi : Bool} {w : Word} (h : csrMask n hi = 0) : L.written n hi w = L := by
  have wide (q : Nat) := ne_of_csrMask (q := q) h
  have low (q : Nat) := not_low_of_csrMask (q := q) h
  simp only [LoopRegs.written, wide 0x120 (by decide), wide 0x121 (by decide), low 0x122 (by decide), wide 0x123 (by decide),
    wide 0x124 (by decide), low 0x125 (by decide), if_false]

theorem TrapRegs.written_of_readOnly {T : TrapRegs} {n : Nat} {hi : Bool} {w : Word} (h : csrMask n hi = 0) : T.written n hi w = T := by
  have wide (q : Nat) := ne_of_csrMask (q := q) h
  have low (q : Nat) := not_low_of_csrMask (q := q) h
  simp only [TrapRegs.written, wide 0x111 (by decide), low 0x112 (by decide), low 0x113 (by decide), low 0x114 (by decide), if_false]

theorem Ctx.written_of_readOnly {C : Ctx} {n : Nat} {hi : Bool} {w : Word} (h : csrMask n hi = 0) : C.written n hi w = C := by
  have wide (q : Nat) := ne_of_csrMask (q := q) h
  have low (q : Nat) := not_low_of_csrMask (q := q) h
  simp only [Ctx.written, low 0x102 (by decide), wide 0x110 (by decide), wide 0x140 (by decide), wide 0x152 (by decide),
    wide 0x160 (by decide), low 0x161 (by decide), wide 0x162 (by decide), wide 0x163 (by decide), if_false]

/-! ### The halves of a CSR -/

theorem getLsbD_csrHalf (x : DWord) (hi : Bool) {i : Nat} (lt : i < 32) :
    (csrHalf x hi).getLsbD i = x.getLsbD (if hi then 32 + i else i) := by
  cases hi <;> simp [csrHalf, lt]

/-- The bits of a 64-bit CSR after a write of half hi, whose low z bits read as 0. -/
theorem getLsbD_withHalf (x : DWord) (hi : Bool) (w : Word) (z : Nat) {i : Nat} (lt : i < 64) :
    (withHalf x hi w z).getLsbD i = (decide (z ≤ i) &&
      if i < 32 then (if hi then x.getLsbD i else w.getLsbD i) else if hi then w.getLsbD (i - 32) else x.getLsbD i) := by
  unfold withHalf
  dsimp only
  rw [BitVec.getLsbD_shiftLeft, BitVec.getLsbD_ushiftRight]
  by_cases le : z ≤ i
  · rw [show z + (i - z) = i by omega]
    by_cases low : i < 32
    · cases hi <;>
        simp only [BitVec.getLsbD_append, BitVec.getLsbD_setWidth, lt, low, le, Bool.false_eq_true, if_false, if_true, decide_true,
          Bool.true_and, Nat.not_lt.2 le, decide_false, Bool.not_false]
    · have high : i - 32 < 32 := by omega
      cases hi <;>
        simp only [BitVec.getLsbD_append, BitVec.getLsbD_extractLsb', lt, low, le, Bool.false_eq_true, if_false, if_true, decide_true,
          Bool.true_and, Nat.not_lt.2 le, decide_false, Bool.not_false, high, show 32 + (i - 32) = i by omega]
  · simp [le]

/-- The written half holds the word and the other stays, but for the bits that read as 0. -/
theorem csrHalf_withHalf (x : DWord) (hi q : Bool) (w : Word) {z : Nat} (small : z ≤ 32) :
    csrHalf (withHalf x hi w z) q =
      (if q = hi then w else csrHalf x q) &&& if q then BitVec.allOnes 32 else BitVec.allOnes 32 <<< z := by
  refine BitVec.eq_of_getLsbD_eq fun i lt => ?_
  have zeros : (BitVec.allOnes 32 <<< z).getLsbD i = decide (z ≤ i) := by
    rw [BitVec.getLsbD_shiftLeft, BitVec.getLsbD_allOnes]
    by_cases le : z ≤ i
    · simp only [lt, le, Nat.not_lt.2 le, show i - z < 32 by omega, decide_true, decide_false, Bool.not_false, Bool.and_self]
    · simp only [le, Nat.not_le.1 le, decide_true, decide_false, Bool.not_true, Bool.and_false, Bool.false_and]
  have above : ¬32 + i < 32 := by omega
  have le : z ≤ 32 + i := by omega
  rw [getLsbD_csrHalf _ _ lt, getLsbD_withHalf _ _ _ _ (by split_ifs <;> omega), BitVec.getLsbD_and]
  cases q
  · cases hi <;> simp only [getLsbD_csrHalf _ _ lt, lt, zeros, Bool.false_eq, Bool.true_eq_false, if_false, if_true,
      Bool.and_comm]
  · simp only [above, le, BitVec.getLsbD_allOnes, lt, Nat.add_sub_cancel_left, decide_true, if_false, if_true, Bool.true_and, Bool.and_true,
      Bool.true_eq]
    cases hi <;> simp only [getLsbD_csrHalf _ _ lt, Bool.false_eq_true, if_false, if_true]

theorem csrHalf_eq_ofNat (x : DWord) (hi : Bool) :
    csrHalf x hi = if hi then BitVec.ofNat 32 (x.toNat / 2 ^ 32) else BitVec.ofNat 32 x.toNat := by
  cases hi
  · exact BitVec.eq_of_toNat_eq (by simp [csrHalf])
  · exact BitVec.eq_of_toNat_eq (by simp [csrHalf, Nat.shiftRight_eq_div_pow])

theorem csrHalf_high_of_lt {x : DWord} (h : x.toNat < 2 ^ 32) : csrHalf x true = 0 := by
  rw [csrHalf_eq_ofNat, if_pos rfl, Nat.div_eq_of_lt h]
  rfl

/-- A register of at most 32 bits has nothing in the upper half of its CSR. -/
theorem csrHalf_high_setWidth {k : Nat} (x : BitVec k) (h : k ≤ 32) : csrHalf (x.setWidth 64) true = 0 := by
  refine csrHalf_high_of_lt ?_
  rw [BitVec.toNat_setWidth]
  exact (Nat.mod_le _ _).trans_lt (x.isLt.trans_le (Nat.pow_le_pow_right (by decide) h))

theorem csrHalf_high_ofNat {x : Nat} (h : x < 2 ^ 32) : csrHalf (BitVec.ofNat 64 x) true = 0 :=
  csrHalf_high_of_lt (by rw [BitVec.toNat_ofNat]; exact (Nat.mod_le _ _).trans_lt h)

theorem setWidth_setWidth_eq_and (w : Word) {k : Nat} (h : k ≤ 32) : (w.setWidth k).setWidth 32 = w &&& BitVec.ofNat 32 (2 ^ k - 1) := by
  refine BitVec.eq_of_toNat_eq ?_
  have le : 2 ^ k ≤ 2 ^ 32 := Nat.pow_le_pow_right (by decide) h
  have pos := Nat.two_pow_pos k
  rw [BitVec.toNat_setWidth, BitVec.toNat_setWidth, BitVec.toNat_and, BitVec.toNat_ofNat, Nat.mod_eq_of_lt (a := 2 ^ k - 1) (by omega),
    Nat.and_two_pow_sub_one_eq_mod, Nat.mod_eq_of_lt ((Nat.mod_lt _ pos).trans_le le)]

theorem and_eq_self_of_and_not {x m : Word} (h : x &&& ~~~m = 0) : x &&& m = x := by
  refine BitVec.eq_of_getLsbD_eq fun i lt => ?_
  have bit := congrArg (·.getLsbD i) h
  simp only [BitVec.getLsbD_and, BitVec.getLsbD_not, lt, decide_true, Bool.true_and] at bit ⊢
  cases here : x.getLsbD i
  · rfl
  · simpa [here] using bit

/-! ### What a CSR reads as -/

/-- The 64-bit CSRs with writable bits (16 R400). -/
def csrWide : List Nat := [0x110, 0x111, 0x120, 0x121, 0x123, 0x124, 0x140, 0x152, 0x160, 0x162, 0x163]

/-- The 32-bit CSRs with writable bits (16 R400). -/
def csrNarrow : List Nat := [0x102, 0x112, 0x113, 0x114, 0x122, 0x125, 0x161]

/-- How many low bits of a 64-bit CSR read as 0 (06 R154, R160; 17 R407; 18 R425; 19 R457). -/
def csrZeros (n : Nat) : Nat := if n = 0x140 then 0 else if n = 0x152 then 12 else if n = 0x160 then 5 else 2

theorem csrMask_of_wide {n : Nat} (h : n ∈ csrWide) (hi : Bool) :
    csrMask n hi = if hi then BitVec.allOnes 32 else BitVec.allOnes 32 <<< csrZeros n := by
  revert n hi
  decide

theorem wide_or_narrow_of_csrMask {n : Nat} {hi : Bool} (h : csrMask n hi ≠ 0) : n ∈ csrWide ∨ (n ∈ csrNarrow ∧ hi = false) := by
  unfold csrMask at h
  split at h
  case h_30 => exact absurd rfl h
  all_goals decide

/-- The CSRs of at most 32 bits, but for those whose width depends on the machine's size (16 R400). -/
def csrShort : List Nat :=
  [0x100, 0x101, 0x102, 0x108, 0x109, 0x10A, 0x112, 0x113, 0x114, 0x115, 0x116, 0x122, 0x125, 0x131, 0x153, 0x161, 0x164, 0x165]

theorem csrShort_of_narrow {n : Nat} (h : n ∈ csrNarrow) : n ∈ csrShort := by
  revert n
  decide

/-- The 32-bit CSRs have nothing in their upper half (16 R401). -/
theorem csrHalf_high_short (s : State) (g : Group) (sup : Bool) : ∀ n ∈ csrShort, csrHalf (s.csr g sup n) true = 0 := by
  have reg {k : Nat} (x : BitVec k) (le : k ≤ 32) : csrHalf (x.setWidth 64) true = 0 := csrHalf_high_setWidth x le
  have zero : csrHalf 0 true = 0 := csrHalf_high_of_lt (by decide)
  have mode : csrHalf (s.csr g sup 0x131) true = 0 := by
    cases sup
    · exact zero
    · exact csrHalf_high_ofNat (by split_ifs <;> decide)
  simp only [csrShort, List.forall_mem_cons]
  exact ⟨csrHalf_high_of_lt (x := 0x0901) (by decide), csrHalf_high_of_lt (x := 0x3F) (by decide), reg _ (by decide), reg _ (by decide),
    reg _ (by decide), reg _ (by decide), reg _ (by decide), reg _ (by decide), reg _ (by decide), reg _ (by decide), reg _ (by decide),
    reg _ (by decide), reg _ (by decide), mode, zero, reg _ (by decide), reg _ (by decide), reg _ (by decide), fun _ mem => nomatch mem⟩

theorem csr_of_unassigned (s : State) (g : Group) (sup : Bool) {n : Nat}
    (h : n < 0x100 ∨ (0x102 < n ∧ n < 0x108) ∨ (0x10A < n ∧ n < 0x110) ∨ (0x11C < n ∧ n < 0x120) ∨ (0x125 < n ∧ n < 0x130) ∨
      (0x131 < n ∧ n < 0x140) ∨ (0x140 < n ∧ n < 0x150) ∨ (0x152 < n ∧ n < 0x160) ∨ 0x165 < n) : s.csr g sup n = 0 := by
  unfold State.csr
  dsimp only
  split
  case h_38 => rfl
  all_goals omega

/-- The group that writes CSR n (06 R154, R160; 03 R69; 18 R426). -/
def Group.csrWriter (g : Group) (n : Nat) (hi : Bool) (w : Word) (m : Mask) (o : Option Order) : Group :=
  { g with
    loops := g.loops.written n hi w
    trap := if g.sup then g.trap.written n hi w else g.trap
    xmask := m
    order := o }

/-- The state after a write of CSR n that leaves the contexts cs and the group h. -/
def State.csrWritten (s : State) (cs : AMap Ctx) (gid : Nat) (h : Group) : State := ({ s with ctxs := cs } : State).setGroup gid h

section
variable (s : State) (g : Group) (cs : AMap Ctx) (n : Nat) (hi : Bool) (w : Word) (gid : Nat) (m : Mask) (o : Option Order)

@[simp] theorem Group.csrWriter_ctx : (g.csrWriter n hi w m o).ctx = g.ctx := rfl
@[simp] theorem Group.csrWriter_loops : (g.csrWriter n hi w m o).loops = g.loops.written n hi w := rfl
@[simp] theorem Group.csrWriter_trap : (g.csrWriter n hi w m o).trap = if g.sup then g.trap.written n hi w else g.trap := rfl
@[simp] theorem Group.csrWriter_rib : (g.csrWriter n hi w m o).rib = g.rib := rfl
@[simp] theorem Group.csrWriter_valloc : (g.csrWriter n hi w m o).valloc = g.valloc := rfl
@[simp] theorem Group.csrWriter_cnt : (g.csrWriter n hi w m o).cnt = g.cnt := rfl
@[simp] theorem Group.csrWriter_hlm : (g.csrWriter n hi w m o).hlm = g.hlm := rfl
@[simp] theorem State.csrWritten_disc (h : Group) : (s.csrWritten cs gid h).disc = s.disc := rfl
@[simp] theorem State.csrWritten_memberVal (h : Group) (f : Block → List Nat) :
    (s.csrWritten cs gid h).memberVal (g.csrWriter n hi w m o) f = s.memberVal g f := rfl
@[simp] theorem State.csrWritten_tilesOf (h : Group) :
    (s.csrWritten cs gid h).tilesOf (g.csrWriter n hi w m o) = s.tilesOf g := rfl

end

section
variable {s : State} {g : Group} {C : Ctx} {cs : AMap Ctx} {n : Nat} {hi : Bool} {w : Word} (gid : Nat) (m : Mask) (o : Option Order)
  (here : s.ctx g.ctx = C) (there : cs.getD g.ctx {} = if g.sup then C.written n hi w else C)
include there

theorem ctx_csrWritten (h : Group) : (s.csrWritten cs gid h).ctx g.ctx = if g.sup then C.written n hi w else C := there

/-- A write of a 32-bit CSR at its level replaces its writable bits. -/
theorem csr_written_narrow (narrow : n ∈ csrNarrow) (low : hi = false) (level : g.sup = true ∨ (0x120 ≤ n ∧ n ≤ 0x125)) :
    csrHalf ((s.csrWritten cs gid (g.csrWriter n hi w m o)).csr (g.csrWriter n hi w m o) g.sup n) false = w &&& csrMask n false := by
  have super := level.resolve_right
  have sixteen : (w.setWidth 16).setWidth 32 = w &&& 0xFFFF#32 := setWidth_setWidth_eq_and w (by decide)
  have three : (w.setWidth 3).setWidth 32 = w &&& 7#32 := setWidth_setWidth_eq_and w (by decide)
  have all : w &&& 0xFFFFFFFF#32 = w := BitVec.and_allOnes
  subst low
  simp only [csrNarrow, List.mem_cons, List.not_mem_nil, or_false] at narrow
  rcases narrow with rfl | rfl | rfl | rfl | rfl | rfl | rfl
  all_goals simp [State.csr, ctx_csrWritten gid there, super, LoopRegs.written, TrapRegs.written, Ctx.written, csrMask, csrHalf,
    sixteen, three, all]

include here

/-- A write of CSR n leaves what every other CSR reads as. -/
theorem csr_written_of_ne {q : Nat} (ne : q ≠ n) :
    (s.csrWritten cs gid (g.csrWriter n hi w m o)).csr (g.csrWriter n hi w m o) g.sup q = s.csr g g.sup q := by
  unfold State.csr
  simp only [Group.csrWriter_ctx, Group.csrWriter_trap, ctx_csrWritten gid there, here]
  rw [State.csrWritten_tilesOf, State.csrWritten_disc]
  generalize g.sup = sup
  cases sup
  · split
    all_goals simp [LoopRegs.written, Ne.symm ne]
  · split
    all_goals simp [LoopRegs.written, TrapRegs.written, Ctx.written, Ne.symm ne]

/-- A write of a CSR that is read-only, unassigned or above the writer's level leaves what it reads as. -/
theorem csr_written_of_kept (kept : csrMask n hi = 0 ∨ (g.sup = false ∧ (n < 0x120 ∨ 0x125 < n))) (q : Nat) :
    (s.csrWritten cs gid (g.csrWriter n hi w m o)).csr (g.csrWriter n hi w m o) g.sup q = s.csr g g.sup q := by
  have loops : g.loops.written n hi w = g.loops := by
    rcases kept with fixed | ⟨-, above⟩
    · exact LoopRegs.written_of_readOnly fixed
    · exact LoopRegs.written_of_ne (by omega) (by omega) (by omega) (by omega) (by omega) (by omega)
  have trap : (if g.sup then g.trap.written n hi w else g.trap) = g.trap := by
    rcases kept with fixed | ⟨user, -⟩
    · rw [TrapRegs.written_of_readOnly fixed, ite_self]
    · rw [user]; rfl
  have ctx : (if g.sup then C.written n hi w else C) = C := by
    rcases kept with fixed | ⟨user, -⟩
    · rw [Ctx.written_of_readOnly fixed, ite_self]
    · rw [user]; rfl
  unfold State.csr
  simp only [Group.csrWriter_ctx, ctx_csrWritten gid there, ctx, here, Group.csrWriter_loops, loops, Group.csrWriter_trap, trap]
  rfl

/-- A write of a 64-bit CSR at its level replaces the half, but for the bits that read as 0. -/
theorem csr_written_wide (wide : n ∈ csrWide) (level : g.sup = true ∨ (0x120 ≤ n ∧ n ≤ 0x125)) :
    (s.csrWritten cs gid (g.csrWriter n hi w m o)).csr (g.csrWriter n hi w m o) g.sup n =
      withHalf (s.csr g g.sup n) hi w (csrZeros n) := by
  have super := level.resolve_right
  simp only [csrWide, List.mem_cons, List.not_mem_nil, or_false] at wide
  rcases wide with rfl | rfl | rfl | rfl | rfl | rfl | rfl | rfl | rfl | rfl | rfl
  all_goals simp [State.csr, ctx_csrWritten gid there, here, super, LoopRegs.written, TrapRegs.written, Ctx.written, csrZeros]

/-- The two halves of a CSR that is written: the writable bits of the one, and the other as it was, when it has no bit that is not
writable. -/
theorem csr_written_halves (may : csrMask n hi ≠ 0) (level : g.sup = true ∨ (0x120 ≤ n ∧ n ≤ 0x125)) :
    csrHalf ((s.csrWritten cs gid (g.csrWriter n hi w m o)).csr (g.csrWriter n hi w m o) g.sup n) hi = w &&& csrMask n hi ∧
    (csrHalf (s.csr g g.sup n) (!hi) &&& ~~~csrMask n (!hi) = 0 →
      csrHalf ((s.csrWritten cs gid (g.csrWriter n hi w m o)).csr (g.csrWriter n hi w m o) g.sup n) (!hi) =
        csrHalf (s.csr g g.sup n) (!hi)) := by
  rcases wide_or_narrow_of_csrMask may with wide | ⟨narrow, low⟩
  · have small : csrZeros n ≤ 32 := by unfold csrZeros; split_ifs <;> decide
    rw [csr_written_wide gid m o here there wide level, csrHalf_withHalf _ _ _ _ small, csrHalf_withHalf _ _ _ _ small,
      ← csrMask_of_wide wide, ← csrMask_of_wide wide, if_pos rfl, if_neg (by simp)]
    exact ⟨rfl, and_eq_self_of_and_not⟩
  · subst low
    refine ⟨csr_written_narrow gid m o there narrow rfl level, fun _ => ?_⟩
    rw [Bool.not_false, csrHalf_high_short _ _ _ n (csrShort_of_narrow narrow), csrHalf_high_short _ _ _ n (csrShort_of_narrow narrow)]

end

/-! ### The instructions -/

/-- csrw writes the group as `Group.csrWriter`, and the context as `Ctx.written` at supervisor level (16 R401). -/
theorem csrwEff_eq {a : BitVec 6} {k : Word} {c : Iss} {s : State} {C : Ctx} (active : c.act ≠ 0) (here : s.ctxs.get? c.g.ctx = some C)
    (noReset : k.toNat % 4096 = 0x161 → (c.g.sreg a).getLsbD 30 = false) : ∃ cs m o,
    csrwEff a k c s = .ok (s.csrWritten cs c.gid (c.g.csrWriter (k.toNat % 4096) (k.getLsbD 12) (c.g.sreg a) m o)) [] ∧
    cs.getD c.g.ctx {} = if c.g.sup then C.written (k.toNat % 4096) (k.getLsbD 12) (c.g.sreg a) else C := by
  have number : bits k.toNat 11 0 = k.toNat % 4096 := by simp [bits]
  obtain ⟨cs, eq, new⟩ := s.csrwCtx_eq c.g.ctx (k.toNat % 4096) (k.getLsbD 12) (c.g.sreg a)
  have state : (if c.g.sup then s.csrwCtx c.g.ctx (k.toNat % 4096) (k.getLsbD 12) (c.g.sreg a) else s) =
      { s with ctxs := if c.g.sup then cs else s.ctxs } := by
    rw [eq]
    split_ifs <;> rfl
  refine ⟨if c.g.sup then cs else s.ctxs,
    if k.toNat % 4096 = 0x102 ∧ c.g.sup ∧ !(k.getLsbD 12) then (c.g.sreg a).setWidth 16 else c.g.xmask,
    if k.toNat % 4096 = 0x153 ∧ c.g.sup ∧ !(k.getLsbD 12) then
      (c.release 3 (.orcmd (bits (c.g.sreg a).toNat 9 8) (bits (c.g.sreg a).toNat 7 0))).order else c.g.order, ?_, ?_⟩
  · unfold csrwEff
    simp only [number, if_neg active, state, Group.csrw_eq, State.csrWritten, Group.csrWriter]
    split_ifs <;> rfl
  · split_ifs
    · exact new C here noReset
    · simp [AMap.getD, here]

/-- Settles O32: csrw makes the state `State.csrWritten` with the group `Group.csrWriter`, whose CSRs are said above one by one. -/
theorem csrReadWrite : Obligations.CsrReadWrite := by
  unfold Obligations.CsrReadWrite
  refine ⟨fun d k c s active => ?_, fun a k c s C active here => ?_, fun s g sup => ⟨fun n => csr_of_unassigned s g sup, rfl, rfl,
    csrHalf_high_short s g sup, fun small => ?_, fun small => ?_, fun small => ?_, fun small => ?_, fun small => ?_⟩⟩
  · have number : bits k.toNat 11 0 = k.toNat % 4096 := by simp [bits]
    refine ⟨_, c.g.setS d (csrHalf (s.csr c.g c.g.sup (k.toNat % 4096)) (k.getLsbD 12)), by rw [csrrEff, if_neg active, number], rfl,
      fun r => ?_, rfl, rfl⟩
    rw [Group.sreg_setS, csrHalf_eq_ofNat]
  · extract_lets n hi w may
    intro noReset
    obtain ⟨cs, m, o, eq, there⟩ := csrwEff_eq active here noReset
    have old : s.ctx c.g.ctx = C := by simp [State.ctx, AMap.getD, here]
    have kept (no : ¬may) := csr_written_of_kept (n := n) (hi := hi) (w := w) c.gid m o old there (by
      rcases not_and_or.1 no with fixed | user
      · exact .inl (not_not.1 fixed)
      · obtain ⟨level, outside⟩ := not_or.1 user
        exact .inr ⟨by simpa using level, by omega⟩)
    refine ⟨_, c.g.csrWriter n hi w m o, eq, AMap.get?_set_self _ _ _, ?_, ?_, fun q ne => csr_written_of_ne c.gid m o old there ne, rfl,
      ?_, rfl, rfl, rfl, fun j ne => AMap.get?_set_ne _ _ ne⟩
    · split_ifs with may
      · exact (csr_written_halves c.gid m o old there may.1 may.2).1
      · rw [kept may]
    · by_cases may : may
      · exact fun fixed => (csr_written_halves c.gid m o old there may.1 may.2).2 (fixed.resolve_right (not_not.2 may))
      · exact fun _ => congrArg (csrHalf · _) (kept may n)
    · rw [Group.csrWriter_trap]
      split_ifs <;> rfl
  · exact csrHalf_high_ofNat (by omega)
  · show csrHalf (if s.tilesOf g = 0 then 0 else BitVec.ofNat 64 (s.memberVal g (·.aslots))) true = 0
    split_ifs
    · exact csrHalf_high_of_lt (by decide)
    · exact csrHalf_high_ofNat (by omega)
  · exact csrHalf_high_ofNat (by omega)
  · exact csrHalf_high_ofNat (by split_ifs <;> omega)
  · exact csrHalf_high_ofNat (by omega)

end Sys2Proof.Machine
end

section
/-! PROOFS. Elements of a lane (04 R72), lanes written under a mask (05 R97), and draws (04 R93, R95). -/

namespace Sys2Proof.Machine

/-! ### Elements -/

theorem Ty.width_pos (t : Ty) : 0 < t.width := by cases t <;> decide

theorem Ty.count_pos (t : Ty) : 0 < t.count := by cases t <;> decide

theorem Ty.width_mul_count (t : Ty) : t.width * t.count = if t = .s64 then 64 else 32 := by cases t <;> rfl

theorem elem_eq_div (t : Ty) (x i : Nat) : elem t x i = x / 2 ^ (t.width * i) % 2 ^ t.width := by
  rw [elem, Nat.shiftRight_eq_div_pow]

theorem elem_lt (t : Ty) (x i : Nat) : elem t x i < 2 ^ t.width := Nat.mod_lt _ (Nat.two_pow_pos _)

theorem packElems_lt (t : Ty) (l : List Nat) : packElems t l < 2 ^ (t.width * l.length) := by
  induction l with
  | nil => simp [packElems]
  | cons x l ih =>
    have low : x % 2 ^ t.width < 2 ^ t.width := Nat.mod_lt _ (Nat.two_pow_pos _)
    calc x % 2 ^ t.width + 2 ^ t.width * packElems t l
        < 2 ^ t.width + 2 ^ t.width * packElems t l := by omega
      _ = 2 ^ t.width * (packElems t l + 1) := by ring
      _ ≤ 2 ^ t.width * 2 ^ (t.width * l.length) := Nat.mul_le_mul_left _ ih
      _ = 2 ^ (t.width * (x :: l).length) := by rw [← pow_add, List.length_cons]; congr 1; ring

theorem elem_packElems (t : Ty) {l : List Nat} {i : Nat} (h : i < l.length) : elem t (packElems t l) i = l[i] % 2 ^ t.width := by
  induction l generalizing i with
  | nil => simp at h
  | cons x l ih =>
    cases i with
    | zero => simp [elem_eq_div, packElems]
    | succ i =>
      have rest : packElems t (x :: l) / 2 ^ t.width = packElems t l := by
        rw [packElems, Nat.add_mul_div_left _ _ (Nat.two_pow_pos _), Nat.div_eq_of_lt (Nat.mod_lt _ (Nat.two_pow_pos _)), zero_add]
      have shift : elem t (packElems t (x :: l)) (i + 1) = elem t (packElems t l) i := by
        rw [elem_eq_div, elem_eq_div, ← rest, Nat.div_div_eq_div_mul, ← pow_add]
        congr 3; ring
      rw [shift, ih (by simpa using h), List.getElem_cons_succ]

theorem mapElems_lt (t : Ty) (f : Nat → Nat) : mapElems t f < 2 ^ if t = .s64 then 64 else 32 := by
  have h := packElems_lt t ((List.range t.count).map f)
  rwa [List.length_map, List.length_range, t.width_mul_count] at h

theorem elem_mapElems (t : Ty) (f : Nat → Nat) {i : Nat} (h : i < t.count) : elem t (mapElems t f) i = f i % 2 ^ t.width := by
  rw [mapElems, elem_packElems t (by simpa using h)]
  simp

theorem mapElemsF_fst (t : Ty) (n : Nat) (qs : List Nat) (f : Nat → Nat → Nat × Flags) :
    (mapElemsF t n qs f).1 = packElems t ((List.range n).map fun i => (f i (qs.getD i 0)).1) := by
  simp [mapElemsF, packF, Function.comp_def]

theorem mapElemsF_count_fst (t : Ty) (qs : List Nat) (f : Nat → Nat → Nat × Flags) :
    (mapElemsF t t.count qs f).1 = mapElems t fun i => (f i (qs.getD i 0)).1 := mapElemsF_fst t t.count qs f

/-! ### Lanes written under a mask -/

section
variable (g : Group) (d : BitVec 8) (m : Mask) (l : Fin 16)

theorem Group.vreg_setV_of_ne (f : Fin 16 → Word) {r : BitVec 8} (h : r ≠ d) : (g.setV d m f).vreg r = g.vreg r := by
  have apart : d.toNat ≠ r.toNat := fun e => h (BitVec.eq_of_toNat_eq e.symm)
  simp [Group.vreg, Group.setV, Vector.getElem_set_ne _ _ apart]

theorem Group.vlane_setV_of_ne (f : Fin 16 → Word) {r : BitVec 8} (h : r ≠ d) : (g.setV d m f).vlane r l = g.vlane r l := by
  rw [Group.vlane, g.vreg_setV_of_ne d m f h, Group.vlane]

theorem Group.vlane_setV (f : Fin 16 → Word) : (g.setV d m f).vlane d l = if lane m l then f l else g.vlane d l := by
  simp [Group.vlane, Group.vreg, Group.setV]

theorem Group.setLanes_eq_setV {t : Ty} (h : t ≠ .s64) (f : Fin 16 → Nat) :
    g.setLanes t d m f = g.setV d m fun l => BitVec.ofNat 32 (f l) := if_neg h

theorem Group.laneVal_eq_vlane {t : Ty} (h : t ≠ .s64) : g.laneVal t d l = (g.vlane d l).toNat := if_neg h

theorem Group.vpair_setPair (f : Fin 16 → DWord) :
    (g.setPair d m f).vpair d l = if lane m l then f l else g.vpair d l := by
  have apart : d ≠ d + 1 := by bv_omega
  unfold Group.vpair Group.setPair
  rw [Group.vlane_setV, Group.vlane_setV_of_ne _ _ _ _ _ apart, Group.vlane_setV, Group.vlane_setV_of_ne _ _ _ _ _ apart.symm]
  split
  · have low : (f l).setWidth 32 = (f l).extractLsb' 0 32 := by ext; simp
    rw [low, join_fields (f l) 0 32 32]
    exact BitVec.extractLsb'_eq_self
  · rfl

theorem Group.laneVal_setLanes {t : Ty} {f : Fin 16 → Nat}
    (small : f l < 2 ^ if t = .s64 then 64 else 32) :
    (g.setLanes t d m f).laneVal t d l = if lane m l then f l else g.laneVal t d l := by
  by_cases pair : t = .s64
  · rw [if_pos pair] at small
    simp only [Group.setLanes, Group.laneVal, if_pos pair, Group.vpair_setPair]
    split
    · rw [BitVec.toNat_ofNat, Nat.mod_eq_of_lt small]
    · rfl
  · rw [if_neg pair] at small
    simp only [Group.setLanes, Group.laneVal, if_neg pair, Group.vlane_setV]
    split
    · rw [BitVec.toNat_ofNat, Nat.mod_eq_of_lt small]
    · rfl

/-- Elements written one by one read back, reduced to their width. -/
theorem Group.elem_setLanes {t : Ty} {f : Fin 16 → Nat → Nat} (active : lane m l = true) {i : Nat}
    (h : i < t.count) : elem t ((g.setLanes t d m fun l => mapElems t (f l)).laneVal t d l) i = f l i % 2 ^ t.width := by
  rw [g.laneVal_setLanes d m l (mapElems_lt t (f l)), if_pos active, elem_mapElems t (f l) h]

theorem Group.laneVal_setLanes_of_inactive {t : Ty} (f : Fin 16 → Nat → Nat)
    (inactive : lane m l = false) : (g.setLanes t d m fun l => mapElems t (f l)).laneVal t d l = g.laneVal t d l := by
  rw [g.laneVal_setLanes d m l (mapElems_lt t (f l)), inactive, if_neg (by decide)]

theorem Group.vreg_setLanes_of_ne {t : Ty} (f : Fin 16 → Nat) {r : BitVec 8} (h : r ≠ d) (pair : t = .s64 → r ≠ d + 1) :
    (g.setLanes t d m f).vreg r = g.vreg r := by
  unfold Group.setLanes
  split
  next s64 => rw [Group.setPair, Group.vreg_setV_of_ne _ _ _ _ (pair s64), Group.vreg_setV_of_ne _ _ _ _ h]
  next => exact Group.vreg_setV_of_ne _ _ _ _ h

theorem Group.setLanes_regs (t : Ty) (f : Fin 16 → Nat) : (g.setLanes t d m f).regs = { g.regs with v := (g.setLanes t d m f).v } := by
  unfold Group.setLanes
  split <;> rfl

/-! ### Draws -/

theorem Group.drawIf_eq (md : Word) (n : Nat) : g.drawIf md m n = g.drawCvt true md m n := rfl

/-- The words that an active lane draws (04 R95). -/
theorem Group.drawCvt_words (rounds : Bool) (md : Word) (n : Nat) (active : lane m l = true) :
    (g.drawCvt rounds md m n).1 l = if rounds = true ∧ mdRnd md = 5 then (g.rng[l].draws n).1 else [] := by
  unfold Group.drawCvt Group.drawIf Group.draw
  cases rounds
  · simp
  · by_cases stochastic : mdRnd md = 5 <;> simp [stochastic, active]

theorem Group.drawCvt_of_exact {rounds : Bool} {md : Word} (n : Nat) (h : rounds = false ∨ mdRnd md ≠ 5) :
    (g.drawCvt rounds md m n).2 = g := by
  unfold Group.drawCvt Group.drawIf
  rcases h with h | h <;> simp [h]

theorem Group.drawCvt_group (rounds : Bool) (md : Word) (n : Nat) :
    (g.drawCvt rounds md m n).2 = { g with rng := (g.drawCvt rounds md m n).2.rng } := by
  unfold Group.drawCvt Group.drawIf
  split_ifs <;> rfl

theorem Group.drawCvt_rng_of_inactive (rounds : Bool) (md : Word) (n : Nat) (inactive : lane m l = false) :
    (g.drawCvt rounds md m n).2.rng[l] = g.rng[l] := by
  unfold Group.drawCvt Group.drawIf Group.draw
  split_ifs
  · simp [inactive]
  · rfl
  · rfl

end

/-! ### An effect that draws and then writes lanes -/

section
variable (g : Group) (rounds : Bool) (md : Word) (d : BitVec 8) (m : Mask) (n : Nat) (t : Ty) (f : Fin 16 → Nat)

/-- The group after the draws of an instruction and the write of its results. -/
def Group.drawnLanes : Group := (g.drawCvt rounds md m n).2.setLanes t d m f

variable {g rounds md d m n t f} {l : Fin 16}

theorem Group.drawnLanes_laneVal (small : f l < 2 ^ if t = .s64 then 64 else 32) :
    (g.drawnLanes rounds md d m n t f).laneVal t d l = if lane m l then f l else g.laneVal t d l := by
  rw [Group.drawnLanes, Group.laneVal_setLanes _ _ _ _ small, Group.drawCvt_group]
  rfl

theorem Group.drawnLanes_vlane (narrow : t ≠ .s64) :
    (g.drawnLanes rounds md d m n t f).vlane d l = if lane m l then BitVec.ofNat 32 (f l) else g.vlane d l := by
  rw [Group.drawnLanes, Group.setLanes_eq_setV _ _ _ narrow, Group.vlane_setV, Group.drawCvt_group]
  rfl

theorem Group.drawnLanes_vreg_of_ne {r : BitVec 8} (h : r ≠ d) (pair : t = .s64 → r ≠ d + 1) :
    (g.drawnLanes rounds md d m n t f).vreg r = g.vreg r := by
  rw [Group.drawnLanes, Group.vreg_setLanes_of_ne _ _ _ _ h pair, Group.drawCvt_group]
  rfl

theorem Group.drawnLanes_rng : (g.drawnLanes rounds md d m n t f).rng = (g.drawCvt rounds md m n).2.rng :=
  congrArg Regs.rng (Group.setLanes_regs (g.drawCvt rounds md m n).2 d m t f)

theorem Group.drawnLanes_regs : { (g.drawnLanes rounds md d m n t f).regs with v := g.v, rng := g.rng } = g.regs := by
  rw [Group.drawnLanes, Group.setLanes_regs, Group.drawCvt_group]
  rfl

end
end Sys2Proof.Machine
end

section
/-! PROOFS. Integer elements (04 R73, R74; 05 R101, R104). -/

namespace Sys2Proof.Machine

/-! ### Values, wrapping and saturation -/

theorem Ty.two_pow_width (t : Ty) : 2 ^ t.width = 2 * 2 ^ (t.width - 1) := by
  rw [← pow_succ']; congr 1; have := t.width_pos; omega

theorem Ty.two_pow_width_int (t : Ty) : (2 : Int) ^ t.width = 2 * 2 ^ (t.width - 1) := by exact_mod_cast t.two_pow_width

theorem wrapInt_lt (t : Ty) (x : Int) : wrapInt t x < 2 ^ t.width := by
  have h := Int.emod_lt_of_pos x (b := 2 ^ t.width) (by positivity)
  have h0 := Int.emod_nonneg x (b := 2 ^ t.width) (by positivity)
  unfold wrapInt
  zify
  rwa [Int.toNat_of_nonneg h0]

theorem fitInt_lt (sat : Bool) (t : Ty) (x : Int) : fitInt sat t x < 2 ^ t.width := by
  unfold fitInt satInt
  split <;> exact wrapInt_lt _ _

theorem intVal_mod (t : Ty) (x : Nat) : intVal t (x % 2 ^ t.width) = intVal t x := by
  simp [intVal]

/-- The value of a pattern of the type's width, by its upper half. -/
theorem intVal_of_lt {t : Ty} {x : Nat} (h : x < 2 ^ t.width) :
    intVal t x = if t.signed = true ∧ 2 ^ (t.width - 1) ≤ x then (x : Int) - 2 ^ t.width else x := by
  simp [intVal, Nat.mod_eq_of_lt h]

theorem intVal_bounds (t : Ty) (x : Nat) : t.minInt ≤ intVal t x ∧ intVal t x ≤ t.maxInt := by
  rw [← intVal_mod]
  have lt : x % 2 ^ t.width < 2 ^ t.width := Nat.mod_lt _ (Nat.two_pow_pos _)
  rw [intVal_of_lt lt]
  have twice := t.two_pow_width
  generalize x % 2 ^ t.width = y at lt
  unfold Ty.minInt Ty.maxInt
  zify at twice lt ⊢
  generalize (2 : Int) ^ t.width = W at *
  generalize (2 : Int) ^ (t.width - 1) = H at *
  cases t.signed
  · simp only [if_false, Bool.false_eq_true, false_and]
    omega
  · simp only [if_true, true_and]
    split_ifs <;> omega

/-- The pattern of a value within the type's range is that value's. -/
theorem intVal_wrapInt {t : Ty} {x : Int} (lo : t.minInt ≤ x) (hi : x ≤ t.maxInt) : intVal t (wrapInt t x) = x := by
  have lt := wrapInt_lt t x
  have low := Int.emod_nonneg x (b := 2 ^ t.width) (by positivity)
  have cast : (wrapInt t x : Int) = x % 2 ^ t.width := Int.toNat_of_nonneg low
  have twice := t.two_pow_width_int
  rw [intVal_of_lt lt]
  unfold Ty.minInt at lo
  unfold Ty.maxInt at hi
  zify at lt ⊢
  rw [cast] at lt ⊢
  have positive : (0 : Int) < 2 ^ (t.width - 1) := by positivity
  have quotient : x % 2 ^ t.width = if x < 0 then x + 2 ^ t.width else x := by
    split
    next neg => exact (Int.emod_eq_add_self_emod).trans (Int.emod_eq_of_lt (by split at lo <;> omega) (by omega))
    next nonneg => exact Int.emod_eq_of_lt (by omega) (by split at hi <;> omega)
  rw [quotient]
  generalize (2 : Int) ^ t.width = W at *
  generalize (2 : Int) ^ (t.width - 1) = H at *
  cases signed : t.signed
  · simp only [signed, if_false, Bool.false_eq_true, false_and] at lo hi ⊢
    split_ifs <;> omega
  · simp only [signed, if_true, true_and] at lo hi ⊢
    split_ifs <;> omega

theorem intVal_satInt (t : Ty) (x : Int) : intVal t (satInt t x) = max t.minInt (min t.maxInt x) := by
  have ordered : t.minInt ≤ t.maxInt := (intVal_bounds t 0).1.trans (intVal_bounds t 0).2
  exact intVal_wrapInt (le_max_left _ _) (max_le ordered (min_le_left _ _))

/-- Wrapping goes from the greatest signed value plus one to the least. -/
theorem intVal_wrapInt_top {t : Ty} (h : t.signed = true) : intVal t (wrapInt t (2 ^ (t.width - 1))) = -(2 ^ (t.width - 1)) := by
  have twice := t.two_pow_width_int
  have positive : (0 : Int) < 2 ^ (t.width - 1) := by positivity
  have same : wrapInt t (2 ^ (t.width - 1)) = wrapInt t (-(2 ^ (t.width - 1))) := by
    have shift : (2 : Int) ^ (t.width - 1) = -(2 ^ (t.width - 1)) + 2 ^ t.width := by rw [twice]; ring
    unfold wrapInt
    conv_lhs => rw [shift, Int.add_emod_right]
  rw [same]
  refine intVal_wrapInt ?_ ?_
  · simp [Ty.minInt, h]
  · simp only [Ty.maxInt, h, if_true]; omega

/-! ### The operations of R104 -/

/-- The high half of a product lies in the range of the type. -/
theorem mulh_bounds {t : Ty} {x y : Int} (hx : t.minInt ≤ x ∧ x ≤ t.maxInt) (hy : t.minInt ≤ y ∧ y ≤ t.maxInt) :
    t.minInt ≤ x * y / 2 ^ t.width ∧ x * y / 2 ^ t.width ≤ t.maxInt := by
  have twice := t.two_pow_width_int
  have positive : (0 : Int) < 2 ^ (t.width - 1) := by positivity
  rw [Int.le_ediv_iff_mul_le (by positivity), Int.ediv_le_iff_le_mul (by positivity)]
  obtain ⟨xlo, xhi⟩ := hx
  obtain ⟨ylo, yhi⟩ := hy
  unfold Ty.minInt Ty.maxInt at *
  simp only [twice] at *
  generalize (2 : Int) ^ (t.width - 1) = H at *
  cases signed : t.signed
  · simp only [signed, if_false, Bool.false_eq_true] at xlo xhi ylo yhi ⊢
    constructor <;> nlinarith
  · simp only [signed, if_true] at xlo xhi ylo yhi ⊢
    constructor <;> nlinarith

/-- The bits of an arithmetic shift to the right (05 R104 sra). -/
theorem testBit_sra {w : Nat} (pos : 0 < w) {a n k : Nat} (ha : a < 2 ^ w) (hk : k < w) :
    (((if a < 2 ^ (w - 1) then (a : Int) else (a : Int) - 2 ^ w) / 2 ^ n) % 2 ^ w).toNat.testBit k = a.testBit (min (k + n) (w - 1)) := by
  have value : (if a < 2 ^ (w - 1) then (a : Int) else (a : Int) - 2 ^ w) = (BitVec.ofNat w a).toInt := by
    rw [BitVec.toInt_eq_msb_cond, BitVec.msb_eq_decide, BitVec.toNat_ofNat, Nat.mod_eq_of_lt ha]
    by_cases h : a < 2 ^ (w - 1)
    · simp [h, Nat.not_le.2 h]
    · simp [h, Nat.not_lt.1 h]
  have shifted : (((BitVec.ofNat w a).toInt / 2 ^ n) % 2 ^ w).toNat = ((BitVec.ofNat w a).sshiftRight n).toNat := by
    rw [BitVec.sshiftRight, BitVec.toNat_ofInt, Int.shiftRight_eq_div_pow]
    norm_cast
  rw [value, shifted, BitVec.testBit_toNat, BitVec.getLsbD_sshiftRight, BitVec.msb_eq_getLsbD_last]
  by_cases inside : n + k < w
  · have least : min (k + n) (w - 1) = n + k := by omega
    simp only [BitVec.getLsbD_ofNat, inside, least, Nat.not_le.2 hk, if_true, decide_false, decide_true, Bool.not_false, Bool.true_and]
  · have least : min (k + n) (w - 1) = w - 1 := by omega
    simp only [BitVec.getLsbD_ofNat, inside, least, Nat.not_le.2 hk, Nat.sub_lt pos one_pos, if_false, decide_false, decide_true,
      Bool.not_false, Bool.true_and]

/-- The bits of a rotation to the left (05 R104 rotl). -/
theorem testBit_rotl {w a n k : Nat} (ha : a < 2 ^ w) (hn : n < w) (hk : k < w) :
    ((a <<< n ||| a >>> (w - n)) % 2 ^ w).testBit k = a.testBit ((k + w - n) % w) := by
  simp only [Nat.testBit_mod_two_pow, hk, decide_true, Bool.true_and, Nat.testBit_or, Nat.testBit_shiftLeft, Nat.testBit_shiftRight]
  by_cases low : n ≤ k
  · have high : a.testBit (w - n + k) = false := Nat.testBit_lt_two_pow (ha.trans_le (Nat.pow_le_pow_right (by omega) (by omega)))
    have place : (k + w - n) % w = k - n := by
      rw [show k + w - n = k - n + w by omega, Nat.add_mod_right, Nat.mod_eq_of_lt (by omega)]
    simp [low, high, place]
  · have place : (k + w - n) % w = w - n + k := by rw [Nat.mod_eq_of_lt (by omega)]; omega
    simp [low, place]

section
variable {t : Ty} {sat : Bool} {a b d : Nat} (ha : a < 2 ^ t.width) (hb : b < 2 ^ t.width)

include ha hb in
theorem intEl_lt (op : IntOp) : intEl op t sat a b d < 2 ^ t.width := by
  have positive : 0 < 2 ^ t.width := Nat.two_pow_pos _
  cases op <;> simp only [intEl]
  case add | sub | mul | mad => exact fitInt_lt _ _ _
  case mulh | sra => exact wrapInt_lt _ _
  case min | max => split <;> assumption
  case shl | rotl => exact Nat.mod_lt _ positive
  case shr => exact (Nat.shiftRight_le _ _).trans_lt (Nat.mod_lt _ positive)

theorem intVal_mulh : intVal t (intEl .mulh t sat a b d) = intVal t a * intVal t b / 2 ^ t.width :=
  let bounds := mulh_bounds (intVal_bounds t a) (intVal_bounds t b)
  intVal_wrapInt bounds.1 bounds.2

theorem intVal_min : intVal t (intEl .min t sat a b d) = min (intVal t a) (intVal t b) := by
  simp only [intEl]
  split_ifs with h
  · exact (min_eq_left h).symm
  · exact (min_eq_right (by omega)).symm

theorem intVal_max : intVal t (intEl .max t sat a b d) = max (intVal t a) (intVal t b) := by
  simp only [intEl]
  split_ifs with h
  · exact (max_eq_right h).symm
  · exact (max_eq_left (by omega)).symm

include ha hb in
theorem testBit_shifts {k : Nat} (hk : k < t.width) :
    (intEl .shl t sat a b d).testBit k = (decide (b % t.width ≤ k) && a.testBit (k - b % t.width)) ∧
    (intEl .shr t sat a b d).testBit k = (decide (k + b % t.width < t.width) && a.testBit (k + b % t.width)) ∧
    (intEl .sra t sat a b d).testBit k = a.testBit (min (k + b % t.width) (t.width - 1)) ∧
    (intEl .rotl t sat a b d).testBit k = a.testBit ((k + t.width - b % t.width) % t.width) := by
  have count : b % t.width < t.width := Nat.mod_lt _ t.width_pos
  simp only [intEl, Nat.mod_eq_of_lt ha, Nat.mod_eq_of_lt hb]
  refine ⟨?_, ?_, ?_, testBit_rotl ha count hk⟩
  · simp [Nat.testBit_mod_two_pow, Nat.testBit_shiftLeft, hk]
  · rw [Nat.testBit_shiftRight, Nat.add_comm]
    by_cases inside : k + b % t.width < t.width
    · simp [inside]
    · have beyond : a.testBit (k + b % t.width) = false :=
        Nat.testBit_lt_two_pow (ha.trans_le (Nat.pow_le_pow_right (by omega) (by omega)))
      simp [beyond]
  · rw [← testBit_sra t.width_pos ha hk]
    norm_cast
    simp only [Nat.mod_eq_of_lt ha]

end

/-- Settles O23: the operations are said above one by one, and `Group.elem_setLanes` says where their results stand. -/
theorem intElements : Obligations.IntElements := by
  refine ⟨fun t x _ => ⟨intVal_satInt t x, rfl, intVal_wrapInt⟩, fun t sat a b d _ ha hb _ => ?_, fun op d a b c l _ _ => ?_⟩
  · exact ⟨rfl, rfl, rfl, rfl, intVal_mulh, intVal_min, intVal_max, fun k => testBit_shifts ha hb, intEl_lt ha hb⟩
  · refine ⟨fun i hi active => ?_, fun inactive => ?_, fun r ne pair => Group.vreg_setLanes_of_ne _ _ _ _ ne pair, ?_⟩
    · exact (Group.elem_setLanes _ _ _ _ active hi).trans (Nat.mod_eq_of_lt (intEl_lt (elem_lt _ _ _) (elem_lt _ _ _) op))
    · exact Group.laneVal_setLanes_of_inactive _ _ _ _ _ inactive
    · exact congrArg (fun r => ({ r with v := c.g.v } : Regs)) (Group.setLanes_regs _ _ _ _ _)

end Sys2Proof.Machine
end

section
/-! PROOFS. Rounding (04 R75, R78, R80, R83): a quotient rounded to an integer, the grid of a floating-point type, its values,
and the result of a rounding beside the exact number. -/

namespace Sys2Proof.Machine

/-! ### Signs and powers of two -/

/-- The factor of a sign bit. -/
def sgn (s : Bool) : ℚ := if s then -1 else 1

@[simp] theorem sgn_true : sgn true = -1 := rfl
@[simp] theorem sgn_false : sgn false = 1 := rfl
theorem sgn_mul_self (s : Bool) : sgn s * sgn s = 1 := by cases s <;> norm_num
theorem abs_sgn_mul (s : Bool) (x : ℚ) : |sgn s * x| = |x| := by cases s <;> simp
theorem sgn_mul_eq_zero (s : Bool) {x : ℚ} : sgn s * x = 0 ↔ x = 0 := by cases s <;> simp

theorem FV.rat_fin (s : Bool) (n : Nat) (e : Int) : (FV.fin s n e).rat = sgn s * (n * 2 ^ e) := mul_assoc _ _ _

theorem Exact.rat_eq (x : Exact) : x.rat = sgn x.s * ((x.n : ℚ) / x.d * 2 ^ x.e) := mul_assoc _ _ _

theorem zpow2_pos (e : Int) : (0 : ℚ) < 2 ^ e := by positivity

theorem zpow2_toNat {k : Int} (h : 0 ≤ k) : (2 : ℚ) ^ k.toNat = 2 ^ k := by
  conv_rhs => rw [← Int.toNat_of_nonneg h]
  exact (zpow_natCast _ _).symm

/-- The quotient of a scaled fraction. -/
theorem scaleFrac_div (n d : Nat) (k : Int) : ((scaleFrac n d k).1 : ℚ) / (scaleFrac n d k).2 = n / d * 2 ^ k := by
  unfold scaleFrac
  split_ifs with h
  · rw [Nat.shiftLeft_eq]
    push_cast
    rw [zpow2_toNat h]
    ring
  · have scale : (2 : ℚ) ^ k = (2 ^ (-k).toNat)⁻¹ := by rw [zpow2_toNat (by omega), zpow_neg, inv_inv]
    rw [Nat.shiftLeft_eq, scale]
    push_cast
    rw [div_mul_eq_div_div, div_eq_mul_inv (_ / _)]

theorem scaleFrac_snd_pos (n : Nat) {d : Nat} (h : 0 < d) (k : Int) : 0 < (scaleFrac n d k).2 := by
  unfold scaleFrac
  split_ifs
  · exact h
  · exact Nat.shiftLeft_eq d _ ▸ Nat.mul_pos h (Nat.two_pow_pos _)

theorem floorLog2_eq_log {n d : Nat} (hn : 0 < n) (hd : 0 < d) (e : Int) : floorLog2 n d e = Int.log 2 ((n : ℚ) / d * 2 ^ e) := by
  have hd' : (0 : ℚ) < d := by exact_mod_cast hd
  have hn' : (0 : ℚ) < n := by exact_mod_cast hn
  have nlo : (2 : ℚ) ^ (Nat.log2 n : Int) ≤ n := by exact_mod_cast Nat.log2_self_le hn.ne'
  have nhi : (n : ℚ) < 2 ^ ((Nat.log2 n : Int) + 1) := by exact_mod_cast (Nat.lt_log2_self : n < _)
  have dlo : (2 : ℚ) ^ (Nat.log2 d : Int) ≤ d := by exact_mod_cast Nat.log2_self_le hd.ne'
  have dhi : (d : ℚ) < 2 ^ ((Nat.log2 d : Int) + 1) := by exact_mod_cast (Nat.lt_log2_self : d < _)
  set g : Int := (Nat.log2 n : Int) - Nat.log2 d with hg
  have small : (scaleFrac n d (-g)).1 < (scaleFrac n d (-g)).2 ↔ (n : ℚ) / d < 2 ^ g := by
    have pos : (0 : ℚ) < (scaleFrac n d (-g)).2 := by exact_mod_cast scaleFrac_snd_pos n hd _
    rw [← Nat.cast_lt (α := ℚ), ← div_lt_one pos, scaleFrac_div, zpow_neg, ← div_eq_mul_inv, div_lt_one (zpow2_pos g)]
  have lo : (2 : ℚ) ^ (g - 1) ≤ n / d := by
    rw [le_div_iff₀ hd']
    calc (2 : ℚ) ^ (g - 1) * d ≤ 2 ^ (g - 1) * 2 ^ ((Nat.log2 d : Int) + 1) := by gcongr
      _ = 2 ^ (Nat.log2 n : Int) := by rw [← zpow_add₀ two_ne_zero]; congr 1; omega
      _ ≤ n := nlo
  have hi : (n : ℚ) / d < 2 ^ (g + 1) := by
    rw [div_lt_iff₀ hd']
    calc (n : ℚ) < 2 ^ ((Nat.log2 n : Int) + 1) := nhi
      _ = 2 ^ (g + 1) * 2 ^ (Nat.log2 d : Int) := by rw [← zpow_add₀ two_ne_zero]; congr 1; omega
      _ ≤ 2 ^ (g + 1) * d := by gcongr
  have cut : floorLog2 n d e = (if (n : ℚ) / d < 2 ^ g then g - 1 else g) + e := by
    simp only [← small]; rfl
  have between {k : Int} (klo : (2 : ℚ) ^ k ≤ n / d) (khi : (n : ℚ) / d < 2 ^ (k + 1)) : k + e = Int.log 2 ((n : ℚ) / d * 2 ^ e) := by
    refine le_antisymm ((Int.zpow_le_iff_le_log one_lt_two (by positivity)).1 ?_) (Int.lt_add_one_iff.1
      ((Int.lt_zpow_iff_log_lt one_lt_two (by positivity)).1 ?_))
    · push_cast
      rw [zpow_add₀ two_ne_zero]
      gcongr
    · push_cast
      rw [add_right_comm, zpow_add₀ two_ne_zero]
      gcongr
  rw [cut]
  split_ifs with h
  · exact between lo (by rwa [sub_add_cancel])
  · exact between (not_lt.1 h) hi

/-! ### A quotient rounded to an integer -/

/-- The integer k is the number z rounded by a mode (04 R78). -/
structure IsRounded (mode : Nat) (z : ℚ) (k : Int) : Prop where
  near : |(k : ℚ) - z| < 1
  nearest : mode = 0 ∨ mode = 4 → 2 * |(k : ℚ) - z| ≤ 1
  toZero : mode = 1 → |(k : ℚ)| ≤ |z|
  up : mode = 2 → z ≤ k
  down : mode = 3 → (k : ℚ) ≤ z
  even : mode = 0 → 2 * |(k : ℚ) - z| = 1 → k % 2 = 0
  away : mode = 4 → 2 * |(k : ℚ) - z| = 1 → |z| ≤ |(k : ℚ)|

/-- a / b rounded to an integer, for a number of sign s. -/
def roundQuot (mode q : Nat) (s : Bool) (a b : Nat) : Nat :=
  if roundsUp mode s (a / b % 2 == 1) (a % b) b q then a / b + 1 else a / b

/-- A whole number with a sign bit. -/
def signedInt (s : Bool) (k : Nat) : Int := if s then -(k : Int) else k

theorem cast_signedInt (s : Bool) (k : Nat) : (signedInt s k : ℚ) = sgn s * k := by cases s <;> simp [signedInt]

/-- The rule of `roundsUp` by the part ρ of the cell that lies below the number (04 R78, R79). -/
def RoundsUp (mode : Nat) (s odd : Bool) (ρ : ℚ) (q : Nat) : Prop :=
  0 < ρ ∧ match mode with
  | 0 => 1 < 2 * ρ ∨ (2 * ρ = 1 ∧ odd = true)
  | 1 => False
  | 2 => s = false
  | 3 => s = true
  | 4 => 1 ≤ 2 * ρ
  | _ => q < ⌊2 ^ 32 * ρ⌋₊

theorem roundsUp_iff (mode : Nat) (s odd : Bool) (r q : Nat) {D : Nat} (hD : 0 < D) :
    roundsUp mode s odd r D q = true ↔ RoundsUp mode s odd ((r : ℚ) / D) q := by
  have hD' : (0 : ℚ) < D := by exact_mod_cast hD
  have half : (2 : ℚ) * (r / D) = ((2 * r : Nat) : ℚ) / D := by push_cast; ring
  have positive : (0 : ℚ) < r / D ↔ r ≠ 0 := by
    rw [div_pos_iff_of_pos_right hD', Nat.cast_pos, Nat.pos_iff_ne_zero]
  unfold roundsUp RoundsUp
  rw [positive]
  by_cases zero : r = 0
  · simp [zero]
  rw [if_neg zero]
  rcases mode with _ | _ | _ | _ | _ | mode
  · simp only [half, one_lt_div hD', div_eq_one_iff_eq hD'.ne', Nat.cast_lt, Nat.cast_inj]
    simp [zero]
  · simp
  · simp [zero]
  · simp [zero]
  · simp only [half, one_le_div hD', Nat.cast_le]
    simp [zero]
  · have draw : 2 ^ 32 * r / D = ⌊(2 : ℚ) ^ 32 * (r / D)⌋₊ := by
      rw [← Nat.floor_div_eq_div (K := ℚ)]
      congr 1; push_cast; ring
    simp only [zero, draw, decide_eq_true_eq, ne_eq, not_false_eq_true, true_and]

section
variable (mode q : Nat) (s : Bool) (a : Nat) {b : Nat} (hb : 0 < b)
include hb

/-- A quotient is its whole part and the part of its remainder. -/
theorem quot_add_part : (a : ℚ) / b = (a / b : Nat) + ((a % b : Nat) : ℚ) / b := by
  have hb' : (b : ℚ) ≠ 0 := by exact_mod_cast hb.ne'
  have whole : (a : ℚ) = b * (a / b : Nat) + (a % b : Nat) := by exact_mod_cast (Nat.div_add_mod a b).symm
  field_simp
  linarith

theorem part_bounds : (0 : ℚ) ≤ ((a % b : Nat) : ℚ) / b ∧ ((a % b : Nat) : ℚ) / b < 1 := by
  have hb' : (0 : ℚ) < b := by exact_mod_cast hb
  exact ⟨by positivity, (div_lt_one hb').2 (by exact_mod_cast Nat.mod_lt a hb)⟩

end

theorem abs_cast_signedInt (s : Bool) (k : Nat) : |(signedInt s k : ℚ)| = k := by
  rw [cast_signedInt, abs_sgn_mul, Nat.abs_cast]

theorem signedInt_mod_two (s : Bool) (k : Nat) : signedInt s k % 2 = 0 ↔ k % 2 = 0 := by
  cases s <;> simp only [signedInt, if_true, if_false, Bool.false_eq_true] <;> omega

section
variable {mode q lo : Nat} {s : Bool} {ρ : ℚ} (lt : ρ < 1)
include lt

theorem RoundsUp.isRounded (rule : RoundsUp mode s (lo % 2 == 1) ρ q) : IsRounded mode (sgn s * (lo + ρ)) (signedInt s (lo + 1)) := by
  obtain ⟨pos, rule⟩ := rule
  have gap : |(signedInt s (lo + 1) : ℚ) - sgn s * (lo + ρ)| = 1 - ρ := by
    rw [cast_signedInt, ← mul_sub, abs_sgn_mul, abs_of_nonneg] <;> push_cast <;> linarith
  have size : |sgn s * (lo + ρ)| = lo + ρ := by rw [abs_sgn_mul, abs_of_nonneg (by positivity)]
  constructor
  case near => rw [gap]; linarith
  case nearest =>
    rw [gap]
    rintro (rfl | rfl)
    · rcases rule with h | ⟨h, -⟩ <;> linarith
    · change 1 ≤ 2 * ρ at rule
      linarith
  case toZero => rintro rfl; exact rule.elim
  case up =>
    rintro rfl
    obtain rfl : s = false := rule
    simp only [cast_signedInt, sgn_false]
    push_cast
    linarith
  case down =>
    rintro rfl
    obtain rfl : s = true := rule
    simp only [cast_signedInt, sgn_true]
    push_cast
    linarith
  case even =>
    rw [gap, signedInt_mod_two]
    rintro rfl tie
    rcases rule with h | ⟨-, h⟩
    · linarith
    · simp only [beq_iff_eq] at h
      omega
  case away =>
    rw [size, abs_cast_signedInt]
    intros
    push_cast
    linarith

theorem isRounded_of_not_roundsUp (nonneg : 0 ≤ ρ) (rule : ¬RoundsUp mode s (lo % 2 == 1) ρ q) :
    IsRounded mode (sgn s * (lo + ρ)) (signedInt s lo) := by
  have gap : |(signedInt s lo : ℚ) - sgn s * (lo + ρ)| = ρ := by
    rw [cast_signedInt, ← mul_sub, abs_sgn_mul, abs_of_nonpos] <;> linarith
  have size : |sgn s * (lo + ρ)| = lo + ρ := by rw [abs_sgn_mul, abs_of_nonneg (by positivity)]
  constructor
  case near => rwa [gap]
  case nearest =>
    rw [gap]
    rintro (rfl | rfl) <;> by_contra beyond
    · exact rule ⟨by linarith, .inl (by linarith)⟩
    · exact rule ⟨by linarith, (by linarith : 1 ≤ 2 * ρ)⟩
  case toZero =>
    rw [size, abs_cast_signedInt]
    intros
    linarith
  case up =>
    rintro rfl
    cases s
    · have zero : ρ = 0 := by
        by_contra ne
        exact rule ⟨lt_of_le_of_ne nonneg (Ne.symm ne), rfl⟩
      simp [cast_signedInt, zero]
    · simp only [cast_signedInt, sgn_true]
      linarith
  case down =>
    rintro rfl
    cases s
    · simp only [cast_signedInt, sgn_false]
      linarith
    · have zero : ρ = 0 := by
        by_contra ne
        exact rule ⟨lt_of_le_of_ne nonneg (Ne.symm ne), rfl⟩
      simp [cast_signedInt, zero]
  case even =>
    rw [gap, signedInt_mod_two]
    rintro rfl tie
    by_contra odd
    exact rule ⟨by linarith, .inr ⟨tie, by simpa using odd⟩⟩
  case away =>
    rw [gap]
    rintro rfl tie
    exact absurd ⟨by linarith, (by linarith : 1 ≤ 2 * ρ)⟩ rule

end

section
variable (mode q : Nat) (s : Bool) (a : Nat) {b : Nat} (hb : 0 < b)
include hb

theorem roundQuot_isRounded : IsRounded mode (sgn s * ((a : ℚ) / b)) (signedInt s (roundQuot mode q s a b)) := by
  obtain ⟨nonneg, lt⟩ := part_bounds a hb
  have rule := roundsUp_iff mode s (a / b % 2 == 1) (a % b) q hb
  rw [quot_add_part a hb, roundQuot]
  split_ifs with goes
  · exact (rule.1 goes).isRounded lt
  · exact isRounded_of_not_roundsUp lt nonneg (mt rule.2 goes)

theorem roundQuot_near : |(roundQuot mode q s a b : ℚ) - a / b| < 1 := by
  have h := (roundQuot_isRounded mode q s a hb).near
  rwa [cast_signedInt, ← mul_sub, abs_sgn_mul] at h

theorem mod_eq_zero_iff_roundQuot : a % b = 0 ↔ (roundQuot mode q s a b : ℚ) = a / b := by
  have hb' : (b : ℚ) ≠ 0 := by exact_mod_cast hb.ne'
  constructor
  · intro zero
    have stays : roundQuot mode q s a b = a / b := by simp [roundQuot, roundsUp, zero]
    rw [stays, quot_add_part a hb, zero, Nat.cast_zero, zero_div, add_zero]
  · intro eq
    rw [eq_div_iff hb'] at eq
    have product : roundQuot mode q s a b * b = a := by exact_mod_cast eq
    exact Nat.mod_eq_zero_of_dvd ⟨_, (product.symm.trans (Nat.mul_comm _ _))⟩

end

/-- Quotients that are the same number round to the same whole number. -/
theorem roundQuot_congr (mode q : Nat) (s : Bool) {a b a' b' : Nat} (hb : 0 < b) (hb' : 0 < b') (same : (a : ℚ) / b = a' / b') :
    roundQuot mode q s a b = roundQuot mode q s a' b' := by
  have whole : a / b = a' / b' := by rw [← Nat.floor_div_eq_div (K := ℚ), same, Nat.floor_div_eq_div]
  have part : ((a % b : Nat) : ℚ) / b = ((a' % b' : Nat) : ℚ) / b' := by
    have h := quot_add_part a hb
    have h' := quot_add_part a' hb'
    rw [whole] at h
    linarith
  have rule : roundsUp mode s (a' / b' % 2 == 1) (a % b) b q = roundsUp mode s (a' / b' % 2 == 1) (a' % b') b' q := by
    rw [Bool.eq_iff_iff, roundsUp_iff _ _ _ _ _ hb, roundsUp_iff _ _ _ _ _ hb', part]
  rw [roundQuot, roundQuot, whole, rule]

end Sys2Proof.Machine
end

section
/-! PROOFS. The values of a floating-point type on its grid (04 R75), and the result of RoundTo beside the exact number (04 R78, R80,
R83). -/

namespace Sys2Proof.Machine

/-! ### Values of patterns -/

/-- The exponent of the least cell of a type's grid (04 R75). -/
def Ty.leastExp (t : Ty) : Int := 1 - t.fmt.bias - t.fmt.m

theorem Ty.fmt_m_pos (t : Ty) : 0 < t.fmt.m := by cases t <;> decide

theorem Ty.maxPat_lt_signPat (t : Ty) : t.maxPat < t.signPat := by cases t <;> decide

theorem Ty.maxPat_lt_of_infPat {t : Ty} {p : Nat} (h : t.infPat = some p) : t.maxPat < p ∧ p < t.signPat := by
  cases t <;> simp only [Ty.infPat, Option.some.injEq, reduceCtorEq] at h <;> subst h <;> decide

/-- The value of a magnitude with a sign (04 R75). -/
def magVal (t : Ty) (s : Bool) (mag : Nat) : FV :=
  if t.infPat = some mag then .inf s
  else if t.maxPat < mag then .nan
  else if mag / 2 ^ t.fmt.m = 0 then .fin s (mag % 2 ^ t.fmt.m) t.leastExp
  else .fin s (2 ^ t.fmt.m + mag % 2 ^ t.fmt.m) (t.leastExp + (mag / 2 ^ t.fmt.m - 1 : Nat))

theorem fval_eq_magVal (t : Ty) (p : Nat) : fval t p = magVal t (p.testBit (t.fmt.m + t.fmt.e)) (p % t.signPat) := by
  have split : p % t.signPat = p % 2 ^ t.fmt.m + 2 ^ t.fmt.m * (p / 2 ^ t.fmt.m % 2 ^ t.fmt.e) := by
    rw [Ty.signPat, pow_add, Nat.mod_mul]
  have low : p % t.signPat % 2 ^ t.fmt.m = p % 2 ^ t.fmt.m := by
    rw [split, Nat.add_mul_mod_self_left, Nat.mod_mod]
  have high : p % t.signPat / 2 ^ t.fmt.m = p / 2 ^ t.fmt.m % 2 ^ t.fmt.e := by
    rw [split, Nat.add_mul_div_left _ _ (Nat.two_pow_pos _), Nat.div_eq_of_lt (Nat.mod_lt _ (Nat.two_pow_pos _)), zero_add]
  unfold magVal
  rw [low, high, fval, Nat.shiftRight_eq_div_pow]
  refine if_congr Iff.rfl rfl (if_congr Iff.rfl rfl ?_)
  split_ifs with zero
  · rfl
  · congr 1
    unfold Ty.leastExp
    omega

/-- A sign bit above a magnitude. -/
def signed (t : Ty) (s : Bool) (mag : Nat) : Nat := (if s then t.signPat else 0) + mag

theorem signed_mod {t : Ty} {mag : Nat} (s : Bool) (h : mag < t.signPat) : signed t s mag % t.signPat = mag := by
  cases s <;> simp [signed, Nat.mod_eq_of_lt h]

theorem testBit_signed {t : Ty} {mag : Nat} (s : Bool) (h : mag < t.signPat) : (signed t s mag).testBit (t.fmt.m + t.fmt.e) = s := by
  have low : mag.testBit (t.fmt.m + t.fmt.e) = false := Nat.testBit_lt_two_pow h
  cases s
  · simpa [signed] using low
  · simp [signed, Ty.signPat, Nat.testBit_two_pow_add_eq, low]

theorem signed_lt {t : Ty} {mag : Nat} (s : Bool) (h : mag < t.signPat) : signed t s mag < 2 * t.signPat := by
  cases s <;> simp only [signed, if_true, if_false, Bool.false_eq_true] <;> omega

theorem fval_signed {t : Ty} {mag : Nat} (s : Bool) (h : mag < t.signPat) : fval t (signed t s mag) = magVal t s mag := by
  rw [fval_eq_magVal, testBit_signed s h, signed_mod s h]

/-- A pattern is its sign bit and its magnitude, with nothing above them that counts. -/
theorem fval_signed_mod (t : Ty) (p : Nat) : fval t (signed t (p.testBit (t.fmt.m + t.fmt.e)) (p % t.signPat)) = fval t p := by
  rw [fval_signed _ (Nat.mod_lt _ (Nat.two_pow_pos _)), ← fval_eq_magVal]

/-- A point of the grid: c binades above the least cell, n cells up (04 R75). -/
theorem magVal_point {t : Ty} (s : Bool) {c n : Nat} (lt : n < 2 ^ (t.fmt.m + 1)) (low : n < 2 ^ t.fmt.m → c = 0)
    (fits : c * 2 ^ t.fmt.m + n ≤ t.maxPat) : magVal t s (c * 2 ^ t.fmt.m + n) = .fin s n (t.leastExp + c) := by
  have notInf : t.infPat ≠ some (c * 2 ^ t.fmt.m + n) := fun h => absurd (Ty.maxPat_lt_of_infPat h).1 (by omega)
  have positive := Nat.two_pow_pos t.fmt.m
  rw [pow_succ] at lt
  rw [magVal, if_neg notInf, if_neg (by omega)]
  by_cases small : n < 2 ^ t.fmt.m
  · obtain rfl := low small
    simp [Nat.div_eq_of_lt small, Nat.mod_eq_of_lt small]
  · have shape : c * 2 ^ t.fmt.m + n = (n - 2 ^ t.fmt.m) + 2 ^ t.fmt.m * (c + 1) := by
      rw [Nat.mul_comm c, Nat.mul_succ]; omega
    have rest : n - 2 ^ t.fmt.m < 2 ^ t.fmt.m := by omega
    rw [shape, Nat.add_mul_div_left _ _ positive, Nat.add_mul_mod_self_left, Nat.div_eq_of_lt rest, Nat.mod_eq_of_lt rest,
      if_neg (by omega)]
    congr 1 <;> omega

/-- A finite value is a point of the grid, and its pattern is that point's. -/
theorem magVal_eq_fin {t : Ty} {s s' : Bool} {mag n : Nat} {e : Int} (h : magVal t s mag = .fin s' n e) :
    s = s' ∧ mag ≤ t.maxPat ∧ ∃ c : Nat, e = t.leastExp + c ∧ mag = c * 2 ^ t.fmt.m + n ∧ n < 2 ^ (t.fmt.m + 1) ∧ (n < 2 ^ t.fmt.m → c = 0) := by
  have whole := Nat.div_add_mod mag (2 ^ t.fmt.m)
  have part := Nat.mod_lt mag (Nat.two_pow_pos t.fmt.m)
  have twice := pow_succ 2 t.fmt.m
  unfold magVal at h
  split_ifs at h with isInf isNan zero <;> simp only [FV.fin.injEq] at h <;> obtain ⟨rfl, rfl, rfl⟩ := h
  · rw [zero, Nat.mul_zero, Nat.zero_add] at whole
    exact ⟨rfl, by omega, 0, by simp, by omega, by omega, fun _ => rfl⟩
  · refine ⟨rfl, by omega, mag / 2 ^ t.fmt.m - 1, rfl, ?_, by omega, fun _ => by omega⟩
    obtain ⟨k, hk⟩ := Nat.exists_eq_succ_of_ne_zero zero
    rw [hk] at whole ⊢
    rw [Nat.succ_sub_one]
    rw [Nat.mul_succ] at whole
    rw [Nat.mul_comm k]
    omega

/-- The value at a point of the grid, or at the top of its binade. -/
theorem magVal_grid {t : Ty} (s : Bool) {c k : Nat} (le : k ≤ 2 ^ (t.fmt.m + 1)) (high : c ≠ 0 → 2 ^ t.fmt.m ≤ k)
    (fits : c * 2 ^ t.fmt.m + k ≤ t.maxPat) : (magVal t s (c * 2 ^ t.fmt.m + k)).finite = true ∧
      (magVal t s (c * 2 ^ t.fmt.m + k)).sign = s ∧
      (magVal t s (c * 2 ^ t.fmt.m + k)).rat = sgn s * (k * 2 ^ (t.leastExp + c)) := by
  by_cases top : k = 2 ^ (t.fmt.m + 1)
  · have next : c * 2 ^ t.fmt.m + k = (c + 1) * 2 ^ t.fmt.m + 2 ^ t.fmt.m := by rw [top]; ring
    rw [next] at fits ⊢
    rw [magVal_point s (Nat.pow_lt_pow_succ one_lt_two) (fun h => absurd h (lt_irrefl _)) fits]
    refine ⟨rfl, rfl, ?_⟩
    rw [FV.rat_fin, top]
    push_cast
    rw [← add_assoc, zpow_add₀ two_ne_zero, zpow_one]
    ring
  · rw [magVal_point s (lt_of_le_of_ne le top) (fun h => by by_contra ne; exact absurd (high ne) (by omega)) fits]
    exact ⟨rfl, rfl, FV.rat_fin _ _ _⟩

theorem fval_eq_fin {t : Ty} {p n : Nat} {s : Bool} {e : Int} (h : fval t p = .fin s n e) :
    p.testBit (t.fmt.m + t.fmt.e) = s ∧ p % t.signPat ≤ t.maxPat ∧ ∃ c : Nat, e = t.leastExp + c ∧
      p % t.signPat = c * 2 ^ t.fmt.m + n ∧ n < 2 ^ (t.fmt.m + 1) ∧ (n < 2 ^ t.fmt.m → c = 0) :=
  magVal_eq_fin (fval_eq_magVal t p ▸ h)

/-! ### The grid beside a number -/

/-- The exponent of the cells about a positive number (04 R78). -/
def Ty.cellExp (t : Ty) (a : ℚ) : Int := max (Int.log 2 a) (1 - t.fmt.bias) - t.fmt.m

theorem Ty.leastExp_le_cellExp (t : Ty) (a : ℚ) : t.leastExp ≤ t.cellExp a := by
  unfold Ty.leastExp Ty.cellExp
  omega

theorem Ty.lt_two_pow_of_cellExp (t : Ty) (a : ℚ) : a / 2 ^ t.cellExp a < 2 ^ (t.fmt.m + 1) := by
  rw [div_lt_iff₀ (zpow2_pos _), ← zpow_natCast, ← zpow_add₀ two_ne_zero]
  calc a < 2 ^ (Int.log 2 a + 1) := by exact_mod_cast Int.lt_zpow_succ_log_self one_lt_two a
    _ ≤ 2 ^ (((t.fmt.m + 1 : Nat) : Int) + t.cellExp a) := by
      refine zpow_le_zpow_right₀ one_le_two ?_
      unfold Ty.cellExp
      push_cast
      omega

theorem Ty.two_pow_le_of_cellExp (t : Ty) {a : ℚ} (pos : 0 < a) (h : t.leastExp < t.cellExp a) :
    2 ^ t.fmt.m ≤ a / 2 ^ t.cellExp a := by
  rw [le_div_iff₀ (zpow2_pos _), ← zpow_natCast, ← zpow_add₀ two_ne_zero]
  calc (2 : ℚ) ^ ((t.fmt.m : Int) + t.cellExp a) = 2 ^ Int.log 2 a := by
        congr 1
        unfold Ty.cellExp Ty.leastExp at *
        omega
    _ ≤ a := by exact_mod_cast Int.zpow_log_le_self one_lt_two pos

section
variable (t : Ty) (mode q : Nat) (s : Bool) {n d : Nat} (hn : 0 < n) (hd : 0 < d) (e : Int)
include hn hd

/-- A number in cells of its grid, as a quotient of whole numbers, and the grid point that it rounds to. -/
theorem roundGrid_eq : ∃ a b : Nat, 0 < b ∧ (a : ℚ) / b = (n : ℚ) / d * 2 ^ e / 2 ^ t.cellExp ((n : ℚ) / d * 2 ^ e) ∧
    roundGrid t mode q s n d e = ((t.cellExp ((n : ℚ) / d * 2 ^ e) - t.leastExp).toNat * 2 ^ t.fmt.m + roundQuot mode q s a b,
      a % b != 0, decide (Int.log 2 ((n : ℚ) / d * 2 ^ e) < 1 - t.fmt.bias)) := by
  have log := floorLog2_eq_log hn hd e
  refine ⟨(scaleFrac n d (e - t.cellExp ((n : ℚ) / d * 2 ^ e))).1, _, scaleFrac_snd_pos n hd (e - t.cellExp ((n : ℚ) / d * 2 ^ e)), ?_, ?_⟩
  · rw [scaleFrac_div, zpow_sub₀ two_ne_zero, mul_div_assoc]
  · rw [roundGrid, if_neg hn.ne']
    simp only [log]
    rfl

/-- Rounding to the grid depends on the number alone, not on how it is written as a fraction. -/
theorem roundGrid_congr {n' d' : Nat} {e' : Int} (hn' : 0 < n') (hd' : 0 < d')
    (same : (n : ℚ) / d * 2 ^ e = (n' : ℚ) / d' * 2 ^ e') : roundGrid t mode q s n d e = roundGrid t mode q s n' d' e' := by
  obtain ⟨a, b, hb, quot, eq⟩ := roundGrid_eq t mode q s hn hd e
  obtain ⟨a', b', hb', quot', eq'⟩ := roundGrid_eq t mode q s hn' hd' e'
  have agree : (a : ℚ) / b = a' / b' := by rw [quot, quot', same]
  have whole {a b : Nat} (hb : 0 < b) : (a % b != 0) = decide ((⌊(a : ℚ) / b⌋₊ : ℚ) ≠ (a : ℚ) / b) := by
    have part := quot_add_part a hb
    have hb' : (b : ℚ) ≠ 0 := by exact_mod_cast hb.ne'
    rw [Nat.floor_div_eq_div, part, Bool.eq_iff_iff, bne_iff_ne, decide_eq_true_eq, not_iff_not, left_eq_add,
      div_eq_zero_iff, Nat.cast_eq_zero, or_iff_left hb']
  rw [eq, eq', same, roundQuot_congr mode q s hb hb' agree, whole hb, whole hb', agree]

end
end Sys2Proof.Machine
end

section
/-! PROOFS. The result of RoundTo (04 R78, R80, R83): beside the exact number, of a value of the type, and its size. -/

namespace Sys2Proof.Machine

/-! ### What RoundTo answers -/

/-- The result r lies on the grid of t, as the exact number x rounded in its cell 2^u by the mode to the whole number k. -/
structure OnGrid (t : Ty) (mode : Nat) (x : Exact) (r : Nat × Flags) (u k : Int) : Prop where
  cell : t.leastExp ≤ u
  binade : t.leastExp < u → 2 ^ t.fmt.m ≤ |x.rat / 2 ^ u|
  rounded : IsRounded mode (x.rat / 2 ^ u) k
  finite : (fval t r.1).finite = true
  sign : (fval t r.1).sign = x.s
  rat : (fval t r.1).rat = k * 2 ^ u
  parity : r.1 % 2 = 0 ↔ k % 2 = 0
  inexact : r.2 &&& fInexact = 0 ↔ (k : ℚ) = x.rat / 2 ^ u

theorem signed_mod_two (t : Ty) (s : Bool) (c k : Nat) : signed t s (c * 2 ^ t.fmt.m + k) % 2 = 0 ↔ k % 2 = 0 := by
  obtain ⟨m, hm⟩ := Nat.exists_eq_succ_of_ne_zero t.fmt_m_pos.ne'
  have even : ∃ j, signed t s (c * 2 ^ t.fmt.m + k) = 2 * j + k := by
    refine ⟨(if s then 2 ^ (m + t.fmt.e) else 0) + c * 2 ^ m, ?_⟩
    rw [signed, Ty.signPat, hm]
    cases s <;> simp only [if_true, if_false, Bool.false_eq_true] <;> rw [Nat.succ_eq_add_one] <;> ring
  obtain ⟨j, hj⟩ := even
  omega

theorem roundTo_eq (t : Ty) (mode q : Nat) (sat : Bool) (x : Exact) : roundTo t mode q sat x =
    if t.maxPat < (roundGrid t mode q x.s x.n x.d x.e).1 then
      (if sat || !overflowInf mode x.s then signed t x.s t.maxPat else infResult t sat x.s, fOverflow ||| fInexact)
    else (signed t x.s (roundGrid t mode q x.s x.n x.d x.e).1,
      flagIf (roundGrid t mode q x.s x.n x.d x.e).2.1 fInexact |||
        flagIf ((roundGrid t mode q x.s x.n x.d x.e).2.1 && (roundGrid t mode q x.s x.n x.d x.e).2.2) fUnderflow) := rfl

theorem inexact_flags (inx tiny : Bool) : (flagIf inx fInexact ||| flagIf (inx && tiny) fUnderflow) &&& fInexact = 0 ↔ inx = false := by
  revert inx tiny; decide

theorem overflow_flag : (fOverflow ||| fInexact) &&& fOverflow ≠ 0 := by decide

/-- A number's magnitude. -/
theorem Exact.abs_rat (x : Exact) : |x.rat| = (x.n : ℚ) / x.d * 2 ^ x.e := by
  rw [x.rat_eq, abs_sgn_mul, abs_of_nonneg (by positivity)]

section
variable (t : Ty) (mode q : Nat) (sat : Bool) {x : Exact} (hn : 0 < x.n) (hd : 0 < x.d)
include hn hd

theorem Exact.abs_rat_pos : 0 < (x.n : ℚ) / x.d * 2 ^ x.e := by
  have : (0 : ℚ) < x.n := by exact_mod_cast hn
  have : (0 : ℚ) < x.d := by exact_mod_cast hd
  positivity

/-- The cell of a number, the whole number of cells that it rounds to, and the grid point there. -/
theorem roundGrid_point : ∃ (u : Int) (a b : Nat), 0 < b ∧ t.leastExp ≤ u ∧ x.rat / 2 ^ u = sgn x.s * ((a : ℚ) / b) ∧
    (t.leastExp < u → 2 ^ t.fmt.m ≤ (a : ℚ) / b) ∧ roundQuot mode q x.s a b ≤ 2 ^ (t.fmt.m + 1) ∧
    ((u - t.leastExp).toNat ≠ 0 → 2 ^ t.fmt.m ≤ roundQuot mode q x.s a b) ∧ ∃ tiny, roundGrid t mode q x.s x.n x.d x.e =
      ((u - t.leastExp).toNat * 2 ^ t.fmt.m + roundQuot mode q x.s a b, a % b != 0, tiny) := by
  obtain ⟨a, b, hb, quot, grid⟩ := roundGrid_eq t mode q x.s hn hd x.e
  have near := abs_lt.1 (roundQuot_near mode q x.s a hb)
  have lt := t.lt_two_pow_of_cellExp ((x.n : ℚ) / x.d * 2 ^ x.e)
  have ge := t.two_pow_le_of_cellExp (Exact.abs_rat_pos hn hd)
  rw [← quot] at lt ge
  refine ⟨_, a, b, hb, t.leastExp_le_cellExp _, ?_, ge, ?_, fun ne => ?_, _, grid⟩
  · rw [x.rat_eq, quot, mul_div_assoc]
  · have below : (roundQuot mode q x.s a b : ℚ) < ((2 ^ (t.fmt.m + 1) + 1 : Nat) : ℚ) := by push_cast; linarith
    exact Nat.lt_add_one_iff.1 (by exact_mod_cast below)
  · have := ge (by omega)
    have above : ((2 ^ t.fmt.m : Nat) : ℚ) < ((roundQuot mode q x.s a b + 1 : Nat) : ℚ) := by push_cast; linarith
    exact Nat.lt_add_one_iff.1 (by exact_mod_cast above)

/-- A rounding that does not overflow. -/
theorem roundTo_onGrid (fits : (roundTo t mode q sat x).2 &&& fOverflow = 0) :
    ∃ u k : Int, OnGrid t mode x (roundTo t mode q sat x) u k := by
  obtain ⟨u, a, b, hb, least, quot, binade, le, high, tiny, grid⟩ := roundGrid_point t mode q hn hd
  have whole := roundQuot_isRounded mode q x.s a hb
  have exact := mod_eq_zero_iff_roundQuot mode q x.s a hb
  rw [roundTo_eq, grid] at fits ⊢
  generalize roundQuot mode q x.s a b = k at *
  split_ifs at fits ⊢ with beyond
  · exact absurd fits overflow_flag
  · exact absurd fits overflow_flag
  · obtain ⟨finite, sign, value⟩ := magVal_grid x.s le high (not_lt.1 beyond)
    have val := fval_signed x.s ((not_lt.1 beyond).trans_lt t.maxPat_lt_signPat)
    have exponent : t.leastExp + ((u - t.leastExp).toNat : Int) = u := by omega
    refine ⟨u, signedInt x.s k, least, fun h => ?_, quot ▸ whole, val ▸ finite, val ▸ sign, ?_, ?_, ?_⟩
    · rw [quot, abs_sgn_mul, abs_of_nonneg (by positivity)]
      exact binade h
    · rw [val, value, exponent, cast_signedInt, mul_assoc]
    · rw [signed_mod_two, signedInt_mod_two]
    · rw [inexact_flags, bne_eq_false_iff_eq, exact, quot, cast_signedInt]
      exact (mul_right_inj' (by cases x.s <;> simp)).symm

end

/-! ### The other values of the type -/

/-- Beside a number z of cells 2^u, the value w cells is a whole number of cells, or a whole number of cells lies between, since it is
below the binade of z. -/
theorem finite_beside {t : Ty} {p : Nat} (finite : (fval t p).finite = true) {u : Int} (least : t.leastExp ≤ u) {z : ℚ}
    (binade : t.leastExp < u → 2 ^ t.fmt.m ≤ |z|) : ∃ (w : ℚ) (j : Int), (fval t p).rat = w * 2 ^ u ∧
      (w = j ∨ (w < j ∧ j ≤ z) ∨ (z ≤ j ∧ j < w)) := by
  match h : fval t p, finite with
  | .fin s n e, _ =>
    obtain ⟨-, -, c, rfl, -, lt, -⟩ := fval_eq_fin h
    have scaled : (FV.fin s n (t.leastExp + c)).rat = sgn s * (n * 2 ^ (t.leastExp + c - u)) * 2 ^ u := by
      rw [FV.rat_fin, zpow_sub₀ two_ne_zero]
      field_simp
    by_cases coarse : u ≤ t.leastExp + c
    · refine ⟨_, signedInt s (n * 2 ^ (t.leastExp + c - u).toNat), scaled, .inl ?_⟩
      rw [cast_signedInt]
      push_cast
      rw [zpow2_toNat (by omega)]
    · have small : |sgn s * ((n : ℚ) * 2 ^ (t.leastExp + c - u))| < 2 ^ t.fmt.m := by
        rw [abs_sgn_mul, abs_of_nonneg (by positivity)]
        calc (n : ℚ) * 2 ^ (t.leastExp + c - u) < 2 ^ (t.fmt.m + 1) * 2 ^ (t.leastExp + c - u) := by
              gcongr; exact_mod_cast lt
          _ ≤ 2 ^ (t.fmt.m + 1) * 2 ^ (-1 : Int) := by
              gcongr
              · norm_num
              · omega
          _ = 2 ^ t.fmt.m := by rw [pow_succ, zpow_neg_one]; ring
      have big := binade (by omega)
      have split := abs_lt.1 small
      refine ⟨_, if 0 ≤ z then 2 ^ t.fmt.m else -2 ^ t.fmt.m, scaled, .inr ?_⟩
      split_ifs with nonneg
      · rw [abs_of_nonneg nonneg] at big
        exact .inl ⟨by push_cast; exact split.2, by push_cast; exact big⟩
      · rw [abs_of_neg (not_le.1 nonneg)] at big
        exact .inr ⟨by push_cast; linarith, by push_cast; exact split.1⟩

section
variable {mode : Nat} {z w : ℚ} {k j : Int} (h : IsRounded mode z k) (beside : w = j ∨ (w < j ∧ j ≤ z) ∨ (z ≤ j ∧ j < w))
include h

/-- A whole number rounds to itself. -/
theorem IsRounded.eq_of_whole (whole : z = j) : k = j := by
  have near := abs_lt.1 h.near
  subst whole
  have lo : (j : ℚ) < ((k + 1 : Int) : ℚ) := by push_cast; linarith
  have hi : (k : ℚ) < ((j + 1 : Int) : ℚ) := by push_cast; linarith
  have lo' : j < k + 1 := by exact_mod_cast lo
  have hi' : k < j + 1 := by exact_mod_cast hi
  omega

/-- To nearest, no whole number is nearer. -/
theorem IsRounded.dist_le (nearest : mode = 0 ∨ mode = 4) (i : Int) : |(k : ℚ) - z| ≤ |(i : ℚ) - z| := by
  have half := h.nearest nearest
  by_cases same : i = k
  · rw [same]
  · have apart : (1 : ℚ) ≤ |(i : ℚ) - k| := by exact_mod_cast Int.one_le_abs (sub_ne_zero.2 same)
    have triangle := abs_sub_le (i : ℚ) z k
    rw [abs_sub_comm z] at triangle
    linarith

omit h in
include beside in
/-- The whole number between is no farther, and nearer when it is not the value itself. -/
theorem dist_beside : |(j : ℚ) - z| ≤ |w - z| ∧ (|(j : ℚ) - z| = |w - z| → w = j) := by
  rcases beside with rfl | ⟨a, b⟩ | ⟨a, b⟩
  · exact ⟨le_rfl, fun _ => rfl⟩
  · rw [abs_of_nonpos (by linarith), abs_of_nonpos (by linarith)]
    exact ⟨by linarith, fun e => by linarith⟩
  · rw [abs_of_nonneg (by linarith), abs_of_nonneg (by linarith)]
    exact ⟨by linarith, fun e => by linarith⟩

/-- A number half way between rounds to the greater magnitude (04 R78 rna). -/
theorem IsRounded.other_le (m : mode = 4) (half : 2 * |(k : ℚ) - z| = 1) : |2 * z - k| ≤ |(k : ℚ)| := by
  have far := h.away m half
  have near := abs_lt.1 h.near
  rcases lt_trichotomy k 0 with neg | rfl | pos
  · have below : (k : ℚ) ≤ -1 := by exact_mod_cast (by omega : k ≤ -1)
    rw [abs_of_neg (by linarith : (k : ℚ) < 0), abs_of_neg (by linarith : z < 0)] at *
    exact abs_le.2 ⟨by linarith, by linarith⟩
  · have zero : z = 0 := abs_nonpos_iff.1 (by simpa using far)
    simp [zero]
  · have above : (1 : ℚ) ≤ k := by exact_mod_cast pos
    rw [abs_of_pos (by linarith : (0 : ℚ) < k), abs_of_pos (by linarith : 0 < z)] at *
    exact abs_le.2 ⟨by linarith, by linarith⟩

include beside

theorem IsRounded.not_between : ¬(min (k : ℚ) z < w ∧ w < max (k : ℚ) z) := by
  rintro ⟨lo, hi⟩
  have near := abs_lt.1 h.near
  rcases le_total (k : ℚ) z with le | le
  · rw [min_eq_left le] at lo
    rw [max_eq_right le] at hi
    have between : (k : ℚ) < j ∧ (j : ℚ) ≤ z := by
      rcases beside with rfl | ⟨a, b⟩ | ⟨a, b⟩
      · exact ⟨lo, hi.le⟩
      · exact ⟨lo.trans a, b⟩
      · linarith
    have above : k + 1 ≤ j := by exact_mod_cast between.1
    have : (k : ℚ) + 1 ≤ j := by exact_mod_cast above
    linarith
  · rw [min_eq_right le] at lo
    rw [max_eq_left le] at hi
    have between : z ≤ (j : ℚ) ∧ (j : ℚ) < k := by
      rcases beside with rfl | ⟨a, b⟩ | ⟨a, b⟩
      · exact ⟨lo.le, hi⟩
      · linarith
      · exact ⟨a, b.trans hi⟩
    have below : j + 1 ≤ k := by exact_mod_cast between.2
    have : (j : ℚ) + 1 ≤ k := by exact_mod_cast below
    linarith

theorem IsRounded.eq_of_eq (same : w = z) : (k : ℚ) = z := by
  have whole : z = j := by
    rcases beside with e | ⟨a, b⟩ | ⟨a, b⟩ <;> linarith
  rw [h.eq_of_whole whole, whole]

theorem IsRounded.dist_le_value (nearest : mode = 0 ∨ mode = 4) : |(k : ℚ) - z| ≤ |w - z| :=
  (h.dist_le nearest j).trans (dist_beside beside).1

/-- At equal distance, the value is the number's other neighbour, half a cell away. -/
theorem IsRounded.tie (nearest : mode = 0 ∨ mode = 4) (equal : |(k : ℚ) - z| = |w - z|) :
    w = k ∨ (2 * |(k : ℚ) - z| = 1 ∧ w = 2 * z - k) := by
  have whole : w = j := (dist_beside beside).2 (le_antisymm (dist_beside beside).1 (equal ▸ h.dist_le nearest j))
  rcases abs_eq_abs.1 equal with e | e
  · exact .inl (by linarith)
  · by_cases same : w = k
    · exact .inl same
    · have other : w = 2 * z - k := by linarith
      have apart : (1 : ℚ) ≤ |(j : ℚ) - k| := by
        exact_mod_cast Int.one_le_abs (sub_ne_zero.2 fun e => same (whole.trans (by rw [e])))
      have twice : |(j : ℚ) - k| = 2 * |(k : ℚ) - z| := by
        rw [← whole, other, show 2 * z - k - k = -(2 * (k - z)) by ring, abs_neg, abs_mul, abs_two]
      exact .inr ⟨le_antisymm (h.nearest nearest) (twice ▸ apart), other⟩

end

/-- Settles O34: the result is a point of the grid (`roundTo_onGrid`), and the other values of the type lie beside it as
`finite_beside` says. -/
theorem rounding : Obligations.Rounding := by
  intro t mode q sat x _ hn hd r v fits
  obtain ⟨u, k, ⟨least, binade, round, finite, -, value, parity, inexact⟩⟩ := roundTo_onGrid t mode q sat hn hd fits
  have cell := zpow2_pos u
  obtain ⟨z, number⟩ : ∃ z, x.rat = z * 2 ^ u := ⟨_, (div_mul_cancel₀ _ cell.ne').symm⟩
  rw [number, mul_div_cancel_right₀ _ cell.ne'] at binade round inexact
  have scale (a b : ℚ) : |a * 2 ^ u - b * 2 ^ u| = |a - b| * 2 ^ u := by rw [← sub_mul, abs_mul, abs_of_pos cell]
  rw [number, show v = k * 2 ^ u from value]
  refine ⟨finite, inexact.trans (mul_left_inj' cell.ne').symm, fun p finite => ?_, fun m => ?_, fun m => ?_, fun m => ?_⟩
  · obtain ⟨w, j, rat, beside⟩ := finite_beside finite least binade
    simp only [rat, ← min_mul_of_nonneg _ _ cell.le, ← max_mul_of_nonneg _ _ cell.le, mul_lt_mul_iff_left₀ cell, mul_left_inj' cell.ne',
      scale, mul_le_mul_iff_left₀ cell, abs_mul, mul_le_mul_iff_left₀ (abs_pos.2 cell.ne'), ne_eq]
    refine ⟨round.not_between beside, round.eq_of_eq beside, round.dist_le_value beside, fun m ne equal => ?_, fun m equal => ?_⟩
    · rcases round.tie beside (.inl m) equal with same | ⟨half, -⟩
      · exact absurd same ne
      · exact parity.2 (round.even m half)
    · rcases round.tie beside (.inr m) equal with same | ⟨half, other⟩
      · rw [same]
      · exact other ▸ round.other_le m half
  · rw [abs_mul, abs_mul]
    exact mul_le_mul_of_nonneg_right (round.toZero m) (abs_nonneg _)
  · exact mul_le_mul_of_nonneg_right (round.up m) cell.le
  · exact mul_le_mul_of_nonneg_right (round.down m) cell.le

end Sys2Proof.Machine
end

section
/-! PROOFS. Roundings whose result is known (04 R75, R80): of zero, of a value of the type, of a small whole number; infinities, and
the size of a result. -/

namespace Sys2Proof.Machine

/-! ### Numbers that round the same -/

theorem Exact.rat_eq_zero {x : Exact} (hd : 0 < x.d) : x.rat = 0 ↔ x.n = 0 := by
  have : (x.d : ℚ) ≠ 0 := by exact_mod_cast hd.ne'
  rw [x.rat_eq, sgn_mul_eq_zero]
  simp [(zpow2_pos x.e).ne', this]

theorem sgn_mul_pos_inj {s s' : Bool} {a b : ℚ} (ha : 0 < a) (hb : 0 < b) (h : sgn s * a = sgn s' * b) : s = s' ∧ a = b := by
  have signs : s = s' := by
    by_contra ne
    obtain rfl : s = !s' := Bool.eq_not_of_ne ne
    cases s' <;> simp only [Bool.not_true, Bool.not_false, sgn_true, sgn_false, neg_mul, one_mul] at h <;> linarith
  subst signs
  exact ⟨rfl, mul_right_injective₀ (by cases s <;> simp) h⟩

/-- The result of a rounding depends on the number alone. -/
theorem roundTo_congr (t : Ty) (mode q : Nat) (sat : Bool) {x y : Exact} (hn : 0 < x.n) (hd : 0 < x.d) (hd' : 0 < y.d)
    (same : x.rat = y.rat) : roundTo t mode q sat x = roundTo t mode q sat y := by
  have hn' : 0 < y.n := Nat.pos_of_ne_zero fun zero => by
    rw [← Exact.rat_eq_zero hd', ← same, Exact.rat_eq_zero hd] at zero
    exact hn.ne' zero
  rw [x.rat_eq, y.rat_eq] at same
  obtain ⟨sign, size⟩ := sgn_mul_pos_inj (Exact.abs_rat_pos hn hd) (Exact.abs_rat_pos hn' hd') same
  rw [roundTo_eq, roundTo_eq, sign, roundGrid_congr t mode q y.s hn hd x.e hn' hd' size]

theorem roundTo_zero (t : Ty) (mode q : Nat) (sat : Bool) {x : Exact} (zero : x.n = 0) :
    roundTo t mode q sat x = (signed t x.s 0, 0) := by
  have grid : roundGrid t mode q x.s x.n x.d x.e = (0, false, false) := if_pos zero
  rw [roundTo_eq, grid]
  simp [flagIf]

theorem fval_zero (t : Ty) (s : Bool) : fval t (signed t s 0) = .fin s 0 t.leastExp := by
  rw [fval_signed s (Nat.two_pow_pos _)]
  have h := magVal_point (t := t) s (c := 0) (n := 0) (Nat.two_pow_pos _) (fun _ => rfl) (by omega)
  simpa using h

/-- The cell of a point of the grid is its own. -/
theorem Ty.cellExp_point {t : Ty} {n c : Nat} (pos : 0 < n) (lt : n < 2 ^ (t.fmt.m + 1)) (low : n < 2 ^ t.fmt.m → c = 0) :
    t.cellExp ((n : ℚ) * 2 ^ (t.leastExp + c)) = t.leastExp + c := by
  have size : (0 : ℚ) < n * 2 ^ (t.leastExp + c) := mul_pos (by exact_mod_cast pos) (zpow2_pos _)
  have below : Int.log 2 ((n : ℚ) * 2 ^ (t.leastExp + c)) < t.fmt.m + 1 + (t.leastExp + c) := by
    rw [← Int.lt_zpow_iff_log_lt one_lt_two size]
    push_cast
    rw [zpow_add₀ two_ne_zero (_ + 1 : Int)]
    refine mul_lt_mul_of_pos_right ?_ (zpow2_pos _)
    exact_mod_cast lt
  have above : c ≠ 0 → t.fmt.m + (t.leastExp + c) ≤ Int.log 2 ((n : ℚ) * 2 ^ (t.leastExp + c)) := by
    intro ne
    rw [← Int.zpow_le_iff_le_log one_lt_two size]
    push_cast
    rw [zpow_add₀ two_ne_zero (t.fmt.m : Int)]
    refine mul_le_mul_of_nonneg_right ?_ (zpow2_pos _).le
    exact_mod_cast not_lt.1 (mt low ne)
  unfold Ty.cellExp
  by_cases zero : c = 0
  · unfold Ty.leastExp at *
    omega
  · have := above zero
    unfold Ty.leastExp at *
    omega

theorem div_of_whole {a b n : Nat} (hb : 0 < b) (whole : (a : ℚ) / b = n) : a % b = 0 ∧ a / b = n := by
  have hb' : (b : ℚ) ≠ 0 := by exact_mod_cast hb.ne'
  have product : a = n * b := by
    rw [div_eq_iff hb'] at whole
    exact_mod_cast whole
  exact ⟨product ▸ Nat.mul_mod_left n b, product ▸ Nat.mul_div_cancel n hb⟩

theorem roundQuot_of_whole (mode q : Nat) (s : Bool) {a b n : Nat} (hb : 0 < b) (whole : (a : ℚ) / b = n) :
    roundQuot mode q s a b = n ∧ a % b = 0 := by
  obtain ⟨exact, -⟩ := div_of_whole hb whole
  have same := (mod_eq_zero_iff_roundQuot mode q s a hb).1 exact
  rw [whole] at same
  exact ⟨by exact_mod_cast same, exact⟩

/-- A value of the type rounds to itself. -/
theorem roundTo_fval (mode q : Nat) (sat : Bool) {t : Ty} {p n : Nat} {s : Bool} {e : Int} (h : fval t p = .fin s n e) :
    roundTo t mode q sat ⟨s, n, 1, e⟩ = (signed t s (p % t.signPat), 0) := by
  obtain ⟨rfl, fits, c, rfl, mag, lt, low⟩ := fval_eq_fin h
  by_cases zero : n = 0
  · subst zero
    have least : c = 0 := low (Nat.two_pow_pos _)
    rw [roundTo_zero t mode q sat rfl, mag, least, Nat.zero_mul]
  · have pos := Nat.pos_of_ne_zero zero
    obtain ⟨a, b, hb, quot, grid⟩ := roundGrid_eq t mode q (p.testBit (t.fmt.m + t.fmt.e)) pos one_pos (t.leastExp + c)
    rw [Nat.cast_one, div_one] at quot grid
    rw [Ty.cellExp_point pos lt low] at quot grid
    rw [mul_div_cancel_right₀ _ (zpow2_pos _).ne'] at quot
    obtain ⟨same, exact⟩ := roundQuot_of_whole mode q (p.testBit (t.fmt.m + t.fmt.e)) hb quot
    rw [same, exact, add_sub_cancel_left, Int.toNat_natCast, ← mag] at grid
    rw [roundTo_eq, grid]
    simp [flagIf, fits]

/-- A number that is a value of the type rounds to that value. -/
theorem roundTo_of_value (t : Ty) (mode q : Nat) (sat : Bool) {x : Exact} {p : Nat} (hn : 0 < x.n) (hd : 0 < x.d)
    (finite : (fval t p).finite = true) (value : (fval t p).rat = x.rat) :
    fval t (roundTo t mode q sat x).1 = fval t p ∧ (roundTo t mode q sat x).2 = 0 := by
  match h : fval t p, finite with
  | .fin s n e, _ =>
    have same : x.rat = (⟨s, n, 1, e⟩ : Exact).rat := by
      rw [← value, h, FV.rat_fin, Exact.rat_eq]
      simp
    rw [roundTo_congr t mode q sat hn hd one_pos same, roundTo_fval mode q sat h]
    refine ⟨?_, rfl⟩
    rw [← h, ← (fval_eq_fin h).1]
    exact fval_signed_mod t p

/-! ### Results that fit -/

/-- A result that fits and is exact raises no flag. -/
theorem roundTo_flags {t : Ty} {mode q : Nat} {sat : Bool} {x : Exact} (fits : (roundTo t mode q sat x).2 &&& fOverflow = 0)
    (exact : (roundTo t mode q sat x).2 &&& fInexact = 0) : (roundTo t mode q sat x).2 = 0 := by
  rw [roundTo_eq] at *
  generalize roundGrid t mode q x.s x.n x.d x.e = g at *
  split_ifs at * with beyond
  · exact absurd fits overflow_flag
  · exact absurd fits overflow_flag
  · rw [inexact_flags] at exact
    simp [exact, flagIf]

theorem fits_flags (inx tiny : Bool) : (flagIf inx fInexact ||| flagIf (inx && tiny) fUnderflow) &&& fOverflow = 0 := by
  revert inx tiny; decide

theorem roundTo_fits {t : Ty} {mode q : Nat} {sat : Bool} {x : Exact} (fits : (roundGrid t mode q x.s x.n x.d x.e).1 ≤ t.maxPat) :
    (roundTo t mode q sat x).2 &&& fOverflow = 0 := by
  rw [roundTo_eq, if_neg (not_lt.2 fits)]
  exact fits_flags _ _

/-- The grid of the types of vector arithmetic has cells below 1 and room for the mantissa's whole numbers (04 R75). -/
theorem fpTypes_room {t : Ty} (h : t ∈ fpTypes) : t.leastExp ≤ 0 ∧ (-t.leastExp).toNat * 2 ^ t.fmt.m + 2 ^ (t.fmt.m + 1) ≤ t.maxPat := by
  revert t; decide

/-- Up to 2^m the cells are not wider than 1. -/
theorem cell_le_one {t : Ty} (least : t.leastExp ≤ 0) {u : Int} {k : Nat} (binade : t.leastExp < u → 2 ^ t.fmt.m ≤ (k : ℚ) / 2 ^ u)
    (small : k ≤ 2 ^ t.fmt.m) : u ≤ 0 := by
  by_contra wide
  have two : (2 : ℚ) ^ (1 : Int) ≤ 2 ^ u := zpow_le_zpow_right₀ one_le_two (by omega)
  have large := (le_div_iff₀ (zpow2_pos u)).1 (binade (by omega))
  have small' : (k : ℚ) ≤ 2 ^ t.fmt.m := by exact_mod_cast small
  have pos : (0 : ℚ) < 2 ^ t.fmt.m := by positivity
  nlinarith

/-- A small whole number is a value of the type. -/
theorem roundTo_small_whole {t : Ty} (ht : t ∈ fpTypes) (mode q : Nat) (sat s : Bool) {k : Nat} (small : k ≤ 2 ^ t.fmt.m) :
    (fval t (roundTo t mode q sat ⟨s, k, 1, 0⟩).1).finite = true ∧ (fval t (roundTo t mode q sat ⟨s, k, 1, 0⟩).1).sign = s ∧
      (fval t (roundTo t mode q sat ⟨s, k, 1, 0⟩).1).rat = sgn s * k ∧ (roundTo t mode q sat ⟨s, k, 1, 0⟩).2 = 0 := by
  obtain ⟨least0, room⟩ := fpTypes_room ht
  by_cases zero : k = 0
  · rw [roundTo_zero t mode q sat zero, fval_zero, zero]
    exact ⟨rfl, rfl, by rw [FV.rat_fin]; simp, rfl⟩
  · have hn : 0 < (⟨s, k, 1, 0⟩ : Exact).n := Nat.pos_of_ne_zero zero
    have value : (⟨s, k, 1, 0⟩ : Exact).rat = sgn s * k := by rw [Exact.rat_eq]; simp
    have fits : (roundTo t mode q sat ⟨s, k, 1, 0⟩).2 &&& fOverflow = 0 := by
      obtain ⟨u, a, b, hb, least, quot, binade, le, high, tiny, grid⟩ := roundGrid_point t mode q hn one_pos
      have cells : (a : ℚ) / b = k / 2 ^ u := by
        rw [value, mul_div_assoc] at quot
        exact (mul_right_injective₀ (by cases s <;> simp) quot).symm
      have fine : u ≤ 0 := cell_le_one least0 (fun h => cells ▸ binade h) small
      refine roundTo_fits ?_
      rw [grid]
      have := Nat.mul_le_mul_right (2 ^ t.fmt.m) (by omega : (u - t.leastExp).toNat ≤ (-t.leastExp).toNat)
      omega
    obtain ⟨u, k', h⟩ := roundTo_onGrid t mode q sat hn one_pos fits
    have fine : u ≤ 0 := cell_le_one least0 (fun le => by
      have := h.binade le
      rwa [value, mul_div_assoc, abs_sgn_mul, abs_of_nonneg (by positivity)] at this) small
    have whole : (⟨s, k, 1, 0⟩ : Exact).rat / 2 ^ u = (signedInt s (k * 2 ^ (-u).toNat) : Int) := by
      rw [value, cast_signedInt]
      push_cast
      rw [zpow2_toNat (by omega), zpow_neg, div_eq_mul_inv, mul_assoc]
    have same : (k' : ℚ) = (⟨s, k, 1, 0⟩ : Exact).rat / 2 ^ u := by rw [h.rounded.eq_of_whole whole, whole]
    refine ⟨h.finite, h.sign, ?_, roundTo_flags fits (h.inexact.2 same)⟩
    rw [h.rat, same, div_mul_cancel₀ _ (zpow2_pos u).ne', value]

/-! ### Infinities, and the size of a result -/

theorem infResult_of_inf {t : Ty} {p : Nat} (h : t.infPat = some p) (sat s : Bool) : infResult t sat s = signed t s p := by
  simp only [infResult, h]; rfl

theorem infResult_of_none {t : Ty} (h : t.infPat = none) (sat s : Bool) :
    infResult t sat s = if t.nanPat = 0 || sat then signed t s t.maxPat else t.nanPat := by
  simp only [infResult, h]; rfl

theorem fval_infResult {t : Ty} (ht : t.infPat.isSome = true) (sat s : Bool) : fval t (infResult t sat s) = .inf s := by
  obtain ⟨p, hp⟩ := Option.isSome_iff_exists.1 ht
  rw [infResult_of_inf hp, fval_signed s (Ty.maxPat_lt_of_infPat hp).2, magVal, if_pos hp]

theorem fval_nanPat {t : Ty} (ht : t ∈ fpTypes) : fval t t.nanPat = .nan := by revert t; decide

theorem fpTypes_inf {t : Ty} (ht : t ∈ fpTypes) : t.infPat.isSome = true := by revert t; decide

theorem Ty.nanPat_lt (t : Ty) : t.nanPat < 2 * t.signPat := by cases t <;> decide

theorem infResult_lt (t : Ty) (sat s : Bool) : infResult t sat s < 2 * t.signPat := by
  cases hp : t.infPat with
  | some p => exact infResult_of_inf hp sat s ▸ signed_lt s (Ty.maxPat_lt_of_infPat hp).2
  | none =>
    rw [infResult_of_none hp]
    split
    · exact signed_lt s t.maxPat_lt_signPat
    · exact t.nanPat_lt

theorem roundTo_lt (t : Ty) (mode q : Nat) (sat : Bool) (x : Exact) : (roundTo t mode q sat x).1 < 2 * t.signPat := by
  rw [roundTo_eq]
  split_ifs with beyond
  · exact signed_lt _ t.maxPat_lt_signPat
  · exact infResult_lt t sat x.s
  · exact signed_lt _ ((not_lt.1 beyond).trans_lt t.maxPat_lt_signPat)

theorem flushOut_lt {t : Ty} (ftz : Bool) {r : Nat × Flags} (h : r.1 < 2 * t.signPat) : (flushOut ftz t r).1 < 2 * t.signPat := by
  have := Nat.two_pow_pos (t.fmt.m + t.fmt.e)
  unfold flushOut
  split_ifs
  · simp only [Ty.signPat] at *; omega
  · simp only [Ty.signPat] at *; omega
  · exact h

theorem foutput_lt (t : Ty) (rnd q : Nat) (ftz : Bool) (r : FRes) : (foutput rnd ftz t q r).1 < 2 * t.signPat := by
  cases r with
  | nan fl => exact t.nanPat_lt
  | inf s fl => exact infResult_lt t false s
  | num x => exact flushOut_lt ftz (roundTo_lt t rnd q false x)

/-- A floating-point type's sign bit is its highest (04 R75). -/
theorem Ty.two_mul_signPat {t : Ty} (h : t.isFloat = true) : 2 * t.signPat = 2 ^ t.width := by
  cases t <;> revert h <;> decide

end Sys2Proof.Machine
end

section
/-! PROOFS. Exact sums, products and compares of values (05 R111 to R114). -/

namespace Sys2Proof.Machine

/-! ### Dyadic numbers -/

/-- The rational number of a dyadic one. -/
def Dy.rat (a : Dy) : ℚ := a.m * 2 ^ a.e

theorem dyOf_rat (s : Bool) (n : Nat) (e : Int) : (dyOf s n e).rat = (FV.fin s n e).rat := by
  cases s <;> simp [Dy.rat, dyOf, FV.rat]

/-- A dyadic number in cells of a smaller power. -/
theorem Dy.rat_eq_of_le (a : Dy) {e : Int} (h : e ≤ a.e) : a.rat = (a.m * 2 ^ (a.e - e).toNat : Int) * 2 ^ e := by
  push_cast
  rw [zpow2_toNat (by omega), mul_assoc, ← zpow_add₀ two_ne_zero, sub_add_cancel]
  rfl

theorem Dy.add_rat (a b : Dy) : (a.add b).rat = a.rat + b.rat := by
  rw [a.rat_eq_of_le (min_le_left a.e b.e), b.rat_eq_of_le (min_le_right a.e b.e), ← add_mul]
  norm_cast

theorem Dy.lt_iff (a b : Dy) : a.lt b = true ↔ a.rat < b.rat := by
  rw [a.rat_eq_of_le (min_le_left a.e b.e), b.rat_eq_of_le (min_le_right a.e b.e), mul_lt_mul_iff_left₀ (zpow2_pos _), Int.cast_lt]
  exact decide_eq_true_iff

theorem Dy.exact_rat (a : Dy) (zs : Bool) : (a.exact zs).rat = a.rat := by
  rw [Exact.rat_eq, Dy.rat]
  simp only [Dy.exact, Nat.cast_one, div_one, ← mul_assoc]
  congr 1
  rcases lt_trichotomy a.m 0 with neg | zero | pos
  · rw [if_neg neg.ne, decide_eq_true neg, sgn_true, Nat.cast_natAbs, abs_of_neg neg]
    push_cast
    ring
  · simp [zero]
  · rw [if_neg pos.ne', decide_eq_false (by omega), sgn_false, one_mul, Nat.cast_natAbs, abs_of_pos pos]

theorem Dy.exact_sign_of_zero {a : Dy} {zs : Bool} (h : (a.exact zs).rat = 0) : (a.exact zs).s = zs := by
  rw [Dy.exact_rat, Dy.rat, mul_eq_zero, or_iff_left (zpow2_pos _).ne'] at h
  exact if_pos (by exact_mod_cast h)

/-! ### Sums and products -/

/-- The sum of two finite numbers (05 R112). -/
theorem fvAdd_fin (rnd : Nat) (s s' : Bool) (n n' : Nat) (e e' : Int) : ∃ E : Exact, fvAdd rnd (.fin s n e) (.fin s' n' e') = .num E ∧
    0 < E.d ∧ E.rat = (FV.fin s n e).rat + (FV.fin s' n' e').rat ∧ (E.rat = 0 → E.s = if s = s' then s else decide (rnd = 3)) := by
  refine ⟨_, rfl, Nat.one_pos, ?_, fun zero => ?_⟩
  · rw [Dy.exact_rat, Dy.add_rat, dyOf_rat, dyOf_rat]
  · exact Dy.exact_sign_of_zero zero

theorem FV.neg_rat (x : FV) : x.neg.rat = -x.rat := by
  rcases x with _ | s | ⟨s, n, e⟩
  · simp [FV.neg, FV.rat]
  · simp [FV.neg, FV.rat]
  · cases s <;> simp [FV.neg, FV.rat]

/-- The product of two finite numbers. -/
theorem fvMul_fin (s s' : Bool) (n n' : Nat) (e e' : Int) : ∃ E : Exact, fvMul (.fin s n e) (.fin s' n' e') = .num E ∧
    E.d = 1 ∧ E.rat = (FV.fin s n e).rat * (FV.fin s' n' e').rat ∧ E.s = (s != s') := by
  refine ⟨_, rfl, rfl, ?_, rfl⟩
  rw [Exact.rat_eq, FV.rat_fin, FV.rat_fin]
  have signs : sgn (s != s') = sgn s * sgn s' := by cases s <;> cases s' <;> norm_num
  simp only [signs, Nat.cast_mul, Nat.cast_one, div_one, zpow_add₀ (two_ne_zero (α := ℚ))]
  ring

theorem FV.rat_eq_zero_iff (s : Bool) (n : Nat) (e : Int) : (FV.fin s n e).rat = 0 ↔ n = 0 := by
  rw [FV.rat_fin, sgn_mul_eq_zero, mul_eq_zero, or_iff_left (zpow2_pos e).ne', Nat.cast_eq_zero]

/-! ### Compares -/

theorem fvLt_fin {x y : FV} (hx : x.finite = true) (hy : y.finite = true) : fvLt x y = decide (x.rat < y.rat) := by
  match x, y, hx, hy with
  | .fin s n e, .fin s' n' e', _, _ =>
    rw [Bool.eq_iff_iff, decide_eq_true_iff, ← dyOf_rat, ← dyOf_rat, ← Dy.lt_iff]
    rfl

theorem FV.ne_nan_of_finite {x : FV} (h : x.finite = true) : x ≠ .nan := by rintro rfl; cases h

theorem fvEq_fin {x y : FV} (hx : x.finite = true) (hy : y.finite = true) : fvEq x y = decide (x.rat = y.rat) := by
  have numbers : (x != .nan && y != .nan) = true := by simp [FV.ne_nan_of_finite hx, FV.ne_nan_of_finite hy]
  rw [fvEq, numbers, fvLt_fin hx hy, fvLt_fin hy hx]
  rcases lt_trichotomy x.rat y.rat with h | h | h
  · simp [h, h.ne]
  · simp [h]
  · simp [h, h.ne', h.not_gt]

/-- Infinities among themselves and beside a finite number. -/
theorem fvLt_inf (s s' : Bool) : fvLt (.inf s) (.inf s') = (s && !s') := rfl

theorem fvLt_inf_left (s : Bool) {y : FV} (hy : y.finite = true) : fvLt (.inf s) y = s := by
  match y, hy with
  | .fin .., _ => rfl

theorem fvLt_inf_right (s : Bool) {x : FV} (hx : x.finite = true) : fvLt x (.inf s) = !s := by
  match x, hx with
  | .fin .., _ => rfl

theorem fvEq_inf (s s' : Bool) : fvEq (.inf s) (.inf s') = decide (s' = s) := by cases s <;> cases s' <;> rfl

theorem fvEq_inf_left (s : Bool) {y : FV} (hy : y.finite = true) : fvEq (.inf s) y = false := by
  simp [fvEq, fvLt_inf_left s hy, fvLt_inf_right s hy]

theorem fvEq_inf_right (s : Bool) {x : FV} (hx : x.finite = true) : fvEq x (.inf s) = false := by
  simp [fvEq, fvLt_inf_left s hx, fvLt_inf_right s hx]

/-- A value that is no NaN is an infinity or finite. -/
theorem FV.inf_or_finite {x : FV} (h : x ≠ .nan) : (∃ s, x = .inf s) ∨ x.finite = true := by
  rcases x with _ | s | _
  · exact absurd rfl h
  · exact .inl ⟨s, rfl⟩
  · exact .inr rfl

/-! ### Minimum and maximum -/

theorem fvBelow_fin {x y : FV} (hx : x.finite = true) (hy : y.finite = true) :
    fvBelow x y = true ↔ x.rat < y.rat ∨ (x.rat = y.rat ∧ x.sign = true ∧ y.sign = false) := by
  simp [fvBelow, fvLt_fin hx hy, fvEq_fin hx hy, and_assoc]

theorem minMaxRes_of_ne_nan {x y : FV} (hx : x ≠ .nan) (hy : y ≠ .nan) (less : Bool) :
    minMaxRes less x y = if less then (if fvBelow y x then y else x) else (if fvBelow x y then y else x) := by
  rw [minMaxRes, if_neg hx, if_neg hy]

theorem minMaxRes_rat {x y : FV} (hx : x.finite = true) (hy : y.finite = true) :
    (minMaxRes true x y).rat = min x.rat y.rat ∧ (minMaxRes false x y).rat = max x.rat y.rat := by
  simp only [minMaxRes_of_ne_nan (FV.ne_nan_of_finite hx) (FV.ne_nan_of_finite hy), if_true, if_false, Bool.false_eq_true]
  constructor
  · split_ifs with below
    · rw [min_eq_right]
      rcases (fvBelow_fin hy hx).1 below with h | h <;> [exact h.le; exact h.1.le]
    · exact (min_eq_left (not_lt.1 fun h => below ((fvBelow_fin hy hx).2 (.inl h)))).symm
  · split_ifs with below
    · rw [max_eq_right]
      rcases (fvBelow_fin hx hy).1 below with h | h <;> [exact h.le; exact h.1.le]
    · exact (max_eq_left (not_lt.1 fun h => below ((fvBelow_fin hx hy).2 (.inl h)))).symm

/-- -0 lies below +0 (05 R113). -/
theorem minMaxRes_zero_sign {x y : FV} (hx : x.finite = true) (hy : y.finite = true) (x0 : x.rat = 0) (y0 : y.rat = 0) :
    (minMaxRes true x y).sign = (x.sign || y.sign) ∧ (minMaxRes false x y).sign = (x.sign && y.sign) := by
  simp only [minMaxRes_of_ne_nan (FV.ne_nan_of_finite hx) (FV.ne_nan_of_finite hy), if_true, if_false, Bool.false_eq_true,
    fvBelow_fin hx hy, fvBelow_fin hy hx, x0, y0, lt_irrefl, false_or, true_and]
  cases hs : x.sign <;> cases hs' : y.sign <;> simp [hs, hs']

theorem fvBelow_inf_left (s : Bool) {y : FV} (hy : y.finite = true) : fvBelow (.inf s) y = s := by
  simp [fvBelow, fvLt_inf_left s hy, fvEq_inf_left s hy]

theorem fvBelow_inf_right (s : Bool) {x : FV} (hx : x.finite = true) : fvBelow x (.inf s) = !s := by
  simp [fvBelow, fvLt_inf_right s hx, fvEq_inf_right s hx]

/-- The smaller and the greater of an infinity and another value. -/
theorem minMaxRes_inf {s : Bool} {x y v : FV} (h : (x = .inf s ∧ y = v) ∨ (y = .inf s ∧ x = v)) (hv : v ≠ .nan) :
    minMaxRes true x y = (if s then .inf s else v) ∧ minMaxRes false x y = (if s then v else .inf s) := by
  have inf : FV.inf s ≠ .nan := nofun
  rcases FV.inf_or_finite hv with ⟨s', rfl⟩ | fin
  · rcases h with ⟨rfl, rfl⟩ | ⟨rfl, rfl⟩ <;> revert s s' <;> decide
  · rcases h with ⟨rfl, rfl⟩ | ⟨rfl, rfl⟩
    · simp only [minMaxRes_of_ne_nan inf hv, fvBelow_inf_left s fin, fvBelow_inf_right s fin]
      cases s <;> exact ⟨rfl, rfl⟩
    · simp only [minMaxRes_of_ne_nan hv inf, fvBelow_inf_left s fin, fvBelow_inf_right s fin]
      cases s <;> exact ⟨rfl, rfl⟩

theorem minMaxRes_nan_left (less : Bool) (y : FV) : minMaxRes less .nan y = y := if_pos rfl

theorem minMaxRes_nan_right (less : Bool) (x : FV) : minMaxRes less x .nan = x := by
  cases x <;> rfl

theorem minMaxRes_choice (less : Bool) (x y : FV) : minMaxRes less x y = x ∨ minMaxRes less x y = y := by
  unfold minMaxRes
  split_ifs <;> simp

/-! ### Products with an infinity -/

/-- Infinity times zero is no number, and times anything else an infinity (05 R112). -/
theorem fvMul_inf {s : Bool} {x y v : FV} (h : (x = .inf s ∧ y = v) ∨ (y = .inf s ∧ x = v)) (hv : v ≠ .nan) :
    fvMul x y = if v.finite = true ∧ v.rat = 0 then .nan fInvalid else .inf (s != v.sign) 0 := by
  rcases h with ⟨rfl, rfl⟩ | ⟨rfl, rfl⟩
  · match y, hv with
    | .inf s', _ => simp [fvMul, FV.finite, FV.sign]
    | .fin s' n e, _ => simp [fvMul, FV.finite, FV.sign, FV.rat_eq_zero_iff]
  · match x, hv with
    | .inf s', _ => simp [fvMul, FV.finite, FV.sign, Bool.xor_comm]
    | .fin s' n e, _ => simp [fvMul, FV.finite, FV.sign, FV.rat_eq_zero_iff, Bool.xor_comm]

theorem fvMul_nan {x y : FV} (h : x = .nan ∨ y = .nan) : fvMul x y = .nan 0 := by
  rcases h with rfl | rfl
  · rfl
  · cases x <;> rfl

theorem fvAdd_nan (rnd : Nat) {x y : FV} (h : x = .nan ∨ y = .nan) : fvAdd rnd x y = .nan 0 := by
  rcases h with rfl | rfl
  · rfl
  · cases x <;> rfl

theorem fvAdd_inf (rnd : Nat) (s s' : Bool) : fvAdd rnd (.inf s) (.inf s') = if s = s' then .inf s 0 else .nan fInvalid := rfl

theorem fvAdd_inf_left (rnd : Nat) (s : Bool) {y : FV} (hy : y.finite = true) : fvAdd rnd (.inf s) y = .inf s 0 := by
  match y, hy with
  | .fin .., _ => rfl

theorem fvAdd_inf_right (rnd : Nat) (s : Bool) {x : FV} (hx : x.finite = true) : fvAdd rnd x (.inf s) = .inf s 0 := by
  match x, hx with
  | .fin .., _ => rfl

end Sys2Proof.Machine
end

section
/-! PROOFS. Floating-point element results (05 R111 to R115): sums, products, minimum and maximum, compares and classes. -/

namespace Sys2Proof.Machine

/-! ### Inputs and outputs -/

theorem finput_of_unflushed {ftz : Bool} {t : Ty} {x : Nat} (h : ftz = false ∨ isSubnormal t x = false) : finput ftz t x = (fval t x, 0) := by
  unfold finput
  rcases h with h | h <;> simp [h]

theorem finput_of_flushed {t : Ty} {x : Nat} (flushes : t.flushes = true) (h : isSubnormal t x = true) :
    (finput true t x).1.rat = 0 ∧ (finput true t x).2 = fUnderflow := by
  simp [finput, flushes, h, FV.rat]

/-- An element result whose inputs and result are not flushed. -/
theorem fpEl_eq (op : FpOp) (t : Ty) (rnd q a b d : Nat) :
    fpEl op t rnd false q a b d = foutput rnd false t q (fpExact op rnd (fval t a) (fval t b) (fval t d)) := by
  cases op <;> simp [fpEl, finput, fpExact]

section
variable {t : Ty} (rnd q : Nat)

theorem foutput_nan (fl : Flags) : foutput rnd false t q (.nan fl) = (t.nanPat, fl) := rfl

theorem foutput_num (E : Exact) : foutput rnd false t q (.num E) = roundTo t rnd q false E := by simp [foutput, flushOut]

theorem foutput_inf (ht : t ∈ fpTypes) (s : Bool) :
    fval t (foutput rnd false t q (.inf s 0)).1 = .inf s ∧ (foutput rnd false t q (.inf s 0)).2 = 0 :=
  ⟨fval_infResult (fpTypes_inf ht) false s, rfl⟩

/-- A value of the type comes out as it is. -/
theorem foutput_res (ht : t ∈ fpTypes) (p : Nat) :
    fval t (foutput rnd false t q (fval t p).res).1 = fval t p ∧ (foutput rnd false t q (fval t p).res).2 = 0 := by
  match h : fval t p with
  | .nan => exact ⟨fval_nanPat ht, rfl⟩
  | .inf s => exact foutput_inf rnd q ht s
  | .fin s n e =>
    have out : foutput rnd false t q (FV.fin s n e).res = (signed t s (p % t.signPat), 0) := by
      rw [FV.res, exactOf, foutput_num, roundTo_fval rnd q false h]
    rw [out, ← h, ← (fval_eq_fin h).1]
    exact ⟨fval_signed_mod t p, rfl⟩

theorem foutput_minMax (ht : t ∈ fpTypes) (less : Bool) (a b : Nat) :
    fval t (foutput rnd false t q (minMaxRes less (fval t a) (fval t b)).res).1 = minMaxRes less (fval t a) (fval t b) ∧
      (foutput rnd false t q (minMaxRes less (fval t a) (fval t b)).res).2 = 0 := by
  rcases minMaxRes_choice less (fval t a) (fval t b) with h | h
  · rw [h]; exact foutput_res rnd q ht a
  · rw [h]; exact foutput_res rnd q ht b

end

/-! ### The exact results -/

section
variable (rnd : Nat) {x y z : FV}

/-- The sum and the difference of finite numbers. -/
theorem fpExact_add_sub (hx : x.finite = true) (hy : y.finite = true) :
    (∃ E : Exact, fpExact .add rnd x y z = .num E ∧ 0 < E.d ∧ E.rat = x.rat + y.rat ∧
      (E.rat = 0 → E.s = if x.sign = y.sign then x.sign else decide (rnd = 3))) ∧
    (∃ E : Exact, fpExact .sub rnd x y z = .num E ∧ 0 < E.d ∧ E.rat = x.rat - y.rat ∧
      (E.rat = 0 → E.s = if x.sign ≠ y.sign then x.sign else decide (rnd = 3))) := by
  match x, y, hx, hy with
  | .fin s n e, .fin s' n' e', _, _ =>
    obtain ⟨E, eq, pos, rat, zero⟩ := fvAdd_fin rnd s (!s') n n' e e'
    refine ⟨fvAdd_fin rnd s s' n n' e e', E, eq, pos, ?_, fun h => ?_⟩
    · rw [rat, sub_eq_add_neg, ← FV.neg_rat]; rfl
    · rw [zero h]; cases s <;> cases s' <;> rfl

theorem fpExact_mul (hx : x.finite = true) (hy : y.finite = true) :
    ∃ E : Exact, fpExact .mul rnd x y z = .num E ∧ 0 < E.d ∧ E.rat = x.rat * y.rat ∧ E.s = (x.sign != y.sign) := by
  match x, y, hx, hy with
  | .fin s n e, .fin s' n' e', _, _ =>
    obtain ⟨E, eq, one, rat, sign⟩ := fvMul_fin s s' n n' e e'
    exact ⟨E, eq, one ▸ one_pos, rat, sign⟩

theorem fpExact_fma (hx : x.finite = true) (hy : y.finite = true) (hz : z.finite = true) :
    ∃ E : Exact, fpExact .fma rnd x y z = .num E ∧ 0 < E.d ∧ E.rat = x.rat * y.rat + z.rat ∧
      (E.rat = 0 → E.s = if (x.sign != y.sign) = z.sign then z.sign else decide (rnd = 3)) := by
  match x, y, z, hx, hy, hz with
  | .fin s n e, .fin s' n' e', .fin s'' n'' e'', _, _, _ =>
    obtain ⟨P, mul, one, product, sign⟩ := fvMul_fin s s' n n' e e'
    obtain ⟨E, add, pos, rat, zero⟩ := fvAdd_fin rnd P.s s'' P.n n'' P.e e''
    refine ⟨E, ?_, pos, ?_, fun h => ?_⟩
    · simp only [fpExact, fvFma, mul, add]
    · have exact : (FV.fin P.s P.n P.e).rat = P.rat := by rw [FV.rat_fin, Exact.rat_eq, one]; simp
      rw [rat, exact, product]
    · simp only [FV.sign, zero h, sign]
      by_cases same : (s != s') = s'' <;> simp [same]

theorem fvFma_of_inf {s : Bool} {fl : Flags} (mul : fvMul x y = .inf s fl) : fvFma rnd x y z = fvAdd rnd (.inf s) z := by
  simp only [fvFma, mul]

theorem fvFma_of_nan {fl : Flags} (mul : fvMul x y = .nan fl) : fvFma rnd x y z = .nan (if z = .nan then 0 else fl) := by
  simp only [fvFma, mul]

theorem fvFma_nan (h : (x = .nan ∨ y = .nan) ∨ z = .nan) : fvFma rnd x y z = .nan 0 := by
  rcases h with h | rfl
  · rw [fvFma_of_nan rnd (fvMul_nan h), ite_self]
  · match mul : fvMul x y with
    | .nan fl => rw [fvFma_of_nan rnd mul, if_pos rfl]
    | .inf s fl => rw [fvFma_of_inf rnd mul, fvAdd_nan rnd (.inr rfl)]
    | .num P => simp only [fvFma, mul, fvAdd_nan rnd (.inr rfl)]

theorem fvFma_inf_addend (hx : x.finite = true) (hy : y.finite = true) (s : Bool) : fvFma rnd x y (.inf s) = .inf s 0 := by
  match x, y, hx, hy with
  | .fin .., .fin .., _, _ => rfl

/-- A fused result with an infinite factor. -/
theorem fvFma_inf {s : Bool} {v : FV} (h : (x = .inf s ∧ y = v) ∨ (y = .inf s ∧ x = v)) (hv : v ≠ .nan) (hz : z ≠ .nan) :
    fvFma rnd x y z = if v.finite = true ∧ v.rat = 0 then .nan fInvalid
      else if z = .inf (s == v.sign) then .nan fInvalid else .inf (s != v.sign) 0 := by
  have mul := fvMul_inf h hv
  split_ifs at mul ⊢ with zero opposite
  · rw [fvFma_of_nan rnd mul, if_neg hz]
  · rw [fvFma_of_inf rnd mul, opposite, fvAdd_inf]
    cases s <;> cases v.sign <;> rfl
  · rw [fvFma_of_inf rnd mul]
    rcases FV.inf_or_finite hz with ⟨s', rfl⟩ | fin
    · rw [fvAdd_inf, if_pos]
      by_contra ne
      refine opposite (congrArg FV.inf ?_)
      revert ne
      cases s <;> cases v.sign <;> cases s' <;> decide
    · exact fvAdd_inf_left rnd _ fin

end

/-! ### The element results of R111 to R113 -/

section
variable (t : Ty) (rnd q a b d : Nat)

/-- Finite inputs (05 R112, R113). -/
theorem fpEl_finite (ht : t ∈ fpTypes) (hx : (fval t a).finite = true) (hy : (fval t b).finite = true) :
    let x := fval t a
    let y := fval t b
    let z := fval t d
    let el := fun op => fpEl op t rnd false q a b d
    (∃ E : Exact, 0 < E.d ∧ E.rat = x.rat + y.rat ∧ (E.rat = 0 → E.s = if x.sign = y.sign then x.sign else decide (rnd = 3)) ∧
      el .add = roundTo t rnd q false E) ∧
    (∃ E : Exact, 0 < E.d ∧ E.rat = x.rat - y.rat ∧ (E.rat = 0 → E.s = if x.sign ≠ y.sign then x.sign else decide (rnd = 3)) ∧
      el .sub = roundTo t rnd q false E) ∧
    (∃ E : Exact, 0 < E.d ∧ E.rat = x.rat * y.rat ∧ E.s = (x.sign != y.sign) ∧ el .mul = roundTo t rnd q false E) ∧
    (z.finite = true → ∃ E : Exact, 0 < E.d ∧ E.rat = x.rat * y.rat + z.rat ∧
      (E.rat = 0 → E.s = if (x.sign != y.sign) = z.sign then z.sign else decide (rnd = 3)) ∧ el .fma = roundTo t rnd q false E) ∧
    (fval t (el .min).1).rat = min x.rat y.rat ∧ (fval t (el .max).1).rat = max x.rat y.rat ∧ (el .min).2 = 0 ∧ (el .max).2 = 0 ∧
    (x.rat = 0 → y.rat = 0 → (fval t (el .min).1).sign = (x.sign || y.sign) ∧ (fval t (el .max).1).sign = (x.sign && y.sign)) ∧
    (∀ s, z = .inf s → fval t (el .fma).1 = .inf s ∧ (el .fma).2 = 0) := by
  intro x y z el
  obtain ⟨⟨A, add, posA, ratA, zeroA⟩, B, sub, posB, ratB, zeroB⟩ := fpExact_add_sub rnd (z := z) hx hy
  obtain ⟨M, mul, posM, ratM, signM⟩ := fpExact_mul rnd (z := z) hx hy
  obtain ⟨lo, loFlags⟩ := foutput_minMax rnd q ht true a b
  obtain ⟨hi, hiFlags⟩ := foutput_minMax rnd q ht false a b
  obtain ⟨least, greatest⟩ := minMaxRes_rat hx hy
  simp only [el, fpEl_eq, fpExact] at *
  rw [lo, hi]
  refine ⟨⟨A, posA, ratA, zeroA, ?_⟩, ⟨B, posB, ratB, zeroB, ?_⟩, ⟨M, posM, ratM, signM, ?_⟩, fun hz => ?_, least, greatest,
    loFlags, hiFlags, minMaxRes_zero_sign hx hy, fun s hz => ?_⟩
  · rw [add, foutput_num]
  · rw [sub, foutput_num]
  · rw [mul, foutput_num]
  · obtain ⟨F, fma, posF, ratF, zeroF⟩ := fpExact_fma rnd hx hy hz
    exact ⟨F, posF, ratF, zeroF, by rw [← foutput_num]; exact congrArg _ fma⟩
  · rw [show fval t d = .inf s from hz, fvFma_inf_addend rnd hx hy]
    exact foutput_inf rnd q ht s

/-- Inputs that are no number (05 R112, R113). -/
theorem fpEl_nan (ht : t ∈ fpTypes) :
    let x := fval t a
    let y := fval t b
    let el := fun op => fpEl op t rnd false q a b d
    ((x = .nan ∨ y = .nan) → el .add = (t.nanPat, 0) ∧ el .sub = (t.nanPat, 0) ∧ el .mul = (t.nanPat, 0) ∧ el .fma = (t.nanPat, 0)) ∧
    (fval t d = .nan → el .fma = (t.nanPat, 0)) ∧
    (x = .nan → y ≠ .nan → fval t (el .min).1 = y ∧ fval t (el .max).1 = y) ∧
    (y = .nan → x ≠ .nan → fval t (el .min).1 = x ∧ fval t (el .max).1 = x) ∧
    (x = .nan → y = .nan → el .min = (t.nanPat, 0) ∧ el .max = (t.nanPat, 0)) := by
  intro x y el
  obtain ⟨lo, -⟩ := foutput_minMax rnd q ht true a b
  obtain ⟨hi, -⟩ := foutput_minMax rnd q ht false a b
  simp only [el, fpEl_eq, fpExact] at *
  rw [lo, hi]
  refine ⟨fun h => ?_, fun h => ?_, fun h _ => ?_, fun h _ => ?_, fun h h' => ?_⟩
  · have negated : x = .nan ∨ y.neg = .nan := h.imp id fun h => by rw [h]; rfl
    rw [fvAdd_nan rnd h, fvAdd_nan rnd negated, fvMul_nan h, fvFma_nan rnd (.inl h)]
    exact ⟨rfl, rfl, rfl, rfl⟩
  · rw [fvFma_nan rnd (.inr h)]; rfl
  · rw [show fval t a = .nan from h]
    exact ⟨minMaxRes_nan_left _ _, minMaxRes_nan_left _ _⟩
  · rw [show fval t b = .nan from h]
    exact ⟨minMaxRes_nan_right _ _, minMaxRes_nan_right _ _⟩
  · rw [show fval t a = .nan from h, show fval t b = .nan from h']
    exact ⟨rfl, rfl⟩

theorem FV.neg_inf (s : Bool) : (FV.inf s).neg = .inf (!s) := rfl

theorem FV.neg_finite (x : FV) : x.neg.finite = x.finite := by cases x <;> rfl

/-- Sums, differences and products with an infinity (05 R112). -/
theorem fpEl_inf (ht : t ∈ fpTypes) :
    let x := fval t a
    let y := fval t b
    let el := fun op => fpEl op t rnd false q a b d
    (∀ s, x = .inf s →
      (y = .inf (!s) → el .add = (t.nanPat, fInvalid)) ∧ (y = .inf s → el .sub = (t.nanPat, fInvalid)) ∧
      (y = .inf s ∨ y.finite = true → fval t (el .add).1 = .inf s ∧ (el .add).2 = 0) ∧
      (y = .inf (!s) ∨ y.finite = true → fval t (el .sub).1 = .inf s ∧ (el .sub).2 = 0) ∧
      (y.finite = true → y.rat = 0 → el .mul = (t.nanPat, fInvalid)) ∧
      (y ≠ .nan → (y.finite = true → y.rat ≠ 0) → fval t (el .mul).1 = .inf (s != y.sign) ∧ (el .mul).2 = 0)) ∧
    (∀ s, y = .inf s → x.finite = true → fval t (el .add).1 = .inf s ∧ (el .add).2 = 0 ∧ fval t (el .sub).1 = .inf (!s) ∧ (el .sub).2 = 0 ∧
      (x.rat = 0 → el .mul = (t.nanPat, fInvalid)) ∧ (x.rat ≠ 0 → fval t (el .mul).1 = .inf (s != x.sign) ∧ (el .mul).2 = 0)) := by
  intro x y el
  simp only [el, fpEl_eq, fpExact]
  have inf (s : Bool) := foutput_inf rnd q ht s
  constructor
  · intro s hx
    refine ⟨fun hy => ?_, fun hy => ?_, fun hy => ?_, fun hy => ?_, fun fin zero => ?_, fun hy nonzero => ?_⟩
    · rw [show fval t a = .inf s from hx, show fval t b = .inf (!s) from hy, fvAdd_inf, if_neg (by cases s <;> decide)]; rfl
    · rw [show fval t a = .inf s from hx, show fval t b = .inf s from hy, FV.neg_inf, fvAdd_inf, if_neg (by cases s <;> decide)]; rfl
    · rw [show fval t a = .inf s from hx]
      rcases hy with hy | fin
      · rw [show fval t b = .inf s from hy, fvAdd_inf, if_pos rfl]; exact inf s
      · rw [fvAdd_inf_left rnd s fin]; exact inf s
    · rw [show fval t a = .inf s from hx]
      rcases hy with hy | fin
      · rw [show fval t b = .inf (!s) from hy, FV.neg_inf, fvAdd_inf, if_pos (Bool.not_not s).symm]; exact inf s
      · rw [fvAdd_inf_left rnd s ((FV.neg_finite _).trans fin)]; exact inf s
    · rw [fvMul_inf (.inl ⟨hx, rfl⟩) (FV.ne_nan_of_finite fin), if_pos ⟨fin, zero⟩]; rfl
    · rw [fvMul_inf (.inl ⟨hx, rfl⟩) hy, if_neg (fun h => nonzero h.1 h.2)]; exact inf _
  · intro s hy fin
    have sum := fvAdd_inf_right rnd s fin
    have difference := fvAdd_inf_right rnd (!s) fin
    rw [show fval t b = .inf s from hy, FV.neg_inf, sum, difference]
    refine ⟨(inf s).1, (inf s).2, (inf _).1, (inf _).2, fun zero => ?_, fun nonzero => ?_⟩
    · rw [fvMul_inf (.inr ⟨rfl, rfl⟩) (FV.ne_nan_of_finite fin), if_pos ⟨fin, zero⟩]; rfl
    · rw [fvMul_inf (.inr ⟨rfl, rfl⟩) (FV.ne_nan_of_finite fin), if_neg fun h => nonzero h.2]; exact inf _

/-- Fused results, minimum and maximum with an infinity (05 R112, R113). -/
theorem fpEl_fma_minMax_inf (ht : t ∈ fpTypes) :
    let x := fval t a
    let y := fval t b
    let z := fval t d
    let el := fun op => fpEl op t rnd false q a b d
    ∀ (u v : FV) (s : Bool), ((u = x ∧ v = y) ∨ (u = y ∧ v = x)) → u = .inf s → v ≠ .nan →
      (z ≠ .nan → (v.finite = true → v.rat = 0 → el .fma = (t.nanPat, fInvalid)) ∧
        ((v.finite = true → v.rat ≠ 0) →
          (z = .inf (s == v.sign) → el .fma = (t.nanPat, fInvalid)) ∧
          (z ≠ .inf (s == v.sign) → fval t (el .fma).1 = .inf (s != v.sign) ∧ (el .fma).2 = 0))) ∧
      fval t (el .min).1 = (if s then u else v) ∧ fval t (el .max).1 = (if s then v else u) ∧ (el .min).2 = 0 ∧ (el .max).2 = 0 := by
  intro x y z el u v s place hu hv
  subst hu
  obtain ⟨lo, loFlags⟩ := foutput_minMax rnd q ht true a b
  obtain ⟨hi, hiFlags⟩ := foutput_minMax rnd q ht false a b
  have side : (fval t a = .inf s ∧ fval t b = v) ∨ (fval t b = .inf s ∧ fval t a = v) :=
    place.imp (fun h => ⟨h.1.symm, h.2.symm⟩) (fun h => ⟨h.1.symm, h.2.symm⟩)
  obtain ⟨least, greatest⟩ := minMaxRes_inf side hv
  simp only [el, fpEl_eq, fpExact]
  refine ⟨fun hz => ?_, lo.trans least, hi.trans greatest, loFlags, hiFlags⟩
  rw [fvFma_inf rnd side hv hz]
  refine ⟨fun fin zero => ?_, fun nonzero => ⟨fun opposite => ?_, fun other => ?_⟩⟩
  · rw [if_pos ⟨fin, zero⟩]; rfl
  · rw [if_neg fun h => nonzero h.1 h.2, if_pos opposite]; rfl
  · rw [if_neg fun h => nonzero h.1 h.2, if_neg other]
    exact foutput_inf rnd q ht _

end

/-! ### Compares and classes (05 R114, R115) -/

theorem fcmpEl_eq (op : FCmp) (a b : Nat) : fcmpEl op false a b =
    (match op with
      | .eq => fvEq (fval .f32 a) (fval .f32 b)
      | .lt => fvLt (fval .f32 a) (fval .f32 b)
      | .le => fvLt (fval .f32 a) (fval .f32 b) || fvEq (fval .f32 a) (fval .f32 b),
     flagIf ((fval .f32 a == .nan || fval .f32 b == .nan) && op != .eq) fInvalid) := by
  cases op <;> simp [fcmpEl, finput]

/-- No flag comes of a compare of numbers and infinities. -/
theorem fcmpEl_of_ne_nan {a b : Nat} (ha : fval .f32 a ≠ .nan) (hb : fval .f32 b ≠ .nan) :
    fcmpEl .eq false a b = (fvEq (fval .f32 a) (fval .f32 b), 0) ∧ fcmpEl .lt false a b = (fvLt (fval .f32 a) (fval .f32 b), 0) ∧
    fcmpEl .le false a b = (fvLt (fval .f32 a) (fval .f32 b) || fvEq (fval .f32 a) (fval .f32 b), 0) := by
  simp [fcmpEl_eq, ha, hb, flagIf]

theorem fvLt_nan {x y : FV} (h : x = .nan ∨ y = .nan) : fvLt x y = false := by
  rcases h with rfl | rfl
  · rfl
  · cases x <;> rfl

theorem fvEq_nan {x y : FV} (h : x = .nan ∨ y = .nan) : fvEq x y = false := by
  rcases h with rfl | rfl <;> simp [fvEq]

theorem fcmpEl_clauses (a b : Nat) :
    let x := fval .f32 a
    let y := fval .f32 b
    (x.finite = true → y.finite = true → fcmpEl .eq false a b = (decide (x.rat = y.rat), 0) ∧
      fcmpEl .lt false a b = (decide (x.rat < y.rat), 0) ∧ fcmpEl .le false a b = (decide (x.rat ≤ y.rat), 0)) ∧
    (∀ s, x = .inf s → y ≠ .nan → fcmpEl .eq false a b = (decide (y = x), 0) ∧
      fcmpEl .lt false a b = (s && decide (y ≠ x), 0) ∧ fcmpEl .le false a b = (s || decide (y = x), 0)) ∧
    (∀ s, y = .inf s → x.finite = true → fcmpEl .eq false a b = (false, 0) ∧
      fcmpEl .lt false a b = (!s, 0) ∧ fcmpEl .le false a b = (!s, 0)) ∧
    (x = .nan ∨ y = .nan → fcmpEl .eq false a b = (false, 0) ∧ fcmpEl .lt false a b = (false, fInvalid) ∧
      fcmpEl .le false a b = (false, fInvalid)) := by
  intro x y
  have numbers := fcmpEl_of_ne_nan (a := a) (b := b)
  change x ≠ .nan → y ≠ .nan → fcmpEl .eq false a b = (fvEq x y, 0) ∧ fcmpEl .lt false a b = (fvLt x y, 0) ∧
    fcmpEl .le false a b = (fvLt x y || fvEq x y, 0) at numbers
  refine ⟨fun hx hy => ?_, fun s hx hy => ?_, fun s hy hx => ?_, fun h => ?_⟩
  · obtain ⟨eq, lt, le⟩ := numbers (FV.ne_nan_of_finite hx) (FV.ne_nan_of_finite hy)
    rw [eq, lt, le, fvEq_fin hx hy, fvLt_fin hx hy, ← Bool.decide_or]
    simp only [le_iff_lt_or_eq, and_self]
  · obtain ⟨eq, lt, le⟩ := numbers (hx ▸ nofun) hy
    rw [eq, lt, le, hx]
    rcases FV.inf_or_finite hy with ⟨s', h⟩ | fin
    · rw [h, fvEq_inf, fvLt_inf]
      cases s <;> cases s' <;> decide
    · have ne : y ≠ .inf s := by rintro h; rw [h] at fin; cases fin
      simp [fvEq_inf_left s fin, fvLt_inf_left s fin, ne]
  · obtain ⟨eq, lt, le⟩ := numbers (FV.ne_nan_of_finite hx) (hy ▸ nofun)
    rw [eq, lt, le, hy, fvEq_inf_right s hx, fvLt_inf_right s hx, Bool.or_false]
    exact ⟨rfl, rfl, rfl⟩
  · have bad : (x == .nan || y == .nan) = true := by simpa using h
    simp only [fcmpEl_eq]
    change (fvEq x y, flagIf ((x == .nan || y == .nan) && _) fInvalid) = _ ∧ (fvLt x y, flagIf ((x == .nan || y == .nan) && _) fInvalid) = _ ∧
      (fvLt x y || fvEq x y, flagIf ((x == .nan || y == .nan) && _) fInvalid) = _
    rw [bad, fvEq_nan h, fvLt_nan h]
    exact ⟨rfl, rfl, rfl⟩

/-- The class by the fields of the pattern (05 R115). -/
theorem fclass_fields {x : Nat} (hx : x < 2 ^ 32) : fclass x =
    (let neg := decide (2 ^ 31 ≤ x)
    let E := x / 2 ^ 23 % 256
    let M := x % 2 ^ 23
    if E = 255 then (if M ≠ 0 then 8 else if neg then 0 else 7)
      else if E = 0 then (if M = 0 then (if neg then 3 else 4) else if neg then 2 else 5) else if neg then 1 else 6) := by
  have sign : x.testBit 31 = decide (2 ^ 31 ≤ x) := by
    rw [Nat.testBit_eq_decide_div_mod_eq, decide_eq_decide]
    omega
  have mag : x % 2 ^ 31 = 2 ^ 23 * (x / 2 ^ 23 % 256) + x % 2 ^ 23 := by omega
  have subnormal : isSubnormal .f32 x = (x / 2 ^ 23 % 256 == 0 && x % 2 ^ 23 != 0) := by
    simp [isSubnormal, Ty.fmt, Nat.shiftRight_eq_div_pow]
  have value : fval .f32 x = if 2 ^ 23 * (x / 2 ^ 23 % 256) + x % 2 ^ 23 = 0x7F800000 then .inf (decide (2 ^ 31 ≤ x))
      else if 0x7F7FFFFF < 2 ^ 23 * (x / 2 ^ 23 % 256) + x % 2 ^ 23 then .nan
      else if x / 2 ^ 23 % 256 = 0 then .fin (decide (2 ^ 31 ≤ x)) (x % 2 ^ 23) (-149)
      else .fin (decide (2 ^ 31 ≤ x)) (2 ^ 23 + x % 2 ^ 23) ((x / 2 ^ 23 % 256 : Nat) - 127 - 23) := by
    rw [← sign, ← mag]
    simp [fval, Ty.fmt, Ty.infPat, Ty.maxPat, Nat.shiftRight_eq_div_pow, eq_comm]
  have hE : x / 2 ^ 23 % 256 < 256 := Nat.mod_lt _ (by decide)
  have hM : x % 2 ^ 23 < 2 ^ 23 := Nat.mod_lt _ (by decide)
  rw [fclass, subnormal, sign, value]
  generalize x / 2 ^ 23 % 256 = E at *
  generalize x % 2 ^ 23 = M at *
  generalize decide (2 ^ 31 ≤ x) = neg
  by_cases top : E = 255
  · by_cases zero : M = 0
    · simp [top, zero]
    · have nan : ¬2 ^ 23 * E + M = 0x7F800000 ∧ 0x7F7FFFFF < 2 ^ 23 * E + M := by omega
      rw [if_neg nan.1, if_pos nan.2]
      simp [top, zero]
  · have number : ¬2 ^ 23 * E + M = 0x7F800000 ∧ ¬0x7F7FFFFF < 2 ^ 23 * E + M := by omega
    rw [if_neg number.1, if_neg number.2]
    by_cases least : E = 0
    · by_cases zero : M = 0 <;> simp [least, zero]
    · simp [least, top]

/-! ### Lanes -/

theorem ne_s64_of_fpTypes {t : Ty} (h : t ∈ fpTypes) : t ≠ .s64 := by rintro rfl; revert h; decide

theorem BOp.laneVal_eq_lane32 (b : BOp) (g : Group) {t : Ty} (h : t ≠ .s64) (l : Fin 16) : b.laneVal g t l = (b.lane32 g l).toNat := by
  cases b <;> exact if_neg h

theorem Group.elem_drawnLanes {g : Group} {rounds : Bool} {md : Word} {d : BitVec 8} {m : Mask} {n : Nat} {t : Ty} {l : Fin 16}
    {qs : Fin 16 → List Nat} {f : Fin 16 → Nat → Nat → Nat × Flags} (narrow : t ≠ .s64) (active : lane m l = true) {i : Nat}
    (hi : i < t.count) :
    elem t ((g.drawnLanes rounds md d m n t fun l => (mapElemsF t t.count (qs l) (f l)).1).vlane d l).toNat i =
      (f l i ((qs l).getD i 0)).1 % 2 ^ t.width := by
  rw [← Group.laneVal_eq_vlane _ _ _ narrow, Group.drawnLanes_laneVal, if_pos active, mapElemsF_count_fst, elem_mapElems t _ hi]
  rw [mapElemsF_count_fst]
  exact mapElems_lt t _

/-- The group of a binary operation: draws, then lanes of element results. -/
theorem FpOp.eff_group (op : FpOp) (d a : BitVec 8) (b : BOp) (c : Iss) : (op.eff d a b c).1 =
    c.g.drawnLanes op.rounds c.md d c.act (mdType c.md).count (mdType c.md) fun l =>
      (mapElemsF (mdType c.md) (mdType c.md).count ((c.g.drawCvt op.rounds c.md c.act (mdType c.md).count).1 l) fun i q =>
        fpEl op (mdType c.md) (mdRnd c.md) (mdFtz c.md) q (elem (mdType c.md) (c.g.laneVal (mdType c.md) a l) i)
          (elem (mdType c.md) (b.laneVal c.g (mdType c.md) l) i) (elem (mdType c.md) (c.g.laneVal (mdType c.md) d l) i)).1 := rfl

theorem getD_ite {c : Prop} [Decidable c] (l : List Nat) (i : Nat) : (if c then l else []).getD i 0 = if c then l.getD i 0 else 0 := by
  split <;> rfl

theorem fpTypes_flush {t : Ty} (ht : t ∈ fpTypes) : t.flushes = true := by revert t; decide

/-- Settles O33: the element results are `fpEl_finite` to `fclass_fields`, and the effect is `FpOp.eff_group`. -/
theorem fpElements : Obligations.FpElements := by
  refine ⟨fun t rnd q a b d ht => ?_, fcmpEl_clauses, fun ftz t a => ⟨fun on ht sub => ?_, finput_of_unflushed⟩, fun x => fclass_fields,
    fun op d a b c l i ht hi => ?_⟩
  · obtain ⟨nan, addend, left, right, both⟩ := fpEl_nan t rnd q a b d ht
    obtain ⟨xInf, yInf⟩ := fpEl_inf t rnd q a b d ht
    exact ⟨fpEl_finite t rnd q a b d ht, nan, addend, left, right, both, xInf, yInf, fpEl_fma_minMax_inf t rnd q a b d ht⟩
  · subst on
    exact finput_of_flushed (fpTypes_flush ht) sub
  · have narrow := ne_s64_of_fpTypes ht
    rw [FpOp.eff_group]
    refine ⟨fun active => ?_, fun inactive => ⟨?_, ?_⟩, fun exact => ?_, fun r ne => ?_, Group.drawnLanes_regs⟩
    · rw [Group.elem_drawnLanes narrow active hi, Group.drawCvt_words _ _ _ _ _ _ active, getD_ite, BOp.laneVal_eq_lane32 _ _ narrow,
        Group.laneVal_eq_vlane _ _ _ narrow, Group.laneVal_eq_vlane _ _ _ narrow]
    · rw [Group.drawnLanes_vlane narrow, inactive, if_neg (by decide)]
    · simp only [Group.drawnLanes_rng]
      exact Group.drawCvt_rng_of_inactive _ _ _ _ _ _ inactive
    · rw [Group.drawnLanes_rng, Group.drawCvt_of_exact _ _ _ exact]
    · exact Group.drawnLanes_vreg_of_ne ne fun s64 => absurd s64 narrow

/-! ### Completion -/

/-- Settles O39: `exec` issues each of the instructions with an effect on its group alone; fabs, fneg, fcls and dot4 raise no flag. -/
theorem floatInstructions : Obligations.FloatInstructions := by
  unfold Obligations.FloatInstructions
  and_intros
  -- fabs and fneg
  iterate 2
    · intros; exact onGroup_of_exec fun _ => rfl
  -- the functions of R116 and the binary operations of R111
  iterate 26
    · intros; exact onGroup_of_execF fun _ => rfl
  -- fcls
  iterate 3
    · intros; exact onGroup_of_exec fun _ => rfl
  -- fcmp
  iterate 9
    · intros; exact onGroup_of_execF fun _ => rfl
  -- dot4
  iterate 3
    · intros; exact onGroup_of_exec fun _ => rfl
  -- fdot2
  iterate 3
    · intros; exact onGroup_of_execF fun _ => rfl

end Sys2Proof.Machine
end

section
/-! PROOFS. Operations of one operand (05 R110, R116): counts and bits, absolute values and negations, signs, and the rounding to a
whole number. -/

namespace Sys2Proof.Machine

/-! ### Counts and bits (05 R110) -/

theorem clzLane_of_ne_zero {a : Word} (h : a ≠ 0) : (clzLane a).toNat = 31 - Nat.log2 a.toNat ∧ Nat.log2 a.toNat < 32 := by
  have ne : a.toNat ≠ 0 := fun e => h (BitVec.eq_of_toNat_eq e)
  have lt : Nat.log2 a.toNat < 32 := (Nat.log2_lt ne).2 a.isLt
  refine ⟨?_, lt⟩
  rw [clzLane, if_neg h, BitVec.toNat_ofNat, Nat.mod_eq_of_lt (by omega)]

/-- The highest one bit lies below the zeros that clz counts. -/
theorem clzLane_spec {a : Word} (h : a ≠ 0) : (clzLane a).toNat < 32 ∧ a.getLsbD (31 - (clzLane a).toNat) = true ∧
    ∀ k, 31 - (clzLane a).toNat < k → a.getLsbD k = false := by
  obtain ⟨count, lt⟩ := clzLane_of_ne_zero h
  have ne : a.toNat ≠ 0 := fun e => h (BitVec.eq_of_toNat_eq e)
  have place : 31 - (clzLane a).toNat = Nat.log2 a.toNat := by omega
  rw [place]
  refine ⟨by omega, Nat.testBit_log2 ne, fun k above => ?_⟩
  exact Nat.testBit_lt_two_pow (Nat.lt_log2_self.trans_le (Nat.pow_le_pow_right two_pos above))

theorem length_filter_eq_sum (p : Nat → Bool) (l : List Nat) : (l.filter p).length = (l.map fun k => if p k then 1 else 0).sum := by
  induction l with
  | nil => rfl
  | cons k l ih => cases h : p k <;> simp [h, ih, Nat.add_comm]

theorem popcLane_toNat (a : Word) : (popcLane a).toNat = ((List.range 32).map fun k => if a.getLsbD k then 1 else 0).sum := by
  have le : ((List.range 32).filter a.getLsbD).length ≤ 32 := List.length_filter_le _ _
  rw [popcLane, BitVec.toNat_ofNat, Nat.mod_eq_of_lt (by omega), length_filter_eq_sum]

theorem getLsbD_brevLane (a : Word) {k : Nat} (h : k < 32) : (brevLane a).getLsbD k = a.getLsbD (31 - k) := by
  simp [brevLane, h]

theorem vlane_unary32Eff (f : Word → Word) (d a : BitVec 8) (c : Iss) (l : Fin 16) :
    (unary32Eff f d a c).vlane d l = if lane c.act l then f (c.g.vlane a l) else c.g.vlane d l := Group.vlane_setV _ _ _ _ _

/-! ### abs and neg (05 R110) -/

theorem intVal_fitInt_sat (t : Ty) (x : Int) : intVal t (fitInt true t x) = max t.minInt (min t.maxInt x) := intVal_satInt t x

/-- The absolute value and the negation of a value, wrapped: only 2^(w-1) does not fit. -/
theorem intVal_wrapInt_absNeg {t : Ty} (signed : t.signed = true) (neg : Bool) (p : Nat) :
    let z := if neg then -intVal t p else |intVal t p|
    intVal t (wrapInt t z) = if z = 2 ^ (t.width - 1) then -(2 ^ (t.width - 1)) else z := by
  intro z
  obtain ⟨lo, hi⟩ := intVal_bounds t p
  split_ifs with top
  · rw [top]; exact intVal_wrapInt_top signed
  · simp only [Ty.minInt, Ty.maxInt, signed, if_true] at lo hi
    have range : -(2 ^ (t.width - 1)) ≤ z ∧ z ≤ 2 ^ (t.width - 1) := by
      simp only [z]
      split_ifs
      · omega
      · exact ⟨le_trans (by simp) (abs_nonneg _), abs_le.2 ⟨lo, by omega⟩⟩
    refine intVal_wrapInt ?_ ?_
    · simpa only [Ty.minInt, signed, if_true] using range.1
    · simp only [Ty.maxInt, signed, if_true]; omega

theorem absNegEff_elem (neg : Bool) (d a : BitVec 8) (c : Iss) (l : Fin 16) (active : lane c.act l = true) {i : Nat}
    (hi : i < (mdType c.md).count) : elem (mdType c.md) ((absNegEff neg d a c).laneVal (mdType c.md) d l) i =
      fitInt (mdSat c.md) (mdType c.md)
        (if neg then -intVal (mdType c.md) (elem (mdType c.md) (c.g.laneVal (mdType c.md) a l) i)
          else |intVal (mdType c.md) (elem (mdType c.md) (c.g.laneVal (mdType c.md) a l) i)|) := by
  refine (Group.elem_setLanes _ _ _ _ active hi).trans ?_
  rw [Nat.mod_eq_of_lt (fitInt_lt _ _ _), Int.abs_eq_natAbs]

/-! ### fabs and fneg (05 R116) -/

theorem fpTypes_signPat {t : Ty} (ht : t ∈ fpTypes) : t.signPat = 2 ^ (t.width - 1) := by revert t; decide

theorem signEff_bit (neg : Bool) (d a : BitVec 8) (c : Iss) (l : Fin 16) (ht : mdType c.md ∈ fpTypes) (active : lane c.act l = true)
    {i k : Nat} (hi : i < (mdType c.md).count) (hk : k < (mdType c.md).width) :
    (elem (mdType c.md) ((signEff neg d a c).laneVal (mdType c.md) d l) i).testBit k =
      if k = (mdType c.md).width - 1 then neg && !(elem (mdType c.md) (c.g.laneVal (mdType c.md) a l) i).testBit k
        else (elem (mdType c.md) (c.g.laneVal (mdType c.md) a l) i).testBit k := by
  have result := Group.elem_setLanes c.g d c.act l (t := mdType c.md) (f := fun l i =>
    if neg then elem (mdType c.md) (c.g.laneVal (mdType c.md) a l) i ^^^ (mdType c.md).signPat
      else elem (mdType c.md) (c.g.laneVal (mdType c.md) a l) i % (mdType c.md).signPat) active hi
  refine (congrArg (Nat.testBit · k) result).trans ?_
  simp only [fpTypes_signPat ht]
  generalize elem (mdType c.md) (c.g.laneVal (mdType c.md) a l) i = x
  rw [Nat.testBit_mod_two_pow]
  cases neg
  · by_cases top : k = (mdType c.md).width - 1
    · simp [top, Nat.testBit_mod_two_pow]
    · have below : k < (mdType c.md).width - 1 := by omega
      simp [top, hk, below, Nat.testBit_mod_two_pow]
  · by_cases top : k = (mdType c.md).width - 1
    · have positive := (mdType c.md).width_pos
      simp [top, Nat.testBit_xor, positive]
    · simp [top, hk, Nat.testBit_xor, Ne.symm top]

/-! ### frnd (05 R116) -/

theorem roundInt_fst (mode q : Nat) (s : Bool) (n : Nat) (e : Int) :
    (roundInt mode q s n e).1 = signedInt s (roundQuot mode q s (scaleFrac n 1 e).1 (scaleFrac n 1 e).2) := rfl

theorem scaleFrac_one_div (n : Nat) (e : Int) : ((scaleFrac n 1 e).1 : ℚ) / (scaleFrac n 1 e).2 = n * 2 ^ e := by
  rw [scaleFrac_div, Nat.cast_one, div_one]

/-- The whole number that a finite value rounds to (04 R78, R82). -/
theorem roundInt_isRounded (mode q : Nat) (s : Bool) (n : Nat) (e : Int) :
    IsRounded mode (FV.fin s n e).rat (roundInt mode q s n e).1 := by
  have h := roundQuot_isRounded mode q s (scaleFrac n 1 e).1 (scaleFrac_snd_pos n one_pos e)
  rwa [scaleFrac_one_div, ← FV.rat_fin] at h

theorem natAbs_signedInt (s : Bool) (k : Nat) : (signedInt s k).natAbs = k := by cases s <;> simp [signedInt]

/-- The whole number that a value of the type rounds to is a value of the type. -/
theorem roundTo_roundInt {t : Ty} (ht : t ∈ fpTypes) (mode q : Nat) {p n : Nat} {s : Bool} {e : Int} (h : fval t p = .fin s n e) :
    let r := roundTo t 0 0 false ⟨s, (roundInt mode q s n e).1.natAbs, 1, 0⟩
    (fval t r.1).finite = true ∧ (fval t r.1).sign = s ∧ (fval t r.1).rat = (roundInt mode q s n e).1 := by
  intro r
  have round := roundInt_isRounded mode q s n e
  rw [roundInt_fst] at round ⊢
  rw [cast_signedInt]
  simp only [r, roundInt_fst, natAbs_signedInt]
  generalize roundQuot mode q s (scaleFrac n 1 e).1 (scaleFrac n 1 e).2 = k at *
  by_cases small : k ≤ 2 ^ t.fmt.m
  · obtain ⟨finite, sign, rat, -⟩ := roundTo_small_whole ht 0 0 false s small
    exact ⟨finite, sign, rat⟩
  · obtain ⟨-, -, c, -, -, lt, -⟩ := fval_eq_fin h
    have large : ((2 ^ t.fmt.m : Nat) : ℚ) + 1 ≤ k := by exact_mod_cast not_le.1 small
    have near := abs_lt.1 (by simpa only [cast_signedInt, FV.rat_fin, ← mul_sub, abs_sgn_mul] using round.near)
    have nonneg : 0 ≤ e := by
      by_contra neg
      have half : (2 : ℚ) ^ e ≤ 2 ^ (-1 : Int) := zpow_le_zpow_right₀ one_le_two (by omega)
      have below : (n : ℚ) < 2 * (2 ^ t.fmt.m : Nat) := by exact_mod_cast pow_succ' 2 t.fmt.m ▸ lt
      rw [zpow_neg_one] at half
      nlinarith [(Nat.cast_nonneg n : (0 : ℚ) ≤ n)]
    have whole : (FV.fin s n e).rat = (signedInt s (n * 2 ^ e.toNat) : Int) := by
      rw [FV.rat_fin, cast_signedInt]
      push_cast
      rw [zpow2_toNat nonneg]
    have value : (fval t p).rat = (⟨s, k, 1, 0⟩ : Exact).rat := by
      rw [h, whole, ← round.eq_of_whole whole, cast_signedInt, Exact.rat_eq]
      simp
    obtain ⟨same, -⟩ := roundTo_of_value t 0 0 false (x := ⟨s, k, 1, 0⟩) (by omega : 0 < k) one_pos (h ▸ rfl) value
    rw [same, value, h, Exact.rat_eq]
    exact ⟨rfl, rfl, by simp⟩

theorem FV.exists_of_finite {x : FV} (h : x.finite = true) : ∃ s n e, x = .fin s n e := by
  match x, h with
  | .fin s n e, _ => exact ⟨s, n, e, rfl⟩

/-- frnd of a NaN, of an infinity and of a finite value (05 R116, R117). -/
theorem frndRes_clauses {t : Ty} (rnd q p : Nat) (ht : t ∈ fpTypes) :
    let x := fval t p
    let r := frndRes t rnd false q x
    (x = .nan → r = (t.nanPat, 0)) ∧ (∀ s, x = .inf s → fval t r.1 = x ∧ r.2 = 0) ∧
    (x.finite = true → (fval t r.1).sign = x.sign ∧ (fval t r.1).finite = true ∧ ∃ k : Int, (fval t r.1).rat = k ∧ IsRounded rnd x.rat k) := by
  intro x r
  refine ⟨fun h => by simp only [r, h]; rfl, fun s h => ?_, fun finite => ?_⟩
  · simp only [r, h]
    exact ⟨fval_infResult (fpTypes_inf ht) false s, rfl⟩
  · obtain ⟨s, n, e, h⟩ := FV.exists_of_finite finite
    obtain ⟨fin, sign, rat⟩ := roundTo_roundInt ht rnd q h
    have out : r.1 = (roundTo t 0 0 false ⟨s, (roundInt rnd q s n e).1.natAbs, 1, 0⟩).1 := by
      simp only [r, h, frndRes, exactOf, foutput_num]
    rw [out, h]
    exact ⟨sign, fin, _, rat, roundInt_isRounded rnd q s n e⟩

end Sys2Proof.Machine
end

section
/-! PROOFS. The functions of one operand that round (05 R116, R117). -/

namespace Sys2Proof.Machine

/-! ### Integer square roots -/

/-- The root found so far, with k bits to come. -/
theorem isqrtAux_spec (n k : Nat) : ∀ r, r ^ 2 ≤ n → n < (r + 2 ^ k) ^ 2 →
    isqrtAux n k r ^ 2 ≤ n ∧ n < (isqrtAux n k r + 1) ^ 2 := by
  induction k with
  | zero => exact fun r lo hi => ⟨lo, hi⟩
  | succ k ih =>
    intro r lo hi
    unfold isqrtAux
    split_ifs with bit
    · exact ih _ (by rwa [sq]) (by rwa [add_assoc, ← two_mul, ← pow_succ'])
    · exact ih r lo (by rw [sq]; omega)

theorem isqrt_spec (n : Nat) : isqrt n ^ 2 ≤ n ∧ n < (isqrt n + 1) ^ 2 := by
  refine isqrtAux_spec n _ 0 (by simp) ?_
  calc n < 2 ^ (Nat.log2 n + 1) := Nat.lt_log2_self
    _ ≤ 2 ^ ((Nat.log2 n / 2 + 1) * 2) := Nat.pow_le_pow_right two_pos (by omega)
    _ = (0 + 2 ^ (Nat.log2 n / 2 + 1)) ^ 2 := by rw [zero_add, pow_mul]

theorem le_isqrt {n k : Nat} (h : k ^ 2 ≤ n) : k ≤ isqrt n := by
  by_contra lt
  exact absurd ((isqrt_spec n).2.trans_le (Nat.pow_le_pow_left (not_le.1 lt) 2)) (not_lt.2 h)

/-! ### Roots -/

/-- Roots of a number with this many bits have thirty. -/
theorem fine_isqrt {n m k : Nat} (bits : 60 ≤ k) (hm : 0 < m) (h : 2 ^ k * m ≤ n) : 2 ^ 30 ≤ isqrt n := by
  refine le_isqrt ?_
  calc (2 ^ 30) ^ 2 = 2 ^ 60 := by norm_num
    _ ≤ 2 ^ k := Nat.pow_le_pow_right two_pos bits
    _ ≤ 2 ^ k * m := Nat.le_mul_of_pos_right _ hm
    _ ≤ n := h

/-- A number of which the square, or the inverse of the square, is y, by the cell of a fine grid that it lies in (05 R116). -/
def RootCell (E : Exact) (y : ℚ) : Prop := ∃ (r : Nat) (k : Int),
  0 < E.d ∧ 2 ^ 30 ≤ r ∧ ((r : ℚ) * 2 ^ k) ^ 2 ≤ y ∧ y < (((r : ℚ) + 1) * 2 ^ k) ^ 2 ∧ (r : ℚ) * 2 ^ k ≤ E.rat ∧
    E.rat < ((r : ℚ) + 1) * 2 ^ k ∧ (E.rat = (r : ℚ) * 2 ^ k ↔ ((r : ℚ) * 2 ^ k) ^ 2 = y)

theorem sticky_rat (exact : Bool) (r : Nat) (e : Int) : 0 < (sticky exact r e).d ∧ (r : ℚ) * 2 ^ e ≤ (sticky exact r e).rat ∧
    (sticky exact r e).rat < ((r : ℚ) + 1) * 2 ^ e ∧ ((sticky exact r e).rat = (r : ℚ) * 2 ^ e ↔ exact = true) := by
  have cell := zpow2_pos e
  cases exact
  · have rat : (sticky false r e).rat = ((r : ℚ) + 1 / 2) * 2 ^ e := by
      rw [Exact.rat_eq]
      simp only [sticky, Bool.false_eq_true, if_false, sgn_false, one_mul, Nat.cast_one, div_one, zpow_sub₀ (two_ne_zero (α := ℚ)), zpow_one]
      push_cast
      ring
    rw [rat]
    refine ⟨Nat.one_pos, ?_, ?_, ?_⟩
    · gcongr; linarith
    · gcongr; linarith
    · simp [mul_left_inj' cell.ne']
  · have rat : (sticky true r e).rat = (r : ℚ) * 2 ^ e := by
      rw [Exact.rat_eq]
      simp [sticky]
    rw [rat]
    refine ⟨Nat.one_pos, le_rfl, ?_, by simp⟩
    gcongr
    linarith

/-- A root in whole cells. -/
theorem sticky_rootCell {exact : Bool} {r : Nat} {e : Int} {y : ℚ} (fine : 2 ^ 30 ≤ r) (lo : (r : ℚ) ^ 2 * 2 ^ (2 * e) ≤ y)
    (hi : y < ((r : ℚ) + 1) ^ 2 * 2 ^ (2 * e)) (same : exact = true ↔ (r : ℚ) ^ 2 * 2 ^ (2 * e) = y) :
    RootCell (sticky exact r e) y := by
  obtain ⟨pos, low, high, eq⟩ := sticky_rat exact r e
  have square : ((2 : ℚ) ^ e) ^ 2 = 2 ^ (2 * e) := by rw [← zpow_natCast, ← zpow_mul, mul_comm]; rfl
  refine ⟨r, e, pos, fine, ?_, ?_, low, high, ?_⟩
  · rwa [mul_pow, square]
  · rwa [mul_pow, square]
  · rw [eq, same, mul_pow, square]

/-- The same number with an even exponent. -/
def evenForm (n : Nat) (e : Int) : Nat × Int := if e % 2 = 0 then (n, e) else (2 * n, e - 1)

theorem evenForm_spec (n : Nat) (e : Int) : ((evenForm n e).1 : ℚ) * 2 ^ (2 * ((evenForm n e).2 / 2)) = n * 2 ^ e ∧
    n ≤ (evenForm n e).1 ∧ (evenForm n e).1 ≤ 2 * n := by
  unfold evenForm
  split_ifs with even
  · refine ⟨?_, le_rfl, by omega⟩
    rw [show 2 * (e / 2) = e by omega]
  · refine ⟨?_, by omega, le_rfl⟩
    rw [show 2 * ((e - 1) / 2) = e - 1 by omega, zpow_sub₀ two_ne_zero]
    push_cast
    ring

theorem sqrtExact_eq (n : Nat) (e : Int) : sqrtExact n e = sticky (isqrt ((evenForm n e).1 <<< 320) * isqrt ((evenForm n e).1 <<< 320) ==
    (evenForm n e).1 <<< 320) (isqrt ((evenForm n e).1 <<< 320)) ((evenForm n e).2 / 2 - 160) := rfl

theorem rsqrtExact_eq (n : Nat) (e : Int) : rsqrtExact n e =
    sticky (isqrt (2 ^ 400 / (evenForm n e).1) * isqrt (2 ^ 400 / (evenForm n e).1) * (evenForm n e).1 == 2 ^ 400)
      (isqrt (2 ^ 400 / (evenForm n e).1)) (-((evenForm n e).2 / 2) - 200) := rfl

/-- The root of a number scaled by a square. -/
theorem isqrt_mul_rootCell {m k j : Nat} (hm : 0 < m) (bits : 60 ≤ k) (even : k = 2 * j) (h : Int) :
    RootCell (sticky (isqrt (m * 2 ^ k) * isqrt (m * 2 ^ k) == m * 2 ^ k) (isqrt (m * 2 ^ k)) (h - j)) (m * 2 ^ (2 * h)) := by
  obtain ⟨lo, hi⟩ := isqrt_spec (m * 2 ^ k)
  have fine : 2 ^ 30 ≤ isqrt (m * 2 ^ k) := fine_isqrt bits hm (Nat.mul_comm m _).ge
  generalize isqrt (m * 2 ^ k) = r at *
  have scale : (m : ℚ) * 2 ^ (2 * h) = (m * 2 ^ k : Nat) * 2 ^ (2 * (h - j)) := by
    rw [show 2 * (h - j) = 2 * h - k by omega, zpow_sub₀ two_ne_zero, zpow_natCast]
    push_cast
    field_simp
  rw [scale]
  have cell := zpow2_pos (2 * (h - j))
  refine sticky_rootCell fine ?_ ?_ ?_
  · gcongr; exact_mod_cast lo
  · gcongr; exact_mod_cast hi
  · rw [mul_left_inj' cell.ne', beq_iff_eq, ← sq]
    norm_cast

/-- The root of the inverse scaled by a square. -/
theorem isqrt_div_rootCell {m k j : Nat} (hm : 0 < m) (small : m ≤ 2 ^ 25) (bits : 85 ≤ k) (even : k = 2 * j) (h : Int) :
    RootCell (sticky (isqrt (2 ^ k / m) * isqrt (2 ^ k / m) * m == 2 ^ k) (isqrt (2 ^ k / m)) (-h - j)) (1 / (m * 2 ^ (2 * h))) := by
  have hm' : (0 : ℚ) < m := by exact_mod_cast hm
  obtain ⟨lo, hi⟩ := isqrt_spec (2 ^ k / m)
  have fine : 2 ^ 30 ≤ isqrt (2 ^ k / m) := fine_isqrt le_rfl one_pos ((Nat.le_div_iff_mul_le hm).2 (by
    calc 2 ^ 60 * 1 * m ≤ 2 ^ 60 * 1 * 2 ^ 25 := Nat.mul_le_mul_left _ small
      _ = 2 ^ 85 := by norm_num
      _ ≤ 2 ^ k := Nat.pow_le_pow_right two_pos bits))
  generalize isqrt (2 ^ k / m) = r at *
  rw [Nat.le_div_iff_mul_le hm] at lo
  rw [Nat.div_lt_iff_lt_mul hm] at hi
  have scale : 1 / ((m : ℚ) * 2 ^ (2 * h)) = (2 ^ k / m) * 2 ^ (2 * (-h - j)) := by
    rw [show 2 * (-h - j) = -(2 * h) - k by omega, zpow_sub₀ two_ne_zero, zpow_neg, zpow_natCast]
    field_simp
  rw [scale]
  have cell := zpow2_pos (2 * (-h - j))
  refine sticky_rootCell fine ?_ ?_ ?_
  · gcongr
    rw [le_div_iff₀ hm']
    exact_mod_cast lo
  · gcongr
    rw [div_lt_iff₀ hm']
    exact_mod_cast hi
  · rw [mul_left_inj' cell.ne', beq_iff_eq, ← sq, eq_div_iff hm'.ne']
    norm_cast

theorem sqrtExact_rootCell {n : Nat} (hn : 0 < n) (e : Int) : RootCell (sqrtExact n e) (n * 2 ^ e) := by
  obtain ⟨value, le, -⟩ := evenForm_spec n e
  rw [sqrtExact_eq, ← value, Nat.shiftLeft_eq]
  exact isqrt_mul_rootCell (k := 320) (j := 160) (hn.trans_le le) (by decide) rfl _

theorem rsqrtExact_rootCell {n : Nat} (hn : 0 < n) (small : n < 2 ^ 24) (e : Int) : RootCell (rsqrtExact n e) (1 / (n * 2 ^ e)) := by
  obtain ⟨value, ge, le⟩ := evenForm_spec n e
  rw [rsqrtExact_eq, ← value]
  exact isqrt_div_rootCell (k := 400) (j := 200) (hn.trans_le ge) (by omega) (by decide) rfl _

end Sys2Proof.Machine
end

section
/-! PROOFS. The functions of one operand (05 R116, R117): numbers with a known result, special inputs, and lanes. -/

namespace Sys2Proof.Machine

/-! ### Powers, logarithms and turns with an exact value -/

theorem FV.abs_rat_fin (s : Bool) (n : Nat) (e : Int) : |(FV.fin s n e).rat| = n * 2 ^ e := by
  have := zpow2_pos e
  rw [FV.rat_fin, abs_sgn_mul, abs_of_nonneg (by positivity)]

/-- 2^k of a whole number k is exact. -/
theorem exp2Exact_whole {s : Bool} {n : Nat} {e k : Int} (hn : 0 < n) (whole : (FV.fin s n e).rat = k) (small : |k| < 256) :
    exp2Exact s n e = ⟨false, 1, 1, k⟩ := by
  have size : (n : ℚ) * 2 ^ e = k.natAbs := by rw [← FV.abs_rat_fin s, whole, Nat.cast_natAbs, Int.cast_abs]
  have pos : (0 : ℚ) < n / (1 : Nat) * 2 ^ e := by have := zpow2_pos e; positivity
  have below : ¬floorLog2 n 1 e ≥ 8 := by
    rw [floorLog2_eq_log hn one_pos, not_le, ← Int.lt_zpow_iff_log_lt one_lt_two pos, Nat.cast_one, div_one, size]
    have : k.natAbs < 256 := by rw [Int.abs_eq_natAbs] at small; omega
    exact_mod_cast this
  obtain ⟨exact, quot⟩ := div_of_whole (scaleFrac_snd_pos n one_pos e) ((scaleFrac_one_div n e).trans size)
  have signed : signedInt s k.natAbs = k := by
    rw [FV.rat_fin, size, ← cast_signedInt] at whole
    exact_mod_cast whole
  have exponent : (if s then -(((scaleFrac n 1 e).1 : Int) / ((scaleFrac n 1 e).2 : Int)) else ((scaleFrac n 1 e).1 : Int) / ((scaleFrac n 1 e).2 : Int)) = k := by
    rw [← Int.natCast_ediv, quot]
    exact signed
  simp only [exp2Exact, if_neg below, if_pos exact, exponent]

/-- The logarithm of a power of two is its exponent. -/
theorem log2Exact_pow {n : Nat} {e k : Int} (hn : 0 < n) (power : (n : ℚ) * 2 ^ e = 2 ^ k) : log2Exact n e = ⟨k < 0, k.natAbs, 1, 0⟩ := by
  have value : (n : ℚ) = 2 ^ (k - e) := by
    rw [zpow_sub₀ two_ne_zero, ← power, mul_div_cancel_right₀ _ (zpow2_pos e).ne']
  have nonneg : 0 ≤ k - e := by
    by_contra neg
    have : (2 : ℚ) ^ (k - e) < 2 ^ (0 : Int) := zpow_lt_zpow_right₀ one_lt_two (by omega)
    rw [← value, zpow_zero] at this
    have : n < 1 := by exact_mod_cast this
    omega
  rw [← zpow2_toNat nonneg] at value
  have value : n = 2 ^ (k - e).toNat := by exact_mod_cast value
  have log : Nat.log2 n = (k - e).toNat := by rw [value, Nat.log2_two_pow]
  have sum : (Nat.log2 n : Int) + e = k := by omega
  simp only [log2Exact, sum, if_pos (log ▸ value : n = 2 ^ Nat.log2 n)]

/-- The quarter turns of a number of quarter turns, and no rest. -/
theorem turn_quarter {s : Bool} {n : Nat} {e k : Int} (whole : 4 * (FV.fin s n e).rat = k) :
    4 * (signedInt s (scaleFrac n 1 e).1 % ((scaleFrac n 1 e).2 : Int)).toNat = (k % 4).toNat * (scaleFrac n 1 e).2 := by
  have hb := scaleFrac_snd_pos n one_pos e
  have hb' : ((scaleFrac n 1 e).2 : ℚ) ≠ 0 := by exact_mod_cast hb.ne'
  have product : 4 * signedInt s (scaleFrac n 1 e).1 = k * (scaleFrac n 1 e).2 := by
    rw [FV.rat_fin, ← scaleFrac_one_div, ← mul_div_assoc, ← cast_signedInt, ← mul_div_assoc, div_eq_iff hb'] at whole
    exact_mod_cast whole
  generalize (scaleFrac n 1 e).2 = b at *
  have turns : 4 * (signedInt s (scaleFrac n 1 e).1 % (b : Int)) = k % 4 * b := by
    rw [← Int.mul_emod_mul_of_pos _ _ (by decide : (0 : Int) < 4), product, mul_comm k, mul_comm 4 (b : Int),
      Int.mul_emod_mul_of_pos _ _ (by exact_mod_cast hb), mul_comm]
  have pos := Int.emod_nonneg (signedInt s (scaleFrac n 1 e).1) (by exact_mod_cast hb.ne' : (b : Int) ≠ 0)
  have pos' := Int.emod_nonneg k (by decide : (4 : Int) ≠ 0)
  zify
  rw [Int.toNat_of_nonneg pos, Int.toNat_of_nonneg pos', turns]

/-- The sine and the cosine of whole quarter turns. -/
theorem turnExact_quarter (cosine : Bool) {s : Bool} {n : Nat} {e k : Int} (whole : 4 * (FV.fin s n e).rat = k) :
    turnExact cosine s n e = if cosine = decide (k % 2 = 0) then ⟨k % 4 == (if cosine then 2 else 3), 1, 1, 0⟩
      else ⟨if cosine then false else s, 0, 1, 0⟩ := by
  have turns := turn_quarter whole
  have hb := scaleFrac_snd_pos n one_pos e
  have quad : 4 * (signedInt s (scaleFrac n 1 e).1 % ((scaleFrac n 1 e).2 : Int)).toNat / (scaleFrac n 1 e).2 = (k % 4).toNat := by
    rw [turns, Nat.mul_div_cancel _ hb]
  have rest : 4 * (signedInt s (scaleFrac n 1 e).1 % ((scaleFrac n 1 e).2 : Int)).toNat % (scaleFrac n 1 e).2 = 0 := by
    rw [turns, Nat.mul_mod_left]
  simp only [signedInt] at quad rest
  simp only [turnExact, quad, rest, if_true]
  have four : k % 4 = 0 ∨ k % 4 = 1 ∨ k % 4 = 2 ∨ k % 4 = 3 := by omega
  have parity : k % 2 = k % 4 % 2 := by omega
  rw [parity]
  rcases four with h | h | h | h <;> rw [h] <;> cases cosine <;> simp

end Sys2Proof.Machine
end

section
/-! PROOFS. The element results of the functions of one operand (05 R116, R117), their lanes, and the statement on all of them. -/

namespace Sys2Proof.Machine

/-! ### Element results -/

theorem ufnEl_eq (f : UFn) (rnd q p : Nat) : ufnEl f rnd false q p = foutput rnd false .f32 q (ufn f (fval .f32 p)) := by
  simp [ufnEl, finput]

section
variable (rnd q : Nat)

theorem foutput_zero (s : Bool) : let r := foutput rnd false .f32 q (exactOf s 0 0)
    (fval .f32 r.1).finite = true ∧ (fval .f32 r.1).rat = 0 ∧ (fval .f32 r.1).sign = s ∧ r.2 = 0 := by
  intro r
  obtain ⟨finite, sign, rat, flags⟩ := roundTo_small_whole (t := .f32) (by decide) rnd q false s (Nat.zero_le _)
  simp only [r, exactOf, foutput_num]
  exact ⟨finite, rat.trans (by simp), sign, flags⟩

theorem foutput_one (s : Bool) : let r := foutput rnd false .f32 q (exactOf s 1 0)
    (fval .f32 r.1).rat = (if s then -1 else 1) ∧ r.2 = 0 := by
  intro r
  obtain ⟨-, -, rat, flags⟩ := roundTo_small_whole (t := .f32) (by decide) rnd q false s (k := 1) (by decide)
  simp only [r, exactOf, foutput_num]
  exact ⟨rat.trans (by cases s <;> simp), flags⟩

theorem foutput_inf32 (s : Bool) (fl : Flags) : let r := foutput rnd false .f32 q (.inf s fl)
    fval .f32 r.1 = .inf s ∧ r.2 = fl := ⟨fval_infResult (by decide) false s, rfl⟩

end

/-! ### Exact results of finite inputs -/

section
variable {s : Bool} {n : Nat} {e : Int}

theorem FV.pos_of_rat_pos (h : 0 < (FV.fin s n e).rat) : s = false ∧ 0 < n := by
  have nonneg : (0 : ℚ) ≤ n * 2 ^ e := mul_nonneg (Nat.cast_nonneg n) (zpow2_pos e).le
  rw [FV.rat_fin] at h
  cases s
  · rw [sgn_false, one_mul] at h
    exact ⟨rfl, Nat.pos_of_ne_zero fun zero => by simp [zero] at h⟩
  · rw [sgn_true] at h
    linarith

theorem FV.neg_of_rat_neg (h : (FV.fin s n e).rat < 0) : s = true ∧ 0 < n := by
  have flipped : 0 < (FV.fin (!s) n e).rat := by
    have := FV.neg_rat (.fin s n e)
    rw [FV.neg] at this
    linarith
  obtain ⟨sign, pos⟩ := FV.pos_of_rat_pos flipped
  exact ⟨by simpa using sign, pos⟩

/-- An integer as an exact number. -/
theorem intExact_rat (v : Int) : (⟨v < 0, v.natAbs, 1, 0⟩ : Exact).rat = v := by
  rw [Exact.rat_eq]
  by_cases neg : v < 0
  · have : (v.natAbs : ℚ) = -v := by rw [Nat.cast_natAbs, Int.cast_abs, abs_of_neg (by exact_mod_cast neg)]
    simp [neg, this]
  · have : (v.natAbs : ℚ) = v := by rw [Nat.cast_natAbs, Int.cast_abs, abs_of_nonneg (by exact_mod_cast not_lt.1 neg)]
    simp [neg, this]

theorem rcp_rat (hn : 0 < n) : (⟨s, 1, n, -e⟩ : Exact).rat = 1 / (FV.fin s n e).rat := by
  have hn' : (n : ℚ) ≠ 0 := by exact_mod_cast hn.ne'
  have := (zpow2_pos e).ne'
  rw [Exact.rat_eq, FV.rat_fin, zpow_neg]
  cases s <;> simp <;> field_simp

theorem ufn_sin_quarter {k : Int} (whole : 4 * (FV.fin s n e).rat = k) :
    ufn .sin (.fin s n e) = if k % 2 = 0 then exactOf s 0 0 else exactOf (k % 4 == 3) 1 0 := by
  by_cases zero : n = 0
  · have : k = 0 := by
      rw [(FV.rat_eq_zero_iff s n e).2 zero, mul_zero] at whole
      exact_mod_cast whole.symm
    simp [ufn, zero, this]
  · by_cases even : k % 2 = 0 <;> simp [ufn, zero, turnExact_quarter false whole, even, exactOf]

theorem ufn_cos_quarter {k : Int} (whole : 4 * (FV.fin s n e).rat = k) :
    ufn .cos (.fin s n e) = if k % 2 = 0 then exactOf (k % 4 == 2) 1 0 else exactOf false 0 0 := by
  by_cases zero : n = 0
  · have : k = 0 := by
      rw [(FV.rat_eq_zero_iff s n e).2 zero, mul_zero] at whole
      exact_mod_cast whole.symm
    simp [ufn, zero, this]
  · by_cases even : k % 2 = 0 <;> simp [ufn, zero, turnExact_quarter true whole, even, exactOf]

end

/-! ### Special inputs and exact results, by the pattern -/

section
variable (rnd q : Nat) {p n : Nat} {s : Bool} {e : Int}

theorem ufnEl_nan (h : fval .f32 p = .nan) (f : UFn) : ufnEl f rnd false q p = (Ty.f32.nanPat, 0) := by
  rw [ufnEl_eq, h]
  cases f <;> rfl

theorem ufnEl_zero (h : fval .f32 p = .fin s 0 e) :
    let el := fun f => ufnEl f rnd false q p
    let isZero := fun (r : Nat × Flags) (s : Bool) (fl : Flags) =>
      (fval .f32 r.1).finite = true ∧ (fval .f32 r.1).rat = 0 ∧ (fval .f32 r.1).sign = s ∧ r.2 = fl
    let isInf := fun (r : Nat × Flags) (s : Bool) (fl : Flags) => fval .f32 r.1 = .inf s ∧ r.2 = fl
    let isOne := fun (r : Nat × Flags) (s : Bool) => (fval .f32 r.1).rat = (if s then -1 else 1) ∧ r.2 = 0
    isInf (el .rcp) s fDivzero ∧ isInf (el .rsq) s fDivzero ∧ isZero (el .sqrt) s 0 ∧ isOne (el .ex2) false ∧
      isInf (el .lg2) true fDivzero ∧ isZero (el .sin) s 0 ∧ isOne (el .cos) false := by
  intro el isZero isInf isOne
  simp only [el, ufnEl_eq, h]
  exact ⟨foutput_inf32 rnd q s _, foutput_inf32 rnd q s _, foutput_zero rnd q s, foutput_one rnd q false, foutput_inf32 rnd q true _,
    foutput_zero rnd q s, foutput_one rnd q false⟩

theorem ufnEl_inf (h : fval .f32 p = .inf s) :
    let el := fun f => ufnEl f rnd false q p
    let isZero := fun (r : Nat × Flags) (s : Bool) (fl : Flags) =>
      (fval .f32 r.1).finite = true ∧ (fval .f32 r.1).rat = 0 ∧ (fval .f32 r.1).sign = s ∧ r.2 = fl
    let isInf := fun (r : Nat × Flags) (s : Bool) (fl : Flags) => fval .f32 r.1 = .inf s ∧ r.2 = fl
    let isNaN := fun (r : Nat × Flags) (fl : Flags) => r = (Ty.f32.nanPat, fl)
    isZero (el .rcp) s 0 ∧ isNaN (el .sin) fInvalid ∧ isNaN (el .cos) fInvalid ∧
      (s = true → isNaN (el .rsq) fInvalid ∧ isNaN (el .sqrt) fInvalid ∧ isZero (el .ex2) false 0 ∧ isNaN (el .lg2) fInvalid) ∧
      (s = false → isZero (el .rsq) false 0 ∧ isInf (el .sqrt) false 0 ∧ isInf (el .ex2) false 0 ∧ isInf (el .lg2) false 0) := by
  intro el isZero isInf isNaN
  simp only [el, ufnEl_eq, h]
  refine ⟨foutput_zero rnd q s, rfl, rfl, ?_, ?_⟩
  · rintro rfl
    exact ⟨rfl, rfl, foutput_zero rnd q false, rfl⟩
  · rintro rfl
    exact ⟨foutput_zero rnd q false, foutput_inf32 rnd q false _, foutput_inf32 rnd q false _, foutput_inf32 rnd q false _⟩

theorem ufnEl_negative (h : fval .f32 p = .fin s n e) (neg : (fval .f32 p).rat < 0) :
    ufnEl .rsq rnd false q p = (Ty.f32.nanPat, fInvalid) ∧ ufnEl .sqrt rnd false q p = (Ty.f32.nanPat, fInvalid) ∧
      ufnEl .lg2 rnd false q p = (Ty.f32.nanPat, fInvalid) := by
  rw [h] at neg
  obtain ⟨rfl, pos⟩ := FV.neg_of_rat_neg neg
  simp [ufnEl_eq, h, ufn, pos.ne', foutput_nan]

theorem ufnEl_rcp (h : fval .f32 p = .fin s n e) (ne : (fval .f32 p).rat ≠ 0) :
    ∃ E : Exact, 0 < E.d ∧ E.rat = 1 / (fval .f32 p).rat ∧ ufnEl .rcp rnd false q p = roundTo .f32 rnd q false E := by
  rw [h] at ne
  have hn : n ≠ 0 := mt (FV.rat_eq_zero_iff s n e).2 ne
  refine ⟨⟨s, 1, n, -e⟩, Nat.pos_of_ne_zero hn, ?_, ?_⟩
  · rw [h, rcp_rat (Nat.pos_of_ne_zero hn)]
  · simp [ufnEl_eq, h, ufn, hn, foutput_num]

/-- The roots round a number of the root's own cell. -/
theorem ufnEl_root (h : fval .f32 p = .fin s n e) (pos : 0 < (fval .f32 p).rat) (root : Bool) :
    ∃ E : Exact, RootCell E (if root then (fval .f32 p).rat else 1 / (fval .f32 p).rat) ∧
      ufnEl (if root then .sqrt else .rsq) rnd false q p = roundTo .f32 rnd q false E := by
  rw [h] at pos ⊢
  obtain ⟨rfl, hn⟩ := FV.pos_of_rat_pos pos
  have value : (FV.fin false n e).rat = n * 2 ^ e := by rw [FV.rat_fin, sgn_false, one_mul]
  rw [value]
  cases root
  · obtain ⟨-, -, c, -, -, lt, -⟩ := fval_eq_fin h
    exact ⟨rsqrtExact n e, rsqrtExact_rootCell hn lt e, by simp [ufnEl_eq, h, ufn, hn.ne', foutput_num]⟩
  · exact ⟨sqrtExact n e, sqrtExact_rootCell hn e, by simp [ufnEl_eq, h, ufn, hn.ne', foutput_num]⟩

theorem ufnEl_ex2 {k : Int} (h : fval .f32 p = .fin s n e) (whole : (fval .f32 p).rat = k) (small : |k| < 256) :
    ∃ E : Exact, 0 < E.d ∧ E.rat = (2 : ℚ) ^ k ∧ ufnEl .ex2 rnd false q p = roundTo .f32 rnd q false E := by
  refine ⟨⟨false, 1, 1, k⟩, one_pos, by rw [Exact.rat_eq]; simp, ?_⟩
  rw [h] at whole
  rw [ufnEl_eq, h, ufn]
  split_ifs with zero
  · rw [(FV.rat_eq_zero_iff s n e).2 zero] at whole
    have : k = 0 := by exact_mod_cast whole.symm
    rw [this, exactOf, foutput_num]
  · rw [exp2Exact_whole (Nat.pos_of_ne_zero zero) whole small, foutput_num]

theorem ufnEl_lg2 {k : Int} (h : fval .f32 p = .fin s n e) (power : (fval .f32 p).rat = (2 : ℚ) ^ k) :
    ∃ E : Exact, 0 < E.d ∧ E.rat = k ∧ ufnEl .lg2 rnd false q p = roundTo .f32 rnd q false E := by
  rw [h] at power
  obtain ⟨rfl, hn⟩ := FV.pos_of_rat_pos (power ▸ zpow2_pos k)
  rw [FV.rat_fin, sgn_false, one_mul] at power
  exact ⟨⟨k < 0, k.natAbs, 1, 0⟩, one_pos, intExact_rat k, by simp [ufnEl_eq, h, ufn, hn.ne', foutput_num, log2Exact_pow hn power]⟩

theorem ufnEl_turn {k : Int} (h : fval .f32 p = .fin s n e) (whole : 4 * (fval .f32 p).rat = k) :
    let el := fun f => ufnEl f rnd false q p
    let isZero := fun (r : Nat × Flags) (s : Bool) (fl : Flags) =>
      (fval .f32 r.1).finite = true ∧ (fval .f32 r.1).rat = 0 ∧ (fval .f32 r.1).sign = s ∧ r.2 = fl
    let isOne := fun (r : Nat × Flags) (s : Bool) => (fval .f32 r.1).rat = (if s then -1 else 1) ∧ r.2 = 0
    (k % 2 = 0 → isZero (el .sin) s 0 ∧ isOne (el .cos) (k % 4 == 2)) ∧
      (k % 2 = 1 → isOne (el .sin) (k % 4 == 3) ∧ isZero (el .cos) false 0) := by
  intro el isZero isOne
  rw [h] at whole
  simp only [el, ufnEl_eq, h, ufn_sin_quarter whole, ufn_cos_quarter whole]
  refine ⟨fun even => ?_, fun odd => ?_⟩
  · simp only [if_pos even]
    exact ⟨foutput_zero rnd q s, foutput_one rnd q _⟩
  · simp only [if_neg (by omega : ¬k % 2 = 0)]
    exact ⟨foutput_one rnd q _, foutput_zero rnd q false⟩

end

/-! ### Lanes -/

/-- The group after a function of one operand: draws, then lanes of results. -/
theorem ufnEff_group (f : UFn) (d a : BitVec 8) (c : Iss) : (ufnEff f d a c).1 =
    c.g.drawnLanes true c.md d c.act 1 .f32 fun l =>
      (ufnEl f (mdRnd c.md) (mdFtz c.md) (((c.g.drawCvt true c.md c.act 1).1 l).headD 0) (c.g.vlane a l).toNat).1 := rfl

theorem ufnEl_lt (f : UFn) (rnd : Nat) (ftz : Bool) (q a : Nat) : (ufnEl f rnd ftz q a).1 < 2 ^ 32 := foutput_lt _ _ _ _ _

theorem headD_ite {c : Prop} [Decidable c] (l : List Nat) : (if c then l else []).headD 0 = if c then l.headD 0 else 0 := by
  split <;> rfl

theorem ufnEff_lanes (f : UFn) (d a : BitVec 8) (c : Iss) (l : Fin 16) :
    let h := (ufnEff f d a c).1
    let q := if mdRnd c.md = 5 then ((c.g.rng[l].draws 1).1).headD 0 else 0
    (lane c.act l = true → (h.vlane d l).toNat = (ufnEl f (mdRnd c.md) (mdFtz c.md) q (c.g.vlane a l).toNat).1) ∧
    (lane c.act l = false → h.vlane d l = c.g.vlane d l ∧ h.rng[l] = c.g.rng[l]) ∧
    (∀ r, r ≠ d → h.vreg r = c.g.vreg r) ∧ { h.regs with v := c.g.v, rng := c.g.rng } = c.g.regs := by
  have narrow : Ty.f32 ≠ .s64 := by decide
  intro h q
  simp only [h, q, ufnEff_group]
  refine ⟨fun active => ?_, fun inactive => ⟨?_, ?_⟩, fun r ne => Group.drawnLanes_vreg_of_ne ne fun s64 => absurd s64 narrow,
    Group.drawnLanes_regs⟩
  · rw [Group.drawnLanes_vlane narrow, if_pos active, BitVec.toNat_ofNat, Nat.mod_eq_of_lt (ufnEl_lt _ _ _ _ _),
      Group.drawCvt_words _ _ _ _ _ _ active, headD_ite]
    simp only [true_and]
  · rw [Group.drawnLanes_vlane narrow, inactive, if_neg (by decide)]
  · simp only [Group.drawnLanes_rng]
    exact Group.drawCvt_rng_of_inactive _ _ _ _ _ _ inactive

/-- Settles O20: bits and counts are `clzLane_spec` to `signEff_bit`, frnd is `frndRes_clauses`, and the rounded functions are
`ufnEl_zero` to `ufnEl_turn`. -/
theorem unaryLanes : Obligations.UnaryLanes := by
  refine ⟨fun a => ⟨fun zero => by rw [zero]; rfl, clzLane_spec⟩, popcLane_toNat, fun a k => getLsbD_brevLane a, ?_, ?_, ?_, ?_, ?_, ?_, ?_⟩
  · intro d a c l k hk active
    rw [vlane_unary32Eff, if_pos active]
    simp [hk]
  · exact fun f d a c l => ⟨vlane_unary32Eff f d a c l, fun r ne => Group.vreg_setV_of_ne _ _ _ _ ne, rfl⟩
  · intro neg d a c l types _
    have signed : (mdType c.md).signed = true := by
      generalize mdType c.md = t at types
      revert t; decide
    refine ⟨fun i hi active => ?_, fun inactive => Group.laneVal_setLanes_of_inactive _ _ _ _ _ inactive,
      fun r ne pair => Group.vreg_setLanes_of_ne _ _ _ _ ne pair, ?_⟩
    · rw [absNegEff_elem neg d a c l active hi]
      refine ⟨fun sat => ?_, fun wrap => ?_⟩
      · rw [sat, intVal_fitInt_sat]
        simp [Ty.minInt, Ty.maxInt, signed]
      · rw [wrap]
        exact intVal_wrapInt_absNeg signed neg _
    · rw [absNegEff, Group.setLanes_regs]; rfl
  · intro neg d a c l types
    have narrow := ne_s64_of_fpTypes types
    refine ⟨fun i k hi hk active => ?_, fun inactive => ?_, fun r ne => Group.vreg_setLanes_of_ne _ _ _ _ ne fun s64 => absurd s64 narrow, ?_⟩
    · have bit := signEff_bit neg d a c l types active hi hk
      rwa [Group.laneVal_eq_vlane _ _ _ narrow, Group.laneVal_eq_vlane _ _ _ narrow] at bit
    · rw [signEff, Group.setLanes_eq_setV _ _ _ narrow, Group.vlane_setV, inactive, if_neg (by decide)]
    · rw [signEff, Group.setLanes_regs]; rfl
  · intro t rnd q p types
    obtain ⟨nan, inf, finite⟩ := frndRes_clauses rnd q p types
    refine ⟨nan, inf, fun h => ?_⟩
    obtain ⟨sign, fin, k, rat, round⟩ := finite h
    exact ⟨sign, fin, k, rat, round.near, round.nearest, round.toZero, round.up, round.down, round.even, round.away⟩
  · intro rnd q p
    refine ⟨fun nan f => ufnEl_nan rnd q nan f, fun fin zero => ?_, fun s inf => ufnEl_inf rnd q inf, fun fin neg => ?_, fun fin ne => ?_, fun fin pos root => ?_,
      fun k fin whole small => ?_, fun k fin power => ?_, fun k fin whole => ?_⟩
    all_goals obtain ⟨s, n, e, h⟩ := FV.exists_of_finite fin
    · rw [h] at zero ⊢
      rw [(FV.rat_eq_zero_iff s n e).1 zero] at h
      exact ufnEl_zero rnd q h
    · exact ufnEl_negative rnd q h neg
    · exact ufnEl_rcp rnd q h ne
    · obtain ⟨E, ⟨r, k, den, fine, lo, hi, low, high, edge⟩, round⟩ := ufnEl_root rnd q h pos root
      exact ⟨E, r, k, den, fine, lo, hi, low, high, edge, round⟩
    · exact ufnEl_ex2 rnd q h whole small
    · exact ufnEl_lg2 rnd q h power
    · rw [h]
      exact ufnEl_turn rnd q h whole
  · exact ufnEff_lanes

end Sys2Proof.Machine
end

section
/-! PROOFS. Dot products and matrix steps (04 R89 to R92): the sum of the products and its special values. -/

namespace Sys2Proof.Machine

/-! ### dot4 -/

theorem foldl_add_mul (ab : List (Int × Int)) (s : Int) : ab.foldl (fun s x => s + x.1 * x.2) s = s + (ab.map fun x => x.1 * x.2).sum := by
  induction ab generalizing s with
  | nil => simp
  | cons x ab ih => rw [List.foldl_cons, ih, List.map_cons, List.sum_cons, add_assoc]

theorem matrixStepInt_eq (acc : Nat) (ab : List (Int × Int)) :
    matrixStepInt acc ab = ((intVal .s32 acc + (ab.map fun x : Int × Int => x.1 * x.2).sum) % 2 ^ 32).toNat := by
  rw [matrixStepInt, foldl_add_mul, zero_add]
  rfl

theorem intVal_elem (t : Ty) (x i : Nat) : intVal t (elem t x i) = intVal t (x / 2 ^ (t.width * i)) := by
  rw [elem_eq_div, intVal_mod]

theorem dot4Lane_eq {t : Ty} (h : t = .s8 ∨ t = .n8) (a b d : Nat) : dot4Lane t a b d =
    ((intVal .s32 d + ((List.range 4).map fun i => intVal t (a / 2 ^ (8 * i)) * intVal t (b / 2 ^ (8 * i))).sum) % 2 ^ 32).toNat := by
  have width : t.width = 8 := by rcases h with rfl | rfl <;> rfl
  rw [dot4Lane, matrixStepInt_eq, List.map_map]
  simp only [intVal_elem, width, Function.comp_def]

/-! ### The sum of products -/

/-- A product that is no number (04 R90). -/
def Undefined (x : FV × FV) : Prop := x.1 = .nan ∨ x.2 = .nan ∨
  (∃ s, x.1 = .inf s ∧ x.2.finite = true ∧ x.2.rat = 0) ∨ (∃ s, x.2 = .inf s ∧ x.1.finite = true ∧ x.1.rat = 0)

theorem fvMul_of_undefined {x : FV × FV} (h : Undefined x) : ∃ fl, fvMul x.1 x.2 = .nan fl := by
  rcases h with h | h | ⟨s, h, finite, zero⟩ | ⟨s, h, finite, zero⟩
  · exact ⟨0, fvMul_nan (.inl h)⟩
  · exact ⟨0, fvMul_nan (.inr h)⟩
  · exact ⟨fInvalid, by rw [fvMul_inf (.inl ⟨h, rfl⟩) (FV.ne_nan_of_finite finite), if_pos ⟨finite, zero⟩]⟩
  · exact ⟨fInvalid, by rw [fvMul_inf (.inr ⟨h, rfl⟩) (FV.ne_nan_of_finite finite), if_pos ⟨finite, zero⟩]⟩

theorem ProdSum.add_of_nan {p : ProdSum} {x y : FV} {fl : Flags} (h : fvMul x y = .nan fl) : p.add x y = { p with nan := true } := by
  rw [ProdSum.add, h]

theorem ProdSum.add_of_inf {p : ProdSum} {x y : FV} {s : Bool} {fl : Flags} (h : fvMul x y = .inf s fl) :
    p.add x y = { p with nan := p.nan || p.inf == some (!s), inf := some s, negZero := false } := by
  rw [ProdSum.add, h]

theorem ProdSum.add_of_num {p : ProdSum} {x y : FV} {E : Exact} (h : fvMul x y = .num E) :
    p.add x y = { p with sum := p.sum.add (dyOf E.s E.n E.e), negZero := p.negZero && E.n == 0 && E.s } := by
  rw [ProdSum.add, h]

/-- A sum that is no number stays so. -/
theorem ProdSum.add_nan {p : ProdSum} (h : p.nan = true) (x y : FV) : (p.add x y).nan = true := by
  unfold ProdSum.add
  split <;> simp [h]

theorem foldl_add_nan (ab : List (FV × FV)) {p : ProdSum} (h : p.nan = true ∨ ∃ x ∈ ab, Undefined x) :
    (ab.foldl (fun p x => p.add x.1 x.2) p).nan = true := by
  induction ab generalizing p with
  | nil => simpa using h
  | cons x ab ih =>
    refine ih ?_
    rcases h with h | ⟨y, member, undefined⟩
    · exact .inl (ProdSum.add_nan h _ _)
    · rcases List.mem_cons.1 member with rfl | later
      · obtain ⟨fl, mul⟩ := fvMul_of_undefined undefined
        exact .inl (congrArg ProdSum.nan (ProdSum.add_of_nan mul))
      · exact .inr ⟨y, later, undefined⟩

theorem ProdSum.add_fin {p : ProdSum} {x y : FV} (hx : x.finite = true) (hy : y.finite = true) :
    (p.add x y).nan = p.nan ∧ (p.add x y).inf = p.inf ∧ (p.add x y).sum.rat = p.sum.rat + x.rat * y.rat ∧
      (p.add x y).negZero = (p.negZero && (decide (x.rat * y.rat = 0) && x.sign != y.sign)) := by
  match x, y, hx, hy with
  | .fin s n e, .fin s' n' e', _, _ =>
    obtain ⟨E, mul, den, rat, sign⟩ := fvMul_fin s s' n n' e e'
    have zero : (E.n == 0) = decide ((FV.fin s n e).rat * (FV.fin s' n' e').rat = 0) := by
      rw [← rat, Bool.eq_iff_iff, beq_iff_eq, decide_eq_true_iff, Exact.rat_eq_zero (den ▸ one_pos)]
    have value : (dyOf E.s E.n E.e).rat = E.rat := by
      rw [dyOf_rat, FV.rat_fin, Exact.rat_eq, den, Nat.cast_one, div_one]
    rw [ProdSum.add_of_num mul]
    refine ⟨rfl, rfl, ?_, ?_⟩
    · rw [Dy.add_rat, value, rat]
    · simp only [zero, sign, Bool.and_assoc, FV.sign]

theorem foldl_add_fin (ab : List (FV × FV)) (finite : ∀ x ∈ ab, x.1.finite = true ∧ x.2.finite = true) (p : ProdSum) :
    let r := ab.foldl (fun p x => p.add x.1 x.2) p
    r.nan = p.nan ∧ r.inf = p.inf ∧ r.sum.rat = p.sum.rat + (ab.map fun x => x.1.rat * x.2.rat).sum ∧
      r.negZero = (p.negZero && ab.all fun x => decide (x.1.rat * x.2.rat = 0) && x.1.sign != x.2.sign) := by
  induction ab generalizing p with
  | nil => simp
  | cons x ab ih =>
    obtain ⟨nan, inf, sum, negZero⟩ := ProdSum.add_fin (p := p) (finite x (List.mem_cons_self ..)).1 (finite x (List.mem_cons_self ..)).2
    obtain ⟨nan', inf', sum', negZero'⟩ := ih (fun y later => finite y (List.mem_cons_of_mem _ later)) (p.add x.1 x.2)
    refine ⟨nan'.trans nan, inf'.trans inf, sum'.trans ?_, negZero'.trans ?_⟩
    · rw [sum, List.map_cons, List.sum_cons, add_assoc]
    · rw [negZero, List.all_cons, Bool.and_assoc]

/-- The sum of finite products (04 R89). -/
theorem prodSum_fin {ab : List (FV × FV)} (finite : ∀ x ∈ ab, x.1.finite = true ∧ x.2.finite = true) :
    (prodSum ab).nan = false ∧ (prodSum ab).inf = none ∧ (prodSum ab).sum.rat = (ab.map fun x => x.1.rat * x.2.rat).sum ∧
      (prodSum ab).negZero = ab.all fun x => decide (x.1.rat * x.2.rat = 0) && x.1.sign != x.2.sign := by
  obtain ⟨nan, inf, sum, negZero⟩ := foldl_add_fin ab finite {}
  refine ⟨nan, inf, sum.trans ?_, negZero.trans (Bool.true_and _)⟩
  simp [Dy.rat]

/-! ### Matrix steps -/

/-- A step of a sum that is no number, or with such an accumulator (04 R90). -/
theorem matrixStep_nan {acc : Nat} {ab : List (FV × FV)} (h : (prodSum ab).nan = true ∨ fval .f32 acc = .nan) :
    matrixStep acc ab = Ty.f32.nanPat := if_pos (by simpa using h)

theorem matrixStep_inf {acc : Nat} {ab : List (FV × FV)} {s : Bool} (number : (prodSum ab).nan = false) (inf : (prodSum ab).inf = some s)
    (ne : fval .f32 acc ≠ .nan) : matrixStep acc ab = (foutput 0 false .f32 0 (fvAdd 0 (fval .f32 acc) (.inf s))).1 := by
  have cond : ¬((prodSum ab).nan || fval .f32 acc = .nan) = true := by simp [number, ne]
  rw [matrixStep, if_neg cond, inf]
  simp only [fval_infResult (fpTypes_inf (by decide : Ty.f32 ∈ fpTypes))]

/-- The exact sum of the products, with the sign of a zero. -/
def prodExact (ab : List (FV × FV)) : Exact := (prodSum ab).sum.exact (prodSum ab).negZero

section
variable {acc : Nat} {ab : List (FV × FV)} (finite : ∀ x ∈ ab, x.1.finite = true ∧ x.2.finite = true)
include finite

theorem prodExact_rat : (prodExact ab).rat = (ab.map fun x => x.1.rat * x.2.rat).sum := by
  rw [prodExact, Dy.exact_rat, (prodSum_fin finite).2.2.1]

theorem prodExact_sign (zero : (prodExact ab).rat = 0) :
    (prodExact ab).s = ab.all fun x => decide (x.1.rat * x.2.rat = 0) && x.1.sign != x.2.sign :=
  (Dy.exact_sign_of_zero zero).trans (prodSum_fin finite).2.2.2

theorem matrixStep_fin (ne : fval .f32 acc ≠ .nan) : matrixStep acc ab =
    (foutput 0 false .f32 0 (fvAdd 0 (fval .f32 acc) (fval .f32 (roundTo .f32 0 0 false (prodExact ab)).1))).1 := by
  obtain ⟨nan, inf, -, -⟩ := prodSum_fin finite
  have cond : ¬((prodSum ab).nan || fval .f32 acc = .nan) = true := by simp [nan, ne]
  rw [matrixStep, if_neg cond, inf]
  rfl

/-- The rounded sum of the products and the accumulator, rounded again (04 R89). -/
theorem matrixStep_rounds_sum (accFinite : (fval .f32 acc).finite = true)
    (sumFinite : (fval .f32 (roundTo .f32 0 0 false (prodExact ab)).1).finite = true) :
    let p := (roundTo .f32 0 0 false (prodExact ab)).1
    ∃ F : Exact, 0 < F.d ∧ F.rat = (fval .f32 acc).rat + (fval .f32 p).rat ∧
      (F.rat = 0 → F.s = ((fval .f32 acc).sign && (fval .f32 p).sign)) ∧ matrixStep acc ab = (roundTo .f32 0 0 false F).1 := by
  intro p
  have step := matrixStep_fin finite (FV.ne_nan_of_finite accFinite)
  obtain ⟨s, n, e, ha⟩ := FV.exists_of_finite accFinite
  obtain ⟨s', n', e', hp⟩ := FV.exists_of_finite sumFinite
  obtain ⟨F, add, den, rat, sign⟩ := fvAdd_fin 0 s s' n n' e e'
  rw [ha, hp, add, foutput_num] at step
  simp only [p, ha, hp]
  refine ⟨F, den, rat, fun zero => (sign zero).trans ?_, step⟩
  cases s <;> cases s' <;> rfl

theorem matrixStep_sum_inf {s : Bool} (accFinite : (fval .f32 acc).finite = true)
    (inf : fval .f32 (roundTo .f32 0 0 false (prodExact ab)).1 = .inf s) : fval .f32 (matrixStep acc ab) = .inf s := by
  rw [matrixStep_fin finite (FV.ne_nan_of_finite accFinite), inf, fvAdd_inf_right 0 s accFinite]
  exact (foutput_inf 0 0 (by decide) s).1

/-- Any exact number of the same value rounds to a finite value when the sum does. -/
theorem prodExact_finite {E : Exact} (den : 0 < E.d) (rat : E.rat = (ab.map fun x => x.1.rat * x.2.rat).sum)
    (fits : (fval .f32 (roundTo .f32 0 0 false E).1).finite = true) :
    (fval .f32 (roundTo .f32 0 0 false (prodExact ab)).1).finite = true := by
  have same : E.rat = (prodExact ab).rat := rat.trans (prodExact_rat finite).symm
  by_cases zero : E.n = 0
  · rw [roundTo_zero, fval_zero]
    · rfl
    · rwa [← Exact.rat_eq_zero Nat.one_pos, ← same, Exact.rat_eq_zero den]
  · rwa [← roundTo_congr .f32 0 0 false (Nat.pos_of_ne_zero zero) den Nat.one_pos same]

theorem matrixStep_acc_inf {s : Bool} (inf : fval .f32 acc = .inf s)
    (sumFinite : (fval .f32 (roundTo .f32 0 0 false (prodExact ab)).1).finite = true) : fval .f32 (matrixStep acc ab) = .inf s := by
  rw [matrixStep_fin finite (inf ▸ nofun), inf, fvAdd_inf_left 0 s sumFinite]
  exact (foutput_inf 0 0 (by decide) s).1

end

/-- A product with an infinity that is a number. -/
theorem fvMul_inf_of_defined {x : FV × FV} {s : Bool} (inf : x.1 = .inf s ∨ x.2 = .inf s) (ne : x.1 ≠ .nan) (ne' : x.2 ≠ .nan)
    (nonzero : x.1.finite = true → x.1.rat ≠ 0) (nonzero' : x.2.finite = true → x.2.rat ≠ 0) :
    fvMul x.1 x.2 = .inf (x.1.sign != x.2.sign) 0 := by
  rcases inf with inf | inf
  · rw [fvMul_inf (.inl ⟨inf, rfl⟩) ne', if_neg fun h => nonzero' h.1 h.2, inf]
    rfl
  · rw [fvMul_inf (.inr ⟨inf, rfl⟩) ne, if_neg fun h => nonzero h.1 h.2, inf]
    simp [FV.sign, Bool.xor_comm]

theorem matrixStep_single_inf {x : FV × FV} {s : Bool} (acc : Nat) (mul : fvMul x.1 x.2 = .inf s 0) : matrixStep acc [x] =
    if fval .f32 acc = .inf (!s) ∨ fval .f32 acc = .nan then Ty.f32.nanPat else infResult .f32 false s := by
  have sum : prodSum [x] = ({} : ProdSum).add x.1 x.2 := rfl
  have number : (prodSum [x]).nan = false := by rw [sum, ProdSum.add_of_inf mul]; rfl
  have inf : (prodSum [x]).inf = some s := by rw [sum, ProdSum.add_of_inf mul]
  by_cases nan : fval .f32 acc = .nan
  · rw [matrixStep_nan (.inr nan), if_pos (.inr nan)]
  · rw [matrixStep_inf number inf nan]
    rcases FV.inf_or_finite nan with ⟨s', acc⟩ | fin
    · rw [acc, fvAdd_inf]
      cases s <;> cases s' <;> simp [foutput]
    · have apart : fval .f32 acc ≠ .inf (!s) := by intro h; rw [h] at fin; cases fin
      rw [fvAdd_inf_right 0 s fin, if_neg (by simp [apart, nan])]
      rfl

/-! ### Scaled elements and fdot2 -/

theorem blockVal_fin {e : Ty} {x pat : Nat} (hx : x < 0xFF) (finite : (fval e pat).finite = true) :
    (blockVal e x pat).finite = true ∧ (blockVal e x pat).sign = (fval e pat).sign ∧
      (blockVal e x pat).rat = (fval e pat).rat * (2 : ℚ) ^ ((x : Int) - 127) := by
  obtain ⟨s, n, k, h⟩ := FV.exists_of_finite finite
  simp only [blockVal, if_neg hx.ne, h]
  refine ⟨rfl, rfl, ?_⟩
  rw [FV.rat_fin, FV.rat_fin, add_sub_assoc, zpow_add₀ two_ne_zero]
  ring

theorem fdot2Lane_fst {t : Ty} (h : t = .f16 ∨ t = .bf16) (a b d : Nat) : (fdot2Lane t false a b d).1 =
    matrixStep d [(fval t (a % 2 ^ 16), fval t (b % 2 ^ 16)), (fval t (a / 2 ^ 16 % 2 ^ 16), fval t (b / 2 ^ 16 % 2 ^ 16))] := by
  have width : t.width = 16 := by rcases h with rfl | rfl <;> rfl
  have low (x : Nat) : elem t x 0 = x % 2 ^ 16 := by simp [elem_eq_div, width]
  have high (x : Nat) : elem t x 1 = x / 2 ^ 16 % 2 ^ 16 := by simp [elem_eq_div, width]
  have range : List.range 2 = [0, 1] := rfl
  simp only [fdot2Lane, finput_of_unflushed (.inl rfl), range, List.map_cons, List.map_nil, low, high]
  rfl

end Sys2Proof.Machine
end

section
/-! PROOFS. Conversions of elements (04 R81, R82), and block quantisation (04 R85). -/

namespace Sys2Proof.Machine

/-! ### Kinds of types -/

theorem Ty.isInt_of_mem {t : Ty} (h : t ∈ allInt) : t.isInt = true := by revert t; decide

theorem Ty.not_isInt_of_isFloat {t : Ty} (h : t.isFloat = true) : t.isInt = false := by cases t <;> revert h <;> decide

theorem Ty.minInt_le_maxInt (t : Ty) : t.minInt ≤ t.maxInt := (intVal_bounds t 0).1.trans (intVal_bounds t 0).2

/-! ### Conversions -/

section
variable {f t : Ty} (rnd q x : Nat) (sat ftz : Bool)

theorem convertEl_int_int (sx : Int) (hf : f ∈ allInt) (ht : t ∈ allInt) :
    (convertEl f t sx rnd sat ftz q x).1 = fitInt sat t (intVal f x) := by
  simp [convertEl, Ty.isInt_of_mem hf, Ty.isInt_of_mem ht]

theorem convertEl_int_float (sx : Int) (hf : f ∈ allInt) (ht : t.isFloat = true) :
    convertEl f t sx rnd sat false q x = roundTo t rnd q sat ⟨intVal f x < 0, (intVal f x).natAbs, 1, 0⟩ := by
  simp [convertEl, Ty.isInt_of_mem hf, Ty.not_isInt_of_isFloat ht, flushOut]

theorem convertEl_float_int (sx : Int) (hf : f.isFloat = true) (ht : t ∈ allInt) :
    convertEl f t sx rnd sat false q x = fvTo t rnd sat false q (fval f x) := by
  simp only [convertEl, Ty.not_isInt_of_isFloat hf, Ty.isInt_of_mem ht, finput_of_unflushed (.inl rfl)]
  cases fval f x <;> simp

theorem convertEl_float_float (hf : f.isFloat = true) (ht : t.isFloat = true) :
    convertEl f t 0 rnd sat false q x = fvTo t rnd sat false q (fval f x) := by
  simp only [convertEl, Ty.not_isInt_of_isFloat hf, Ty.not_isInt_of_isFloat ht, finput_of_unflushed (.inl rfl)]
  cases fval f x <;> simp

/-! #### To integers -/

theorem fvTo_int_nan (ht : t ∈ allInt) : fvTo t rnd sat false q .nan = (0, fInvalid) := by simp [fvTo, Ty.isInt_of_mem ht]

theorem fvTo_int_inf (ht : t ∈ allInt) (s : Bool) : intVal t (fvTo t rnd sat false q (.inf s)).1 = (if s then t.minInt else t.maxInt) ∧
    (fvTo t rnd sat false q (.inf s)).2 = fInvalid := by
  have ordered := t.minInt_le_maxInt
  simp only [fvTo, Ty.isInt_of_mem ht, if_true, intVal_satInt, and_true]
  cases s
  · simp only [Bool.false_eq_true, if_false]; omega
  · simp only [if_true]; omega

theorem flagIf_inexact_and_invalid (inx : Bool) : flagIf inx fInexact &&& fInvalid = 0 := by revert inx; decide

/-- Of a whole number: saturated, and invalid when it is out of range. -/
theorem fvTo_int_fin (ht : t ∈ allInt) (s : Bool) (n : Nat) (e : Int) : let k := (roundInt rnd q s n e).1
    intVal t (fvTo t rnd sat false q (.fin s n e)).1 = max t.minInt (min t.maxInt k) ∧
      ((fvTo t rnd sat false q (.fin s n e)).2 &&& fInvalid = 0 ↔ t.minInt ≤ k ∧ k ≤ t.maxInt) := by
  intro k
  simp only [fvTo, Ty.isInt_of_mem ht, if_true]
  change intVal t (if (k < t.minInt || t.maxInt < k) = true then _ else _ : Nat × Flags).1 = _ ∧
    ((if (k < t.minInt || t.maxInt < k) = true then _ else _ : Nat × Flags).2 &&& _ = 0 ↔ _)
  split_ifs with out
  · refine ⟨intVal_satInt t k, iff_of_false (show ¬fInvalid &&& fInvalid = 0 by decide) ?_⟩
    simp only [Bool.or_eq_true, decide_eq_true_eq] at out
    omega
  · simp only [Bool.or_eq_true, decide_eq_true_eq, not_or, not_lt] at out
    refine ⟨?_, iff_of_true ?_ out⟩
    · change intVal t (wrapInt t k) = _
      rw [intVal_wrapInt out.1 out.2]
      omega
    · exact flagIf_inexact_and_invalid _

/-! #### To floating-point types -/

theorem fvTo_float_nan (ht : t.isFloat = true) : (fvTo t rnd sat false q .nan).1 = t.nanPat := by
  simp only [fvTo, Ty.not_isInt_of_isFloat ht]
  by_cases none : t.nanPat = 0 <;> simp [none]

theorem fvTo_float_inf (ht : t.isFloat = true) (s : Bool) : (fvTo t rnd sat false q (.inf s)).1 = infResult t sat s := by
  simp [fvTo, Ty.not_isInt_of_isFloat ht]

theorem fvTo_float_fin (ht : t.isFloat = true) (s : Bool) (n : Nat) (e : Int) :
    fvTo t rnd sat false q (.fin s n e) = roundTo t rnd q sat ⟨s, n, 1, e⟩ := by
  simp [fvTo, Ty.not_isInt_of_isFloat ht, flushOut]

theorem infTypes_inf {t : Ty} (ht : t ∈ [Ty.f32, .f16, .bf16, .e5m2]) : t.infPat.isSome = true := by revert t; decide

/-- The infinities of the types that have none (04 R81). -/
theorem fval_infResult_e2m1 (s : Bool) : (fval .e2m1 (infResult .e2m1 sat s)).rat = if s then -6 else 6 := by
  have value : fval .e2m1 (infResult .e2m1 sat s) = .fin s 3 1 := by revert sat s; decide
  rw [value, FV.rat_fin]
  cases s <;> norm_num

theorem fval_infResult_e4m3 (s : Bool) : (fval .e4m3 (infResult .e4m3 true s)).rat = if s then -448 else 448 := by
  have value : fval .e4m3 (infResult .e4m3 true s) = .fin s 14 5 := by revert s; decide
  rw [value, FV.rat_fin]
  cases s <;> norm_num

theorem fvTo_float_lt (ht : t.isFloat = true) (v : FV) : (fvTo t rnd sat ftz q v).1 < 2 ^ t.width := by
  rw [← Ty.two_mul_signPat ht]
  simp only [fvTo, Ty.not_isInt_of_isFloat ht, Bool.false_eq_true, if_false]
  cases v with
  | nan =>
    by_cases none : t.nanPat = 0
    · simp [none, Ty.signPat]
    · simpa [none] using t.nanPat_lt
  | inf s => exact infResult_lt t sat s
  | fin s n e => exact flushOut_lt ftz (roundTo_lt t rnd q sat _)

theorem fvTo_int_lt (ht : t ∈ allInt) (v : FV) : (fvTo t rnd sat ftz q v).1 < 2 ^ t.width := by
  simp only [fvTo, Ty.isInt_of_mem ht, if_true]
  cases v with
  | nan => exact Nat.two_pow_pos _
  | inf s => exact wrapInt_lt t _
  | fin s n e =>
    dsimp only
    split_ifs
    · exact wrapInt_lt t _
    · exact wrapInt_lt t _

/-- From a floating-point type to an integer type (04 R82). -/
theorem convertEl_to_int (sx : Int) (hf : f.isFloat = true) (ht : t ∈ allInt) :
    (fval f x = .nan → convertEl f t sx rnd sat false q x = (0, fInvalid)) ∧
    (∀ s, fval f x = .inf s → intVal t (convertEl f t sx rnd sat false q x).1 = (if s then t.minInt else t.maxInt) ∧
      (convertEl f t sx rnd sat false q x).2 = fInvalid) ∧
    ((fval f x).finite = true → ∃ k : Int, |(k : ℚ) - (fval f x).rat| < 1 ∧
      (rnd = 0 ∨ rnd = 4 → 2 * |(k : ℚ) - (fval f x).rat| ≤ 1) ∧ (rnd = 1 → |(k : ℚ)| ≤ |(fval f x).rat|) ∧
      (rnd = 2 → (fval f x).rat ≤ k) ∧ (rnd = 3 → (k : ℚ) ≤ (fval f x).rat) ∧
      (rnd = 0 → 2 * |(k : ℚ) - (fval f x).rat| = 1 → k % 2 = 0) ∧
      (rnd = 4 → 2 * |(k : ℚ) - (fval f x).rat| = 1 → |(fval f x).rat| ≤ |(k : ℚ)|) ∧
      intVal t (convertEl f t sx rnd sat false q x).1 = max t.minInt (min t.maxInt k) ∧
      ((convertEl f t sx rnd sat false q x).2 &&& fInvalid = 0 ↔ t.minInt ≤ k ∧ k ≤ t.maxInt)) := by
  rw [convertEl_float_int _ _ _ _ _ hf ht]
  refine ⟨fun nan => ?_, fun s inf => ?_, fun finite => ?_⟩
  · rw [nan, fvTo_int_nan _ _ _ ht]
  · rw [inf]
    exact fvTo_int_inf rnd q sat ht s
  · obtain ⟨s, n, e, h⟩ := FV.exists_of_finite finite
    have round := roundInt_isRounded rnd q s n e
    obtain ⟨value, invalid⟩ := fvTo_int_fin rnd q sat ht s n e
    rw [h]
    exact ⟨_, round.near, round.nearest, round.toZero, round.up, round.down, round.even, round.away, value, invalid⟩

/-- Between floating-point types (04 R81). -/
theorem convertEl_to_float (ht : t.isFloat = true) :
    (f.isFloat = true → (fval f x).finite = true →
      ∃ E : Exact, 0 < E.d ∧ E.rat = (fval f x).rat ∧ E.s = (fval f x).sign ∧ convertEl f t 0 rnd sat false q x = roundTo t rnd q sat E) ∧
    (f.isFloat = true → fval f x = .nan → (convertEl f t 0 rnd sat false q x).1 = t.nanPat) ∧
    (∀ s, f.isFloat = true → fval f x = .inf s →
      let y := (convertEl f t 0 rnd sat false q x).1
      (t ∈ [Ty.f32, .f16, .bf16, .e5m2] → fval t y = .inf s) ∧ (t = .e2m1 → (fval t y).rat = if s then -6 else 6) ∧
      (t = .e4m3 → if sat then (fval t y).rat = (if s then -448 else 448) else y = t.nanPat)) := by
  refine ⟨fun hf finite => ?_, fun hf nan => ?_, fun s hf inf => ?_⟩
  · obtain ⟨s, n, e, h⟩ := FV.exists_of_finite finite
    refine ⟨⟨s, n, 1, e⟩, one_pos, ?_, ?_, ?_⟩
    · rw [h, FV.rat_fin, Exact.rat_eq]
      simp
    · rw [h]; rfl
    · rw [convertEl_float_float _ _ _ _ hf ht, h, fvTo_float_fin _ _ _ ht]
  · rw [convertEl_float_float _ _ _ _ hf ht, nan, fvTo_float_nan _ _ _ ht]
  · rw [convertEl_float_float _ _ _ _ hf ht, inf, fvTo_float_inf _ _ _ ht]
    refine ⟨fun types => fval_infResult (infTypes_inf types) sat s, ?_, ?_⟩
    · rintro rfl
      exact fval_infResult_e2m1 sat s
    · rintro rfl
      cases sat
      · rfl
      · exact fval_infResult_e4m3 s

/-- A converted element has the width of its type. -/
theorem convertEl_lt (sx : Int) (ht : t.isFloat = true ∨ t ∈ allInt) : (convertEl f t sx rnd sat ftz q x).1 < 2 ^ t.width := by
  have fits (v : FV) : (fvTo t rnd sat ftz q v).1 < 2 ^ t.width := ht.elim (fvTo_float_lt rnd q sat ftz · v) (fvTo_int_lt rnd q sat ftz · v)
  by_cases int : f.isInt = true
  · simp only [convertEl, int, if_true]
    split_ifs with int'
    · exact fitInt_lt sat t _
    · rcases ht with ht | ht
      · exact Ty.two_mul_signPat ht ▸ flushOut_lt ftz (roundTo_lt t rnd q sat _)
      · exact absurd (Ty.isInt_of_mem ht) int'
  · simp only [convertEl, int, Bool.false_eq_true, if_false]
    exact fits _

end

/-! ### Block quantisation -/

/-- A finite value's part in the shared exponent: its own exponent less emax, within the range of the scale. -/
def blockTerm (emax : Int) (v : FV) : Int := if v.rat = 0 then -127 else max (-127) (min 127 (Int.log 2 |v.rat| - emax))

theorem neg_le_blockTerm (emax : Int) (v : FV) : -127 ≤ blockTerm emax v := by
  unfold blockTerm
  split_ifs <;> omega

theorem blockTerm_le {emax : Int} {v m : FV} (nonzero : m.rat ≠ 0) (le : |v.rat| ≤ |m.rat|) : blockTerm emax v ≤ blockTerm emax m := by
  by_cases zero : v.rat = 0
  · exact (if_pos zero).trans_le (neg_le_blockTerm emax m)
  · have := Int.log_mono_right (b := 2) (abs_pos.2 zero) le
    simp only [blockTerm, if_neg zero, if_neg nonzero]
    omega

/-- The shared exponent of the values so far and one more. -/
def blockStep (emax : Int) (r : Option Int) (v : FV) : Option Int :=
  match r, v with
  | some m, .fin _ n e => if n = 0 then some m else some (max m (max (-127) (min 127 (floorLog2 n 1 e - emax))))
  | _, _ => none

theorem blockExp_eq (emax : Int) (vs : List FV) : blockExp emax vs = vs.foldl (blockStep emax) (some (-127)) := rfl

theorem blockStep_fin {emax m : Int} {v : FV} (low : -127 ≤ m) (finite : v.finite = true) :
    blockStep emax (some m) v = some (max m (blockTerm emax v)) := by
  obtain ⟨s, n, e, rfl⟩ := FV.exists_of_finite finite
  simp only [blockStep, blockTerm, FV.rat_eq_zero_iff, FV.abs_rat_fin]
  split_ifs with zero
  · rw [max_eq_left low]
  · rw [floorLog2_eq_log (Nat.pos_of_ne_zero zero) one_pos, Nat.cast_one, div_one]

theorem foldl_blockStep_none (emax : Int) (vs : List FV) : vs.foldl (blockStep emax) none = none := by
  induction vs with
  | nil => rfl
  | cons v vs ih => exact ih

theorem foldl_blockStep_infinite (emax : Int) {vs : List FV} (h : ∃ v ∈ vs, v.finite = false) (r : Option Int) :
    vs.foldl (blockStep emax) r = none := by
  induction vs generalizing r with
  | nil => simp at h
  | cons v vs ih =>
    obtain ⟨w, member, infinite⟩ := h
    rcases List.mem_cons.1 member with rfl | later
    · have last : blockStep emax r w = none := by
        cases w with
        | fin => cases infinite
        | nan => cases r <;> rfl
        | inf => cases r <;> rfl
      rw [List.foldl_cons, last, foldl_blockStep_none]
    · exact ih ⟨w, later, infinite⟩ _

/-- The shared exponent is the greatest of the values' parts. -/
theorem foldl_blockStep_fin (emax : Int) {vs : List FV} (finite : ∀ v ∈ vs, v.finite = true) {m : Int} (low : -127 ≤ m) :
    ∃ X, vs.foldl (blockStep emax) (some m) = some X ∧ m ≤ X ∧ (∀ v ∈ vs, blockTerm emax v ≤ X) ∧
      ∀ b, m ≤ b → (∀ v ∈ vs, blockTerm emax v ≤ b) → X ≤ b := by
  induction vs generalizing m with
  | nil => exact ⟨m, rfl, le_rfl, nofun, fun b le _ => le⟩
  | cons v vs ih =>
    obtain ⟨X, eq, le, all, least⟩ := ih (fun w later => finite w (List.mem_cons_of_mem _ later)) (low.trans (le_max_left m (blockTerm emax v)))
    refine ⟨X, ?_, (le_max_left _ _).trans le, ?_, fun b hb hall => ?_⟩
    · rw [List.foldl_cons, blockStep_fin low (finite v (List.mem_cons_self ..)), eq]
    · rintro w member
      rcases List.mem_cons.1 member with rfl | later
      · exact (le_max_right _ _).trans le
      · exact all w later
    · exact least b (max_le hb (hall v (List.mem_cons_self ..))) fun w later => hall w (List.mem_cons_of_mem _ later)

theorem blockScale_infinite (emax : Int) {vs : List FV} (h : ∃ v ∈ vs, v.finite = false) : blockScale emax vs = 0xFF := by
  rw [blockScale, blockExp_eq, foldl_blockStep_infinite emax h]

theorem blockScale_zero (emax : Int) {vs : List FV} (h : ∀ v ∈ vs, v.finite = true ∧ v.rat = 0) : blockScale emax vs = 0 := by
  obtain ⟨X, eq, low, -, least⟩ := foldl_blockStep_fin emax (fun v member => (h v member).1) (le_refl (-127))
  have high := least (-127) le_rfl fun v member => (if_pos (h v member).2).le
  rw [blockScale, blockExp_eq, eq]
  simp only
  omega

theorem blockScale_greatest (emax : Int) {vs : List FV} {m : FV} (member : m ∈ vs)
    (greatest : ∀ v ∈ vs, v.finite = true ∧ |v.rat| ≤ |m.rat|) (nonzero : m.rat ≠ 0) :
    (blockScale emax vs : Int) = max (-127) (min 127 (Int.log 2 |m.rat| - emax)) + 127 := by
  obtain ⟨X, eq, low, all, least⟩ := foldl_blockStep_fin emax (fun v member => (greatest v member).1) (le_refl (-127))
  have high := least _ (neg_le_blockTerm emax m) fun v member => blockTerm_le nonzero (greatest v member).2
  have same : X = max (-127) (min 127 (Int.log 2 |m.rat| - emax)) := (high.antisymm (all m member)).trans (if_neg nonzero)
  rw [blockScale, blockExp_eq, eq]
  simp only
  omega

section
variable {e : Ty} (rnd q : Nat) {x : Nat}

theorem quantEl_fin (hx : x < 0xFF) {v : FV} (finite : v.finite = true) : ∃ E : Exact, 0 < E.d ∧
    E.rat = v.rat * (2 : ℚ) ^ (127 - (x : Int)) ∧ E.s = v.sign ∧ quantEl e x rnd q v = roundTo e rnd q true E := by
  obtain ⟨s, n, k, rfl⟩ := FV.exists_of_finite finite
  refine ⟨⟨s, n, 1, k + 127 - x⟩, one_pos, ?_, rfl, if_neg hx.ne⟩
  rw [Exact.rat_eq, FV.rat_fin, add_sub_assoc, zpow_add₀ two_ne_zero]
  simp only [Nat.cast_one, div_one]
  ring

theorem quantEl_inf (hx : x < 0xFF) (he : e = .e4m3 ∨ e = .e2m1) (s : Bool) :
    (quantEl e x rnd q (.inf s)).1 = (if s then e.signPat else 0) + e.maxPat := by
  have value : infResult e true s = (if s then e.signPat else 0) + e.maxPat := by
    rcases he with rfl | rfl <;> revert s <;> decide
  rw [quantEl, if_neg hx.ne, ← value]

theorem quantEl_nan (hx : x < 0xFF) (he : e = .e4m3 ∨ e = .e2m1) :
    (quantEl e x rnd q .nan).1 = if e = .e4m3 then 0x7F else 0 := by
  rw [quantEl, if_neg hx.ne]
  rcases he with rfl | rfl <;> rfl

theorem quantEl_lt (x : Nat) (he : e.isFloat = true) (v : FV) : (quantEl e x rnd q v).1 < 2 ^ e.width := by
  unfold quantEl
  split_ifs
  · exact Nat.two_pow_pos _
  · rw [← Ty.two_mul_signPat he]
    cases v with
    | nan => exact e.nanPat_lt
    | inf s => exact infResult_lt e true s
    | fin s n k => exact roundTo_lt e rnd q true _

end

end Sys2Proof.Machine
end

section
/-! PROOFS. Unpacking, packing and block quantisation in the lanes (05 R118 to R121), and the statement on dot products and
conversions. -/

namespace Sys2Proof.Machine

/-! ### unpk -/

theorem unpkEff_group (f : Ty) (k : Nat) (d a : BitVec 8) (c : Iss) : (unpkEff f k d a c).1 =
    c.g.drawnLanes (cvtRounds f (mdType c.md)) c.md d c.act 1 (mdType c.md) fun l =>
      (convertEl f (mdType c.md) 0 (mdRnd c.md) (mdSat c.md) (mdFtz c.md)
        (((c.g.drawCvt (cvtRounds f (mdType c.md)) c.md c.act 1).1 l).headD 0) (elem f (c.g.vlane a l).toNat k)).1 := rfl

theorem unpkEff_lanes (f : Ty) (k : Nat) (d a : BitVec 8) (c : Iss) (l : Fin 16) (ht : mdType c.md ∈ [Ty.s32, .n32, .f32]) :
    let h := (unpkEff f k d a c).1
    let q := if cvtRounds f (mdType c.md) = true ∧ mdRnd c.md = 5 then ((c.g.rng[l].draws 1).1).headD 0 else 0
    (lane c.act l = true → (h.vlane d l).toNat = (convertEl f (mdType c.md) 0 (mdRnd c.md) (mdSat c.md) (mdFtz c.md) q
      (elem f (c.g.vlane a l).toNat k)).1 % 2 ^ 32) ∧
    (lane c.act l = false → h.vlane d l = c.g.vlane d l) ∧
    (∀ r, r ≠ d → h.vreg r = c.g.vreg r) ∧ { h.regs with v := c.g.v, rng := c.g.rng } = c.g.regs := by
  have narrow : mdType c.md ≠ .s64 := by
    intro s64
    rw [s64] at ht
    revert ht
    decide
  intro h q
  simp only [h, unpkEff_group]
  refine ⟨fun active => ?_, fun inactive => ?_, fun r ne => Group.drawnLanes_vreg_of_ne ne fun s64 => absurd s64 narrow, Group.drawnLanes_regs⟩
  · rw [Group.drawnLanes_vlane narrow, if_pos active, BitVec.toNat_ofNat, Group.drawCvt_words _ _ _ _ _ _ active, headD_ite]
  · rw [Group.drawnLanes_vlane narrow, inactive, if_neg (by decide)]

/-! ### pack2 -/

/-- Two elements of 16 bits in a word. -/
theorem elem_halves {t : Ty} (width : t.width = 16) {x y : Nat} (hx : x < 2 ^ t.width) (hy : y < 2 ^ t.width) :
    elem t (BitVec.ofNat 32 (x + 2 ^ 16 * y)).toNat 0 = x ∧ elem t (BitVec.ofNat 32 (x + 2 ^ 16 * y)).toNat 1 = y := by
  simp only [elem_eq_div, width, BitVec.toNat_ofNat, Nat.mul_zero, Nat.mul_one, pow_zero, Nat.div_one] at *
  omega

/-- Two elements of 8 bits above the upper half of a word. -/
theorem elem_bytes {t : Ty} (width : t.width = 8) {d x y : Nat} (hd : d < 2 ^ 32) (hx : x < 2 ^ t.width) (hy : y < 2 ^ t.width) :
    let z := (BitVec.ofNat 32 (d >>> 16 + 2 ^ 16 * x + 2 ^ 24 * y)).toNat
    elem t z 2 = x ∧ elem t z 3 = y ∧ ∀ i, i < 2 → elem t z i = elem t d (i + 2) := by
  simp only [elem_eq_div, width, BitVec.toNat_ofNat, Nat.shiftRight_eq_div_pow] at *
  refine ⟨by omega, by omega, fun i hi => ?_⟩
  have two : i = 0 ∨ i = 1 := by omega
  rcases two with rfl | rfl
  · simp only [Nat.mul_zero, pow_zero, Nat.div_one]; omega
  · omega

/-- The types of pack2 (05 R120). -/
def packTypes : List Ty := [.f16, .bf16, .e4m3, .e5m2, .s16, .n16, .s8, .n8]

theorem packTypes_kind {t : Ty} (ht : t ∈ packTypes) : t.isFloat = true ∨ t ∈ allInt := by revert t; decide

theorem packEff_group (d a b : BitVec 8) (c : Iss) : (packEff d a b c).1 =
    c.g.drawnLanes (mdType c.md).isFloat c.md d c.act 2 .n32 fun l =>
      (packLane (mdType c.md) c.md ((c.g.drawCvt (mdType c.md).isFloat c.md c.act 2).1 l) (c.g.vlane a l).toNat (c.g.vlane b l).toNat
        (c.g.vlane d l).toNat).1 := rfl

theorem packEff_lanes (d a b : BitVec 8) (c : Iss) (l : Fin 16) (ht : mdType c.md ∈ packTypes) :
    let t := mdType c.md
    let h := (packEff d a b c).1
    let src := if t.isFloat then Ty.f32 else .s32
    let qs := if t.isFloat = true ∧ mdRnd c.md = 5 then (c.g.rng[l].draws 2).1 else []
    let x := (convertEl src t 0 (mdRnd c.md) (mdSat c.md) (mdFtz c.md) (qs.getD 0 0) (c.g.vlane a l).toNat).1
    let y := (convertEl src t 0 (mdRnd c.md) (mdSat c.md) (mdFtz c.md) (qs.getD 1 0) (c.g.vlane b l).toNat).1
    (lane c.act l = true → t.width = 16 → elem t (h.vlane d l).toNat 0 = x ∧ elem t (h.vlane d l).toNat 1 = y) ∧
    (lane c.act l = true → t.width = 8 → elem t (h.vlane d l).toNat 2 = x ∧ elem t (h.vlane d l).toNat 3 = y ∧
      ∀ i, i < 2 → elem t (h.vlane d l).toNat i = elem t (c.g.vlane d l).toNat (i + 2)) ∧
    (lane c.act l = false → h.vlane d l = c.g.vlane d l) ∧
    (∀ r, r ≠ d → h.vreg r = c.g.vreg r) ∧ { h.regs with v := c.g.v, rng := c.g.rng } = c.g.regs := by
  intro t h src qs x y
  have narrow : Ty.n32 ≠ .s64 := by decide
  have hx : x < 2 ^ t.width := convertEl_lt _ _ _ _ _ _ (packTypes_kind ht)
  have hy : y < 2 ^ t.width := convertEl_lt _ _ _ _ _ _ (packTypes_kind ht)
  have value (active : lane c.act l = true) : h.vlane d l = BitVec.ofNat 32
      (if t.width = 16 then x + 2 ^ 16 * y else (c.g.vlane d l).toNat >>> 16 + 2 ^ 16 * x + 2 ^ 24 * y) := by
    simp only [h, packEff_group]
    rw [Group.drawnLanes_vlane narrow, if_pos active, Group.drawCvt_words _ _ _ _ _ _ active]
    rfl
  refine ⟨fun active width => ?_, fun active width => ?_, fun inactive => ?_, fun r ne => ?_, ?_⟩
  · rw [value active, if_pos width]
    exact elem_halves width hx hy
  · rw [value active, if_neg (by omega)]
    exact elem_bytes width (c.g.vlane d l).isLt hx hy
  · simp only [h, packEff_group]
    rw [Group.drawnLanes_vlane narrow, inactive, if_neg (by decide)]
  · exact Group.drawnLanes_vreg_of_ne ne fun s64 => absurd s64 narrow
  · exact Group.drawnLanes_regs

/-! ### mxscl and mxq -/

theorem lane_all (l : Fin 16) : lane 0xFFFF l = true := by revert l; decide

theorem mxsclEff_of_all (d : BitVec 6) (a : BitVec 8) {c : Iss} (all : c.act = 0xFFFF) : mxsclEff d a c = .ok (c.g.setS d (BitVec.ofNat 32
    (blockScale (blockEmax (mdType c.md)) ((List.range 32).map fun i => (blockIn a c i).1)))) := if_neg (not_not.2 all)

theorem packElems_zero (t : Ty) {l : List Nat} (h : ∀ x ∈ l, x = 0) : packElems t l = 0 := by
  induction l with
  | nil => rfl
  | cons x l ih =>
    rw [packElems, h x (List.mem_cons_self ..), ih fun y later => h y (List.mem_cons_of_mem _ later), Nat.zero_mod, Nat.mul_zero]

/-- The lanes of a packed block hold its elements in order (05 R121). -/
theorem elem_mxqLane (t : Ty) (es : List Nat) (l : Nat) {j : Nat} (hj : j < 32 / (blockElem t).width) :
    elem (blockElem t) (mxqLane t es l) j = es.getD (32 / (blockElem t).width * l + j) 0 % 2 ^ (blockElem t).width := by
  rw [mxqLane, elem_packElems _ (by simpa using hj)]
  simp

theorem mxqLane_lt (t : Ty) (es : List Nat) (l : Nat) : mxqLane t es l < 2 ^ 32 := by
  have h := packElems_lt (blockElem t) ((List.range (32 / (blockElem t).width)).map fun j => es.getD (32 / (blockElem t).width * l + j) 0)
  rw [List.length_map, List.length_range] at h
  exact h.trans_le (Nat.pow_le_pow_right two_pos (Nat.mul_div_le 32 _))

theorem mxqLane_beyond (t : Ty) {es : List Nat} {l : Nat} (h : es.length ≤ 32 / (blockElem t).width * l) : mxqLane t es l = 0 := by
  refine packElems_zero _ fun x member => ?_
  obtain ⟨j, -, rfl⟩ := List.mem_map.1 member
  exact List.getD_eq_default _ _ (by omega)

theorem blockElem_spec (t : Ty) : (blockElem t).isFloat = true ∧
    ((blockElem t).width = 8 ∨ (blockElem t).width = 4) := by
  unfold blockElem
  split_ifs <;> decide

/-- The elements of a quantised block. -/
def mxqElems (a : BitVec 8) (b : BitVec 6) (c : Iss) : List Nat :=
  ((List.range 32).map (mxqEl a ((c.g.sreg b).toNat % 256) c (c.g.drawIf c.md c.act 2).1)).map (·.1)

theorem mxqGroup_fst (d a : BitVec 8) (b : BitVec 6) (c : Iss) : (mxqGroup d a b c).1 =
    c.g.drawnLanes true c.md d c.act 2 .n32 fun l => mxqLane (mdType c.md) (mxqElems a b c) l.val := rfl

theorem mxqElems_getD (a : BitVec 8) (b : BitVec 6) {c : Iss} (all : c.act = 0xFFFF) {i : Nat} (hi : i < 32) :
    let q := if mdRnd c.md = 5 then ((c.g.rng[(Fin.ofNat 16 i : Fin 16)].draws 2).1).getD (i / 16) 0 else 0
    (mxqElems a b c).getD i 0 = (quantEl (blockElem (mdType c.md)) ((c.g.sreg b).toNat % 256) (mdRnd c.md) q
      (finput (mdFtz c.md) .f32 (c.g.vget (a.toNat + i / 16) (Fin.ofNat 16 i)).toNat).1).1 := by
  intro q
  have active : lane c.act (Fin.ofNat 16 i) = true := all ▸ lane_all _
  have words : ((c.g.drawIf c.md c.act 2).1 (Fin.ofNat 16 i)).getD (i / 16) 0 = q := by
    rw [Group.drawIf_eq, Group.drawCvt_words _ _ _ _ _ _ active, getD_ite]
    simp only [q, true_and]
  rw [List.getD_eq_getElem _ _ (by simpa [mxqElems] using hi)]
  simp only [mxqElems, List.getElem_map, List.getElem_range, mxqEl, words]
  rfl

theorem mxqGroup_lanes (d a : BitVec 8) (b : BitVec 6) (c : Iss) (i : Nat) (all : c.act = 0xFFFF) (hi : i < 32) :
    let e := blockElem (mdType c.md)
    let n := 32 / e.width
    let h := (mxqGroup d a b c).1
    let j : Fin 16 := Fin.ofNat 16 i
    let q := if mdRnd c.md = 5 then ((c.g.rng[j].draws 2).1).getD (i / 16) 0 else 0
    elem e (h.vlane d (Fin.ofNat 16 (i / n))).toNat (i % n) = (quantEl e ((c.g.sreg b).toNat % 256) (mdRnd c.md) q
      (finput (mdFtz c.md) .f32 (c.g.vget (a.toNat + i / 16) j).toNat).1).1 ∧
    (∀ l : Fin 16, 32 / n ≤ l.val → h.vlane d l = 0) ∧
    (∀ r, r ≠ d → h.vreg r = c.g.vreg r) ∧ { h.regs with v := c.g.v, rng := c.g.rng } = c.g.regs := by
  intro e n h j q
  have narrow : Ty.n32 ≠ .s64 := by decide
  have group : h = _ := mxqGroup_fst d a b c
  obtain ⟨float, width⟩ := blockElem_spec (mdType c.md)
  have count : n = 4 ∨ n = 8 := width.imp (fun w => by simp [n, e, w]) fun w => by simp [n, e, w]
  have value (l : Fin 16) : h.vlane d l = BitVec.ofNat 32 (mxqLane (mdType c.md) (mxqElems a b c) l.val) := by
    rw [group, Group.drawnLanes_vlane narrow, if_pos (all ▸ lane_all l)]
  refine ⟨?_, fun l beyond => ?_, fun r ne => ?_, ?_⟩
  · have place : n * ((Fin.ofNat 16 (i / n) : Fin 16) : Nat) + i % n = i := by
      have small : i / n < 16 := by rcases count with c | c <;> rw [c] <;> omega
      rw [Fin.val_ofNat, Nat.mod_eq_of_lt small, Nat.div_add_mod]
    have inside : i % n < n := Nat.mod_lt _ (by omega)
    rw [value, BitVec.toNat_ofNat, Nat.mod_eq_of_lt (mxqLane_lt _ _ _), elem_mxqLane _ _ _ inside]
    change (mxqElems a b c).getD (n * _ + _) 0 % _ = _
    rw [place, mxqElems_getD a b all hi, Nat.mod_eq_of_lt (quantEl_lt _ _ _ float _)]
  · rw [value, mxqLane_beyond]
    · rfl
    · rw [mxqElems, List.length_map, List.length_map, List.length_range]
      change 32 ≤ n * l.val
      rcases count with c | c <;> rw [c] at beyond ⊢ <;> omega
  · rw [group, Group.drawnLanes_vreg_of_ne ne fun s64 => absurd s64 narrow]
  · rw [group]
    exact Group.drawnLanes_regs

/-- Settles O35: dot products and matrix steps by `dot4Lane_eq` and the lemmas on `prodExact`, conversions by those on `fvTo`, packing by
`unpkEff_lanes` and `packEff_lanes`, and blocks by those on `blockScale`, `quantEl` and `mxqGroup`. -/
theorem dotAndConvert : Obligations.DotAndConvert := by
  refine ⟨fun t a b d ht => dot4Lane_eq ht a b d, fun acc ab accFinite finite => ?_, fun acc ab => ⟨fun h => ?_, fun s finite inf E den rat fits => ?_, ?_⟩,
    fun e x pat => ⟨fun top => if_pos top, blockVal_fin⟩, fun t a b d ht => fdot2Lane_fst ht a b d, fun f t sx rnd q x ftz hf ht => ⟨?_, ?_⟩,
    fun f t sx rnd q x sat hf ht => ?_, fun f t rnd q x sat ht => ?_, unpkEff_lanes, packEff_lanes,
    fun emax vs => ⟨blockScale_infinite emax, blockScale_zero emax, fun m => blockScale_greatest emax⟩,
    fun e x rnd q v he => ⟨fun top => ?_, fun hx => ⟨?_, ?_, quantEl_fin rnd q hx⟩⟩, fun d a c all => ?_, ?_⟩
  -- matrix steps
  · exact ⟨prodExact ab, one_pos, prodExact_rat finite, prodExact_sign finite, matrixStep_rounds_sum finite accFinite,
      fun s => matrixStep_sum_inf finite accFinite⟩
  · refine matrixStep_nan (h.symm.imp_left fun undefined => foldl_add_nan ab (.inr ?_))
    exact undefined
  · exact matrixStep_acc_inf finite inf (prodExact_finite finite den rat fits)
  · intro s x inf ne ne' nonzero nonzero'
    have opposite : (!(x.1.sign != x.2.sign)) = (x.1.sign == x.2.sign) := Bool.not_not _
    rw [matrixStep_single_inf acc (fvMul_inf_of_defined inf ne ne' nonzero nonzero'), opposite]
  -- conversions
  · rw [convertEl_int_int _ _ _ _ _ _ hf ht, intVal_fitInt_sat]
  · rw [convertEl_int_int _ _ _ _ _ _ hf ht]
    rfl
  · exact convertEl_to_int rnd q x sat sx hf ht
  · exact ⟨fun hf => ⟨_, one_pos, intExact_rat (intVal f x), convertEl_int_float rnd q x sat 0 hf ht⟩, convertEl_to_float rnd q x sat ht⟩
  -- block quantisation
  · rw [top]; rfl
  · rintro rfl
    exact quantEl_nan rnd q hx he
  · rintro s rfl
    exact quantEl_inf rnd q hx he s
  · refine ⟨_, mxsclEff_of_all d a all, ?_, fun r ne => ?_, rfl⟩
    · rw [Group.sreg_setS, if_pos rfl]
      rfl
    · rw [Group.sreg_setS, if_neg ne]
  · exact fun d a b c i _ all hi => mxqGroup_lanes d a b c i all hi

end Sys2Proof.Machine
end

section
/-! PROOFS. Scalar, address and predicate registers written, and lanes of a vector or of a predicate written under a mask (05 R97): what
they read as and what the write leaves. -/

namespace Sys2Proof.Machine

theorem Group.areg_setA (g : Group) (d r : BitVec 4) (x : DWord) : (g.setA d x).areg r = if r = d then x else g.areg r := by
  simp [Group.areg, Group.setA, Vector.getElem_set, BitVec.toNat_inj, eq_comm]

theorem Group.pred_setP (g : Group) (d r : BitVec 3) (x : Mask) : (g.setP d x).pred r = if r = d then x else g.pred r := by
  simp [Group.pred, Group.setP, Vector.getElem_set, BitVec.toNat_inj, eq_comm]

theorem lane_or (m n : Mask) (l : Fin 16) : lane (m ||| n) l = (lane m l || lane n l) := BitVec.getLsbD_or

theorem Group.lane_setPLanes (g : Group) (d : BitVec 3) (m x : Mask) (l : Fin 16) :
    lane ((g.setPLanes d m x).pred d) l = if lane m l then lane x l else lane (g.pred d) l := by
  rw [Group.setPLanes, Group.pred_setP, if_pos rfl, lane_or, lane_and, lane_and, lane_not]
  cases lane m l <;> simp

theorem Group.pred_setPLanes_of_ne (g : Group) {d r : BitVec 3} (m x : Mask) (h : r ≠ d) : (g.setPLanes d m x).pred r = g.pred r := by
  rw [Group.setPLanes, Group.pred_setP, if_neg h]

theorem Group.setV_regs (g : Group) (d : BitVec 8) (m : Mask) (f : Fin 16 → Word) : { (g.setV d m f).regs with v := g.v } = g.regs := rfl

theorem Group.setPLanes_regs (g : Group) (d : BitVec 3) (m x : Mask) : { (g.setPLanes d m x).regs with p := g.p } = g.regs := rfl

/-- The group h has, of its vectors, the lanes f of d under the mask m, and all else as in g (05 R97). -/
structure Group.WritesLanes (g h : Group) (d : BitVec 8) (m : Mask) (f : Fin 16 → Word) : Prop where
  active : ∀ l, lane m l = true → h.vlane d l = f l
  inactive : ∀ l, lane m l = false → h.vlane d l = g.vlane d l
  others : ∀ r, r ≠ d → h.vreg r = g.vreg r
  regs : { h.regs with v := g.v } = g.regs

theorem Group.writesLanes_setV (g : Group) (d : BitVec 8) (m : Mask) (f : Fin 16 → Word) : g.WritesLanes (g.setV d m f) d m f where
  active l h := by rw [Group.vlane_setV, if_pos h]
  inactive l h := by rw [Group.vlane_setV, h, if_neg (by decide)]
  others r h := g.vreg_setV_of_ne d m f h
  regs := g.setV_regs d m f

/-! ### What depends on the registers alone -/

theorem Group.setVPoison_regs (g : Group) (d : BitVec 8) (m : Mask) (f : Fin 16 → Bool) : (g.setVPoison d m f).regs = g.regs := by
  unfold Group.setVPoison
  split <;> rfl

theorem Group.setSPoison_regs (g : Group) (d : BitVec 6) (p : Bool) : (g.setSPoison d p).regs = g.regs := by
  unfold Group.setSPoison
  split <;> rfl

theorem Group.vreg_of_regs {g h : Group} (e : g.regs = h.regs) (r : BitVec 8) : g.vreg r = h.vreg r := by
  have v : g.v = h.v := congrArg Regs.v e
  simp only [Group.vreg, v]

theorem Group.sreg_of_regs {g h : Group} (e : g.regs = h.regs) (r : BitVec 6) : g.sreg r = h.sreg r := by
  have s : g.s = h.s := congrArg Regs.s e
  simp only [Group.sreg, s]

/-- A change of what is no register leaves the lanes written. -/
theorem Group.WritesLanes.of_regs {g h k : Group} {d : BitVec 8} {m : Mask} {f : Fin 16 → Word} (w : g.WritesLanes h d m f)
    (e : k.regs = h.regs) : g.WritesLanes k d m f where
  active l on := by rw [Group.vlane, Group.vreg_of_regs e]; exact w.active l on
  inactive l off := by rw [Group.vlane, Group.vreg_of_regs e]; exact w.inactive l off
  others r ne := (Group.vreg_of_regs e r).trans (w.others r ne)
  regs := by rw [e]; exact w.regs

end Sys2Proof.Machine
end

section
/-! PROOFS. The integer instructions on 32-bit lanes (05 R105 to R109): bitwise operations, carries, selection, bit fields and compares. -/

namespace Sys2Proof.Machine

theorem lane32Eff_writesLanes (f : Word → Word → Word) (d a : BitVec 8) (b : BOp) (c : Iss) :
    c.g.WritesLanes (lane32Eff f d a b c) d c.act fun l => f (c.g.vlane a l) (b.lane32 c.g l) := c.g.writesLanes_setV d c.act _

/-- Settles O14: the effect writes `bitLane` in the active lanes, and `bitLane` is the table of R105. -/
theorem bitwiseLanes : Obligations.BitwiseLanes := by
  intro op d a b c l
  obtain ⟨active, inactive, others, regs⟩ := lane32Eff_writesLanes (bitLane op) d a b c
  refine ⟨fun h => (active l h).trans ?_, inactive l, others, regs⟩
  cases op <;> rfl

/-- Settles O16: the effect writes the live lanes, whatever the guard. -/
theorem selLanes : Obligations.SelLanes := by
  intro d a b c l
  obtain ⟨active, inactive, others, regs⟩ : c.g.WritesLanes (selEff d a b c) d c.live _ := c.g.writesLanes_setV d c.live _
  refine ⟨fun h => (active l h).trans ?_, inactive l, others, regs⟩
  simp only [bne_iff_ne]

/-! ### Carries (05 R106) -/

/-- The carry out. -/
theorem carryLane_add (a b : Word) (k : Bool) : (carryLane false a b k).testBit 32 = decide (2 ^ 32 ≤ a.toNat + b.toNat + if k then 1 else 0) := by
  have ha := a.isLt
  have hb := b.isLt
  have hk : (if k then 1 else 0) ≤ 1 := by cases k <;> decide
  rw [Nat.testBit_eq_decide_div_mod_eq, decide_eq_decide]
  simp only [carryLane, Bool.false_eq_true, if_false]
  omega

/-- The borrow and the difference. -/
theorem carryLane_sub (a b : Word) (k : Bool) : (carryLane true a b k).testBit 63 = decide (a.toNat < b.toNat + if k then 1 else 0) ∧
    BitVec.ofNat 32 (carryLane true a b k) = a - b - BitVec.ofNat 32 (if k then 1 else 0) := by
  have ha := a.isLt
  have hb := b.isLt
  have hk : (if k then 1 else 0) ≤ 1 := by cases k <;> decide
  simp only [carryLane, if_true]
  constructor
  · rw [Nat.testBit_eq_decide_div_mod_eq, decide_eq_decide]
    omega
  · apply BitVec.eq_of_toNat_eq
    simp only [BitVec.toNat_ofNat, BitVec.toNat_sub]
    omega

/-- What addc and subb write: the result in D and the carry or borrow in p7, in the active lanes. -/
theorem carryEff_lanes (sub : Bool) (d a : BitVec 8) (b : BOp) (c : Iss) (l : Fin 16) :
    let h := carryEff sub d a b c
    let x := carryLane sub (c.g.vlane a l) (b.lane32 c.g l) (lane (c.g.pred 7) l)
    (lane c.act l = true → h.vlane d l = BitVec.ofNat 32 x ∧ lane (h.pred 7) l = x.testBit (if sub then 63 else 32)) ∧
    (lane c.act l = false → h.vlane d l = c.g.vlane d l ∧ lane (h.pred 7) l = lane (c.g.pred 7) l) ∧
    (∀ r, r ≠ d → h.vreg r = c.g.vreg r) ∧ (∀ q, q ≠ 7 → h.pred q = c.g.pred q) ∧ { h.regs with v := c.g.v, p := c.g.p } = c.g.regs := by
  intro h x
  obtain ⟨active, inactive, others, -⟩ := c.g.writesLanes_setV d c.act fun l =>
    BitVec.ofNat 32 (carryLane sub (c.g.vlane a l) (b.lane32 c.g l) (lane (c.g.pred 7) l))
  have carry : lane (h.pred 7) l = if lane c.act l then x.testBit (if sub then 63 else 32) else lane (c.g.pred 7) l :=
    (Group.lane_setPLanes _ 7 c.act _ l).trans (by rw [lane_maskOf]; rfl)
  exact ⟨fun on => ⟨active l on, by rw [carry, if_pos on]⟩, fun off => ⟨inactive l off, by rw [carry, off, if_neg (by decide)]⟩,
    others, fun q ne => Group.pred_setPLanes_of_ne _ _ _ ne, rfl⟩

/-- Settles O15: `carryEff_lanes` places the results, `carryLane_add` and `carryLane_sub` say what they are. -/
theorem carryLanes : Obligations.CarryLanes := by
  intro d a b c l k x y add sub
  obtain ⟨addOn, addOff, addV, addP, addRegs⟩ := carryEff_lanes false d a b c l
  obtain ⟨subOn, subOff, subV, subP, subRegs⟩ := carryEff_lanes true d a b c l
  obtain ⟨borrow, difference⟩ := carryLane_sub x y (lane (c.g.pred 7) l)
  refine ⟨fun on => ⟨(addOn on).1, (addOn on).2.trans (carryLane_add x y _), (subOn on).1.trans difference, (subOn on).2.trans borrow⟩,
    fun off => ⟨(addOff off).1, (addOff off).2, (subOff off).1, (subOff off).2⟩, fun r ne => ⟨addV r ne, subV r ne⟩,
    fun q ne => ⟨addP q ne, subP q ne⟩, addRegs, subRegs⟩

/-! ### Bit fields (05 R107) -/

theorem fieldPos_eq (b : Word) : fieldPos b = (b.toNat % 32, min (b.toNat / 256 % 64) (32 - b.toNat % 32)) := by
  simp [fieldPos, bits, Nat.shiftRight_eq_div_pow]

/-- A bit of a field of len bits from pos on. -/
theorem testBit_field (a pos len k : Nat) : (a / 2 ^ pos % 2 ^ len).testBit k = (decide (k < len) && a.testBit (pos + k)) := by
  rw [Nat.testBit_mod_two_pow, Nat.testBit_div_two_pow, Nat.add_comm]

/-- Ones above a field of len bits, up to bit 31. -/
theorem testBit_onesAbove {len f k : Nat} (le : len ≤ 32) (hf : f < 2 ^ len) (hk : k < 32) :
    (2 ^ 32 - 2 ^ len + f).testBit k = (decide (len ≤ k) || f.testBit k) := by
  have split : 2 ^ 32 - 2 ^ len + f = 2 ^ len * (2 ^ (32 - len) - 1) + f := by
    rw [Nat.mul_sub, ← pow_add, Nat.add_sub_cancel' le, Nat.mul_one]
  rw [split, Nat.testBit_two_pow_mul_add _ hf]
  split_ifs with low
  · simp [Nat.not_le.2 low]
  · rw [Nat.testBit_two_pow_sub_one, decide_eq_true (by omega), decide_eq_true (by omega), Bool.true_or]

theorem getLsbD_bfxLane (signed : Bool) (a : Word) {b : Word} {pos len k : Nat} (field : fieldPos b = (pos, len)) (fits : pos + len ≤ 32)
    (hk : k < 32) : (bfxLane signed a b).getLsbD k =
      if k < len then a.getLsbD (pos + k) else signed && decide (0 < len) && a.getLsbD (pos + len - 1) := by
  have le : len ≤ 32 := by omega
  have small : a.toNat / 2 ^ pos % 2 ^ len < 2 ^ len := Nat.mod_lt _ (Nat.two_pow_pos _)
  simp only [bfxLane, field]
  by_cases empty : len = 0
  · simp [empty]
  · have top : (a.toNat / 2 ^ pos % 2 ^ len).testBit (len - 1) = a.getLsbD (pos + len - 1) := by
      rw [testBit_field, decide_eq_true (by omega), Bool.true_and, Nat.add_sub_assoc (by omega), BitVec.testBit_toNat]
    rw [if_neg empty, top, decide_eq_true (Nat.pos_of_ne_zero empty), Bool.and_true]
    by_cases ones : (signed && a.getLsbD (pos + len - 1)) = true
    · rw [if_pos ones, BitVec.getLsbD_ofNat, testBit_onesAbove le small hk, testBit_field, BitVec.testBit_toNat]
      by_cases inside : k < len
      · simp [hk, inside, Nat.not_le.2 inside]
      · simp [hk, inside, Nat.not_lt.1 inside, ones]
    · rw [if_neg ones, BitVec.getLsbD_ofNat, testBit_field, BitVec.testBit_toNat]
      by_cases inside : k < len
      · simp [hk, inside]
      · simp [inside, Bool.eq_false_iff.2 ones]

/-- The bits of the mask of a field. -/
theorem testBit_fieldMask (pos len k : Nat) : ((2 ^ len - 1) * 2 ^ pos).testBit k = decide (pos ≤ k ∧ k < pos + len) := by
  rw [Nat.testBit_mul_two_pow, Nat.testBit_two_pow_sub_one, ← Bool.decide_and, decide_eq_decide]
  omega

theorem fieldMask_lt {pos len : Nat} (h : pos + len ≤ 32) : (2 ^ len - 1) * 2 ^ pos < 2 ^ 32 := by
  calc (2 ^ len - 1) * 2 ^ pos < 2 ^ len * 2 ^ pos := Nat.mul_lt_mul_of_pos_right (Nat.sub_lt (Nat.two_pow_pos _) one_pos) (Nat.two_pow_pos _)
    _ = 2 ^ (pos + len) := by rw [← pow_add, Nat.add_comm]
    _ ≤ 2 ^ 32 := Nat.pow_le_pow_right two_pos h

theorem getLsbD_bfiLane (d a : Word) {b : Word} {pos len k : Nat} (field : fieldPos b = (pos, len)) (fits : pos + len ≤ 32) (hk : k < 32) :
    (bfiLane d a b).getLsbD k = if pos ≤ k ∧ k < pos + len then a.getLsbD (k - pos) else d.getLsbD k := by
  have keep : (2 ^ 32 - 1 - (2 ^ len - 1) * 2 ^ pos).testBit k = !decide (pos ≤ k ∧ k < pos + len) := by
    rw [Nat.sub_sub, Nat.add_comm 1, Nat.testBit_two_pow_sub_succ (fieldMask_lt fits), testBit_fieldMask, decide_eq_true hk, Bool.true_and]
  simp only [bfiLane, field]
  rw [BitVec.getLsbD_ofNat, Nat.testBit_or, Nat.testBit_and, Nat.testBit_mul_two_pow, Nat.testBit_mod_two_pow, keep, BitVec.testBit_toNat,
    BitVec.testBit_toNat, decide_eq_true hk, Bool.true_and]
  by_cases inside : pos ≤ k ∧ k < pos + len
  · have offset : k - pos < len := by omega
    rw [decide_eq_true inside, decide_eq_true inside.1, decide_eq_true offset, if_pos inside]
    simp
  · have outside : (decide (pos ≤ k) && decide (k - pos < len)) = false := by
      rw [← Bool.decide_and, decide_eq_false_iff_not]
      omega
    rw [decide_eq_false inside, ← Bool.and_assoc, outside, if_neg inside]
    simp

/-- Settles O18: every bit of the results is `getLsbD_bfxLane` and `getLsbD_bfiLane`. -/
theorem bitFieldLanes : Obligations.BitFieldLanes := by
  intro signed d a b c l k hk y pos len x
  obtain ⟨bfxOn, bfxOff, bfxV, bfxRegs⟩ := lane32Eff_writesLanes (bfxLane signed) d a b c
  obtain ⟨bfiOn, bfiOff, bfiV, bfiRegs⟩ : c.g.WritesLanes (bfiEff d a b c) d c.act _ := c.g.writesLanes_setV d c.act _
  refine ⟨fun on => ⟨?_, ?_⟩, fun off => ⟨bfxOff l off, bfiOff l off⟩, fun r ne => ⟨bfxV r ne, bfiV r ne⟩, bfxRegs, bfiRegs⟩
  · rw [bfxOn l on]
    exact getLsbD_bfxLane signed x (fieldPos_eq _) (by omega) hk
  · rw [bfiOn l on]
    exact getLsbD_bfiLane _ x (fieldPos_eq _) (by omega) hk

/-! ### Compares (05 R109) -/

theorem intVal_s32 (x : Word) : intVal .s32 x.toNat = x.toInt := by
  have := x.isLt
  rw [intVal_of_lt this, BitVec.toInt_eq_msb_cond, BitVec.msb_eq_decide]
  simp [Ty.signed, Ty.width]

theorem intVal_n32 (x : Word) : intVal .n32 x.toNat = x.toNat := intVal_of_lt x.isLt

/-- The lanes of a compare under a type of 32 bits. -/
theorem intCmp_of_narrow (lt : Bool) (a : BitVec 8) (b : BOp) {c : Iss} (narrow : mdType c.md ≠ .s64) (l : Fin 16) :
    intCmp lt a b c l =
      (let x := intVal (mdType c.md) (c.g.vlane a l).toNat
       let y := intVal (mdType c.md) (b.lane32 c.g l).toNat
       if lt then decide (x < y) else x == y) := by
  rw [intCmp, Group.laneVal_eq_vlane _ _ _ narrow, BOp.laneVal_eq_lane32 _ _ narrow]

theorem intCmp_s32 (lt : Bool) (a : BitVec 8) (b : BOp) {c : Iss} (signed : mdType c.md = .s32) (l : Fin 16) :
    intCmp lt a b c l = if lt then (c.g.vlane a l).slt (b.lane32 c.g l) else c.g.vlane a l == b.lane32 c.g l := by
  rw [intCmp_of_narrow lt a b (by rw [signed]; decide), signed]
  simp only [intVal_s32, BitVec.slt, BEq.beq, BitVec.toInt_inj]

theorem intCmp_n32 (lt : Bool) (a : BitVec 8) (b : BOp) {c : Iss} (unsigned : mdType c.md = .n32) (l : Fin 16) :
    intCmp lt a b c l = if lt then (c.g.vlane a l).ult (b.lane32 c.g l) else c.g.vlane a l == b.lane32 c.g l := by
  rw [intCmp_of_narrow lt a b (by rw [unsigned]; decide), unsigned]
  simp only [intVal_n32, BitVec.ult, BEq.beq, Nat.cast_inj, Nat.cast_lt, BitVec.toNat_inj]

/-- The bits of a compare (05 R109, R114, R115). -/
theorem lane_cmpEff (d : BitVec 3) (f : Iss → Fin 16 → Bool) (c : Iss) (l : Fin 16) :
    lane ((cmpEff d f c).pred d) l = if lane c.act l then f c l else lane (c.g.pred d) l := by
  rw [cmpEff, Group.lane_setPLanes, lane_maskOf]

/-- Settles O19: a compare writes `intCmp` in the active lanes, which is the compare of words under s32 and n32. -/
theorem compareLanes : Obligations.CompareLanes := by
  intro lt d a b c l x y h
  have bit := lane_cmpEff d (intCmp lt a b) c l
  refine ⟨fun on signed => ?_, fun on unsigned => ?_, fun off => ?_, fun q ne => Group.pred_setPLanes_of_ne _ _ _ ne, rfl⟩
  · rw [bit, if_pos on, intCmp_s32 lt a b signed]
  · rw [bit, if_pos on, intCmp_n32 lt a b unsigned]
  · rw [bit, off, if_neg (by decide)]

/-! ### Completion -/

/-- Settles O38: `exec` issues each of the instructions with an effect on its group alone. -/
theorem integerInstructions : Obligations.IntegerInstructions := by
  unfold Obligations.IntegerInstructions
  and_intros
  all_goals intros; exact onGroup_of_exec fun _ => rfl

end Sys2Proof.Machine
end

section
/-! PROOFS. Lane exchanges, votes, reductions, lane reads and writes and the random state (05 R123 to R127, R132). -/

namespace Sys2Proof.Machine

/-! ### Exchanges (05 R124) -/

theorem exchEff_writesLanes (e : Exch) (d a : BitVec 8) (c : Iss) :
    c.g.WritesLanes (exchEff e d a c) d c.act fun l => c.g.vlane a (e.src c.g l) :=
  (c.g.writesLanes_setV d c.act _).of_regs (Group.setVPoison_regs _ _ _ _)

theorem Exch.src_up (k : Word) (g : Group) (l : Fin 16) :
    ((Exch.up k).src g l).val = if k.toNat ≤ l.val then l.val - k.toNat else l.val := by
  simp only [Exch.src]
  split
  · exact Nat.mod_eq_of_lt (by omega)
  · rfl

theorem Exch.src_dn (k : Word) (g : Group) (l : Fin 16) :
    ((Exch.dn k).src g l).val = if l.val + k.toNat ≤ 15 then l.val + k.toNat else l.val := by
  simp only [Exch.src]
  split
  · exact Nat.mod_eq_of_lt (by omega)
  · rfl

theorem Exch.src_xor (k : Word) (g : Group) (l : Fin 16) : ((Exch.xor k).src g l).val = l.val ^^^ (k.toNat % 16) :=
  Nat.mod_eq_of_lt (Nat.xor_lt_two_pow (n := 4) l.isLt (Nat.mod_lt _ (by decide)))

/-- Settles O21: the effect writes the lane that `Exch.src` names. -/
theorem exchangeLanes : Obligations.ExchangeLanes := by
  intro e d a c l h
  obtain ⟨active, inactive, others, regs⟩ := exchEff_writesLanes e d a c
  refine ⟨fun on => ⟨e.src c.g l, active l on, ?_⟩, inactive l, others, regs⟩
  cases e with
  | bcast k => rfl
  | idxReg b => rfl
  | idx k => rfl
  | up k => exact Exch.src_up k c.g l
  | dn k => exact Exch.src_dn k c.g l
  | xor k => exact Exch.src_xor k c.g l

/-! ### Without an active lane (05 R98) -/

theorem uniformEff_of_noLane (f : Iss → Group) {c : Iss} (noLane : c.act = 0) : uniformEff f c = c.g := if_pos noLane

theorem uniformEff_of_anyLane (f : Iss → Group) {c : Iss} (anyLane : c.act ≠ 0) : uniformEff f c = f c := if_neg anyLane

theorem laneList_zero : laneList 0 = [] := by decide

/-- An integer reduction: the draws, and the result in s[D]. -/
theorem lredEff_of_int (op : Red) (d : BitVec 6) (a : BitVec 8) {c : Iss} (int : mdType c.md ≠ .f32) :
    lredEff op d a c = (uniformEff (fun _ => (c.g.drawIf c.md c.act 1).2.setS d
      (BitVec.ofNat 32 (redInt op (mdType c.md) (mdSat c.md) ((laneList c.act).map fun l => (c.g.vlane a l).toNat)))) c, []) := if_neg int

theorem lredEff_of_noLane (op : Red) (d : BitVec 6) (a : BitVec 8) {c : Iss} (noLane : c.act = 0) : lredEff op d a c = (c.g, []) := by
  by_cases float : mdType c.md = .f32
  · simp only [lredEff, if_pos float, uniformEff_of_noLane _ noLane]
    simp only [redFlags, noLane, laneList_zero, List.zip_nil_left]
  · rw [lredEff_of_int op d a float, uniformEff_of_noLane _ noLane]

/-- Settles O22: a uniform effect and a reduction do nothing without an active lane. -/
theorem uniformWithoutLane : Obligations.UniformWithoutLane := by
  refine fun c noLane => ⟨fun f => uniformEff_of_noLane f noLane, fun op d a => ?_⟩
  rw [lredEff_of_noLane op d a noLane]
  exact ⟨rfl, rfl⟩

/-! ### Votes (05 R125) -/

theorem ne_zero_iff_exists_lane (m : Mask) : m ≠ 0 ↔ ∃ l : Fin 16, lane m l = true :=
  ⟨exists_lane_of_ne_zero, fun ⟨_, h⟩ => ne_zero_of_lane h⟩

theorem voteBit_any (p act : Mask) : voteBit false p act = true ↔ ∃ l : Fin 16, lane act l = true ∧ lane p l = true := by
  have value : voteBit false p act = true ↔ p &&& act ≠ 0 := bne_iff_ne
  simp only [value, ne_zero_iff_exists_lane, lane_and, Bool.and_eq_true, and_comm]

theorem voteBit_all (p act : Mask) : voteBit true p act = true ↔ ∀ l : Fin 16, lane act l = true → lane p l = true := by
  have value : voteBit true p act = true ↔ ¬act &&& ~~~p ≠ 0 := beq_iff_eq.trans not_not.symm
  simp only [value, ne_zero_iff_exists_lane, lane_and, lane_not, not_exists, Bool.and_eq_true, Bool.not_eq_true', not_and, Bool.not_eq_false]

theorem getLsbD_ballot (p act : Mask) (k : Nat) :
    ((p &&& act).setWidth 32).getLsbD k = (if h : k < 16 then lane p ⟨k, h⟩ && lane act ⟨k, h⟩ else false) := by
  rw [BitVec.getLsbD_setWidth, BitVec.getLsbD_and]
  split_ifs with h
  · simp [lane, show k < 32 by omega]
  · simp [BitVec.getLsbD_of_ge p k (by omega)]

/-! ### Integer reductions (05 R126) -/

theorem foldl_min_headD {vs : List Int} (ne : vs ≠ []) : vs.foldl min (vs.headD 0) ∈ vs ∧ ∀ v ∈ vs, vs.foldl min (vs.headD 0) ≤ v := by
  obtain ⟨x, xs, rfl⟩ := List.exists_cons_of_ne_nil ne
  refine List.min?_eq_some_iff.1 ?_
  rw [List.min?_cons', List.headD_cons, List.foldl_cons, min_self]

theorem foldl_max_headD {vs : List Int} (ne : vs ≠ []) : vs.foldl max (vs.headD 0) ∈ vs ∧ ∀ v ∈ vs, v ≤ vs.foldl max (vs.headD 0) := by
  obtain ⟨x, xs, rfl⟩ := List.exists_cons_of_ne_nil ne
  refine List.max?_eq_some_iff.1 ?_
  rw [List.max?_cons', List.headD_cons, List.foldl_cons, max_self]

section
variable (t : Ty) (sat : Bool) {xs : List Nat}

theorem redInt_add (xs : List Nat) : redInt .add t sat xs = fitInt sat t (xs.map (intVal t)).sum :=
  congrArg (fitInt sat t) List.sum_eq_foldl.symm

/-- A value of one of the inputs is that of its pattern. -/
theorem intVal_wrapInt_of_mem {v : Int} (h : v ∈ xs.map (intVal t)) : intVal t (wrapInt t v) = v := by
  obtain ⟨x, -, rfl⟩ := List.mem_map.1 h
  exact intVal_wrapInt (intVal_bounds t x).1 (intVal_bounds t x).2

theorem redInt_min (ne : xs ≠ []) : (∃ x ∈ xs, intVal t (redInt .min t sat xs) = intVal t x) ∧
    ∀ x ∈ xs, intVal t (redInt .min t sat xs) ≤ intVal t x := by
  obtain ⟨mem, least⟩ := foldl_min_headD (mt List.map_eq_nil_iff.1 ne : xs.map (intVal t) ≠ [])
  have value : intVal t (redInt .min t sat xs) = _ := intVal_wrapInt_of_mem t mem
  rw [value]
  obtain ⟨x, here, eq⟩ := List.mem_map.1 mem
  exact ⟨⟨x, here, eq.symm⟩, fun y there => least _ (List.mem_map_of_mem there)⟩

theorem redInt_max (ne : xs ≠ []) : (∃ x ∈ xs, intVal t (redInt .max t sat xs) = intVal t x) ∧
    ∀ x ∈ xs, intVal t x ≤ intVal t (redInt .max t sat xs) := by
  obtain ⟨mem, greatest⟩ := foldl_max_headD (mt List.map_eq_nil_iff.1 ne : xs.map (intVal t) ≠ [])
  have value : intVal t (redInt .max t sat xs) = _ := intVal_wrapInt_of_mem t mem
  rw [value]
  obtain ⟨x, here, eq⟩ := List.mem_map.1 mem
  exact ⟨⟨x, here, eq.symm⟩, fun y there => greatest _ (List.mem_map_of_mem there)⟩

end

/-! ### Sums of f32 values (05 R126) -/

/-- A sum and one more finite value. -/
def Dy.addFV (r : Dy) (v : FV) : Dy :=
  match v with
  | .fin s n e => r.add (dyOf s n e)
  | _ => r

theorem Dy.addFV_rat (r : Dy) {v : FV} (finite : v.finite = true) : (r.addFV v).rat = r.rat + v.rat := by
  obtain ⟨s, n, e, rfl⟩ := FV.exists_of_finite finite
  exact (r.add_rat _).trans (by rw [dyOf_rat])

theorem Dy.foldl_addFV_rat {vs : List FV} (finite : ∀ v ∈ vs, v.finite = true) (r : Dy) :
    (vs.foldl Dy.addFV r).rat = r.rat + (vs.map FV.rat).sum := by
  induction vs generalizing r with
  | nil => simp
  | cons v vs ih =>
    rw [List.foldl_cons, ih (fun v member => finite v (List.mem_cons_of_mem _ member)), r.addFV_rat (finite v (List.mem_cons_self ..)),
      List.map_cons, List.sum_cons, add_assoc]

theorem contains_eq_false {vs : List FV} (finite : ∀ v ∈ vs, v.finite = true) {w : FV} (infinite : w.finite = false) :
    vs.contains w = false := by
  rw [← Bool.not_eq_true, List.contains_iff_mem]
  intro member
  have := finite w member
  rw [infinite] at this
  cases this

theorem redSum_of_finite {vs : List FV} (finite : ∀ v ∈ vs, v.finite = true) :
    redSum vs = .num ((vs.foldl Dy.addFV ⟨0, 0⟩).exact (vs.all FV.sign)) := by
  have nan : vs.contains .nan = false := contains_eq_false finite rfl
  have inf (s : Bool) : vs.contains (.inf s) = false := contains_eq_false finite rfl
  simp only [redSum, nan, inf, Bool.and_self, Bool.false_eq_true, if_false]
  rfl

/-! ### Draws and lanes of a reduction -/

theorem Group.drawIf_rng (g : Group) (md : Word) (m : Mask) (n : Nat) (l : Fin 16) :
    (g.drawIf md m n).2.rng[l] = if lane m l && mdRnd md == 5 then (g.rng[l].draws n).2 else g.rng[l] := by
  unfold Group.drawIf Group.draw
  by_cases stochastic : mdRnd md = 5 <;> simp [stochastic]

theorem lredEff_int (op : Red) (d : BitVec 6) (a : BitVec 8) {c : Iss} (anyLane : c.act ≠ 0) (int : mdType c.md ≠ .f32) :
    let h := (lredEff op d a c).1
    h.sreg d = BitVec.ofNat 32 (redInt op (mdType c.md) (mdSat c.md) ((laneList c.act).map fun l => (c.g.vlane a l).toNat)) ∧
    (∀ r, r ≠ d → h.sreg r = c.g.sreg r) ∧ { h.regs with s := c.g.s, rng := c.g.rng } = c.g.regs ∧
    (∀ l : Fin 16, h.rng[l] = if lane c.act l && mdRnd c.md == 5 then c.g.rng[l].next else c.g.rng[l]) := by
  intro h
  have drawn := c.g.drawCvt_group c.act true c.md 1
  rw [← Group.drawIf_eq] at drawn
  simp only [h, lredEff_of_int op d a int, uniformEff_of_anyLane _ anyLane]
  refine ⟨?_, fun r ne => ?_, ?_, fun l => Group.drawIf_rng _ _ _ _ _⟩
  · rw [Group.sreg_setS, if_pos rfl]
  · rw [Group.sreg_setS, if_neg ne, drawn]
    rfl
  · rw [drawn]
    rfl

/-! ### rdln and wrln (05 R127) -/

theorem Fin.ofNat_eq_of_mod {j : Fin 16} {n : Nat} (h : j.val = n % 16) : Fin.ofNat 16 n = j := Fin.ext h.symm

theorem rdlnEff_values (d : BitVec 6) (a : BitVec 8) (o : SOp) {c : Iss} {j : Fin 16} (index : j.val = (o.val c.g).toNat % 16) :
    (rdlnEff d a o c).sreg d = c.g.vlane a j ∧ (∀ r, r ≠ d → (rdlnEff d a o c).sreg r = c.g.sreg r) ∧
    { (rdlnEff d a o c).regs with s := c.g.s } = c.g.regs := by
  have regs : (rdlnEff d a o c).regs = (c.g.setS d (c.g.vlane a j)).regs := by
    rw [← Fin.ofNat_eq_of_mod index]
    exact Group.setSPoison_regs _ _ _
  refine ⟨?_, fun r ne => ?_, by rw [regs]; rfl⟩
  · rw [Group.sreg_of_regs regs, Group.sreg_setS, if_pos rfl]
  · rw [Group.sreg_of_regs regs, Group.sreg_setS, if_neg ne]

theorem lane_single (j l : Fin 16) : lane (1#16 <<< j.val) l = decide (l = j) := by
  revert j l
  decide

theorem wrlnEff_writesLanes (d : BitVec 8) (a : BitVec 6) (o : SOp) (c : Iss) :
    c.g.WritesLanes (wrlnEff d a o c) d (c.act &&& (1#16 <<< (Fin.ofNat 16 (o.val c.g).toNat : Fin 16).val)) fun _ => c.g.sreg a :=
  (c.g.writesLanes_setV d _ _).of_regs (Group.setVPoison_regs _ _ _ _)

theorem lane_wrln (act : Mask) (n : Nat) (l : Fin 16) :
    lane (act &&& (1#16 <<< (Fin.ofNat 16 n : Fin 16).val)) l = decide (l.val = n % 16 ∧ lane act l = true) := by
  rw [lane_and, lane_single, Bool.and_comm, Bool.decide_and, Bool.decide_eq_true]
  exact congrArg (· && lane act l) (decide_eq_decide.2 Fin.ext_iff)

theorem wrlnEff_vlane (d : BitVec 8) (a : BitVec 6) (o : SOp) (c : Iss) (l : Fin 16) : (wrlnEff d a o c).vlane d l =
    if l.val = (o.val c.g).toNat % 16 ∧ lane c.act l = true then c.g.sreg a else c.g.vlane d l := by
  have write := wrlnEff_writesLanes d a o c
  have mask := lane_wrln c.act (o.val c.g).toNat l
  split_ifs with h
  · exact write.active l (mask.trans (decide_eq_true h))
  · exact write.inactive l (mask.trans (decide_eq_false h))

/-! ### The random state (05 R132) -/

theorem setWidth_two (x : Word) : (x.setWidth 2).setWidth 32 = x &&& 3 := by
  apply BitVec.eq_of_toNat_eq
  have small : x.toNat % 4 < 2 ^ 32 := by omega
  rw [BitVec.toNat_setWidth, BitVec.toNat_setWidth, BitVec.toNat_and]
  exact (Nat.mod_eq_of_lt small).trans (Nat.and_two_pow_sub_one_eq_mod _ 2).symm

theorem low_append (x y : Word) : (x ++ y : DWord).setWidth 32 = y := BitVec.setWidth_append_eq_right

theorem high_append (x y : Word) : (x ++ y : DWord).extractLsb' 32 32 = x :=
  (BitVec.extractLsb'_append_eq_of_le le_rfl).trans BitVec.extractLsb'_eq_self

theorem low_eq (x : DWord) : x.extractLsb' 0 32 = x.setWidth 32 := (BitVec.setWidth_eq_extractLsb' (by decide)).symm

theorem Rand.part_setPart (r : Rand) {n : Nat} (x : Word) (hn : n ≤ 6) : (r.setPart n x).part n = if n = 2 then x &&& 3 else x := by
  interval_cases n <;> simp [Rand.setPart, Rand.part, setWidth_two, high_append, low_append]

/-- A write of one half of a word keeps the other half; the other words stand in fields of their own. -/
theorem Rand.part_setPart_of_ne (r : Rand) {n m : Nat} (x : Word) (hn : n ≤ 6) (hm : m ≤ 6) (ne : m ≠ n) :
    (r.setPart n x).part m = r.part m := by
  interval_cases n <;> interval_cases m <;> simp [Rand.setPart, Rand.part, high_append, low_append, low_eq] at ne ⊢

theorem rngsEff_rng (n : Nat) (a : BitVec 8) (c : Iss) (l : Fin 16) :
    (rngsEff n a c).rng[l] = if lane c.act l then c.g.rng[l].setPart n (c.g.vlane a l) else c.g.rng[l] :=
  getElem_of_eq_ofFn rfl l

/-- Settles O36: votes, reductions, lane reads and writes and the random state, each said above. -/
theorem laneQueries : Obligations.LaneQueries := by
  refine ⟨fun p act => ⟨voteBit_any p act, voteBit_all p act, getLsbD_ballot p act⟩, fun t sat xs _ ne => ?_, fun vs finite => ?_,
    fun op d a c anyLane int => lredEff_int op d a anyLane int, fun d a o c j index => rdlnEff_values d a o index, fun d a o c l => ?_,
    fun r n m x hn hm => ⟨r.part_setPart x hn, r.part_setPart_of_ne x hn hm⟩, fun n a c l => ⟨rngsEff_rng n a c l, rfl⟩⟩
  · obtain ⟨least, below⟩ := redInt_min t sat ne
    obtain ⟨greatest, above⟩ := redInt_max t sat ne
    exact ⟨redInt_add t sat xs, least, below, greatest, above⟩
  · refine ⟨_, Nat.one_pos, ?_, redSum_of_finite finite, Dy.exact_sign_of_zero⟩
    rw [Dy.exact_rat, Dy.foldl_addFV_rat finite]
    simp [Dy.rat]
  · have write := wrlnEff_writesLanes d a o c
    exact ⟨wrlnEff_vlane d a o c l, write.others, write.regs⟩

/-! ### Completion -/

/-- Settles O41: `exec` issues each of the instructions with an effect on its group alone; lred raises flags too. -/
theorem laneInstructions : Obligations.LaneInstructions := by
  refine ⟨fun _ _ => onGroup_of_exec fun _ => rfl, fun _ _ => onGroup_of_exec fun _ => rfl, fun _ _ => onGroup_of_exec fun _ => rfl,
    fun _ _ => onGroup_of_execF fun _ => rfl, fun _ _ => onGroup_of_execF fun _ => rfl, fun _ _ => onGroup_of_execF fun _ => rfl, ?_⟩
  and_intros
  all_goals intros; exact onGroup_of_exec fun _ => rfl

/-- Settles O40: the conversions raise flags, mxscl may trap, and mxq has an effect on the state. -/
theorem conversions : Obligations.Conversions :=
  ⟨fun _ _ _ => onGroup_of_execF fun _ => rfl, fun _ _ _ => onGroup_of_execF fun _ => rfl, fun _ _ _ _ => onGroup_of_execF fun _ => rfl,
    fun _ _ => onGroupOr_of_exec fun _ => rfl, fun _ _ => ownTrap_of_exec fun _ => rfl, fun _ _ _ => onState_of_exec fun _ => rfl⟩

end Sys2Proof.Machine
end

section
/-! PROOFS. Scalar results (05 R128, R129) and the registers that scalar, address and predicate instructions write. -/

namespace Sys2Proof.Machine

section
variable (a b : Word)

theorem scalarOp_sub : scalarOp .sub a b = BitVec.ofInt 32 ((a.toNat : Int) - b.toNat) := by
  apply BitVec.eq_of_toNat_eq
  have := a.isLt
  have := b.isLt
  simp only [scalarOp, BitVec.toNat_sub, BitVec.toNat_ofInt]
  omega

theorem scalarOp_mul : scalarOp .mul a b = BitVec.ofNat 32 (a.toNat * b.toNat) :=
  BitVec.eq_of_toNat_eq (by simp [scalarOp])

theorem scalarOp_shl : scalarOp .shl a b = BitVec.ofNat 32 (a.toNat * 2 ^ (b.toNat % 32)) :=
  BitVec.eq_of_toNat_eq (by simp only [scalarOp, BitVec.toNat_shiftLeft, Nat.shiftLeft_eq, BitVec.toNat_ofNat])

theorem scalarOp_shr : (scalarOp .shr a b).toNat = a.toNat / 2 ^ (b.toNat % 32) := by
  rw [scalarOp, BitVec.toNat_ushiftRight, Nat.shiftRight_eq_div_pow]

theorem scalarOp_sra : (scalarOp .sra a b).toInt = a.toInt / 2 ^ (b.toNat % 32) := by
  rw [scalarOp, BitVec.toInt_sshiftRight, Int.shiftRight_eq_div_pow]
  norm_cast

theorem scalarOp_min : (scalarOp .min a b).toInt = min a.toInt b.toInt := by
  simp only [scalarOp, BitVec.slt_iff_toInt_lt]
  split_ifs with h
  · exact (min_eq_left h.le).symm
  · exact (min_eq_right (not_lt.1 h)).symm

theorem scalarOp_max : (scalarOp .max a b).toInt = max a.toInt b.toInt := by
  simp only [scalarOp, BitVec.slt_iff_toInt_lt]
  split_ifs with h
  · exact (max_eq_right h.le).symm
  · exact (max_eq_left (not_lt.1 h)).symm

end

/-- Settles O37: the results are said above, and the registers written are those of `Group.sreg_setS`, `Group.areg_setA`,
`Group.pred_setP` and `Group.lane_setPLanes`. -/
theorem scalarValues : Obligations.ScalarValues := by
  refine ⟨fun a b => ⟨BitVec.add_def a b, scalarOp_sub a b, scalarOp_mul a b, fun k => ⟨BitVec.getLsbD_and, BitVec.getLsbD_or, BitVec.getLsbD_xor⟩,
    scalarOp_shl a b, scalarOp_shr a b, scalarOp_sra a b, scalarOp_min a b, scalarOp_max a b, BitVec.toInt_signExtend_of_le (by decide)⟩,
    fun g d r x => ⟨g.sreg_setS d r x, rfl⟩, fun g d r x => ⟨g.areg_setA d r x, rfl⟩, fun g d r m x => ?_, fun f c => rfl⟩
  exact ⟨g.pred_setP d r x, rfl, g.lane_setPLanes d m x, g.pred_setPLanes_of_ne m x, g.setPLanes_regs d m x⟩

end Sys2Proof.Machine
end

section
/-! PROOFS. The end action of a loop (06 R154, R156), the link of a call (06 R137, R149), and a trap that enters no handler
(06 R161; 16 R398). -/

namespace Sys2Proof.Machine

/-- Settles O9: in a handler, or without one, the entry of 06 R161 is never reached. -/
theorem trapInHandler : Obligations.TrapInHandler := by
  intro s gid g pc live t here stops
  simp only [State.takeTrap, here, if_pos stops]

/-! ### The end action -/

theorem loop_ends {lc : Word} {le x : DWord} (live : lc ≠ 0) (here : le = x) : (lc != 0 && le == x) = true :=
  Bool.and_eq_true_iff.2 ⟨bne_iff_ne.2 live, beq_iff_eq.2 here⟩

theorem loop_ends_not {lc : Word} {le x : DWord} (out : lc = 0 ∨ le ≠ x) : (lc != 0 && le == x) = false := by
  rcases out with dead | elsewhere
  · simp [dead]
  · simp [elsewhere]

section
variable {r : LoopRegs} {x : DWord}

theorem LoopRegs.ending_eq_zero (live : r.lc0 ≠ 0) (here : r.le0 = x) (other : r.lc1 = 0 ∨ r.le1 ≠ x) : r.ending x = [0] := by
  simp only [LoopRegs.ending, loop_ends live here, loop_ends_not other, Bool.and_false, Bool.false_eq_true, if_false, if_true]

theorem LoopRegs.ending_eq_one (other : r.lc0 = 0 ∨ r.le0 ≠ x) (live : r.lc1 ≠ 0) (here : r.le1 = x) : r.ending x = [1] := by
  simp only [LoopRegs.ending, loop_ends live here, loop_ends_not other, Bool.false_and, Bool.false_eq_true, if_false, if_true]

theorem LoopRegs.ending_eq_both (live0 : r.lc0 ≠ 0) (here0 : r.le0 = x) (live1 : r.lc1 ≠ 0) (here1 : r.le1 = x) :
    r.ending x = if r.ls1.toNat < r.ls0.toNat then [0, 1] else [1, 0] := by
  simp only [LoopRegs.ending, loop_ends live0 here0, loop_ends live1 here1, Bool.and_self, if_true]

end

section
variable (r : LoopRegs) (next : DWord) (l : List Nat)

/-- Loop 0 counts, and the loops after it only when it completes. -/
theorem LoopRegs.count_zero : r.count next (0 :: l) =
    if r.lc0 ≠ 1 then (r.ls0, { r with lc0 := r.lc0 - 1 }) else ({ r with lc0 := 0 } : LoopRegs).count next l := by
  by_cases last : r.lc0 = 1
  · simp [LoopRegs.count, last]
  · rw [if_pos last]
    exact if_pos (sub_ne_zero.2 last)

/-- Loop 1 counts, and the loops after it only when it completes. -/
theorem LoopRegs.count_one : r.count next (1 :: l) =
    if r.lc1 ≠ 1 then (r.ls1, { r with lc1 := r.lc1 - 1 }) else ({ r with lc1 := 0 } : LoopRegs).count next l := by
  by_cases last : r.lc1 = 1
  · simp [LoopRegs.count, last]
  · rw [if_pos last]
    exact if_pos (sub_ne_zero.2 last)

theorem LoopRegs.count_zero_alone : r.count next [0] = (if r.lc0 = 1 then next else r.ls0, { r with lc0 := r.lc0 - 1 }) := by
  rw [LoopRegs.count_zero]
  by_cases last : r.lc0 = 1
  · simp [LoopRegs.count, last]
  · rw [if_pos last, if_neg last]

theorem LoopRegs.count_one_alone : r.count next [1] = (if r.lc1 = 1 then next else r.ls1, { r with lc1 := r.lc1 - 1 }) := by
  rw [LoopRegs.count_one]
  by_cases last : r.lc1 = 1
  · simp [LoopRegs.count, last]
  · rw [if_pos last, if_neg last]

end

/-- Settles O13: the loops that end at the address are listed in the order in which they count. -/
theorem loopCount : Obligations.LoopCount := by
  intro r x next
  refine ⟨fun no0 no1 => ?_, fun live here other => ?_, fun other live here => ?_, fun live0 here0 live1 here1 => ?_⟩
  · rw [LoopRegs.ending_eq_nil no0 no1]
    rfl
  · rw [LoopRegs.ending_eq_zero live here other, r.count_zero_alone]
  · rw [LoopRegs.ending_eq_one other live here, r.count_one_alone]
  · rw [LoopRegs.ending_eq_both live0 here0 live1 here1]
    by_cases first : r.ls1.toNat < r.ls0.toNat
    · rw [if_pos first, if_pos first, LoopRegs.count_zero, LoopRegs.count_one_alone]
    · rw [if_neg first, if_neg first, LoopRegs.count_one, LoopRegs.count_zero_alone]

/-! ### The link of a call -/

/-- Four times a word offset, divided by four, is the offset (06 R137). -/
theorem linkOf_eq {g : Group} {pc : DWord} {n : Word} (offset : pc + 4 - g.entry = 4 * n.signExtend 64) : linkOf g pc = n := by
  unfold linkOf
  rw [offset]
  apply BitVec.eq_of_toNat_eq
  have small := n.isLt
  have wide : (n.signExtend 64).toNat = n.toNat + if n.msb then 2 ^ 64 - 2 ^ 32 else 0 := by
    rw [BitVec.toNat_signExtend, BitVec.toNat_setWidth_of_le (by decide)]
  rw [BitVec.toNat_ofNat, BitVec.toNat_mul, wide, show (4 : DWord).toNat = 4 from rfl]
  split_ifs <;> omega

theorem entry_add_link {g : Group} {pc : DWord} {n : Word} (offset : pc + 4 - g.entry = 4 * n.signExtend 64) :
    g.entry + 4 * (linkOf g pc).signExtend 64 = pc + 4 := by
  rw [linkOf_eq offset, ← offset, add_sub_cancel]

section
variable {o : BitVec 24} {c : Iss}

theorem callEff_of_full {l : Fin 16} (active : lane c.act l = true) (full : 8 ≤ c.g.rd[l]) :
    callEff o c = .error (wordTrap c 0x0A 0 (maskOf fun l => lane c.act l && decide (8 ≤ c.g.rd[l]))) :=
  if_pos (maskOf_ne_zero (Bool.and_eq_true_iff.2 ⟨active, decide_eq_true full⟩))

theorem callEff_of_room (room : ∀ l : Fin 16, lane c.act l = true → c.g.rd[l] < 8) :
    callEff o c = divideEff (jumpTarget c.pc o) { c with g := c.g.push c.act (linkOf c.g c.pc) } :=
  if_neg (not_not.2 (maskOf_and_eq_zero fun l active => Nat.not_le.2 (room l active)))

end

section
variable (g : Group) (m : Mask) (x : Word) (l : Fin 16)

theorem Group.rd_push : (g.push m x).rd[l] = if lane m l then g.rd[l] + 1 else g.rd[l] :=
  getElem_of_eq_ofFn (show (g.push m x).rd = Vector.ofFn _ from rfl) l

theorem Group.stack_push : (g.push m x).stack[l] = if lane m l then g.stack[l].setIfInBounds g.rd[l] x else g.stack[l] :=
  getElem_of_eq_ofFn (show (g.push m x).stack = Vector.ofFn _ from rfl) l

/-- A lane below depth 8 has the link on top of its stack. -/
theorem Group.top_push (here : lane m l = true) (room : g.rd[l] < 8) :
    (g.push m x).stack[l].toList.getD g.rd[l] 0 = x := by
  rw [g.stack_push, if_pos here]
  have inBounds : g.rd[l] < (g.stack[l].setIfInBounds g.rd[l] x).toList.length := by simpa using room
  rw [List.getD_eq_getElem _ _ inBounds]
  simp

end

/-- Settles O24: the links are words from the entry address, and a call pushes one in each active lane before it divides. -/
theorem callPushes : Obligations.CallPushes := by
  refine ⟨fun g pc n offset => ⟨linkOf_eq offset, entry_add_link offset⟩, fun o c => ⟨?_, fun room => ⟨callEff_of_room room, fun l => ?_⟩⟩⟩
  · rintro ⟨l, active, full⟩
    exact ⟨_, callEff_of_full active full, lane_maskOf _⟩
  · refine ⟨c.g.rd_push _ _ l, c.g.top_push _ _ l, fun out => ?_⟩
    rw [c.g.stack_push, if_neg (by simp [out])]

end Sys2Proof.Machine
end

section
/-! PROOFS. TrapReturn and PathWaits are refuted. The rcd of a path names a join record (06 R134), but neither statement asks that it
does. When the path ends, the model frees the entry that it names once nothing refers to it (`Group.releaseRec`), so that an rcd which
names another path frees that path. The missing bound is that no path's rcd names a path or an entry of the trap frame; the last clause
of TrapReturn has one, that the handler's path has no record. -/

namespace Sys2Proof.Machine

/-! ### The counterexample: a path whose rcd names the entry of another -/

/-- Table entry 0 holds a path of lane 0 whose rcd names entry 4, where e stands; TSTAT is t. -/
def strayGroup (t : BitVec 3) (e : PathEntry) : Group :=
  (({ trap := { tstat := t } } : Group).setEntry 0 { kind := .path, mask := 1, rcd := 4 }).setEntry 4 e

/-- The path in entry 0 issues, with its lane active. -/
def strayIss (g : Group) : Iss :=
  { gid := 0, path := 0, e := g.entryAt 0, pc := 0, next := 4, md := 0, live := 1, act := 1, word := 0, len := 4, tick := 0, mark := 0,
    native := false, g := g }

/-- In a handler, with a path of the trap frame in entry 4: lane 0 at level 7. -/
def strayHandler : Group := strayGroup 1 { kind := .saved, level := 7, mask := 1 }

/-- Outside a handler, with a spilled path of lane 1 in entry 4. -/
def strayPaths : Group := strayGroup 0 { kind := .path, mask := 2 }

/-- The trap frame has no other entry. -/
theorem strayHandler_saved {k : Nat} (lt : k < 64) (saved : (strayHandler.entryAt k).kind = .saved) : k = 4 := by
  have only : ∀ j : Fin 64, (strayHandler.entryAt j).kind = .saved → j.val = 4 := by decide
  exact only ⟨k, lt⟩ saved

/-- The entry that the handler's path names is free before the frame is restored, so that no count is set. -/
theorem strayHandler_returns : (strayHandler.returnTrap 0).nc[0] = 0 := by decide

/-- Refutes O10, in its clause about NC: the handler's path frees the entry of the trap frame that its rcd names, so that the count of
lane 0 stays 0, where the frame has level 7. -/
theorem not_trapReturn : ¬ Obligations.TrapReturn := by
  intro holds
  obtain ⟨-, -, returns⟩ := holds (strayIss strayHandler)
  obtain ⟨h, ok, -, -, -, -, -, -, -, -, -, -, -, -, -, -, -, levels, -, -⟩ := returns (by decide) (by decide)
  obtain rfl : strayHandler.returnTrap 0 = h := Except.ok.inj ok
  have level := levels 0 4 (by decide) (by decide) (by decide) fun j lt saved _ => strayHandler_saved lt saved
  exact absurd (strayHandler_returns.symm.trans level) (by decide)

theorem strayPaths_onePath : OnePath (strayIss strayPaths) where
  place := by decide
  path := by decide
  live := by decide
  someLive := by decide
  noHalt := by decide
  act := by decide
  table k lt := by interval_cases k <;> decide

/-- The spilled path is gone after the exit of the other. -/
theorem strayPaths_exits : (exitEff (strayIss strayPaths)).entryAt 4 = {} := by decide

/-- Refutes O29, in its clause about exit: the path that ends frees the spilled path that its rcd names. -/
theorem not_pathWaits : ¬ Obligations.PathWaits := by
  rintro ⟨-, -, -, -, -, exits⟩
  obtain ⟨-, -, -, leaves⟩ := exits (strayIss strayPaths) strayPaths_onePath
  obtain ⟨others, -⟩ := leaves (by decide) rfl
  obtain ⟨-, stay, -⟩ := others ⟨4, by decide, by decide, by decide⟩
  have same := stay 4 (by decide) (by decide) (by decide)
  exact absurd (strayPaths_exits.symm.trans same) (by decide)

end Sys2Proof.Machine
end

section
/-! PROOFS. The completion of the control instructions (06 R139 to R157, R162; 16 R402). -/

namespace Sys2Proof.Machine

/-- Settles O43: `exec` issues each of the instructions with an effect on its group alone that may trap, but for nop and yield, whose
effects never do. -/
theorem controlInstructions : Obligations.ControlInstructions := by
  unfold Obligations.ControlInstructions
  refine ⟨onGroup_of_exec fun _ => rfl, onGroupOr_of_exec fun _ => rfl, onGroup_of_exec fun _ => rfl, ownTrap_of_exec fun _ => rfl,
    onGroupOr_of_exec fun _ => rfl, ownTrap_of_exec fun _ => rfl, onGroupOr_of_exec fun _ => rfl, ownTrap_of_exec fun _ => rfl,
    onGroupOr_of_exec fun _ => rfl, ownTrap_of_exec fun _ => rfl, onGroupOr_of_exec fun _ => rfl, ownTrap_of_exec fun _ => rfl,
    onGroupOr_of_exec fun _ => rfl, ownTrap_of_exec fun _ => rfl, fun k => onGroupOr_of_exec fun _ => rfl,
    fun k => ownTrap_of_exec fun _ => rfl, fun o => onGroupOr_of_exec fun _ => rfl, fun o => ownTrap_of_exec fun _ => rfl,
    fun o => onGroupOr_of_exec fun _ => rfl, fun o => onGroupOr_of_exec fun _ => rfl, fun o => ownTrap_of_exec fun _ => rfl,
    fun o => onGroupOr_of_exec fun _ => rfl, fun o => ownTrap_of_exec fun _ => rfl, fun o => onGroupOr_of_exec fun _ => rfl,
    fun o => ownTrap_of_exec fun _ => rfl, fun o => onGroupOr_of_exec fun _ => rfl, fun o => ownTrap_of_exec fun _ => rfl⟩

/-! ### What the effects answer -/

section
variable {c : Iss}

theorem mergeEff_answers (below : (c.g.entryAt c.path).level ≠ 0) : ∃ g, mergeEff c = .ok g := by
  unfold mergeEff
  rw [if_neg below]
  dsimp only
  split_ifs <;> exact ⟨_, rfl⟩

theorem retEff_answers (deep : ∀ l : Fin 16, lane c.live l = true → c.g.rd[l] ≠ 0)
    (room : c.g.noRoom ((retPcs c).length - 1 - c.g.freeTable.length) = false ∨ (retPcs c).length - 1 ≤ c.g.freeTable.length) :
    ∃ g, retEff c = .ok g := by
  refine ⟨_, (retEff_of_deep deep).trans (if_neg fun short => ?_)⟩
  obtain ⟨full, spills⟩ := Bool.and_eq_true_iff.1 short
  rcases room with room | fits
  · exact absurd full (by simp [room])
  · exact absurd (of_decide_eq_true spills) (Nat.not_lt.2 fits)

theorem lbrkEff_answers (n : Bool) (one : c.g.manyPaths = false) : ∃ g, lbrkEff n c = .ok g := by
  unfold lbrkEff
  simp only [one, Bool.false_eq_true, if_false]
  split_ifs <;> exact ⟨_, rfl⟩

theorem loopEff_answers (n : Bool) {o : BitVec 24} (one : c.g.manyPaths = false) (ahead : o.slt 2 = false) :
    ∃ g, loopEff n o c = .ok g := by
  unfold loopEff
  simp only [one, ahead, Bool.false_eq_true, if_false]
  exact ⟨_, rfl⟩

theorem tretEff_answers (inside : c.g.trap.tstat.getLsbD 0 = true) (one : c.g.manyPaths = false) : ∃ g, tretEff c = .ok g := by
  unfold tretEff
  simp only [inside, one, Bool.not_true, Bool.false_eq_true, if_false]
  exact ⟨_, rfl⟩

theorem brEff_answers (o : BitVec 24) (agree : c.act = c.live ∨ c.act = 0) : ∃ g, brEff o c = .ok g := by
  by_cases all : c.act = c.live
  · exact ⟨_, if_pos all⟩
  · exact ⟨_, (if_neg all).trans (if_pos (agree.resolve_left all))⟩

theorem divideEff_answers (target : DWord) (shallow : ∀ l : Fin 16, lane c.live l = true → c.g.nc[l] < 255)
    (room : c.g.noRoom 2 = false) : ∃ g, divideEff target c = .ok g :=
  ⟨_, (divideEff_of_shallow shallow target).trans (if_neg (by simp [room]))⟩

theorem callEff_answers (o : BitVec 24) (depth : ∀ l : Fin 16, lane c.act l = true → c.g.rd[l] < 8)
    (shallow : ∀ l : Fin 16, lane c.live l = true → c.g.nc[l] < 255) (room : c.g.noRoom 2 = false) : ∃ g, callEff o c = .ok g := by
  rw [callEff_of_room depth]
  exact divideEff_answers (c := { c with g := c.g.push c.act (linkOf c.g c.pc) }) _ shallow room

/-- In a handler ecall asks the host, and the group waits for its answer (16 R402). -/
theorem ecallEff_answers (a : BitVec 6) (s : State) (active : c.act ≠ 0) (inside : c.g.trap.tstat.getLsbD 0 = true) :
    ∃ t, ecallEff a c s = .ok t [] ∧ ∃ g, t.groups.get? c.gid = some g ∧ g.mode = .service c.path := by
  unfold ecallEff
  simp only [active, inside, Bool.not_true, Bool.false_eq_true, if_false]
  exact ⟨_, rfl, _, AMap.get?_set_self .., rfl⟩

theorem ecallEff_traps (a : BitVec 6) (s : State) (active : c.act ≠ 0) (out : c.g.trap.tstat.getLsbD 0 = false) :
    ecallEff a c s = .trap { cause := 0x13, val := c.g.sreg a, lanes := c.act } := by
  unfold ecallEff
  simp only [active, out, Bool.not_false, if_false, if_true]

end

/-- Settles O55: each effect answers under its condition, and brk, trap and ecall outside a handler enter it. -/
theorem controlComplete : Obligations.ControlComplete := by
  obtain ⟨nop, -, yield, -⟩ := controlInstructions
  refine ⟨nop, completes_group (fun _ => rfl) fun _ _ _ => ⟨_, rfl⟩, yield, enters_of (fun _ => rfl) fun _ _ _ => rfl,
    completes_group (fun _ => rfl) fun _ _ below => mergeEff_answers below,
    completes_group (fun _ => rfl) fun _ _ ⟨deep, room⟩ => retEff_answers deep room,
    completes_group (fun _ => rfl) fun _ _ one => lbrkEff_answers false one,
    completes_group (fun _ => rfl) fun _ _ one => lbrkEff_answers true one,
    completes_group (fun _ => rfl) fun _ _ ⟨inside, one⟩ => tretEff_answers inside one,
    fun k => enters_of (fun _ => rfl) fun s c active => ?_,
    fun o => completes_group (fun _ => rfl) fun _ _ agree => brEff_answers o agree,
    fun o => completes_group (fun _ => rfl) fun _ _ _ => ⟨_, rfl⟩,
    fun o => completes_group (fun _ => rfl) fun _ _ ⟨depth, shallow, room⟩ => callEff_answers o depth shallow room,
    fun o => completes_group (fun _ => rfl) fun _ _ ⟨shallow, room⟩ => divideEff_answers _ shallow room,
    fun o => completes_group (fun _ => rfl) fun _ _ ⟨one, ahead⟩ => loopEff_answers false one ahead,
    fun o => completes_group (fun _ => rfl) fun _ _ ⟨one, ahead⟩ => loopEff_answers true one ahead,
    fun a => issue_completes (fun _ => rfl) fun s c _ _ ⟨active, inside⟩ => ?_,
    fun a => enters_of (fun _ => rfl) fun s _ ⟨active, out⟩ => ecallEff_traps a s active out⟩
  · simp only [groupTrapEff, trapEff, active, if_false]
  · obtain ⟨t, ok, waits⟩ := ecallEff_answers a s active inside
    exact ⟨t, [], ok, .inl rfl, waits⟩

end Sys2Proof.Machine
end

section
/-! PROOFS. Events, and the memory, copy and matrix instructions, each answered with the state that its own function names. -/

namespace Sys2Proof.Machine

/-- Settles O50: `exec` answers each event with the function that the statement names. -/
theorem memoryEvents : Obligations.MemoryEvents := by
  unfold Obligations.MemoryEvents
  and_intros
  all_goals intros; rfl

/-- Settles O51: `exec` answers each event with the function that the statement names. -/
theorem unitEvents : Obligations.UnitEvents := by
  unfold Obligations.UnitEvents
  and_intros
  all_goals intros; rfl

/-- Settles O45: `exec` issues each of the instructions with the effect that the statement names; wret alone has an effect on its group. -/
theorem memoryInstructions : Obligations.MemoryInstructions := by
  unfold Obligations.MemoryInstructions
  refine ⟨fun a k => onGroup_of_exec fun _ => rfl, ?_⟩
  and_intros
  all_goals intros; exact onState_of_exec fun _ => rfl

/-- Settles O47: `exec` issues each of the instructions with the effect that the statement names; mprio alone has an effect on its
group. -/
theorem copyAndMatrixInstructions : Obligations.CopyAndMatrixInstructions := by
  unfold Obligations.CopyAndMatrixInstructions
  refine ⟨?_, ?_, ?_, ?_, ?_, ?_, ?_, ?_, ?_, ?_, ?_, fun a => onGroup_of_exec fun _ => rfl, ?_⟩
  all_goals intros; exact onState_of_exec fun _ => rfl

end Sys2Proof.Machine
end

section
/-! PROOFS. The completion of the copy, matrix, sampler and ray instructions (07 R190 to R192; 10 R259 to R272; 11 R300, R301; 12 R317). -/

namespace Sys2Proof.Machine

section
variable {c : Iss} {s : State}

/-! ### Copies -/

/-- An effect that begins a copy. -/
def Eff.BeginsCopy (e : Eff) (s : State) (c : Iss) : Prop :=
  ∃ t fl, e = .ok t fl ∧ (fl = [] ∨ t.preds = s.preds) ∧ ∃ x, t.begins s c (.copy x)

theorem copyEff_plain {x : Copy} {n w : Word} (plain : w.getLsbD 8 = false) (ready : ControlReady 0 w c) :
    (copyEff c s 0 x n w).BeginsCopy s c := by
  obtain ⟨active, legal⟩ := ready
  simp only [copyEff, plain, Bool.false_eq_true, and_false, if_false, active, legal]
  exact start_copy _

theorem copyEff_convert {x : Copy} {n w : Word} {sr dr : BufRec} (converts : w.getLsbD 8 = true) (ready : ControlReady 1 w c)
    (operands : ConvertReady x n w sr dr c s) : (copyEff c s 0 x n w).BeginsCopy s c := by
  obtain ⟨active, legal⟩ := ready
  obtain ⟨type, mode, source, dest, rounds, writes, apart⟩ := operands
  have inMode : (decide (6 ≤ mdRnd c.md) && (sr.rounds (mdType c.md) || dr.rounds (mdType c.md))) = false := by
    rcases rounds with small | ⟨noSource, noDest⟩
    · simp [Nat.not_le.2 small]
    · simp [noSource, noDest]
  simp only [copyEff, converts, and_self, if_true, active, legal, Bool.false_eq_true, if_false, convCopy, type, mode, beq_iff_eq,
    withRec, source, dest, inMode, writes, Bool.not_true, Bool.false_or]
  exact checked_copy apart

theorem copyEff_rows {x : Copy} {n w : Word} (ready : ControlReady 2 w c) (rows : RowsReady x n w c) :
    (copyEff c s 2 x n w).BeginsCopy s c := by
  obtain ⟨active, legal⟩ := ready
  obtain ⟨divides, apart⟩ := rows
  have whole : ¬((if w.getLsbD 9 then 2 ^ bits w.toNat 11 10 else 0) ≠ 0 ∧
      bits n.toNat 15 0 % (if w.getLsbD 9 then 2 ^ bits w.toNat 11 10 else 0) ≠ 0) := by
    rintro ⟨sized, rest⟩
    exact rest (divides.resolve_left sized)
  simp only [copyEff, OfNat.ofNat_ne_zero, false_and, if_false, active, legal, Bool.false_eq_true, whole]
  exact checked_copy apart

/-- A copy between memory and the scratchpad, whose offset in it is off whichever way it goes (07 R190). -/
theorem copyEff_scratch {x : Copy} {n w : Word} {off : Nat} (ready : ControlReady 3 w c)
    (there : (if w.getLsbD 12 then x.src else x.dst) = off)
    (fits : n = 0 ∨ off + n.toNat ≤ ((s.blocks.get? c.g.block).map (·.ssize)).getD 0) : (copyEff c s 3 x n w).BeginsCopy s c := by
  obtain ⟨active, legal⟩ := ready
  have inside : ¬(n.toNat ≠ 0 ∧ ((s.blocks.get? c.g.block).map (·.ssize)).getD 0 < off + n.toNat) := by
    rintro ⟨some, beyond⟩
    rcases fits with rfl | fits
    · exact some rfl
    · omega
  simp only [copyEff, OfNat.ofNat_ne_zero, false_and, if_false, active, legal, Bool.false_eq_true, Copy.scoped, there, inside]
  exact start_copy _

theorem copyEff_decompress {x : Copy} {n w : Word} {dr : BufRec} (ready : ControlReady 4 w c) (operands : DecompressReady x n w dr c s) :
    (copyEff c s 4 x n w).BeginsCopy s c := by
  obtain ⟨active, legal⟩ := ready
  obtain ⟨aligned, dest, type, mode, writes, apart⟩ := operands
  simp only [copyEff, OfNat.ofNat_ne_zero, false_and, if_false, active, legal, Bool.false_eq_true, decCopy, Copy.scoped, aligned, ne_eq,
    not_true_eq_false, withRec, dest, type, Bool.not_true, Nat.not_le.2 mode, writes]
  exact checked_copy apart

/-! ### Matrix instructions -/

/-- Check 7 of a matrix instruction with all lanes and the token as it needs it (10 R264). -/
theorem matrixCheck_none {tile : Nat} {need : Bool} (full : c.act = 0xFFFF) (token : s.hasToken c.gid c.g tile = need) (detail : Nat) :
    matrixCheck c s tile need detail = none := by
  simp only [matrixCheck, full, ne_eq, not_true_eq_false, if_false, token, if_true]

theorem mmaEff_begins {lend : Bool} {d : BitVec 8} (a b : BitVec 8) (full : c.act = 0xFFFF) (token : s.hasToken c.gid c.g d.toNat = false)
    (room : s.queueFull c.g lend = false) :
    ∃ t fl, mmaEff lend d a b c s = .ok t fl ∧ (fl = [] ∨ t.preds = s.preds) ∧
      ∃ ra rb sa sb, t.begins s c (.mma d.toNat lend (mdType c.md) ra rb sa sb) := by
  simp only [mmaEff, room, matrixCheck_none full token, Bool.false_eq_true, if_false]
  exact ⟨_, _, rfl, .inl rfl, _, _, _, _, begins_entry _ _ _⟩

theorem acczrEff_begins {d : BitVec 8} (full : c.act = 0xFFFF) (token : s.hasToken c.gid c.g d.toNat = false)
    (room : s.queueFull c.g false = false) :
    ∃ t fl, acczrEff d c s = .ok t fl ∧ (fl = [] ∨ t.preds = s.preds) ∧ t.begins s c (.acczr d.toNat) := by
  simp only [acczrEff, room, matrixCheck_none full token, Bool.false_eq_true, if_false]
  exact ⟨_, _, rfl, .inl rfl, begins_entry _ _ _⟩

theorem accqEff_begins {d : BitVec 8} (full : c.act = 0xFFFF) (token : s.hasToken c.gid c.g d.toNat = false) :
    ∃ t fl, accqEff d c s = .ok t fl ∧ (fl = [] ∨ t.preds = s.preds) ∧ t.begins s c (.accq d.toNat) := by
  simp only [accqEff, matrixCheck_none full token]
  exact ⟨_, _, rfl, .inl rfl, begins_entry _ _ _⟩

theorem accrEff_begins {d : BitVec 8} (full : c.act = 0xFFFF) (token : s.hasToken c.gid c.g d.toNat = true)
    (still : s.ops.any (fun e => e.2.g == c.gid && !e.2.finished && e.2.kind.moveTile == some d.toNat) = false) :
    ∃ t fl, accrEff d c s = .ok t fl ∧ (fl = [] ∨ t.preds = s.preds) ∧ t.begins s c (.accr d.toNat) := by
  have added : ((s.setGroup c.gid c.g).addOp (c.op (.accr d.toNat) (some 5))).1.begins s c (.accr d.toNat) :=
    State.begins_addOp le_rfl rfl rfl
  simp only [accrEff, matrixCheck_none full token, still, Bool.false_eq_true, if_false]
  exact ⟨_, _, rfl, .inl rfl, State.begins_updOp (State.begins_congr added rfl) fun _ => ⟨rfl, rfl, rfl⟩⟩

theorem accldEff_begins {d a : BitVec 8} (full : c.act = 0xFFFF) (token : s.hasToken c.gid c.g a.toNat = true) :
    ∃ t fl, accldEff d a c s = .ok t fl ∧ (fl = [] ∨ t.preds = s.preds) ∧ t.begins s c (.accld d.toNat a.toNat) := by
  simp only [accldEff, matrixCheck_none full token]
  exact ⟨_, _, rfl, .inl rfl, begins_entry _ _ _⟩

theorem accstEff_begins {d : BitVec 8} (a : BitVec 8) (full : c.act = 0xFFFF) (token : s.hasToken c.gid c.g d.toNat = true) :
    ∃ t fl, accstEff d a c s = .ok t fl ∧ (fl = [] ∨ t.preds = s.preds) ∧ ∃ rows, t.begins s c (.accst d.toNat rows) := by
  simp only [accstEff, matrixCheck_none full token]
  exact ⟨_, _, rfl, .inl rfl, _, begins_entry _ _ _⟩

/-! ### The weight cache -/

theorem wcpinEff_begins {d : BitVec 3} {a : BitVec 4} {x y : Nat} (active : c.act ≠ 0)
    (header : s.unitHdr { c.op (.wcpin d.toNat (c.g.areg a).toNat) (some 3) with writes := { p := [d.toNat] }, phase := 7 } true
      (c.g.areg a).toNat = .ok x)
    (blob : ((s.core c.g.core).weights c.g.ctx (NetHdr.of x).wbase).isSome = true ∨
      s.readBlob { c.op (.wcpin d.toNat (c.g.areg a).toNat) (some 3) with writes := { p := [d.toNat] }, phase := 7 } (NetHdr.of x) =
        .ok y) :
    ∃ t fl, wcpinEff d a c s = .ok t fl ∧ (fl = [] ∨ t.preds = s.preds) ∧ t.begins s c (.wcpin d.toNat (c.g.areg a).toNat) := by
  have begun (o : Op) (g : o.g = c.gid) (act : o.act = c.act) : (((s.setGroup c.gid c.g).addOp o).1.setGroup c.gid
      (c.hold (.op ((s.setGroup c.gid c.g).addOp o).2))).begins s c o.kind :=
    State.begins_congr (State.begins_addOp (t := s.setGroup c.gid c.g) le_rfl g act) rfl
  simp only [wcpinEff, active, if_false, header]
  split
  next unread =>
    split at unread
    · cases unread
    next uncached => exact absurd ((blob.resolve_left uncached).symm.trans unread) (by simp)
  · exact ⟨_, _, rfl, .inl rfl, begun _ rfl rfl⟩

/-- The header is read, so the pin is taken from the entry. -/
theorem wcunpEff_answers {a : BitVec 4} {x : Nat} (active : c.act ≠ 0)
    (header : s.unitHdr { c.op (.wcpin 0 (c.g.areg a).toNat) none with phase := 7 } true (c.g.areg a).toNat = .ok x) :
    ∃ t, wcunpEff a c s = .ok t [] := by
  simp only [wcunpEff, active, if_false, header]
  exact ⟨_, rfl⟩

theorem wcinvEff_answers (va : Option (BitVec 4)) (c : Iss) (s : State) : ∃ t, wcinvEff va c s = .ok t [] := by
  unfold wcinvEff
  split <;> exact ⟨_, rfl⟩

/-! ### Rays and samples -/

theorem rtgenEff_answers (a : BitVec 6) (c : Iss) (s : State) : ∃ t, rtgenEff a c s = .ok t [] := by
  dsimp only [rtgenEff]
  split <;> exact ⟨_, rfl⟩

theorem rtinvEff_answers (a : Option (BitVec 6)) (c : Iss) (s : State) : ∃ t, rtinvEff a c s = .ok t [] := by
  dsimp only [rtinvEff]
  split <;> exact ⟨_, rfl⟩

theorem sampleEff_begins (ins : Nat) (d : BitVec 8) (a : BitVec 4) (b : BitVec 8) (c : Iss) (s : State) :
    ∃ t fl, sampleEff ins d a b c s = .ok t fl ∧ (fl = [] ∨ t.preds = s.preds) ∧
      t.begins s c (.sample ins d.toNat (c.g.areg a).toNat (mdType c.md)) :=
  ⟨_, _, rfl, .inl rfl, State.begins_addOp le_rfl rfl rfl⟩

theorem traceEff_begins (ins : Nat) (d : BitVec 8) (a : BitVec 4) (b : BitVec 8) (c : Iss) (s : State) :
    ∃ t fl, traceEff ins d a b c s = .ok t fl ∧ (fl = [] ∨ t.preds = s.preds) ∧
      t.begins s c (.trace ins d.toNat (c.g.areg a).toNat) :=
  ⟨_, _, rfl, .inl rfl, State.begins_addOp le_rfl rfl rfl⟩

end

/-- Settles O59: under its condition each effect begins its operation, or answers a state where the statement names none. -/
theorem enginesComplete : Obligations.EnginesComplete := by
  unfold Obligations.EnginesComplete
  refine ⟨fun d a b => ?cp, fun d a b sr dr => ?convert, fun d a b => ?rows, fun d a b => ?scratch, fun d a b dr => ?decompress,
    fun d a b => ?mma, fun d a b => ?mmakb, fun d => ?accq, fun d => ?accr, fun d a => ?accld, fun d a => ?accst, fun d => ?acczr,
    fun a => onGroup_of_exec fun _ => rfl, fun d a b => ?xmma, fun d a x y => ?wcpin, fun a x => ?wcunp,
    fun a => completes_of_answers (fun _ => rfl) fun c s _ => wcinvEff_answers _ c s,
    completes_of_answers (fun _ => rfl) fun c s _ => wcinvEff_answers _ c s,
    fun a => completes_of_answers (fun _ => rfl) fun c s _ => rtgenEff_answers a c s,
    fun a => completes_of_answers (fun _ => rfl) fun c s _ => rtinvEff_answers _ c s,
    completes_of_answers (fun _ => rfl) fun c s _ => rtinvEff_answers _ c s,
    fun d a b => issue_completes (fun _ => rfl) fun s c _ _ _ => sampleEff_begins 0 d a b c s,
    fun d a b => issue_completes (fun _ => rfl) fun s c _ _ _ => sampleEff_begins 1 d a b c s,
    fun d a b => issue_completes (fun _ => rfl) fun s c _ _ _ => sampleEff_begins 2 d a b c s,
    fun d a b => issue_completes (fun _ => rfl) fun s c _ _ _ => sampleEff_begins 3 d a b c s,
    fun d a b => issue_completes (fun _ => rfl) fun s c _ _ _ => traceEff_begins 0 d a b c s,
    fun d a b => issue_completes (fun _ => rfl) fun s c _ _ _ => traceEff_begins 1 d a b c s,
    fun d => onGroup_of_exec fun _ => rfl,
    fun d a b => issue_completes (fun _ => rfl) fun s c _ _ _ => traceEff_begins 2 d a b c s,
    fun d a b => issue_completes (fun _ => rfl) fun s c _ _ _ => sampleEff_begins 4 d a b c s⟩
  case cp => exact issue_completes (fun _ => rfl) fun s c _ _ ⟨plain, ready⟩ => copyEff_plain plain ready
  case convert => exact issue_completes (fun _ => rfl) fun s c _ _ ⟨converts, ready, operands⟩ => copyEff_convert converts ready operands
  case rows => exact issue_completes (fun _ => rfl) fun s c _ _ ⟨ready, rows⟩ => copyEff_rows ready rows
  case scratch =>
    refine issue_completes (fun _ => rfl) fun s c _ _ ⟨ready, fits⟩ => copyEff_scratch (off := (c.g.sreg a).toNat) ready ?_ fits
    split <;> rfl
  case decompress => exact issue_completes (fun _ => rfl) fun s c _ _ ⟨ready, operands⟩ => copyEff_decompress ready operands
  case mma | mmakb | xmma => exact issue_completes (fun _ => rfl) fun s c _ _ ⟨full, token, room⟩ => mmaEff_begins a b full token room
  case accq => exact issue_completes (fun _ => rfl) fun s c _ _ ⟨full, token⟩ => accqEff_begins full token
  case accr => exact issue_completes (fun _ => rfl) fun s c _ _ ⟨full, token, still⟩ => accrEff_begins full token still
  case accld => exact issue_completes (fun _ => rfl) fun s c _ _ ⟨full, token⟩ => accldEff_begins full token
  case accst => exact issue_completes (fun _ => rfl) fun s c _ _ ⟨full, token⟩ => accstEff_begins a full token
  case acczr => exact issue_completes (fun _ => rfl) fun s c _ _ ⟨full, token, room⟩ => acczrEff_begins full token room
  case wcpin => exact issue_completes (fun _ => rfl) fun s c _ _ ⟨active, header, blob⟩ => wcpinEff_begins active header blob
  case wcunp => exact completes_of_answers (fun _ => rfl) fun c s ⟨active, header⟩ => wcunpEff_answers active header

end Sys2Proof.Machine
end

section
/-! PROOFS. HomeWriteFrame is refuted. An element of a store lies across two lines, and the second is a register line of a saved
group, which its core still holds (16 R393). The write goes to that line and to the journal's copy of it (16 R389), a third line. -/

namespace Sys2Proof.Machine

/-- The first half of lane 0's element of 8 bytes, in the last word of the line below 0x400080. -/
def lowPart : Access := { va := 0x40007C, len := 4, ask := .write, st := .ready, pa := 0x40007C }

/-- The second half, in the first word of the next line. -/
def highPart : Access := { off := 4, va := 0x400080, len := 4, ask := .write, st := .ready, pa := 0x400080, data := 5 }

/-- The store of that element. -/
def splitStore : Op :=
  { g := 0, ctx := 0, core := 0, pc := 0, word := 0, path := 0, act := 1, live := 1, sup := false, kind := .store, tick := 0,
    accs := [lowPart, highPart] }

/-- A saved group with its image at 0x400080, whose line 0 a core still holds (16 R393) and its journal has (16 R389). -/
def savedImage : Group := { home := .saved, ribPa := 0x400080, former := [(0, 0)], journal := [⟨0, 0, 0, []⟩] }

/-- The module at reset with that group and that store. -/
def savedState : State := { State.reset with groups := [(5, savedImage)], ops := [(1, splitStore)], nextOp := 2 }

/-- The second half goes to the register line that the core holds, and to the journal's copy of it, line 320 of the image. -/
theorem savedState_journal_written : memRead (savedState.homeWriteStep 1 0).mem 0x405080 = 5 := by decide

/-- Refutes O25: the second part of the element goes to a register line of a saved group that a core still holds, and with it to the
journal's copy of that line in module memory, which is neither the line of the write nor that of another part. -/
theorem not_homeWriteFrame : ¬ Obligations.HomeWriteFrame := by
  intro holds
  obtain ⟨-, -, frame⟩ := holds savedState (savedState.homeWriteStep 1 0) 1 0 splitStore lowPart rfl rfl (by decide) rfl
  have same := frame 0x405080 (by decide) (by decide)
  exact absurd (savedState_journal_written.symm.trans same) (by decide)

end Sys2Proof.Machine
end

noncomputable section
/-! PROOFS. AccessComplete is refuted. The condition on scratchpad reads is on precise mode and on check 7. A group in compatibility
mode is out of precise mode and still takes a poisoned word as a trap. -/

namespace Sys2Proof.Machine

/-- Whether an instruction goes on to its effect. -/
def Pre.goes : Pre → Bool
  | .go _ => true
  | _ => false

/-- An instruction that goes on issues for the path that has the turn. -/
theorem preIssue_of_goes {w : IWord} {u : Use} {s : State} {gid q : Nat} {g : Group} (cur : s.cur = some (gid, q))
    (here : s.groups.get? gid = some g) (goes : (preIssue w u s).goes = true) : preIssue w u s = .go (s.issAt w u gid q g) := by
  cases h : preIssue w u s with
  | go c =>
    obtain ⟨gid', q', g', cur', here', -, rfl⟩ := preIssue_go h
    obtain ⟨rfl, rfl⟩ := Prod.mk.inj (Option.some.inj (cur.symm.trans cur'))
    rw [Option.some.inj (here.symm.trans here')]
  | noIssuer | stay | ended => rw [h] at goes; cases goes

/-- The block with a poisoned word at the start of its scratchpad. -/
def spoiledBlock : Block := { bareBlock with scratchPoison := [0] }

/-- A group in compatibility mode, with the turn, in that block. -/
def spoiledState : State :=
  { State.reset.placeBare with cur := some (0, 0), ctxs := [(0, { bareCtx with compat := true })], blocks := [(0, spoiledBlock)] }

/-- The operands of lds v1, a2, v3. -/
def ldsUse : Use := { (MOff.vec 3).use 2 with later := { v := [1] }, cls := some 0, ownPoison := true }

/-- Its issue in that state. -/
def ldsIss : Iss := spoiledState.issAt (W.ldsReg 1 2 3) ldsUse 0 0 bareGroup

/-- Whether an effect is a trap. -/
def Eff.traps : Eff → Bool
  | .trap _ => true
  | _ => false

/-- Compatibility mode takes the poisoned word as a trap before the read begins (21 R469; log 42). -/
theorem ldsEff_spoiled : (ldsEff 1 2 (.vec 3) ldsIss spoiledState).traps = true := by decide +kernel

theorem Eff.stateOr_of_traps {e : Eff} (h : e.traps = true) (s : State) : e.stateOr s = s := by
  cases e with
  | trap t => rfl
  | ok | stay | ended => cases h

theorem spoiledState_ready : Ready (W.ldsReg 1 2 3) ldsUse (ldsEff 1 2 (.vec 3)) spoiledState ldsIss where
  go := preIssue_of_goes rfl rfl (by decide +kernel)
  noWatch := by unfold State.noWatch; decide +kernel
  room := by
    rw [Eff.stateOr_of_traps ldsEff_spoiled]
    exact ⟨bareGroup, bareGroup, rfl, rfl, rfl, by decide +kernel⟩

/-- Refutes O57, in its clause about lds with a vector offset: the condition holds, and the effect is a trap. -/
theorem not_accessComplete : ¬ Obligations.AccessComplete := by
  unfold Obligations.AccessComplete
  rintro ⟨-, -, -, -, -, -, -, lds, -⟩
  obtain ⟨t, fl, -, -, -, ok, -⟩ := lds 1 2 3 spoiledState ldsIss spoiledState_ready ⟨rfl, by decide +kernel⟩
  have traps := ldsEff_spoiled
  rw [ok] at traps
  exact absurd traps Bool.false_ne_true

end Sys2Proof.Machine
end

noncomputable section
/-! PROOFS. StepKeepsMemories is refuted. A block's size of scratchpad is any number, while `Block.ofFrame` sets what the frame holds
before the bytes that it keeps at 2^20 and above (16 R395, R396). With a scratchpad beyond 2^20 bytes the two lists can meet in a key. -/

namespace Sys2Proof.Machine

/-- The address of the block's frame, the same virtual and physical. -/
def frameVa : Nat := 0x20000

/-- The bytes of module memory but for the tag: the root pointer of the page tables, a leaf that maps the first 2^30 bytes to
themselves, and one byte of the frame, at offset 4096 + 2^20. -/
def bytesThere : List Host.Cell := [(0, 1), (2, 1), (0x10000, 0x1F), (0x121000, 1)]

/-- A saved block with a scratchpad of one byte more than 2^20, which its frame holds, and with a byte of its own at offset 2^20. -/
def wideBlock : Block :=
  { launch := 0, ctx := 0, groups := [0], frame := frameVa, ssize := 2 ^ 20 + 1, scratch := [(2 ^ 20, 1)], pixelOf := some 0 }

/-- The only group of the block, saved, with an image that is far from the frame. -/
def savedMember : Group := { home := .saved, rib := 2 ^ 60 }

/-- The context of the block. A fault record that waits for the host keeps every later one out of memory. -/
def recordedCtx : Ctx := { recs := [{ id := 0, va := 2 ^ 60, kind := 0, src := 3, detail := 6 }] }

/-- The module with that block, group and context, and a tag in the frame. -/
def savedWith (tag : Nat) : State :=
  { State.reset with
    mem := memWriteN bytesThere frameVa 8 tag
    ctxs := [(0, recordedCtx)]
    blocks := [(0, wideBlock)]
    groups := [(0, savedMember)] }

/-! ### The frame reads -/

theorem savedWith_held (tag half : Nat) : (savedWith tag).held half = none := by
  have group : savedMember.holds (half - savedMember.ribPa / 64) = false := by
    simp [Group.holds, savedMember, AMap.get?]
  have block : wideBlock.tileAt half = none := rfl
  simp [State.held, savedWith, group, block]

theorem savedWith_homeRead (tag : Nat) {pa : Nat} (plain : inAperture pa = false) (half : pieces pa 8 = [(pa / 64, pa % 64, pa % 64 + 8, 0)])
    (below : pa + 8 ≤ frameVa) : (savedWith tag).homeRead pa 8 = memReadN bytesThere pa 8 := by
  have own : (savedWith tag).foreign pa = false := by simp [State.foreign, plain]
  have here : 64 * (pa / 64) + pa % 64 = pa := Nat.div_add_mod pa 64
  have wf : memWf bytesThere = true := by decide
  have same : (savedWith tag).rdMem pa 8 = memReadN bytesThere pa 8 := memReadN_memWriteN_outside wf frameVa 8 tag pa 8 (.inl below)
  simp [State.homeRead, own, State.localRead, ownPa, plain, half, savedWith_held, here, same]

/-- The leaf of the first 2^30 bytes. -/
def wholeLeaf : Leaf := ⟨0, 30, 0, false, false, true, true, true⟩

theorem bits_eq_zero {x hi lo : Nat} (small : x < 2 ^ lo) : bits x hi lo = 0 := by
  simp [bits, Nat.shiftRight_eq_div_pow, Nat.div_eq_of_lt small]

theorem savedWith_walk (tag : Nat) {va : Nat} (small : va < 2 ^ 30) : (savedWith tag).walk 0 va = .ok wholeLeaf := by
  have top : bits va 56 43 = 0 := bits_eq_zero (by omega)
  have next : bits va 42 30 = 0 := bits_eq_zero small
  have root : ((savedWith tag).ctx 0).root = 0 := rfl
  have pointer : (savedWith tag).homeRead 0 8 = 0x10001 := savedWith_homeRead tag (by decide) (by decide) (by decide)
  have leaf : (savedWith tag).homeRead 0x10000 8 = 0x1F := savedWith_homeRead tag (by decide) (by decide) (by decide)
  have noProbe (pa n : Nat) : (savedWith tag).taps pa n = false := rfl
  have table : bits 0x10001 55 8 * 256 = 0x10000 := by decide
  have good : badPointer 0x10001 3 16 = false := by decide
  have whole : leafOf 0x1F 2 30 = .ok wholeLeaf := by decide
  have isPointer : Nat.testBit 0x10001 1 = false := by decide
  have isLeaf : Nat.testBit 0x1F 1 = true := by decide
  simp [State.walk, walkFrom, root, top, next, pointer, leaf, noProbe, isPointer, isLeaf, table, good, whole]

/-- Below 2^30 the context's image is mapped to its own addresses. -/
theorem savedWith_imagePa (tag : Nat) {va : Nat} (small : va < 2 ^ 30) : (savedWith tag).imagePa 0 va .read = .ok va := by
  have canon : canonical va = true := by
    simp [canonical, Nat.shiftRight_eq_div_pow, show va < 72057594037927936 by omega]
  have plain : inAperture va = false := by rw [inAperture, bits_eq_zero (by omega)]; rfl
  have permits : wholeLeaf.deny true .read = none := rfl
  have phys : wholeLeaf.phys va = va := (Nat.zero_add _).trans (Nat.mod_eq_of_lt small)
  have module : wholeLeaf.mt = 0 := rfl
  simp [State.imagePa, State.resolveCp, canon, savedWith_walk tag small, permits, module, phys, State.foreign, plain, ownPa]

theorem savedWith_spansFrom (tag base : Nat) {l : List (Nat × Nat)} (small : ∀ x ∈ l, x.1 < 2 ^ 30) :
    (savedWith tag).spansFrom 0 base .read l = .ok (l.map fun x => (x.1, x.1 - base, x.2)) := by
  induction l with
  | nil => rfl
  | cons x l ih =>
    obtain ⟨head, tail⟩ := List.forall_mem_cons.1 small
    simp [State.spansFrom, savedWith_imagePa tag head, ih tail]

/-- The frame's parts: physical address, offset, length. -/
def frameSpans : List (Nat × Nat × Nat) := (pageSpans frameVa wideBlock.frameSize).map fun x => (x.1, x.1 - frameVa, x.2)

theorem savedWith_imageSpans (tag : Nat) : (savedWith tag).imageSpans 0 frameVa wideBlock.frameSize .read = .ok frameSpans :=
  savedWith_spansFrom tag frameVa (by decide +kernel)

/-! ### The bytes of the frame, whatever its tag -/

/-- A byte that a filter leaves out makes no difference to what it lets through. -/
theorem filter_memWrite {p : Host.Cell → Bool} {a : Nat} (out : ∀ b, p (a, b) = false) (m : List Host.Cell) (b : Byte) :
    (memWrite m a b).filter p = m.filter p := by
  induction m with
  | nil => simp only [memWrite]; split <;> simp [out]
  | cons e m ih =>
    obtain ⟨k, x⟩ := e
    simp only [memWrite]
    split_ifs with before zero here zero
    · rfl
    · simp [out]
    · subst here; simp [out]
    · subst here; simp [out]
    · simp [List.filter_cons, ih]

theorem filter_memWriteN {p : Host.Cell → Bool} {a n : Nat} (out : ∀ k b, a ≤ k → k < a + n → p (k, b) = false) (m : List Host.Cell)
    (x : Nat) : (memWriteN m a n x).filter p = m.filter p := by
  induction n generalizing m a x with
  | zero => rfl
  | succ n ih =>
    rw [memWriteN, ih fun k b le lt => out k b (by omega) (by omega), filter_memWrite fun b => out a b le_rfl (by omega)]

/-- The bytes of the frame after its tag: one, at offset 4096 + 2^20. -/
def frameBytes : List Host.Cell := [(0x101000, 1)]

theorem savedWith_spanCells (tag : Nat) : ((savedWith tag).spanCells frameSpans).filter (fun c => decide (8 ≤ c.1)) = frameBytes := by
  have apart : ∀ x ∈ frameSpans, x.1 = frameVa + x.2.1 := by decide +kernel
  have noTag : ((savedWith tag).spanCells frameSpans).filter (fun c => decide (8 ≤ c.1)) =
      ((savedWith 0).spanCells frameSpans).filter (fun c => decide (8 ≤ c.1)) := by
    simp only [State.spanCells, List.filter_flatMap, List.filter_map, List.filter_filter]
    refine List.flatMap_congr fun x here => congrArg _ ?_
    have start := apart x here
    have out : ∀ k (b : Byte), frameVa ≤ k → k < frameVa + 8 →
        (((fun c : Host.Cell => decide (8 ≤ c.1)) ∘ fun c : Host.Cell => (c.1 - x.1 + x.2.1, c.2)) (k, b) &&
          decide (x.1 ≤ k ∧ k < x.1 + x.2.2)) = false := by
      intro k b _ _
      simp only [Function.comp, Bool.and_eq_false_iff, decide_eq_false_iff_not]
      omega
    exact (filter_memWriteN out _ tag).trans (filter_memWriteN out _ 0).symm
  rw [noTag]
  decide +kernel

/-! ### The block's return -/

/-- The tag of that frame, a free value (R395). -/
def frameTag : Nat := wideBlock.tag frameBytes []

theorem savedWith_rdTag : (savedWith frameTag).rdMem frameVa 8 = frameTag :=
  memReadN_memWriteN (by decide) frameVa 8 frameTag (Nat.mod_lt _ (by decide))

/-- A block without accumulator images on its cores again, with what its frame holds (16 R396). -/
def State.backOn (s : State) (bid : Nat) (b : Block) (cs : List (Nat × List Nat × Nat)) (cells : List Host.Cell) : State :=
  let d := s.blockDesc b
  let t := cs.foldl (fun s c => s.takeCore c.1 b.ctx d) s
  t.updBlock bid fun b =>
    { b.ofFrame cells with
      tilePas := if b.hasImage then t.tileSpans b.ctx b.aibs d.acc else []
      cores := cs.map (·.1), sbases := cs.map (·.2.1), aslots := cs.map (·.2.2), reported := false, placedAt := t.gnomon }

/-- A block without accumulator images whose frame reads, with its tag in order, comes back (16 R395, R396). -/
theorem State.returnBlock_of_tag {s : State} {bid core : Nat} {b : Block} {cs : List (Nat × List Nat × Nat)} {l : List (Nat × Nat × Nat)}
    (here : s.blocks.get? bid = some b) (pixel : b.hasImage = false)
    (fits : s.chooseCores core (s.blockDesc b) s.reserved = some cs)
    (spans : s.imageSpans b.ctx b.frame b.frameSize .read = .ok l) (noProbe : s.probe = none) (clean : s.memPoison = [])
    (tag : s.rdMem (l.headD (0, 0, 0)).1 8 = b.tag ((s.spanCells l).filter fun c => decide (8 ≤ c.1)) b.tris) :
    s.returnBlock bid core = s.backOn bid b cs ((s.spanCells l).filter fun c => decide (8 ≤ c.1)) := by
  have admitted : s.blockRefused b .read = none := by simp [State.blockRefused, State.blockImages, pixel, spans]
  have noTap (pa n : Nat) : s.taps pa n = false := by simp [State.taps, noProbe]
  have noPoison (pa n : Nat) : s.poisonAt pa n = none := by simp [State.poisonAt, clean, AMap.get?]
  simp only [State.returnBlock, here, fits, admitted, spans, tag, noTap, noPoison, pixel]
  simp [State.backOn]

/-- The module after the block's return to core 0. -/
def wideBack : State := (savedWith frameTag).backOn 0 wideBlock [(0, [], 0)] frameBytes

theorem savedWith_returnBlock : (savedWith frameTag).returnBlock 0 0 = wideBack := by
  have fits : (savedWith frameTag).chooseCores 0 ((savedWith frameTag).blockDesc wideBlock) (savedWith frameTag).reserved =
      some [(0, [], 0)] := by decide +kernel
  have first : (frameSpans.headD (0, 0, 0)).1 = frameVa := by decide +kernel
  have tag : (savedWith frameTag).rdMem (frameSpans.headD (0, 0, 0)).1 8 =
      wideBlock.tag (((savedWith frameTag).spanCells frameSpans).filter fun c => decide (8 ≤ c.1)) wideBlock.tris := by
    rw [first, savedWith_rdTag, savedWith_spanCells]
    rfl
  rw [State.returnBlock_of_tag rfl rfl fits (savedWith_imageSpans frameTag) rfl rfl tag, savedWith_spanCells, wideBack]

theorem savedWith_groupResume : (savedWith frameTag).groupResume 0 0 = wideBack.enterCore 0 savedMember 0 := by
  have group : (savedWith frameTag).groups.get? 0 = some savedMember := rfl
  have ready : (savedWith frameTag).resumable savedMember = true := rfl
  have core : (savedWith frameTag).resumeCore 0 savedMember 0 = some 0 := by decide +kernel
  have gone : ((savedWith frameTag).blocks.get? savedMember.block).map (·.cores) = some [] := rfl
  have member : wideBack.groups.get? 0 = some savedMember := rfl
  have place : (wideBack.blocks.get? savedMember.block).bind (·.cores[wideBack.memberOf savedMember]?) = some 0 := rfl
  have block : savedMember.block = 0 := rfl
  rw [block] at gone place
  simp only [State.groupResume, group, ready, core, block, gone, savedWith_returnBlock, member, place,
    Bool.not_true, Bool.false_eq_true, if_true, if_false]

/-! ### The step -/

section
variable {s t : State} {i : Instr}

/-- A module's own event is its step, when no half-line is away, no peer is there and no slice sleeps. -/
theorem event_of_next (own : outside i = false) (halves : s.halves = []) (peers : s.peers = []) (awake : s.asleep = [])
    (run : exec i s = .next t) : s.event i = .next t := by
  obtain ⟨A, wake, -, same⟩ := State.wakeMet_next run
  obtain ⟨W, moved, still⟩ := s.moved_waiting (.turn (.event i)) { t with asleep := A }
  obtain rfl := same awake
  obtain rfl := still halves
  simp only [State.event, own, Bool.false_eq_true, if_false, State.perform, State.heldUp_none halves peers, wake, moved]

/-- Such an event at the head of the agenda is the step's move (log 1). -/
theorem move_of_event {l : List Turn} (agenda : s.agenda = .event i :: l) (own : outside i = false) (halves : s.halves = [])
    (peers : s.peers = []) (awake : s.asleep = []) (run : exec i { s with agenda := l } = .next t) : s.move = .next t := by
  have event := event_of_next (s := { s with agenda := l }) own halves peers awake run
  have noWait : ({ s with agenda := l } : State).turnWaits (.event i) = false := by
    simp only [State.turnWaits, own, Bool.not_false, Bool.true_and, State.heldUp_none (s := { s with agenda := l }) halves peers,
      Option.isSome_none]
  simp only [State.move, agenda, noWait, Bool.false_eq_true, if_false, State.runTurn, event]

end

/-- The module with that block and the resumption of its group as its next turn. -/
def resuming : State := { savedWith frameTag with agenda := [.event (.groupResume 0 0)] }

theorem resuming_memsWf : resuming.memsWf :=
  ⟨memWriteN_wf (by decide) .., rfl, by decide +kernel⟩

theorem step_resuming : step resuming = .next (wideBack.enterCore 0 savedMember 0).tick := by
  refine step_of_move (move_of_event (i := .groupResume 0 0) rfl rfl rfl rfl rfl ?_)
  exact congrArg Host.Outcome.next savedWith_groupResume

/-- The scratchpad has its key 2^20 twice: from the frame, and kept from before. -/
theorem step_resuming_scratch : ((wideBack.enterCore 0 savedMember 0).tick.blocks.all fun e => memWf e.2.scratch) = false := by
  decide +kernel

/-- Refutes O26: GROUP_RESUME makes a scratchpad with a key listed twice. -/
theorem not_stepKeepsMemories : ¬ Obligations.StepKeepsMemories := by
  intro holds
  obtain ⟨-, -, canonical⟩ := holds resuming _ resuming_memsWf step_resuming
  have all := List.all_eq_true.2 canonical
  exact absurd (step_resuming_scratch.symm.trans all) (by decide)

end Sys2Proof.Machine
end

section
/-! PROOFS. The atomics, monitors, barriers, fences and round instructions (09 R229 to R250; 15 R373), and the events of the host
interface, of bring-up, repair and power (08 R222, R223; 21 R470 to R475; 22 R478 to R485). -/

namespace Sys2Proof.Machine

/-- Settles O46: `exec` issues each of the instructions with the effect that the statement names; bar, fence.rel, fence.ar and radv
have an effect on their group alone. -/
theorem syncInstructions : Obligations.SyncInstructions := by
  unfold Obligations.SyncInstructions
  refine ⟨?cwait, onGroup_of_exec fun _ => rfl, ?barw, ?gbar, ?fenceAcq, fun _ => onGroup_of_exec fun _ => rfl,
    fun _ => onGroup_of_exec fun _ => rfl, ?atom, ?red, ?cas, ?barv, ?mwait, fun _ _ => onGroup_of_exec fun _ => rfl, ?rrd, ?rrdObs⟩
  all_goals intros; exact onState_of_exec fun _ => rfl

/-- A token of the present generation holds the path, and every other one lets it pass with an acquire (09 R242). -/
theorem barwEff_answers (a : BitVec 6) (c : Iss) (s : State) : ∃ t, barwEff a c s = .ok t [] := by
  dsimp only [barwEff]
  split
  case h_1 noBlock => exact ⟨_, rfl⟩
  case h_2 block _ => split <;> exact ⟨_, rfl⟩

/-- Settles O58: an atomic begins its operation (`atom_done`), a monitor answers (`mwait_done`), and the barriers, fences and round
instructions answer in every state. -/
theorem syncComplete : Obligations.SyncComplete := by
  obtain ⟨-, bar, -, -, -, fenceRel, fenceAr, -⟩ := syncInstructions
  exact ⟨fun _ _ => issue_completes (fun _ => rfl) fun _ _ _ noWatch ready => mwait_done noWatch ready,
    bar,
    fun a => completes_of_answers (fun _ => rfl) fun c s _ => barwEff_answers a c s,
    completes_of_answers (fun _ => rfl) fun _ _ _ => ⟨_, rfl⟩,
    fun _ => completes_of_answers (fun _ => rfl) fun _ _ _ => ⟨_, rfl⟩,
    fenceRel,
    fenceAr,
    fun _ _ _ => issue_completes (fun _ => rfl) fun _ _ _ noWatch ready => atom_done noWatch ready,
    fun _ _ _ => issue_completes (fun _ => rfl) fun _ _ _ noWatch ready => atom_done noWatch ready,
    fun _ _ _ => issue_completes (fun _ => rfl) fun _ _ _ noWatch ready => atom_done noWatch ready,
    fun _ _ _ => completes_of_answers (fun _ => rfl) fun _ _ _ => ⟨_, rfl⟩,
    fun _ _ _ => issue_completes (fun _ => rfl) fun _ _ _ noWatch ready => mwait_done noWatch ready,
    fun _ _ => completes_of_answers (fun _ => rfl) fun _ _ _ => ⟨_, rfl⟩,
    fun _ _ => completes_of_answers (fun _ => rfl) fun _ _ _ => ⟨_, rfl⟩,
    fun _ _ => completes_of_answers (fun _ => rfl) fun _ _ _ => ⟨_, rfl⟩⟩

/-- Settles O53: `exec` answers each event with the function that the statement names. -/
theorem hostEvents : Obligations.HostEvents := by
  unfold Obligations.HostEvents
  and_intros
  all_goals intros; rfl

end Sys2Proof.Machine
end

section
/-! PROOFS. What an atomic operation does to its word at the home (09 R228, R230 to R232): the bytes that a home reads and writes for
an access that no core holds, and the values of the integer operations. -/

namespace Sys2Proof.Machine

/-! ### Runs of bytes in two parts, and their bytes -/

theorem memReadN_add (m : List Host.Cell) (a p q : Nat) :
    memReadN m a (p + q) = memReadN m a p + memReadN m (a + p) q <<< (8 * p) := by
  induction p generalizing a with
  | zero => simp [memReadN]
  | succ p ih =>
    rw [Nat.add_right_comm, memReadN, memReadN, ih, Nat.shiftLeft_eq, Nat.shiftLeft_eq,
      show a + 1 + p = a + (p + 1) by omega, show 8 * (p + 1) = 8 * p + 8 by omega, pow_add]
    ring

theorem memWriteN_add (m : List Host.Cell) (a p q x : Nat) :
    memWriteN m a (p + q) x = memWriteN (memWriteN m a p x) (a + p) q (x >>> (8 * p)) := by
  induction p generalizing m a x with
  | zero => simp [memWriteN]
  | succ p ih =>
    rw [Nat.add_right_comm, memWriteN, memWriteN, ih, show a + 1 + p = a + (p + 1) by omega,
      show 8 * (p + 1) = 8 + 8 * p by omega, Nat.shiftRight_add, Nat.shiftRight_eq_div_pow x 8]

/-- Byte i of a number read from memory (00 R7). -/
theorem byte_memReadN (m : List Host.Cell) (a : Nat) {n i : Nat} (h : i < n) :
    BitVec.ofNat 8 (memReadN m a n >>> (8 * i)) = memRead m (a + i) := by
  induction n generalizing a i with
  | zero => omega
  | succ n ih =>
    have low := (memRead m a).isLt
    cases i with
    | zero =>
      have first : memReadN m a (n + 1) % 256 = (memRead m a).toNat := by rw [memReadN]; omega
      exact BitVec.eq_of_toNat_eq (by simpa using first)
    | succ i =>
      have rest : memReadN m a (n + 1) >>> 8 = memReadN m (a + 1) n := by
        rw [memReadN, Nat.shiftRight_eq_div_pow]; omega
      rw [show 8 * (i + 1) = 8 + 8 * i by omega, Nat.shiftRight_add, rest, ih (a + 1) (by omega)]
      congr 1; omega

/-- Byte i of a number written to memory (00 R7). -/
theorem memRead_memWriteN {m : List Host.Cell} (wf : memWf m = true) (a x : Nat) {n i : Nat} (h : i < n) :
    memRead (memWriteN m a n x) (a + i) = BitVec.ofNat 8 (x >>> (8 * i)) := by
  induction n generalizing m a x i with
  | zero => omega
  | succ n ih =>
    have wf' := memWrite_wf wf a (BitVec.ofNat 8 x)
    cases i with
    | zero => rw [memWriteN, memRead_memWriteN_outside wf' _ _ _ _ (by omega), memRead_memWrite wf]; simp
    | succ i =>
      rw [memWriteN, show a + (i + 1) = a + 1 + i by omega, ih wf' _ _ (by omega), show 8 * (i + 1) = 8 + 8 * i by omega,
        Nat.shiftRight_add, Nat.shiftRight_eq_div_pow x 8]

/-! ### The pieces of a run, one in each half-line -/

/-- The piece of n bytes from pa in half-line h, as `pieces` has it. -/
def pieceOf (pa n h : Nat) : Nat × Nat × Nat × Nat :=
  (h, max pa (64 * h) - 64 * h, min (pa + n) (64 * h + 64) - 64 * h, max pa (64 * h) - pa)

theorem pieces_eq (pa n : Nat) : pieces pa n = (halvesOf pa n).map (pieceOf pa n) := rfl

/-- A piece goes from the last byte before its half-line to the last byte in it. -/
theorem pieceOf_eq {pa n h : Nat} (first : pa / 64 ≤ h) (last : 64 * h < pa + n) :
    ∃ lo len, pieceOf pa n h = (h, lo, lo + len, min n (64 * h - pa)) ∧ 64 * h + lo = pa + min n (64 * h - pa) ∧
      min n (64 * h - pa) + len = min n (64 * (h + 1) - pa) := by
  refine ⟨max pa (64 * h) - 64 * h, min (pa + n) (64 * h + 64) - max pa (64 * h), ?_, by omega, by omega⟩
  simp only [pieceOf, Prod.mk.injEq, true_and]
  omega

/-- A fold over the pieces of a run: each piece takes the fold from the bytes before it to the bytes with it. -/
theorem foldl_pieces {β : Type} {f : β → Nat × Nat × Nat × Nat → β} {b : β} {pa n : Nat} (P : Nat → β → Prop) (pos : 0 < n)
    (start : P 0 b)
    (piece : ∀ b h lo off len, h ∈ halvesOf pa n → 64 * h + lo = pa + off → P off b →
      P (off + len) (f b (h, lo, lo + len, off))) :
    P n ((pieces pa n).foldl f b) := by
  have upTo (j : Nat) (hj : j ≤ (pa + n - 1) / 64 - pa / 64 + 1) :
      P (min n (64 * (j + pa / 64) - pa)) ((((List.range j).map (· + pa / 64)).map (pieceOf pa n)).foldl f b) := by
    induction j with
    | zero => rw [show min n (64 * (0 + pa / 64) - pa) = 0 by omega]; exact start
    | succ j ih =>
      have here : j + pa / 64 ∈ halvesOf pa n := List.mem_map.2 ⟨j, List.mem_range.2 (by omega), rfl⟩
      obtain ⟨lo, len, shape, place, reach⟩ := pieceOf_eq (pa := pa) (n := n) (h := j + pa / 64) (by omega) (by omega)
      have next := piece _ _ lo _ len here place (ih (by omega))
      rw [reach, ← shape, Nat.add_right_comm] at next
      simpa [List.range_succ] using next
  have whole := upTo _ le_rfl
  rw [pieces_eq, halvesOf]
  rwa [show min n (64 * ((pa + n - 1) / 64 - pa / 64 + 1 + pa / 64) - pa) = n by omega] at whole

/-! ### What a home reads and writes of bytes that no core holds -/

theorem State.foreign_of_own {pa : Nat} (own : inAperture pa = false) (s : State) : s.foreign pa = false := by
  simp [State.foreign, own]

theorem ownPa_of_own {pa : Nat} (own : inAperture pa = false) : ownPa pa = pa := by simp [ownPa, own]

theorem State.localRead_unheld {s : State} {pa n : Nat} (pos : 0 < n) (free : ∀ h ∈ halvesOf pa n, s.held h = none) :
    s.localRead pa n = memReadN s.mem pa n := by
  unfold State.localRead
  rw [List.foldl_map]
  refine foldl_pieces (fun off x => x = memReadN s.mem pa off) pos rfl fun x h lo off len here place before => ?_
  simp only [free h here, State.rdMem, place, Nat.add_sub_cancel_left, before, memReadN_add]

theorem State.wakeSlice_eq (s : State) (cum : Bool) (pa : Nat) (must : Bool) :
    ∃ l, s.wakeSlice cum pa must = { s with asleep := l } := by
  unfold State.wakeSlice
  dsimp only
  split_ifs <;> exact ⟨_, rfl⟩

theorem State.wakeFor_eq (s : State) (cum : Bool) (pa n : Nat) : ∃ l, s.wakeFor cum pa n = { s with asleep := l } := by
  unfold State.wakeFor
  split_ifs
  · exact ⟨_, rfl⟩
  · refine List.foldlRecOn (motive := fun t : State => ∃ l, t = { s with asleep := l }) _ _ ⟨s.asleep, rfl⟩ fun t ht h _ => ?_
    obtain ⟨l, rfl⟩ := ht
    split
    · exact ⟨_, rfl⟩
    · exact State.wakeSlice_eq _ _ _ _

theorem State.wrMem_add (s : State) (pa p q x : Nat) :
    s.wrMem pa (p + q) x = (s.wrMem pa p x).wrMem (pa + p) q (x >>> (8 * p)) := by
  simp only [State.wrMem, memWriteN_add]

/-- An ordinary home writes bytes that no core holds to module memory (08 R198). -/
theorem State.homeApply_unheld {s : State} {pa n x : Nat} (own : inAperture pa = false) (there : s.lost pa = false) (pos : 0 < n)
    (free : ∀ h ∈ halvesOf pa n, s.held h = none) : s.homeApply pa n x = (s.wakeFor false pa n).wrMem pa n x := by
  obtain ⟨l, woken⟩ := s.wakeFor_eq false pa n
  simp only [State.homeApply, State.foreign_of_own own, ownPa_of_own own, there, woken, Bool.false_eq_true, if_false]
  refine foldl_pieces (fun off t => t = ({ s with asleep := l } : State).wrMem pa off x) pos rfl fun t h lo off len here place before => ?_
  subst before
  have unheld : (({ s with asleep := l } : State).wrMem pa off x).held h = none := free h here
  simp only [unheld, place, Nat.add_sub_cancel_left, State.wrMem_add]

/-! ### The accesses in flight -/

/-- t has the memories of s, and the accesses of each operation of s. -/
def State.KeepsAccesses (s t : State) : Prop :=
  t.mem = s.mem ∧ t.hostMem = s.hostMem ∧ ∀ id, (t.ops.get? id).map (·.accs) = (s.ops.get? id).map (·.accs)

theorem State.KeepsAccesses.refl (s : State) : s.KeepsAccesses s := ⟨rfl, rfl, fun _ => rfl⟩

theorem State.KeepsAccesses.updOp {s t : State} (h : s.KeepsAccesses t) (id : Nat) {f : Op → Op} (hf : ∀ o, (f o).accs = o.accs) :
    s.KeepsAccesses (t.updOp id f) := by
  obtain ⟨mem, hostMem, accs⟩ := h
  refine ⟨mem, hostMem, fun j => ?_⟩
  rw [← accs j]
  by_cases same : j = id
  · subst same; simp [Function.comp_def, hf]
  · simp [AMap.get?_upd_ne _ _ same]

/-- A wake gives its operation a phase and a result (09 R237). -/
theorem State.wakeMonitors_keepsAccesses (s : State) (ws : List (Nat × Nat)) : s.KeepsAccesses (s.wakeMonitors ws) := by
  unfold State.wakeMonitors
  extract_lets wakes s' woken
  have kept : s.KeepsAccesses s' := by
    refine List.foldlRecOn _ _ (.refl s) fun t ht m _ => ?_
    split
    · exact ht
    · exact ht.updOp _ fun _ => rfl
  exact kept

/-- The access that an event names is there after what keeps the accesses. -/
theorem State.KeepsAccesses.acc? {s t : State} (h : s.KeepsAccesses t) {id k : Nat} {o : Op} {a : Access}
    (here : s.acc? id k = some (o, a)) : ∃ o', t.acc? id k = some (o', a) := by
  obtain ⟨-, -, accs⟩ := h
  simp only [State.acc?, Option.bind_eq_some_iff, Option.map_eq_some_iff, Prod.mk.injEq] at here ⊢
  obtain ⟨x, hx, b, hb, rfl, rfl⟩ := here
  have same := accs id
  rw [hx] at same
  obtain ⟨o', ho', list⟩ := Option.map_eq_some_iff.1 same
  exact ⟨o', o', ho', b, list ▸ hb, rfl, rfl⟩

theorem State.acc?_updAcc {s : State} {id k : Nat} {o : Op} {a : Access} (here : s.acc? id k = some (o, a)) (f : Access → Access) :
    ∃ o', (s.updAcc id k f).acc? id k = some (o', f a) := by
  simp only [State.acc?, Option.bind_eq_some_iff, Option.map_eq_some_iff, Prod.mk.injEq] at here
  obtain ⟨x, hx, b, hb, rfl, rfl⟩ := here
  simp [State.acc?, State.updAcc, hx, hb]

/-- A slice that wakes, the reply to the access and a completion time leave the memories as they are. -/
theorem State.acc?_reply {s : State} {id k : Nat} {o : Op} {a : Access} (here : s.acc? id k = some (o, a)) (b : Access) (cum : Bool)
    (pa : Nat) (must : Bool) {f : Op → Op} (hf : ∀ o, (f o).accs = o.accs) :
    let r := ((s.wakeSlice cum pa must).updAcc id k fun _ => b).updOp id f
    (∃ o', r.acc? id k = some (o', b)) ∧ r.mem = s.mem ∧ r.hostMem = s.hostMem := by
  obtain ⟨l, woken⟩ := s.wakeSlice_eq cum pa must
  rw [woken]
  obtain ⟨o', replied⟩ := State.acc?_updAcc (s := { s with asleep := l }) here fun _ => b
  exact ⟨((State.KeepsAccesses.refl _).updOp id hf).acc? replied, rfl, rfl⟩

/-! ### The home's write of an access, and its operation -/

/-- What is written depends on the memories alone. -/
theorem State.storedTo.of_mem {s t r : State} {pa n x : Nat} (h : s.storedTo t pa n x) (mem : r.mem = t.mem)
    (hostMem : r.hostMem = t.hostMem) : s.storedTo r pa n x := by
  obtain ⟨inside, outside, host⟩ := h
  exact ⟨fun i hi => by rw [mem]; exact inside i hi, fun y hy => by rw [mem]; exact outside y hy, hostMem.trans host⟩

/-- Memory that stays holds the number that is read there. -/
theorem State.storedTo_self (s : State) (pa n : Nat) : s.storedTo s pa n (memReadN s.mem pa n) :=
  ⟨fun _ hi => (byte_memReadN s.mem pa hi).symm, fun _ _ => rfl, rfl⟩

theorem State.storedTo_wrMem {s : State} (wf : memWf s.mem = true) (pa n x : Nat) : s.storedTo (s.wrMem pa n x) pa n x :=
  ⟨fun _ hi => memRead_memWriteN wf pa x hi, fun _ hy => memRead_memWriteN_outside wf pa n x _ hy, rfl⟩

/-- No half-line is poisoned at the start of clean bytes that no core holds (21 R468). -/
theorem State.halfPoison_of_clean {s : State} {pa n : Nat} (own : inAperture pa = false) (there : s.lost pa = false)
    (clean : s.homePoison pa n = none) : s.halfPoison (pa / 64) = none := by
  simp only [State.homePoison, State.foreign_of_own own, ownPa_of_own own, there, Bool.false_eq_true, if_false,
    List.findSome?_eq_none_iff, pieces, List.forall_mem_map] at clean
  have first : pa / 64 ∈ halvesOf pa n := List.mem_map.2 ⟨0, List.mem_range.2 (by omega), Nat.zero_add _⟩
  have unpoisoned := clean _ first
  unfold State.halfPoison
  split_ifs with held
  · rfl
  · rw [Option.not_isSome_iff_eq_none] at held
    simpa only [held] using unpoisoned

namespace ServedHere

variable {s : State} {id k : Nat} {o : Op} {a : Access} (served : ServedHere s id k o a)
include served

theorem inAperture_eq_false : inAperture a.pa = false := by
  have home := served.home
  simp only [State.atHome, Bool.and_eq_true, Bool.not_eq_true'] at home
  obtain ⟨⟨⟨⟨-, own⟩, -⟩, -⟩, -⟩ := home
  exact own

theorem held_eq_none : ∀ h ∈ halvesOf a.pa a.len, s.held h = none := by
  have free := List.any_eq_false.1 served.free.1
  exact fun h here => Option.not_isSome_iff_eq_none.1 (free h here)

/-- The home reads the access's bytes from memory (08 R199). -/
theorem homeRead_eq : s.homeRead a.pa a.len = memReadN s.mem a.pa a.len := by
  obtain ⟨-, -, -, pos, -⟩ := served.plain
  simp only [State.homeRead, State.foreign_of_own served.inAperture_eq_false, ownPa_of_own served.inAperture_eq_false,
    Bool.false_eq_true, if_false, State.localRead_unheld pos served.held_eq_none]

theorem storedTo_applyWrite (x : Nat) : s.storedTo (s.applyWrite a.pa a.len x) a.pa a.len x := by
  obtain ⟨-, -, -, pos, -⟩ := served.plain
  obtain ⟨l, woken⟩ := s.wakeFor_eq false a.pa a.len
  obtain ⟨mem, hostMem, -⟩ := State.wakeMonitors_keepsAccesses
    ((s.homeApply a.pa a.len x).clearPoison (wholeHalves a.pa a.len)) [(a.pa, a.len)]
  have applied := State.homeApply_unheld (x := x) served.inAperture_eq_false served.free.2 pos served.held_eq_none
  refine (State.storedTo_wrMem served.wf a.pa a.len x).of_mem (mem.trans ?_) (hostMem.trans ?_)
  · rw [applied, woken]; rfl
  · rw [applied, woken]; rfl

theorem acc?_applyWrite (x : Nat) : ∃ o', (s.applyWrite a.pa a.len x).acc? id k = some (o', a) := by
  obtain ⟨-, -, -, pos, -⟩ := served.plain
  obtain ⟨l, woken⟩ := s.wakeFor_eq false a.pa a.len
  refine (State.wakeMonitors_keepsAccesses _ _).acc? (o := o) ?_
  simp only [List.foldl_cons, List.foldl_nil, woken,
    State.homeApply_unheld served.inAperture_eq_false served.free.2 pos served.held_eq_none]
  exact served.here

/-- The operation of a clean word, as R228 and R231 have it: the old word comes back, and unless a compare-and-swap missed the new one
is written. -/
theorem serveAtomic_eq {dst : Option Nat} {op : Nat} {cas : Bool} {t : Ty} (kind : o.kind = .atom dst op cas t)
    (clean : s.homePoison a.pa a.len = none) :
    let old := memReadN s.mem a.pa a.len
    s.serveAtomic id k false =
      ((((if cas && old != o.vals.getD a.lane 0 then s
          else s.applyWrite a.pa a.len (if cas then a.data else atomNew op t old a.data)).wakeSlice false a.pa false).updAcc id k
        fun _ => { a with st := .fill, tick := s.gnomon, data := old, poison := none }).updOp id
        fun o => { o with ct := ctMax o.ct (s.timesOf false a) }) := by
  obtain ⟨plain, -⟩ := served.plain
  have whole : s.coverRed o a = s := by
    simp [State.coverRed, State.halfPoison_of_clean served.inAperture_eq_false served.free.2 clean]
  simp only [State.serveAtomic, served.here, whole, State.readAcc, plain, served.homeRead_eq, clean, kind, State.writeDec,
    Bool.false_eq_true, if_false, Option.or_none, Option.getD_some]

/-- After the operation the access has the old word, at this tick, and the word is the new one. -/
theorem serveAtomic_stores {dst : Option Nat} {op : Nat} {cas : Bool} {t : Ty} (kind : o.kind = .atom dst op cas t)
    (clean : s.homePoison a.pa a.len = none) :
    let old := memReadN s.mem a.pa a.len
    let new := if cas then (if old = o.vals.getD a.lane 0 then a.data else old) else atomNew op t old a.data
    ∃ o', (s.serveAtomic id k false).acc? id k = some (o', { a with st := .fill, tick := s.gnomon, data := old, poison := none }) ∧
      s.storedTo (s.serveAtomic id k false) a.pa a.len new := by
  intro old new
  have step := served.serveAtomic_eq kind clean
  extract_lets at step
  set u := if cas && old != o.vals.getD a.lane 0 then s
    else s.applyWrite a.pa a.len (if cas then a.data else atomNew op t old a.data) with hu
  have word : (∃ o', u.acc? id k = some (o', a)) ∧ s.storedTo u a.pa a.len new := by
    cases cas with
    | false => exact ⟨served.acc?_applyWrite _, served.storedTo_applyWrite _⟩
    | true =>
      by_cases met : old = o.vals.getD a.lane 0
      · simp only [hu, new, met, bne_self_eq_false, Bool.and_false, Bool.false_eq_true, if_false, if_true]
        exact ⟨served.acc?_applyWrite _, served.storedTo_applyWrite _⟩
      · have missed : (old != o.vals.getD a.lane 0) = true := bne_iff_ne.2 met
        simp only [hu, new, met, missed, Bool.and_true, if_false, if_true]
        exact ⟨⟨o, served.here⟩, s.storedTo_self _ _⟩
  obtain ⟨⟨o', here⟩, stored⟩ := word
  obtain ⟨⟨o'', replied⟩, mem, hostMem⟩ := State.acc?_reply here
    { a with st := .fill, tick := s.gnomon, data := old, poison := none } false a.pa false
    (f := fun o => { o with ct := ctMax o.ct (s.timesOf false a) }) fun _ => rfl
  rw [step]
  exact ⟨o'', replied, stored.of_mem mem hostMem⟩

/-- HOME_ATOMIC performs the operation of an access to be served, after the lower lanes of its word (09 R228, R232). -/
theorem homeAtomicStep_eq (atomic : a.ask.isAtomic = true) (lower : o.lowerApplied k a = true) :
    s.homeAtomicStep id k = s.serveAtomic id k false := by
  simp [State.homeAtomicStep, served.here, served.home, served.free.1, atomic, lower]

end ServedHere

/-! ### The integer operations -/

theorem intVal_emod (t : Ty) (x : Nat) : intVal t x % 2 ^ t.width = (x : Int) % 2 ^ t.width := by
  unfold intVal
  dsimp only
  split_ifs
  · rw [Int.sub_emod_right]; simp
  · simp

/-- Addition modulo 2^w is that of the patterns (09 R230). -/
theorem wrapInt_add (t : Ty) (x y : Nat) : wrapInt t (intVal t x + intVal t y) = (x + y) % 2 ^ t.width := by
  unfold wrapInt
  rw [Int.add_emod, intVal_emod, intVal_emod, ← Int.add_emod]
  norm_cast

section
variable {t : Ty} (integer : t ≠ .f32) (x y : Nat)
include integer

theorem atomNew_add : atomNew 0 t x y = (x + y) % 2 ^ t.width := by
  simp only [atomNew, if_neg integer, wrapInt_add]

theorem intVal_atomNew_min : intVal t (atomNew 1 t x y) = min (intVal t x) (intVal t y) := by
  simp only [atomNew, if_neg integer, apply_ite (intVal t), min_def]

theorem intVal_atomNew_max : intVal t (atomNew 2 t x y) = max (intVal t x) (intVal t y) := by
  simp only [atomNew, if_neg integer, apply_ite (intVal t), max_comm (intVal t x), max_def]

end

/-- Settles O31: the home's operation is `ServedHere.serveAtomic_stores`, and the integer operations are those of the table of R230. -/
theorem atomicWord : Obligations.AtomicWord := by
  unfold Obligations.AtomicWord
  refine ⟨fun s id k o a dst op cas t served lower kind ask clean => ?word, fun t x y type _ _ => ?integer, fun _ _ => ⟨rfl, rfl⟩⟩
  case word =>
    have atomic : a.ask.isAtomic = true := by rw [ask]; cases dst <;> rfl
    obtain ⟨o', here, stored⟩ := served.serveAtomic_stores kind clean
    exact ⟨_, o', _, congrArg Host.Outcome.next (served.homeAtomicStep_eq atomic lower), here, rfl, rfl, rfl, rfl, stored⟩
  case integer =>
    have integer : t ≠ .f32 := by rcases type with rfl | rfl | rfl <;> decide
    exact ⟨atomNew_add integer x y, intVal_atomNew_min integer x y, intVal_atomNew_max integer x y,
      fun k => ⟨Nat.testBit_and .., Nat.testBit_or .., Nat.testBit_xor ..⟩, rfl⟩

end Sys2Proof.Machine
end

section
/-! PROOFS. The weight-cache, sampler and ray instructions, each issued with its own effect (11 R280, R293, R300, R301; 12 R317 to R319;
17 R415). -/

namespace Sys2Proof.Machine

/-- Settles O48: `exec` issues each of the instructions with the effect that the statement names; rtrs alone has an effect on its
group. -/
theorem textureAndRayInstructions : Obligations.TextureAndRayInstructions := by
  unfold Obligations.TextureAndRayInstructions
  refine ⟨?wcpin, ?wcunp, ?wcinv, ?wcinvAll, ?rtgen, ?rtinv, ?rtinvAll, ?smp, ?smpg, ?smpl, ?txf, ?rtrc, ?rtnx,
    fun _ => onGroup_of_exec fun _ => rfl, ?rthit, ?smpn⟩
  all_goals intros; exact onState_of_exec fun _ => rfl

end Sys2Proof.Machine
end

section
/-! PROOFS. The raster, launch, cancel and parameter instructions (13 R328 to R339; 15 R370 to R374), the events of contexts, traps, watch
and the command processor, and the state right after power-on (22 R478, R481). -/

namespace Sys2Proof.Machine

/-- Settles O49: `exec` issues each of the instructions with the effect that the statement names; rend alone has an effect on its
group. -/
theorem rasterAndLaunchInstructions : Obligations.RasterAndLaunchInstructions := by
  unfold Obligations.RasterAndLaunchInstructions
  refine ⟨?cncl, onGroup_of_exec fun _ => rfl, ?rtri, ?rtw, ?rclr, ?zts, ?launch, ?rdparam, ?rdcmp⟩
  all_goals intros; exact onState_of_exec fun _ => rfl

/-- Settles O52: `exec` answers each event with the function that the statement names. -/
theorem contextEvents : Obligations.ContextEvents := by
  unfold Obligations.ContextEvents
  and_intros
  all_goals intros; rfl

/-! ### The state right after power-on -/

/-- Out of stage 4 every register but ID and STATUS reads as 0 (22 R478). -/
theorem State.hostReg_of_stage_ne {s : State} (stage : s.boot.stage ≠ 4) {off : Nat} (notId : off ≠ 0x00) (notStatus : off ≠ 0x08) :
    s.hostReg off = 0 := by
  unfold State.hostReg
  split
  case h_1 => contradiction
  case h_2 => contradiction
  case h_3 => exact if_pos stage

theorem State.hostRegWrite_of_stage_ne {s : State} (stage : s.boot.stage ≠ 4) (off : Nat) (v : DWord) : s.hostRegWrite off v = s :=
  if_pos stage

/-- Nothing is listed at reset. -/
theorem State.reset_memsWf : State.reset.memsWf := ⟨rfl, rfl, fun _ listed => absurd listed List.not_mem_nil⟩

/-- Settles O7: the registers by the two lemmas on stages, the memories at reset by `State.reset_memsWf`. -/
theorem resetState : Obligations.ResetState :=
  ⟨rfl, State.reset_memsWf, fun _ stage => ⟨fun _ => State.hostReg_of_stage_ne stage,
    fun off v => congrArg Host.Outcome.next (State.hostRegWrite_of_stage_ne stage off v)⟩⟩

/-! ### Accesses that read nothing -/

theorem State.transAccs_unread {core ctx : Nat} {sup walk : Bool} {l : List Access} (unread : ∀ a ∈ l, a.ask.reads = false) (s : State) :
    ∀ a ∈ (s.transAccs core ctx sup walk l).2, a.ask.reads = false := by
  induction l generalizing s with
  | nil => exact fun _ listed => absurd listed List.not_mem_nil
  | cons a l ih =>
    obtain ⟨first, rest⟩ := List.forall_mem_cons.1 unread
    exact List.forall_mem_cons.2 ⟨(congrArg Ask.reads (State.transAcc_ask ..)).trans first, ih rest _⟩

/-- Accesses that read nothing meet no poison as they issue (21 R469). -/
theorem Iss.clean_of_unread {c : Iss} {s : State} {l : List Access} (plain : c.g.precise = false)
    (unread : ∀ a ∈ l, a.ask.reads = false) : c.clean s none l := by
  intro compat
  have unseen : (s.transAccs c.g.core c.g.ctx c.g.sup true l).2.filter (·.ask.reads) = [] :=
    List.filter_eq_nil_iff.2 fun a listed => Bool.eq_false_iff.1 (State.transAccs_unread unread s a listed)
  simp only [State.ownTrap, plain, compat, Bool.false_eq_true, if_false, unseen]
  rfl

/-- A write to a target reads nothing, for what it blends with is its home's to read (13 R335). -/
theorem rtwAccs_unread (c : Iss) (rs : Nat) (d b : BitVec 8) (lanes : Mask) : ∀ a ∈ rtwAccs c rs d b lanes, a.ask.reads = false := by
  intro a listed
  obtain ⟨l, -, named⟩ := List.mem_filterMap.1 listed
  dsimp only at named
  split_ifs at named
  cases named
  rfl

/-! ### States alike -/

/-- The tiles are translated after their mode bytes, so in a state like the first (13 R338). -/
theorem State.rdcmpAccs_alike (s : State) (c : Iss) (b : BitVec 6) (rs : Nat) (modes : List Access) :
    s.Alike (s.rdcmpAccs c b rs modes).1 :=
  State.transAccs_alike ..

theorem State.Alike.noWatch {s t : State} (alike : s.Alike t) (noWatch : s.noWatch) : t.noWatch := by
  unfold State.noWatch
  rw [alike.1]
  exact noWatch

theorem State.Alike.begins {s t r : State} {c : Iss} {k : OpKind} (alike : s.Alike t) (begun : r.begins t c k) : r.begins s c k := by
  obtain ⟨id, o, new, rest⟩ := begun
  exact ⟨id, o, alike.2.trans new, rest⟩

/-! ### What the effects answer -/

section
variable {c : Iss} {s : State}

theorem cnclEff_answers (d : BitVec 6) (a : BitVec 4) (c : Iss) (s : State) : ∃ t, cnclEff d a c s = .ok t [] := by
  unfold cnclEff
  split_ifs <;> exact ⟨_, rfl⟩

theorem rtriEff_answers {d : BitVec 8} {a : BitVec 4} {b : BitVec 8} {rs x : Nat} (raster : RasterReady a false rs c s)
    (triangles : TrianglesReady rs x c s) : ∃ t, rtriEff d a b c s = .ok t [] := by
  obtain ⟨aligned, kernel, formed, room, noneWaits⟩ := triangles
  have queued : ¬(256 < (s.core c.g.core).raster.length + (trisOf c s d a b rs (KDesc.ofBytes x)).length ∨
      (s.blocks.get? c.g.block).any (fun b => !b.tris.isEmpty) = true) := by
    simpa [trisOf, noneWaits] using room
  rw [rtriEff, if_neg raster.1, raster_done raster]
  simp only [aligned, ne_eq, not_true_eq_false, if_false, kernel, formed, Bool.false_eq_true, queued]
  exact ⟨_, rfl⟩

theorem rtwEff_begins {d : BitVec 8} {a : BitVec 4} {b : BitVec 8} {rs : Nat} (noWatch : s.noWatch) (raster : RasterReady a false rs c s)
    (plain : c.g.precise = false) (room : c.queueRoom) (first : s.earlierPixel c.g = false) :
    ∃ t fl, rtwEff d a b c s = .ok t fl ∧ (fl = [] ∨ t.preds = s.preds) ∧ t.begins s c (.rtw rs) := by
  have free : (c.native && decide (8 ≤ c.g.ssq.length)) = false := by
    rw [Bool.and_eq_false_imp]
    exact fun native => decide_eq_false (Nat.not_le.2 (room native))
  have clean := Iss.clean_of_unread (s := s) plain
    (rtwAccs_unread c rs d b (c.act &&& ~~~(runPoison c.g [b.toNat, b.toNat + 1] a)))
  obtain ⟨t, accs, begun, alike, -⟩ := State.beginAccs_ok (walk := false) noWatch plain clean {} fun _ _ => none
  simp only [rtwEff, first, free, Bool.false_eq_true, if_false, raster.1, raster_done raster, begun]
  exact ⟨_, _, rfl, .inl rfl, target_begins alike⟩

theorem rclrEff_begins {a : BitVec 4} {b : BitVec 6} {rs : Nat} (noWatch : s.noWatch) (raster : RasterReady a false rs c s)
    (there : let w := fun k => (c.g.sAt (b.toNat + k)).toNat
      c.translates s (tileAccs rs (rclrTiles rs (w 0 % 65536) (w 0 / 65536) (min (w 1 % 65536) (rsW rs - 1))
        (min (w 1 / 65536) (rsH rs - 1))))) :
    ∃ t fl, rclrEff a b c s = .ok t fl ∧ (fl = [] ∨ t.preds = s.preds) ∧ ∃ x0 y0 x1 y1 k, t.begins s c (.rclr rs x0 y0 x1 y1 k) := by
  rw [rclrEff, if_neg raster.1, raster_done raster]
  obtain ⟨t, fl, ok, kept, begun⟩ := sink_target noWatch there
  exact ⟨t, fl, ok, kept, _, _, _, _, _, begun⟩

theorem ztsEff_begins {d : BitVec 3} {a : BitVec 4} {b : BitVec 8} {rs : Nat} (noWatch : s.noWatch) (raster : RasterReady a true rs c s)
    (there : c.translates s (ztsAccs c rs b)) :
    ∃ t fl, ztsEff d a b c s = .ok t fl ∧ (fl = [] ∨ t.preds = s.preds) ∧ t.begins s c (.zts d.toNat rs) := by
  obtain ⟨t, accs, begun, alike, unstopped⟩ := accs_sink noWatch there {} fun _ _ => none
  have goes : ¬(c.native && faultLanes accs != 0) = true := by simpa using unstopped
  simp only [ztsEff, if_neg raster.1, raster_done raster, begun, if_neg goes]
  exact ⟨_, _, rfl, .inl rfl, begins_add alike _ rfl rfl⟩

theorem launchEff_begins {d : BitVec 3} {a : BitVec 4} (b : BitVec 8) (active : c.act ≠ 0) (aligned : (c.g.areg a).toNat % 64 = 0) :
    ∃ t fl, launchEff d a b c s = .ok t fl ∧ (fl = [] ∨ t.preds = s.preds) ∧ t.begins s c (.launch d.toNat (c.g.areg a).toNat) := by
  simp only [launchEff, active, if_false, aligned, ne_eq, not_true_eq_false]
  exact ⟨_, _, rfl, .inl rfl, State.begins_congr (State.begins_addOp le_rfl rfl rfl) rfl⟩

theorem rdcmpEff_begins {a : BitVec 4} {b : BitVec 6} {rs : Nat} (noWatch : s.noWatch) (raster : RasterReady a false rs c s)
    (there : let m := s.transAccs c.g.core c.g.ctx c.g.sup true (rdcmpModes c b rs)
      faultLanes m.2 = 0 ∧ (let k := m.1.rdcmpAccs c b rs m.2
        c.translates k.1 k.2)) :
    ∃ t fl, rdcmpEff a b c s = .ok t fl ∧ (fl = [] ∨ t.preds = s.preds) ∧ t.begins s c (.rdcmp rs) := by
  obtain ⟨modes, tiles⟩ := there
  have alike := (State.transAccs_alike c.g.core c.g.ctx c.g.sup true (rdcmpModes c b rs) s).trans (State.rdcmpAccs_alike _ c b rs
    (s.transAccs c.g.core c.g.ctx c.g.sup true (rdcmpModes c b rs)).2)
  obtain ⟨t, fl, ok, kept, begun⟩ := sink_target (k := .rdcmp rs) (alike.noWatch noWatch) tiles
  refine ⟨t, fl, ?_, kept.imp_right fun same => same.trans alike.1, alike.begins begun⟩
  rw [rdcmpEff, if_neg raster.1, raster_done raster]
  exact (if_neg (not_not.2 modes)).trans ok

end

/-- Settles O60: under its condition each effect begins its operation, or answers a state where the statement names none. -/
theorem rasterAndWorkComplete : Obligations.RasterAndWorkComplete := by
  obtain ⟨-, rend, -⟩ := rasterAndLaunchInstructions
  exact ⟨fun d a => completes_of_answers (fun _ => rfl) fun c s _ => cnclEff_answers d a c s,
    rend,
    fun d a b rs x => completes_of_answers (fun _ => rfl) fun _ _ ⟨raster, triangles⟩ => rtriEff_answers raster triangles,
    fun d a b rs => issue_completes (fun _ => rfl) fun _ _ _ noWatch ⟨raster, plain, room, first⟩ =>
      rtwEff_begins noWatch raster plain room first,
    fun a b rs => issue_completes (fun _ => rfl) fun _ _ _ noWatch ⟨raster, there⟩ => rclrEff_begins noWatch raster there,
    fun d a b rs => issue_completes (fun _ => rfl) fun _ _ _ noWatch ⟨raster, there⟩ => ztsEff_begins noWatch raster there,
    fun d a b => issue_completes (fun _ => rfl) fun _ _ _ _ ⟨active, aligned⟩ => launchEff_begins b active aligned,
    fun d a => completes_of_answers (fun _ => rfl) fun _ _ _ => ⟨_, rfl⟩,
    fun a b rs => issue_completes (fun _ => rfl) fun _ _ _ noWatch ⟨raster, there⟩ => rdcmpEff_begins noWatch raster there⟩

end Sys2Proof.Machine
end
